-- ==== Sys2Proof/Word.lean ====
section
/-! DEFINITION. Word types of the T1536 (R4, R15) and their plainest arithmetic. -/

namespace Sys2Proof

/-- A byte (R5). -/
abbrev Byte := BitVec 8

/-- A scalar register or control register (R15, R16). -/
abbrev Word := BitVec 64

/-- A vector register (R15). -/
abbrev Vec := BitVec 4096

/-- A predicate register: one bit per byte lane (R15). -/
abbrev Pred := BitVec 512

/-- A tile: 128 x 128 elements of 32 bits, element (i, j) at bit 32 * (128 i + j) (R15, R169). -/
abbrev TileBits := BitVec 524288

/-- A weight buffer of 32 KiB (R15). -/
abbrev WBuf := BitVec 262144

/-- The status flags fi fz fo fu fx in the order of fmt [20:16] (R37). -/
abbrev Flags := BitVec 5

/-- A scalar or vector register number. -/
abbrev Reg := Fin 32

/-- A predicate register number. -/
abbrev PReg := Fin 8

/-- A tile number. -/
abbrev TileNo := Fin 4

/-- A memory: (address, byte) pairs, addresses strictly rising, no byte 0 (an unlisted address reads as 0). -/
abbrev Mem := List (Nat × BitVec 8)

end Sys2Proof
end

