-- ==== Sys2Proof/Syntax.lean ====
section
/-! DEFINITION. The syntax of the machine: the codes shared by the slots (R77 to R79) and Instr, one constructor for
every row of the opcode table. A register number is a Fin, so it cannot be out of range. -/

namespace Sys2Proof

/-- The slot an A or B form stands in (R81). -/
inductive AB where
  | a | b
  deriving DecidableEq, Repr

/-- Element types of the 4-bit `ty` field (R77). -/
inductive Ty where
  | i8 | i16 | i32 | i64 | n8 | n16 | n32 | n64 | f64 | f32 | bf16 | f16 | e4m3 | e5m2 | mx4 | sq4
  deriving DecidableEq, Repr

/-- Integer types of `ty3` and of the L slot's `w` (R77, R82). -/
inductive IntTy where
  | i8 | i16 | i32 | i64 | n8 | n16 | n32 | n64
  deriving DecidableEq, Repr

/-- Floating-point types of `ty3` (R77). -/
inductive FpTy where
  | f64 | f32 | bf16 | f16
  deriving DecidableEq, Repr

/-- The type of a reduction: `fl` selects the column of `ty3` (R83). -/
inductive RedTy where
  | int (t : IntTy)
  | fp (t : FpTy)
  deriving DecidableEq, Repr

/-- Sizes of 1, 2, 4 and 8 bytes (R82). -/
inductive Size where
  | b1 | b2 | b4 | b8
  deriving DecidableEq, Repr

/-- Scalar floating-point format `fd` (R81). -/
inductive FD where
  | f32 | f64
  deriving DecidableEq, Repr

/-- Integer conditions (R79). -/
inductive Cc where
  | eq | ne | lt | le | ltn | len
  deriving DecidableEq, Repr

/-- Floating-point conditions (R79). -/
inductive Fcc where
  | eq | lt | le | un
  deriving DecidableEq, Repr

/-- Atomic operations (R79). -/
inductive Aop where
  | add | and | or | xor | min | max | minn | maxn | xchg
  deriving DecidableEq, Repr

/-- Reduction operations (R83). -/
inductive Rop where
  | sum | min | max | and | or | xor
  deriving DecidableEq, Repr

/-- Memory orders (R78). -/
inductive Order where
  | rlx | acq | rel | ar | sc
  deriving DecidableEq, Repr

/-- Scopes (R78). -/
inductive Scope where
  | core | clu | vat | mod | sys
  deriving DecidableEq, Repr

/-- The `os` field: an order and a scope (R78). -/
structure OrdScope where
  ord : Order
  scope : Scope
  deriving DecidableEq, Repr

/-- The fields of format XC below its register fields: acquire and release flags, the raw `sc` field, the tag (R86). -/
structure Xc where
  acq : Bool
  rel : Bool
  sc : Fin 8
  tag : Fin 64
  deriving DecidableEq, Repr

/-- The cores that run code (R13, R14). -/
inductive CoreId where
  | compute (cl : Nat) (k : Nat)
  | partition (cl : Nat)
  | umpire
  deriving DecidableEq, Repr

/-- A task's register space: on the core where it is resident, or in its context slot (R308). -/
inductive TaskRef where
  | core (k : CoreId)
  | slot (ctx : Nat) (addr : Nat)
  deriving DecidableEq, Repr

/-- The two units of the M engine (R166). -/
inductive MUnit where
  | array | loader
  deriving DecidableEq, Repr

/-- Who makes a register access (R336). A host request may arrive on an IDE stream bound to a TDI, with or without the TEE bit. -/
inductive Requester where
  | core (k : CoreId)
  | host (id : Nat)
  | hostIde (id : Nat) (vf : Nat) (tee : Bool)
  deriving DecidableEq, Repr

/-- The register pages (R336). -/
inductive Page where
  | pf
  | queueTable (part : Nat)
  | contextTable (part : Nat)
  | vfRing (vf : Nat)
  | vfPrivate (vf : Nat)
  | umpire
  deriving DecidableEq, Repr

/-- Where an uncorrectable error lies (R410). -/
inductive ErrorSite where
  | memLine (pa : Nat)
  | scratchLine (k : CoreId) (off : Nat)
  | weightUnit (k : CoreId) (unit : Nat)
  | coreState (k : CoreId) (off : Nat) (engine : Option (Fin 8))
  | cluster (cl : Nat)
  | vat (v : Nat)
  | umpire
  | standby
  deriving DecidableEq, Repr

/-- The repair flows of R426, and the records of R398 that are delivered to the device. -/
inductive Repair where
  | spares (k : CoreId) (seg : Nat) (ver : Nat)
  | disableEngine (k : CoreId) (slot : Fin 8) (ver : Nat)
  | disableCore (k : CoreId) (ver : Nat)
  | readmit (vat : Nat) (ver : Nat)
  /-- A signed record of a type as it is delivered (R398); `whole` unless a power loss has torn its write. -/
  | record (ty ver len body sign : Nat) (whole : Bool)
  deriving DecidableEq, Repr

/-- Every row of the opcode table: 180 slot words (R80-R86) and 105 steps without an encoding. -/
inductive Instr where
  -- C slot (R80)
  /-- NOP (R94). -/
  | nop
  /-- STALL (R94). -/
  | stall (n : BitVec 12)
  /-- BR_SCALAR (R95). -/
  | brScalar (nz : Bool) (a : Reg) (o : BitVec 14)
  /-- BR_PREDICATE (R95). -/
  | brPredicate (neg : Bool) (p : PReg) (o : BitVec 14)
  /-- J (R95). -/
  | j (o : BitVec 21)
  /-- JR (R95). -/
  | jr (a : Reg)
  /-- CALL (R95). -/
  | call (o : BitVec 21)
  /-- CALLR (R95). -/
  | callr (a : Reg)
  /-- RET (R95). -/
  | ret
  /-- LOOP (R96). -/
  | loop (l : Fin 2) (c : BitVec 10) (e : BitVec 10)
  /-- LOOPS (R96). -/
  | loops (l : Fin 2) (a : Reg) (e : BitVec 10)
  /-- LBRK (R99). -/
  | lbrk (l : Fin 2)
  /-- TEND (R100). -/
  | tend
  /-- TYIELD (R101). -/
  | tyield
  /-- TRAP (R102). -/
  | trap (c : BitVec 8)
  /-- TRET (R103). -/
  | tret
  /-- WTALL (R104). -/
  | wtall (a : Reg)
  /-- WTANY (R104). -/
  | wtany (a : Reg)
  /-- TFFR (R104). -/
  | tffr (d a : Reg)
  /-- TCLR (R104). -/
  | tclr (a : Reg)
  /-- CBAR (R107). -/
  | cbar (a : Reg) (b : Fin 16)
  /-- FENCE (R105). -/
  | fence (os : OrdScope)
  /-- MFC (R108). -/
  | mfc (d : Reg) (c : BitVec 12)
  /-- MTC (R108). -/
  | mtc (a : Reg) (c : BitVec 12)
  /-- QPOP (R109). -/
  | qpop (d : Reg)
  /-- SYNC (R106). -/
  | sync
  -- A and B slots (R81)
  /-- ADD (R111). -/
  | add (y : AB) (d a b : Reg)
  /-- SUB (R111). -/
  | sub (y : AB) (d a b : Reg)
  /-- ADDI (R111). -/
  | addi (y : AB) (d a : Reg) (i : BitVec 11)
  /-- MOVI (R111). -/
  | movi (y : AB) (d : Reg) (i : BitVec 16)
  /-- MOVHI (R111). -/
  | movhi (y : AB) (d : Reg) (i : BitVec 16)
  /-- MUL (R111). -/
  | mul (y : AB) (d a b : Reg)
  /-- MULHI (R111). -/
  | mulhi (y : AB) (d a b : Reg)
  /-- MULHN (R111). -/
  | mulhn (y : AB) (d a b : Reg)
  /-- DIV (R112). -/
  | div (y : AB) (d a b : Reg)
  /-- DIVN (R112). -/
  | divn (y : AB) (d a b : Reg)
  /-- REM (R112). -/
  | rem (y : AB) (d a b : Reg)
  /-- REMN (R112). -/
  | remn (y : AB) (d a b : Reg)
  /-- AND (R111). -/
  | and (y : AB) (d a b : Reg)
  /-- OR (R111). -/
  | or (y : AB) (d a b : Reg)
  /-- XOR (R111). -/
  | xor (y : AB) (d a b : Reg)
  /-- ANDN (R111). -/
  | andn (y : AB) (d a b : Reg)
  /-- ANDI (R111). -/
  | andi (y : AB) (d a : Reg) (i : BitVec 11)
  /-- ORI (R111). -/
  | ori (y : AB) (d a : Reg) (i : BitVec 11)
  /-- XORI (R111). -/
  | xori (y : AB) (d a : Reg) (i : BitVec 11)
  /-- SHL (R111). -/
  | shl (y : AB) (d a b : Reg)
  /-- SHRL (R111). -/
  | shrl (y : AB) (d a b : Reg)
  /-- SHRA (R111). -/
  | shra (y : AB) (d a b : Reg)
  /-- SHLI (R111). -/
  | shli (y : AB) (d a : Reg) (h : Fin 64)
  /-- SHRLI (R111). -/
  | shrli (y : AB) (d a : Reg) (h : Fin 64)
  /-- SHRAI (R111). -/
  | shrai (y : AB) (d a : Reg) (h : Fin 64)
  /-- CLZ (R111). -/
  | clz (y : AB) (d a : Reg)
  /-- CTZ (R111). -/
  | ctz (y : AB) (d a : Reg)
  /-- POPC (R111). -/
  | popc (y : AB) (d a : Reg)
  /-- MIN (R111). -/
  | min (y : AB) (d a b : Reg)
  /-- MAX (R111). -/
  | max (y : AB) (d a b : Reg)
  /-- MINN (R111). -/
  | minn (y : AB) (d a b : Reg)
  /-- MAXN (R111). -/
  | maxn (y : AB) (d a b : Reg)
  /-- SEL (R113). -/
  | sel (y : AB) (d a b : Reg) (p : PReg)
  /-- CMP (R113). -/
  | cmp (y : AB) (d a b : Reg) (c : Cc)
  /-- CMPI (R113). -/
  | cmpi (y : AB) (d a : Reg) (c : Cc) (i : BitVec 8)
  /-- PLOG (R114). -/
  | plog (y : AB) (d a b : PReg) (f : BitVec 4)
  /-- PMOV (R114). -/
  | pmov (y : AB) (dir : Bool) (x : Reg) (p : PReg)
  /-- ADDSC (R111). -/
  | addsc (y : AB) (d a b : Reg) (h : Fin 8)
  /-- EXT (R111). -/
  | ext (y : AB) (d a : Reg) (p : Fin 64) (l : Fin 32)
  /-- FADD (R116). -/
  | fadd (y : AB) (d a b : Reg) (f : FD)
  /-- FSUB (R116). -/
  | fsub (y : AB) (d a b : Reg) (f : FD)
  /-- FMUL (R116). -/
  | fmul (y : AB) (d a b : Reg) (f : FD)
  /-- FFMA (R116). -/
  | ffma (y : AB) (d a b c : Reg) (f : FD)
  /-- FCMP (R117). -/
  | fcmp (y : AB) (d a b : Reg) (c : Fcc) (f : FD)
  /-- FCVT (R118). -/
  | fcvt (y : AB) (d a : Reg) (t f : Ty)
  /-- FMNX (R117). -/
  | fmnx (y : AB) (d a b : Reg) (f : FD) (m : Bool)
  -- L slot (R82)
  /-- LDS (R123). -/
  | lds (d a : Reg) (w : IntTy) (o : BitVec 8)
  /-- STS (R123). -/
  | sts (b a : Reg) (w : Size) (o : BitVec 8)
  /-- LDV (R124). -/
  | ldv (d a : Reg) (p : PReg) (o : BitVec 8)
  /-- STV (R124). -/
  | stv (b a : Reg) (p : PReg) (o : BitVec 8)
  /-- LDVB (R125). -/
  | ldvb (d a : Reg) (s : Size) (o : BitVec 8)
  /-- LDVX (R128). -/
  | ldvx (d a b : Reg) (p : PReg) (s : Size)
  /-- STVX (R128). -/
  | stvx (c a b : Reg) (p : PReg) (s : Size)
  /-- LDPM (R126). -/
  | ldpm (d : PReg) (a : Reg) (o : BitVec 8)
  /-- STPM (R126). -/
  | stpm (b : PReg) (a : Reg) (o : BitVec 8)
  /-- LDG (R132). -/
  | ldg (d a : Reg) (w : IntTy) (os : OrdScope)
  /-- STG (R132). -/
  | stg (b a : Reg) (w : Size) (os : OrdScope)
  /-- ATG (R138). -/
  | atg (d a : Reg) (p : Aop) (w : Bool) (os : OrdScope)
  /-- CASG (R139). -/
  | casg (d a b : Reg) (w : Bool) (os : OrdScope)
  /-- ATS (R138). -/
  | ats (d a : Reg) (p : Aop) (w : Bool) (os : OrdScope)
  /-- CASS (R139). -/
  | cass (d a b : Reg) (w : Bool) (os : OrdScope)
  -- V slot (R83)
  /-- VADD (R145). -/
  | vadd (d a b : Reg) (p : PReg) (t : IntTy)
  /-- VSUB (R145). -/
  | vsub (d a b : Reg) (p : PReg) (t : IntTy)
  /-- VMUL (R145). -/
  | vmul (d a b : Reg) (p : PReg) (t : IntTy)
  /-- VMULHI (R145). -/
  | vmulhi (d a b : Reg) (p : PReg) (t : IntTy)
  /-- VMAD (R145). -/
  | vmad (d a b : Reg) (p : PReg) (t : IntTy)
  /-- VAND (R145). -/
  | vand (d a b : Reg) (p : PReg) (t : IntTy)
  /-- VOR (R145). -/
  | vor (d a b : Reg) (p : PReg) (t : IntTy)
  /-- VXOR (R145). -/
  | vxor (d a b : Reg) (p : PReg) (t : IntTy)
  /-- VSHL (R145). -/
  | vshl (d a b : Reg) (p : PReg) (t : IntTy)
  /-- VSHRL (R145). -/
  | vshrl (d a b : Reg) (p : PReg) (t : IntTy)
  /-- VSHRA (R145). -/
  | vshra (d a b : Reg) (p : PReg) (t : IntTy)
  /-- VMIN (R145). -/
  | vmin (d a b : Reg) (p : PReg) (t : IntTy)
  /-- VMAX (R145). -/
  | vmax (d a b : Reg) (p : PReg) (t : IntTy)
  /-- VABS (R145). -/
  | vabs (d a : Reg) (p : PReg) (t : IntTy)
  /-- VNEG (R145). -/
  | vneg (d a : Reg) (p : PReg) (t : IntTy)
  /-- VSEL (R146). -/
  | vsel (d a b : Reg) (p : PReg) (t : IntTy)
  /-- VCMP (R147). -/
  | vcmp (d : PReg) (c : Cc) (a b : Reg) (t : IntTy)
  /-- VFADD (R148). -/
  | vfadd (d a b : Reg) (p : PReg) (t : FpTy)
  /-- VFSUB (R148). -/
  | vfsub (d a b : Reg) (p : PReg) (t : FpTy)
  /-- VFMUL (R148). -/
  | vfmul (d a b : Reg) (p : PReg) (t : FpTy)
  /-- VFFMA (R148). -/
  | vffma (d a b : Reg) (p : PReg) (t : FpTy)
  /-- VFDIV (R148). -/
  | vfdiv (d a b : Reg) (p : PReg) (t : FpTy)
  /-- VFSQRT (R148). -/
  | vfsqrt (d a : Reg) (p : PReg) (t : FpTy)
  /-- VFRCP (R148). -/
  | vfrcp (d a : Reg) (p : PReg) (t : FpTy)
  /-- VFRSQ (R148). -/
  | vfrsq (d a : Reg) (p : PReg) (t : FpTy)
  /-- VFEXP2 (R148). -/
  | vfexp2 (d a : Reg) (p : PReg) (t : FpTy)
  /-- VFLOG2 (R148). -/
  | vflog2 (d a : Reg) (p : PReg) (t : FpTy)
  /-- VFMIN (R148). -/
  | vfmin (d a b : Reg) (p : PReg) (t : FpTy)
  /-- VFMAX (R148). -/
  | vfmax (d a b : Reg) (p : PReg) (t : FpTy)
  /-- VFCMP (R147). -/
  | vfcmp (d : PReg) (c : Fcc) (a b : Reg) (t : FpTy)
  /-- VCVT (R149). -/
  | vcvt (d a : Reg) (t f : Ty) (p : PReg)
  /-- VQNT (R150). -/
  | vqnt (d a : Reg) (t f : Ty) (p : PReg)
  /-- VDQNT (R154). -/
  | vdqnt (d a : Reg) (t f : Ty) (p : PReg)
  /-- VRED (R155). -/
  | vred (d a : Reg) (r : Rop) (p : PReg) (t : RedTy)
  /-- VSCAN (R156). -/
  | vscan (d a : Reg) (r : Rop) (p : PReg) (t : RedTy) (e : Bool)
  /-- VPERM (R157). -/
  | vperm (d a b : Reg) (p : PReg) (t : IntTy)
  /-- VBCST (R157). -/
  | vbcst (d a : Reg) (p : PReg) (t : IntTy)
  /-- VIOTA (R157). -/
  | viota (d a : Reg) (p : PReg) (t : IntTy)
  /-- VCMPR (R157). -/
  | vcmpr (d a : Reg) (p : PReg) (t : IntTy)
  /-- VMOVS (R158). -/
  | vmovs (d a b : Reg) (dir : Bool) (t : IntTy)
  /-- VDEFER (R161). -/
  | vdefer (a b c : Reg) (p : PReg) (n : Fin 4)
  /-- VDRAIN (R162). -/
  | vdrain (d c : Reg) (p : PReg) (l : Bool) (n : Fin 4)
  /-- VTOQ (R159). -/
  | vtoq (a b : Reg) (t : IntTy)
  /-- VSRED (R163). -/
  | vsred (d a b : Reg) (r : Rop) (t : RedTy)
  -- M and F slots (R84, R85)
  /-- MLDW (R174). -/
  | mldw (w : Fin 2) (f : Bool) (a : Reg)
  /-- MMUL (R175). -/
  | mmul (t : TileNo) (a : Reg) (g : Fin 4) (b : Fin 8) (c : Reg)
  /-- MZERO (R177). -/
  | mzero (t : TileNo)
  /-- MLOAD (R177). -/
  | mload (t : TileNo) (a : Reg)
  /-- MDRAIN (R178). -/
  | mdrain (t : TileNo) (a : Reg) (k : Ty) (p : PReg) (c : Bool)
  /-- MTT (R180). -/
  | mtt (t a b : TileNo)
  /-- MADDT (R180). -/
  | maddt (t a b : TileNo)
  /-- MSCL (R180). -/
  | mscl (t a : TileNo) (s : Reg)
  /-- MTRN (R180). -/
  | mtrn (t a : TileNo)
  /-- MNORM (R180). -/
  | mnorm (d : Reg) (a : TileNo)
  /-- MPOLY (R181). -/
  | mpoly (t a : TileNo) (g : Fin 8)
  /-- MITER (R182). -/
  | miter (t a : TileNo) (m : Bool)
  /-- FMT (R172). -/
  | fmt (f : BitVec 10)
  /-- FMTS (R172). -/
  | fmts (a : Reg)
  /-- SLA (R173). -/
  | sla (a : Reg)
  /-- SLB (R173). -/
  | slb (a : Reg)
  /-- SLQ (R173). -/
  | slq (a : Reg)
  /-- SLZ (R173). -/
  | slz
  -- X slot (R86)
  /-- XCP (R195). -/
  | xcp (a : Reg) (x : Xc)
  /-- XCPH (R196). -/
  | xcph (a b : Reg) (x : Xc)
  /-- XMC (R197). -/
  | xmc (a b : Reg) (x : Xc)
  /-- XGA (R198). -/
  | xga (a b : Reg) (x : Xc)
  /-- XSC (R198). -/
  | xsc (a b : Reg) (x : Xc)
  /-- XWIN (R200). -/
  | xwin (a b : Reg) (drop : Bool)
  /-- XWB (R201). -/
  | xwb (a : Reg) (x : Xc)
  /-- XINV (R201). -/
  | xinv (a : Reg) (x : Xc)
  /-- XGATE (R202). -/
  | xgate (a : Reg) (x : Xc)
  /-- XCAN (R199). -/
  | xcan (a : Reg)
  /-- QENQ (R204). -/
  | qenq (p : PReg) (a b : Reg)
  /-- QDEQ (R204). -/
  | qdeq (d a : Reg)
  /-- TQPUSH (R205). -/
  | tqpush (p : PReg) (a b : Reg)
  /-- LAUNCH (R206). -/
  | launch (a : Reg) (x : Xc)
  /-- GSMPL (R360). -/
  | gsmpl (a b : Reg) (x : Xc)
  /-- GFORK (R366). -/
  | gfork (a b : Reg) (x : Xc)
  /-- GTRUNC (R368). -/
  | gtrunc (a b : Reg) (x : Xc)
  /-- GCUR (R367). -/
  | gcur (a b : Reg)
  /-- GINS (R367). -/
  | gins (a b : Reg) (x : Xc)
  /-- GSNAP (R367). -/
  | gsnap (a : Reg) (x : Xc)
  /-- WJW (R210). -/
  | wjw (a : Reg) (x : Xc)
  /-- WJC (R210). -/
  | wjc (a : Reg) (x : Xc)
  /-- WJA (R210). -/
  | wja (a : Reg) (x : Xc)
  /-- WJD (R210). -/
  | wjd (a : Reg) (x : Xc)
  /-- WWEAR (R211). -/
  | wwear (d a : Reg)
  /-- XHASH (R212). -/
  | xhash (a : Reg) (x : Xc)
  /-- XSIGN (R212). -/
  | xsign (a : Reg) (x : Xc)
  /-- XVFY (R212). -/
  | xvfy (a : Reg) (x : Xc)
  /-- XHINT (R213). -/
  | xhint (a b : Reg)
  /-- XPWR (R214). -/
  | xpwr (a : Reg)
  /-- XEVT (R215). -/
  | xevt (a : Reg) (c : BitVec 8)
  -- Steps without an encoding (95_what_each_step_holds.md): first those that the machine raises by itself
  /-- SHADOW_WRITE_LANDS (R32). -/
  | shadowWriteLands (k : CoreId)
  /-- INTERLOCKED_RESULT_ARRIVES (R28). -/
  | interlockedResultArrives (k : CoreId) (n : Nat)
  /-- VTOQ_PUSH_LANDS (R159). -/
  | vtoqPushLands (k : CoreId)
  /-- FREEZE_END (R36). -/
  | freezeEnd (k : CoreId)
  /-- INSTRUCTION_FETCH_FAULT (R305). -/
  | instructionFetchFault (k : CoreId)
  /-- HELD_ACCESS_FAULT (R135). -/
  | heldAccessFault (k : CoreId)
  /-- SIDE_LOG_REPLAY (R136). -/
  | sideLogReplay (r : TaskRef) (n : Nat)
  /-- GATHER_SCATTER_ELEMENT (R128). -/
  | gatherScatterElement (k : CoreId)
  /-- VSRED_VECTOR_READ (R163). -/
  | vsredVectorRead (k : CoreId)
  /-- M_UNIT_COMPLETES (R166). -/
  | mUnitCompletes (k : CoreId) (u : MUnit)
  /-- MITER_PHASE_END (R184). -/
  | miterPhaseEnd (k : CoreId)
  /-- ARRAY_POISON_DETECTED (R185). -/
  | arrayPoisonDetected (k : CoreId) (u : MUnit)
  /-- REMOTE_ACCESS_ARRIVES (R23). -/
  | remoteAccessArrives (k : CoreId) (n : Nat)
  /-- WAIT_CONDITION_HOLDS (R104). -/
  | waitConditionHolds (k : CoreId)
  /-- PARKED_CONDITION_HOLDS (R219). -/
  | parkedConditionHolds (cl : Nat) (slot : Nat)
  /-- TEND_WAIT_ENDS (R100). -/
  | tendWaitEnds (k : CoreId)
  /-- COMPLETION_SIGNALS (R218). -/
  | completionSignals (n : Nat)
  /-- SLICE_EXPIRY (R294). -/
  | sliceExpiry (k : CoreId)
  /-- PRIORITY_PREEMPTION (R295). -/
  | priorityPreemption (cl : Nat)
  /-- PREEMPTED (R296). -/
  | preempted (cl : Nat)
  /-- SUPQ_ITEM_APPEND (R313). -/
  | supqItemAppend (cl : Nat)
  /-- SCHEDULER_BIND (R282). -/
  | schedulerBind (cl : Nat)
  /-- COPY_BOX_COMPLETE (R192). -/
  | copyBoxComplete (r : TaskRef) (tag : Fin 64) (box : Nat)
  /-- ENGINE_FAULT_DELIVERY (R193). -/
  | engineFaultDelivery (k : CoreId)
  /-- COMMAND_COMPLETES (R187). -/
  | commandCompletes (r : TaskRef) (tag : Fin 64)
  /-- WINDOW_FILL_COMPLETES (R225). -/
  | windowFillCompletes (k : CoreId)
  /-- BACKGROUND_WRITEBACK (R226). -/
  | backgroundWriteback (k : CoreId) (win : Nat) (piece : Nat)
  /-- STORE_ACKNOWLEDGED (R249). -/
  | storeAcknowledged (cl : Nat) (n : Nat)
  /-- FENCE_MARKER_ACK (R250). -/
  | fenceMarkerAck (k : CoreId) (vat : Nat)
  /-- QDEQ_ITEM_DELIVERED (R280). -/
  | qdeqItemDelivered (part : Nat) (qn : Nat)
  /-- PUSH_RECORD (R285). -/
  | pushRecord (vf : Nat)
  /-- PUSH_ITEM (R285). -/
  | pushItem (vf : Nat)
  /-- PART_CREATE (R292). -/
  | partCreate
  /-- PART_DESTROY (R292). -/
  | partDestroy
  /-- VF_ASSIGN (R353). -/
  | vfAssign
  /-- CTX_ASSIGN (R292). -/
  | ctxAssign
  /-- VAT_FENCE (R414). -/
  | vatFence
  /-- VAT_READMIT (R422). -/
  | vatReadmit
  /-- DEEP_OFF_ENTER (R392). -/
  | deepOffEnter
  /-- DEEP_OFF_LEAVE (R392). -/
  | deepOffLeave
  /-- DISTRIBUTOR_PUSH_CHUNK (R289). -/
  | distributorPushChunk (id : Nat)
  /-- CHUNK_COMPLETE (R290). -/
  | chunkComplete (id : Nat) (chunk : Nat)
  /-- CLUSTER_WAKE (R391). -/
  | clusterWake (cl : Nat)
  /-- COLD_BOOT (R397). -/
  | coldBoot
  /-- IMAGE_DELIVERY (R395). -/
  | imageDelivery (n : Nat)
  /-- PARTITION_CORE_RESUME (R396). -/
  | partitionCoreResume (cl : Nat)
  /-- WJA_APPLY (R210). -/
  | wjaApply (k : CoreId)
  /-- ROLL_FORWARD_RETRY (R388). -/
  | rollForwardRetry (k : CoreId)
  /-- KEY_SLOT_DRAINED (R342). -/
  | keySlotDrained (slot : Nat)
  /-- RECEIPT_REQUEST (R425). -/
  | receiptRequest (part : Nat)
  /-- STORE_RETIRES_INTO_SIDE_LOG (R136). -/
  | storeRetiresIntoSideLog (k : CoreId)
  /-- INVALIDATION_COMPLETES (R322). -/
  | invalidationCompletes (part : Nat)
  /-- CORRECTABLE_ERROR_FREEZE (R36). -/
  | correctableErrorFreeze (k : CoreId)
  /-- PARK_BOUND_EXPIRES (R219). -/
  | parkBoundExpires (k : CoreId)
  /-- QUEUE_START (R276). -/
  | queueStart (part : Nat) (qn : Nat)
  /-- REGISTER_WRITE (R7). -/
  | registerWrite (by' : Requester) (page : Page) (off : Nat) (n : Nat) (val : Nat)
  /-- CQTAIL_DOORBELL (R286). -/
  | cqtailDoorbell (vf : Nat) (val : Word)
  /-- CPHEAD_WRITE (R286). -/
  | cpheadWrite (vf : Nat) (val : Word)
  /-- RING_ENABLE (R286). -/
  | ringEnable (vf : Nat) (comp : Bool)
  /-- GORQUE_LAUNCH_PACKET (R287). -/
  | gorqueLaunchPacket (vat : Nat) (smod wld qn : Nat) (rec' : BitVec 512)
  /-- GOVERNOR_PERIOD (R298). -/
  | governorPeriod (draw : Nat) (demand : List (Nat × Nat)) (overrun : List (Nat × Nat)) (short : List (Nat × Nat × Nat))
  /-- DARK_DWELL_EXPIRES (R390). -/
  | darkDwellExpires (k : CoreId)
  /-- CLUSTER_DARK (R391). -/
  | clusterDark (cl : Nat)
  /-- POWER_LOSS (R393). -/
  | powerLoss
  /-- INVAL_PAGE (R322). -/
  | invalPage (part : Nat) (page : Nat) (ctx : Nat)
  /-- INVAL_CONTEXT (R322). -/
  | invalContext (part : Nat) (ctx : Nat)
  /-- INVAL_PARTITION (R322). -/
  | invalPartition (part : Nat)
  /-- SLCMD_REPLAY (R318). -/
  | slcmdReplay (ctx : Nat) (slot : Nat)
  /-- SLCMD_UNREPLAYABLE (R318). -/
  | slcmdUnreplayable (ctx : Nat) (slot : Nat)
  /-- PCSEL_WRITE (R340). -/
  | pcselWrite (by' : Requester) (part : Nat) (val : Word)
  /-- MASK_DEADLINE_EXPIRES (R362). -/
  | maskDeadlineExpires (k : CoreId) (tag : Fin 64)
  /-- GET_VERSION (R423). -/
  | getVersion (conn : Nat) (req : List (BitVec 8))
  /-- GET_CAPABILITIES (R423). -/
  | getCapabilities (conn : Nat) (req : List (BitVec 8))
  /-- NEGOTIATE_ALGORITHMS (R423). -/
  | negotiateAlgorithms (conn : Nat) (req : List (BitVec 8))
  /-- GET_CERTIFICATE (R423). -/
  | getCertificate (conn : Nat) (slot off len : Nat) (req : List (BitVec 8))
  /-- CHALLENGE (R424). -/
  | challenge (conn : Nat) (nonce : Option (BitVec 256)) (req : List (BitVec 8))
  /-- GET_MEASUREMENTS (R423). -/
  | getMeasurements (conn : Nat) (idx : Nat) (sign : Bool) (nonce : Option (BitVec 256)) (req : List (BitVec 8))
  /-- KEY_EXCHANGE (R350). -/
  | keyExchange (conn : Nat) (req : List (BitVec 8))
  /-- FINISH (R350). -/
  | finish (conn : Nat) (ses : Nat) (cert : Nat) (req : List (BitVec 8))
  /-- END_SESSION (R350). -/
  | endSession (ses : Nat)
  /-- COMP_CREATE (R352). -/
  | compCreate (ses : Nat)
  /-- COMP_CLAIM (R352). -/
  | compClaim (ses : Nat) (comp : Nat)
  /-- KEY_LOAD (R342). -/
  | keyLoad (ses : Nat) (slot : Nat) (kind : Nat) (comp : Nat) (pc : Bool) (key : BitVec 256)
  /-- KEY_RETIRE (R342). -/
  | keyRetire (ses : Nat) (slot : Nat)
  /-- CODE_SEAL (R346). -/
  | codeSeal (ses : Nat) (ctx : Nat) (base len : Nat)
  /-- GRANT_SET (R347). -/
  | grantSet (ses : Nat) (wset : Nat) (ms : List (BitVec 384)) (write : Bool)
  /-- GATE_SET (R348). -/
  | gateSet (ses : Nat) (gate : Nat) (src dst : Nat) (sva slen dva dlen : Nat)
  /-- LOCK_INTERFACE_REQUEST (R351). -/
  | lockInterfaceRequest (ses : Nat) (vf : Nat)
  /-- START_INTERFACE_REQUEST (R351). -/
  | startInterfaceRequest (ses : Nat) (vf : Nat) (nonce : BitVec 256)
  /-- STOP_INTERFACE_REQUEST (R351). -/
  | stopInterfaceRequest (ses : Nat) (vf : Nat)
  /-- GET_DEVICE_INTERFACE_REPORT (R351). -/
  | getDeviceInterfaceReport (ses : Nat) (vf : Nat)
  /-- GET_DEVICE_INTERFACE_STATE (R351). -/
  | getDeviceInterfaceState (ses : Nat) (vf : Nat)
  /-- IDE_FAILURE (R351). -/
  | ideFailure (vf : Nat)
  /-- HOT_RESET of one of the two PCIe ports: 0 is that of vat 0, 1 that of vat 15 (R1, R354). -/
  | hotReset (port : Nat)
  /-- LINK_DOWN of one of the two PCIe ports (R1, R354). -/
  | linkDown (port : Nat)
  /-- UNCORRECTABLE_ERROR (R410). -/
  | uncorrectableError (site : ErrorSite)
  /-- HEARTBEAT_CHECK (R427). -/
  | heartbeatCheck (alive : Bool)
  /-- ROW_REFRESH_MANAGEMENT (R418). -/
  | rowRefreshManagement (vat bank row : Nat)
  /-- HBM_TEMPERATURE_CHANGE (R419). -/
  | hbmTemperatureChange (vat : Nat) (celsius : Nat)
  /-- ACTIVATION_WINDOW (R419). -/
  | activationWindow (vat : Nat)
  /-- RHCFG_WRITE (R420). -/
  | rhcfgWrite (vat : Nat) (val : Word)
  /-- REPAIR_RECORD (R426). -/
  | repairRecord (r : Repair)
  /-- GORQUE_PORT_LINK_FAILURE (R410). -/
  | gorquePortLinkFailure (port : Nat)
  /-- SPDM_UNSUPPORTED_REQUEST (R423). -/
  | spdmUnsupportedRequest (conn : Nat) (req : List (BitVec 8))
  /-- REGISTER_READ (R336). -/
  | registerRead (by' : Requester) (page : Page) (off : Nat)
  deriving DecidableEq, Repr

end Sys2Proof
end

