-- ==== Sys2Proof/WellFormed.lean ====
section
/-! DEFINITION. Which instructions are well-formed: every operand value the form accepts (R77 to R86, R200), and every
named core, cluster, vat or virtual function of a step that exists (R1, R22, R353). -/

namespace Sys2Proof

/-- A command's scope code is one of R78, and is 0 when neither flag is set (R78). -/
def Xc.wf (x : Xc) : Bool := decide (x.sc.val ≤ 4) && (x.acq || x.rel || decide (x.sc = 0))

/-- The core exists (R1, R19). -/
def CoreId.wf : CoreId → Bool
  | .compute cl k => decide (cl < 32) && decide (k < 48)
  | .partition cl => decide (cl < 32)
  | .umpire => true

/-- The core exists; a slot address is aligned to 2 MiB and its context number has 9 bits (R307). -/
def TaskRef.wf : TaskRef → Bool
  | .core k => k.wf
  | .slot ctx addr => decide (ctx < 512) && decide (addr % 0x200000 = 0)

/-- The page exists (R276, R306, R353). -/
def Page.wf : Page → Bool
  | .pf => true
  | .queueTable part => decide (part < 32)
  | .contextTable part => decide (part < 32)
  | .vfRing vf => decide (1 ≤ vf ∧ vf ≤ 384)
  | .vfPrivate vf => decide (1 ≤ vf ∧ vf ≤ 384)
  | .umpire => true

/-- The requester exists (R336). -/
def Requester.wf : Requester → Bool
  | .core k => k.wf
  | .host _ => true
  | .hostIde _ vf _ => decide (1 ≤ vf ∧ vf ≤ 384)

/-- The place of an error exists (R410). -/
def ErrorSite.wf : ErrorSite → Bool
  | .memLine pa => decide (pa < 2 ^ 40)
  | .scratchLine k _ => k.wf
  | .weightUnit k u => k.wf && decide (u < 1048656)
  | .coreState k _ _ => k.wf
  | .cluster cl => decide (cl < 32)
  | .vat v => decide (v < 16)
  | .umpire => true
  | .standby => true

/-- The core or vat of a repair exists, and a record fits its layout (R398, R426). -/
def Repair.wf : Repair → Bool
  | .spares k seg _ => k.wf && decide (seg < 1022)
  | .disableEngine k slot _ => k.wf && decide (4 ≤ slot.val ∧ slot.val ≤ 6)
  | .disableCore k _ => k.wf
  | .readmit vat _ => decide (vat < 16)
  | .record ty ver len body sign _ => decide (1 ≤ ty ∧ ty ≤ 5 ∧ ver < 2 ^ 32 ∧ len < 2 ^ 32 ∧ body < 256 ^ len ∧ sign < 256 ^ 96)

/-- Codes 0 to 13, the types of single numbers (R81, R83). -/
def Ty.isScalar : Ty → Bool
  | .mx4 => false
  | .sq4 => false
  | _ => true

/-- Codes 12 to 15, the packed types of VQNT and VDQNT (R83). -/
def Ty.isPacked : Ty → Bool
  | .e4m3 => true
  | .e5m2 => true
  | .mx4 => true
  | .sq4 => true
  | _ => false

/-- The block types (R150). -/
def Ty.isBlock : Ty → Bool
  | .mx4 => true
  | .sq4 => true
  | _ => false

/-- Codes 9 to 11 (R83). -/
def Ty.isWide : Ty → Bool
  | .f32 => true
  | .bf16 => true
  | .f16 => true
  | _ => false

/-- The types MDRAIN accepts (R84). -/
def Ty.drainOk : Ty → Bool
  | .i32 => true
  | .f32 => true
  | .bf16 => true
  | .f16 => true
  | .e4m3 => true
  | .e5m2 => true
  | _ => false

/-- The signed types `.i` (R77). -/
def IntTy.signed : IntTy → Bool
  | .i8 => true
  | .i16 => true
  | .i32 => true
  | .i64 => true
  | _ => false

/-- A load accepts .rlx, .acq and .sc (R78). -/
def Order.loadOk : Order → Bool
  | .rlx => true
  | .acq => true
  | .sc => true
  | _ => false

/-- A store accepts .rlx, .rel and .sc (R78). -/
def Order.storeOk : Order → Bool
  | .rlx => true
  | .rel => true
  | .sc => true
  | _ => false

/-- ATS and CASS accept .core and .clu (R82, R140). -/
def Scope.clusterOk : Scope → Bool
  | .core => true
  | .clu => true
  | _ => false

/-- Sum, min and max, which every type has (R83). -/
def Rop.isOrder : Rop → Bool
  | .sum => true
  | .min => true
  | .max => true
  | _ => false

/-- Floating-point reductions accept only sum, min and max (R83). -/
def Rop.okFor (r : Rop) : RedTy → Bool
  | .int _ => true
  | .fp _ => r.isOrder

/-- An operand the instruction does not accept (reason 0x05 of R73) makes it ill-formed. -/
def Instr.wf : Instr → Bool
  | .nop => true
  | .stall _ => true
  | .brScalar _ _ _ => true
  | .brPredicate _ _ _ => true
  | .j _ => true
  | .jr _ => true
  | .call _ => true
  | .callr _ => true
  | .ret => true
  | .loop _ _ e => decide (e ≠ 0)
  | .loops _ _ e => decide (e ≠ 0)
  | .lbrk _ => true
  | .tend => true
  | .tyield => true
  | .trap _ => true
  | .tret => true
  | .wtall _ => true
  | .wtany _ => true
  | .tffr _ _ => true
  | .tclr _ => true
  | .cbar _ _ => true
  | .fence os => decide (os.ord ≠ .rlx)
  | .mfc _ _ => true
  | .mtc _ _ => true
  | .qpop _ => true
  | .sync => true
  | .add _ _ _ _ => true
  | .sub _ _ _ _ => true
  | .addi _ _ _ _ => true
  | .movi _ _ _ => true
  | .movhi _ _ _ => true
  | .mul _ _ _ _ => true
  | .mulhi _ _ _ _ => true
  | .mulhn _ _ _ _ => true
  | .div _ _ _ _ => true
  | .divn _ _ _ _ => true
  | .rem _ _ _ _ => true
  | .remn _ _ _ _ => true
  | .and _ _ _ _ => true
  | .or _ _ _ _ => true
  | .xor _ _ _ _ => true
  | .andn _ _ _ _ => true
  | .andi _ _ _ _ => true
  | .ori _ _ _ _ => true
  | .xori _ _ _ _ => true
  | .shl _ _ _ _ => true
  | .shrl _ _ _ _ => true
  | .shra _ _ _ _ => true
  | .shli _ _ _ _ => true
  | .shrli _ _ _ _ => true
  | .shrai _ _ _ _ => true
  | .clz _ _ _ => true
  | .ctz _ _ _ => true
  | .popc _ _ _ => true
  | .min _ _ _ _ => true
  | .max _ _ _ _ => true
  | .minn _ _ _ _ => true
  | .maxn _ _ _ _ => true
  | .sel _ _ _ _ _ => true
  | .cmp _ _ _ _ _ => true
  | .cmpi _ _ _ _ _ => true
  | .plog _ _ _ _ _ => true
  | .pmov _ _ _ _ => true
  | .addsc _ _ _ _ _ => true
  | .ext _ _ _ _ _ => true
  | .fadd _ _ _ _ _ => true
  | .fsub _ _ _ _ _ => true
  | .fmul _ _ _ _ _ => true
  | .ffma _ _ _ _ _ _ => true
  | .fcmp _ _ _ _ _ _ => true
  | .fcvt _ _ _ t f => decide (t ≠ f) && t.isScalar && f.isScalar
  | .fmnx _ _ _ _ _ _ => true
  | .lds _ _ _ _ => true
  | .sts _ _ _ _ => true
  | .ldv _ _ _ _ => true
  | .stv _ _ _ _ => true
  | .ldvb _ _ _ _ => true
  | .ldvx _ _ _ _ _ => true
  | .stvx _ _ _ _ _ => true
  | .ldpm _ _ _ => true
  | .stpm _ _ _ => true
  | .ldg _ _ _ os => os.ord.loadOk
  | .stg _ _ _ os => os.ord.storeOk
  | .atg _ _ _ _ _ => true
  | .casg _ _ _ _ _ => true
  | .ats _ _ _ _ os => os.scope.clusterOk
  | .cass _ _ _ _ os => os.scope.clusterOk
  | .vadd _ _ _ _ _ => true
  | .vsub _ _ _ _ _ => true
  | .vmul _ _ _ _ _ => true
  | .vmulhi _ _ _ _ _ => true
  | .vmad _ _ _ _ _ => true
  | .vand _ _ _ _ _ => true
  | .vor _ _ _ _ _ => true
  | .vxor _ _ _ _ _ => true
  | .vshl _ _ _ _ _ => true
  | .vshrl _ _ _ _ _ => true
  | .vshra _ _ _ _ _ => true
  | .vmin _ _ _ _ _ => true
  | .vmax _ _ _ _ _ => true
  | .vabs _ _ _ t => t.signed
  | .vneg _ _ _ _ => true
  | .vsel _ _ _ _ _ => true
  | .vcmp _ _ _ _ _ => true
  | .vfadd _ _ _ _ _ => true
  | .vfsub _ _ _ _ _ => true
  | .vfmul _ _ _ _ _ => true
  | .vffma _ _ _ _ _ => true
  | .vfdiv _ _ _ _ _ => true
  | .vfsqrt _ _ _ _ => true
  | .vfrcp _ _ _ _ => true
  | .vfrsq _ _ _ _ => true
  | .vfexp2 _ _ _ _ => true
  | .vflog2 _ _ _ _ => true
  | .vfmin _ _ _ _ _ => true
  | .vfmax _ _ _ _ _ => true
  | .vfcmp _ _ _ _ _ => true
  | .vcvt _ _ t f _ => decide (t ≠ f) && t.isScalar && f.isScalar
  | .vqnt _ _ t f p => t.isPacked && f.isWide && (!t.isBlock || decide (p = 0))
  | .vdqnt _ _ t f p => f.isPacked && t.isWide && (!f.isBlock || decide (p = 0))
  | .vred _ _ r _ t => r.okFor t
  | .vscan _ _ r _ t _ => r.okFor t
  | .vperm _ _ _ _ _ => true
  | .vbcst _ _ _ _ => true
  | .viota _ _ _ _ => true
  | .vcmpr _ _ _ _ => true
  | .vmovs _ _ _ _ _ => true
  | .vdefer a b c _ n => (decide (1 ≤ n.val) || decide (a = 0)) && (decide (2 ≤ n.val) || decide (b = 0)) && (decide (3 ≤ n.val) || decide (c = 0))
  | .vdrain d _ _ _ n => decide (d.val + n.val ≤ 31)
  | .vtoq _ _ _ => true
  | .vsred _ _ _ r _ => r.isOrder
  | .mldw _ _ _ => true
  | .mmul _ _ _ b c => decide (b ≠ 7) && (decide (2 ≤ b.val) || decide (c = 0))
  | .mzero _ => true
  | .mload _ _ => true
  | .mdrain _ _ k _ _ => k.drainOk
  | .mtt _ _ _ => true
  | .maddt _ _ _ => true
  | .mscl _ _ _ => true
  | .mtrn _ _ => true
  | .mnorm _ _ => true
  | .mpoly _ _ _ => true
  | .miter t a m => m || decide (t = a)
  | .fmt f => decide (f.toNat % 8 < 6 ∧ f.toNat / 8 % 8 < 7)
  | .fmts _ => true
  | .sla _ => true
  | .slb _ => true
  | .slq _ => true
  | .slz => true
  | .xcp _ x => x.wf
  | .xcph _ b x => decide (b.val % 2 = 0) && decide (b.val ≤ 30) && x.wf
  | .xmc _ _ x => x.wf
  | .xga _ _ x => x.wf
  | .xsc _ _ x => x.wf
  | .xwin _ b drop => !drop || decide (b = 0)
  | .xwb _ x => x.wf
  | .xinv _ x => x.wf
  | .xgate _ x => x.wf
  | .xcan _ => true
  | .qenq _ _ _ => true
  | .qdeq _ _ => true
  | .tqpush _ _ _ => true
  | .launch _ x => x.wf
  | .gsmpl _ _ x => x.wf
  | .gfork _ _ x => x.wf
  | .gtrunc _ _ x => x.wf
  | .gcur _ _ => true
  | .gins _ _ x => x.wf
  | .gsnap _ x => x.wf
  | .wjw _ x => x.wf
  | .wjc _ x => x.wf
  | .wja _ x => x.wf
  | .wjd _ x => x.wf
  | .wwear _ _ => true
  | .xhash _ x => x.wf
  | .xsign _ x => x.wf
  | .xvfy _ x => x.wf
  | .xhint _ _ => true
  | .xpwr _ => true
  | .xevt _ _ => true
  | .shadowWriteLands k => k.wf
  | .interlockedResultArrives k _ => k.wf
  | .vtoqPushLands k => k.wf
  | .correctableErrorFreeze k => k.wf
  | .freezeEnd k => k.wf
  | .instructionFetchFault k => k.wf
  | .heldAccessFault k => k.wf
  | .sideLogReplay r _ => r.wf
  | .gatherScatterElement k => k.wf
  | .vsredVectorRead k => k.wf
  | .mUnitCompletes k _ => k.wf
  | .miterPhaseEnd k => k.wf
  | .arrayPoisonDetected k _ => k.wf
  | .remoteAccessArrives k _ => k.wf
  | .waitConditionHolds k => k.wf
  | .parkBoundExpires k => k.wf
  | .parkedConditionHolds cl _ => decide (cl < 32)
  | .tendWaitEnds k => k.wf
  | .completionSignals _ => true
  | .sliceExpiry k => k.wf
  | .priorityPreemption cl => decide (cl < 32)
  | .preempted cl => decide (cl < 32)
  | .supqItemAppend cl => decide (cl < 32)
  | .schedulerBind cl => decide (cl < 32)
  | .copyBoxComplete r _ _ => r.wf
  | .engineFaultDelivery k => k.wf
  | .commandCompletes r _ => r.wf
  | .windowFillCompletes k => k.wf
  | .backgroundWriteback k _ _ => k.wf
  | .storeAcknowledged cl _ => decide (cl ≤ 32)
  | .fenceMarkerAck k vat => k.wf && decide (vat < 16)
  | .qdeqItemDelivered part qn => decide (part < 32) && decide (qn < 4096)
  | .queueStart part qn => decide (part < 32) && decide (qn < 4096)
  | .registerWrite by' page _ _ _ => by'.wf && page.wf
  | .cqtailDoorbell vf _ => decide (1 ≤ vf ∧ vf ≤ 384)
  | .cpheadWrite vf _ => decide (1 ≤ vf ∧ vf ≤ 384)
  | .ringEnable vf _ => decide (1 ≤ vf ∧ vf ≤ 384)
  | .pushRecord vf => decide (1 ≤ vf ∧ vf ≤ 384)
  | .pushItem vf => decide (1 ≤ vf ∧ vf ≤ 384)
  | .gorqueLaunchPacket vat _ _ qn _ => decide (vat < 16) && decide (qn < 4096)
  | .partCreate => true
  | .partDestroy => true
  | .vfAssign => true
  | .ctxAssign => true
  | .vatFence => true
  | .vatReadmit => true
  | .deepOffEnter => true
  | .deepOffLeave => true
  | .distributorPushChunk _ => true
  | .chunkComplete _ _ => true
  | .governorPeriod _ _ _ _ => true
  | .darkDwellExpires k => k.wf
  | .clusterDark cl => decide (cl < 32)
  | .clusterWake cl => decide (cl < 32)
  | .powerLoss => true
  | .coldBoot => true
  | .imageDelivery _ => true
  | .partitionCoreResume cl => decide (cl < 32)
  | .wjaApply k => k.wf
  | .rollForwardRetry k => k.wf
  | .invalPage part _ _ => decide (part < 32)
  | .invalContext part _ => decide (part < 32)
  | .invalPartition part => decide (part < 32)
  | .slcmdReplay _ _ => true
  | .slcmdUnreplayable _ _ => true
  | .pcselWrite by' part _ => by'.wf && decide (part < 32)
  | .maskDeadlineExpires k _ => k.wf
  | .getVersion _ _ => true
  | .getCapabilities _ _ => true
  | .negotiateAlgorithms _ _ => true
  | .getCertificate _ _ _ _ _ => true
  | .challenge _ _ _ => true
  | .getMeasurements _ _ _ _ _ => true
  | .keyExchange _ _ => true
  | .finish _ _ _ _ => true
  | .endSession _ => true
  | .compCreate _ => true
  | .compClaim _ _ => true
  | .keyLoad _ _ _ _ _ _ => true
  | .keyRetire _ _ => true
  | .keySlotDrained _ => true
  | .codeSeal _ _ _ _ => true
  | .grantSet _ _ _ _ => true
  | .gateSet _ _ _ _ _ _ _ _ => true
  | .lockInterfaceRequest _ vf => decide (1 ≤ vf ∧ vf ≤ 384)
  | .startInterfaceRequest _ vf _ => decide (1 ≤ vf ∧ vf ≤ 384)
  | .stopInterfaceRequest _ vf => decide (1 ≤ vf ∧ vf ≤ 384)
  | .getDeviceInterfaceReport _ vf => decide (1 ≤ vf ∧ vf ≤ 384)
  | .getDeviceInterfaceState _ vf => decide (1 ≤ vf ∧ vf ≤ 384)
  | .ideFailure vf => decide (1 ≤ vf ∧ vf ≤ 384)
  | .hotReset port => decide (port < 2)
  | .linkDown port => decide (port < 2)
  | .uncorrectableError site => site.wf
  | .heartbeatCheck _ => true
  | .rowRefreshManagement vat _ _ => decide (vat < 16)
  | .hbmTemperatureChange vat _ => decide (vat < 16)
  | .activationWindow vat => decide (vat < 16)
  | .rhcfgWrite vat _ => decide (vat < 16)
  | .receiptRequest part => decide (part < 32)
  | .repairRecord r => r.wf
  | .storeRetiresIntoSideLog k => k.wf
  | .gorquePortLinkFailure port => decide (port < 18)
  | .spdmUnsupportedRequest _ _ => true
  | .registerRead by' page _ => by'.wf && page.wf
  | .invalidationCompletes part => decide (part < 32)

end Sys2Proof
end

