-- ==== Sys2Proof/Decode.lean ====
section
/-! DEFINITION. Decoding of slot words (R67, R71, R80 to R86), total on any number, and the encoder written from the same
tables. A word is a natural number below 2^32 with bit 0 least significant (R4). -/

namespace Sys2Proof

/-- Why a word is refused: reasons 0x01, 0x02 and 0x05 of R73. -/
inductive DecodeError where
  | unassigned
  | reserved
  | notAccepted
  deriving DecidableEq, Repr

/-- The reason code of R73. -/
def DecodeError.code : DecodeError → Nat
  | .unassigned => 1
  | .reserved => 2
  | .notAccepted => 5

/-- The field of n bits that begins at bit lo. -/
def fld (w lo n : Nat) : Nat := w / 2 ^ lo % 2 ^ n

/-- The scalar or vector register field that begins at bit lo. -/
def reg (w lo : Nat) : Reg := Fin.ofNat 32 (w / 2 ^ lo)

/-- The predicate register field that begins at bit lo. -/
def preg (w lo : Nat) : PReg := Fin.ofNat 8 (w / 2 ^ lo)

/-- A number below n in the field that begins at bit lo; n is a power of two. -/
def num (n : Nat) [NeZero n] (w lo : Nat) : Fin n := Fin.ofNat n (w / 2 ^ lo)

/-- An immediate of n bits that begins at bit lo. -/
def imm (n w lo : Nat) : BitVec n := BitVec.ofNat n (w / 2 ^ lo)

/-- A field of one bit. -/
def bit (w lo : Nat) : Bool := decide (fld w lo 1 = 1)

/-- A reserved bit that is set is refused (R71, reason 0x02). -/
def res (w mask : Nat) (k : Except DecodeError Instr) : Except DecodeError Instr :=
  if w &&& mask = 0 then k else .error .reserved

/-- A named field that the form requires to be 0 (R73, reason 0x05). -/
def zero (w mask : Nat) (k : Except DecodeError Instr) : Except DecodeError Instr :=
  if w &&& mask = 0 then k else .error .notAccepted

/-- A coded field must hold a code the form accepts (R71, reason 0x05). -/
def acc {α : Type} (c : Option α) (k : α → Except DecodeError Instr) : Except DecodeError Instr :=
  match c with
  | some x => k x
  | none => .error .notAccepted

/-- An instruction with operand values its form does not accept is refused (R71, reason 0x05). -/
def chk (i : Instr) : Except DecodeError Instr :=
  if i.wf then .ok i else .error .notAccepted

/-- Slots A and B are numbers 1 and 2 (R14). -/
def AB.code : AB → Nat
  | .a => 1
  | .b => 2

/-- Code of a type (R77). -/
def Ty.code : Ty → Nat
  | .i8 => 0 | .i16 => 1 | .i32 => 2 | .i64 => 3 | .n8 => 4 | .n16 => 5 | .n32 => 6 | .n64 => 7
  | .f64 => 8 | .f32 => 9 | .bf16 => 10 | .f16 => 11 | .e4m3 => 12 | .e5m2 => 13 | .mx4 => 14 | .sq4 => 15

/-- Type of a 4-bit code (R77). -/
def Ty.ofCode : Nat → Ty
  | 0 => .i8 | 1 => .i16 | 2 => .i32 | 3 => .i64 | 4 => .n8 | 5 => .n16 | 6 => .n32 | 7 => .n64
  | 8 => .f64 | 9 => .f32 | 10 => .bf16 | 11 => .f16 | 12 => .e4m3 | 13 => .e5m2 | 14 => .mx4 | _ => .sq4

/-- Code of an integer type (R77). -/
def IntTy.code : IntTy → Nat
  | .i8 => 0 | .i16 => 1 | .i32 => 2 | .i64 => 3 | .n8 => 4 | .n16 => 5 | .n32 => 6 | .n64 => 7

/-- Integer type of a 3-bit code (R77). -/
def IntTy.ofCode : Nat → IntTy
  | 0 => .i8 | 1 => .i16 | 2 => .i32 | 3 => .i64 | 4 => .n8 | 5 => .n16 | 6 => .n32 | _ => .n64

/-- Code of a floating-point type in `ty3` (R77). -/
def FpTy.code : FpTy → Nat
  | .f64 => 0 | .f32 => 1 | .bf16 => 2 | .f16 => 3

/-- Floating-point type of a `ty3` code; 4 to 7 are not accepted (R77). -/
def FpTy.ofCode? : Nat → Option FpTy
  | 0 => some .f64 | 1 => some .f32 | 2 => some .bf16 | 3 => some .f16 | _ => none

/-- The `fl` field of a reduction type (R83). -/
def RedTy.fl : RedTy → Nat
  | .int _ => 0
  | .fp _ => 1

/-- The `ty3` field of a reduction type (R83). -/
def RedTy.code : RedTy → Nat
  | .int t => t.code
  | .fp t => t.code

/-- The reduction type of `fl` and `ty3` (R83, R155). -/
def RedTy.ofCode? (fl c : Nat) : Option RedTy :=
  if fl = 0 then some (.int (IntTy.ofCode c)) else (FpTy.ofCode? c).map .fp

/-- Size code (R82). -/
def Size.code : Size → Nat
  | .b1 => 0 | .b2 => 1 | .b4 => 2 | .b8 => 3

/-- Size of a 2-bit code (R82). -/
def Size.ofCode : Nat → Size
  | 0 => .b1 | 1 => .b2 | 2 => .b4 | _ => .b8

/-- Code of `fd` (R81). -/
def FD.code : FD → Nat
  | .f32 => 0 | .f64 => 1

/-- Format of `fd` (R81). -/
def FD.ofCode : Nat → FD
  | 0 => .f32 | _ => .f64

/-- Code of an integer condition (R79). -/
def Cc.code : Cc → Nat
  | .eq => 0 | .ne => 1 | .lt => 2 | .le => 3 | .ltn => 4 | .len => 5

/-- Integer condition of a code; 6 and 7 are not accepted (R79). -/
def Cc.ofCode? : Nat → Option Cc
  | 0 => some .eq | 1 => some .ne | 2 => some .lt | 3 => some .le | 4 => some .ltn | 5 => some .len | _ => none

/-- Code of a floating-point condition (R79). -/
def Fcc.code : Fcc → Nat
  | .eq => 0 | .lt => 1 | .le => 2 | .un => 3

/-- Floating-point condition of a code; 4 to 7 are not accepted (R79). -/
def Fcc.ofCode? : Nat → Option Fcc
  | 0 => some .eq | 1 => some .lt | 2 => some .le | 3 => some .un | _ => none

/-- Code of an atomic operation (R79). -/
def Aop.code : Aop → Nat
  | .add => 0 | .and => 1 | .or => 2 | .xor => 3 | .min => 4 | .max => 5 | .minn => 6 | .maxn => 7 | .xchg => 8

/-- Atomic operation of a code; 9 to 15 are not accepted (R79). -/
def Aop.ofCode? : Nat → Option Aop
  | 0 => some .add | 1 => some .and | 2 => some .or | 3 => some .xor | 4 => some .min | 5 => some .max
  | 6 => some .minn | 7 => some .maxn | 8 => some .xchg | _ => none

/-- Code of a reduction (R83). -/
def Rop.code : Rop → Nat
  | .sum => 0 | .min => 1 | .max => 2 | .and => 3 | .or => 4 | .xor => 5

/-- Reduction of a code; 6 and 7 are not accepted (R83). -/
def Rop.ofCode? : Nat → Option Rop
  | 0 => some .sum | 1 => some .min | 2 => some .max | 3 => some .and | 4 => some .or | 5 => some .xor | _ => none

/-- Order codes (R78). -/
def Order.code : Order → Nat
  | .rlx => 0 | .acq => 1 | .rel => 2 | .ar => 3 | .sc => 4

/-- Scope codes (R78). -/
def Scope.code : Scope → Nat
  | .core => 0 | .clu => 1 | .vat => 2 | .mod => 3 | .sys => 4

/-- Order of a code. -/
def Order.ofCode? : Nat → Option Order
  | 0 => some .rlx | 1 => some .acq | 2 => some .rel | 3 => some .ar | 4 => some .sc | _ => none

/-- Scope of a code. -/
def Scope.ofCode? : Nat → Option Scope
  | 0 => some .core | 1 => some .clu | 2 => some .vat | 3 => some .mod | 4 => some .sys | _ => none

/-- `os` = 5 x order + scope (R78). -/
def OrdScope.code (o : OrdScope) : Nat := 5 * o.ord.code + o.scope.code

/-- Order and scope of `os`; 25 to 31 are not accepted (R78). -/
def OrdScope.ofCode? (c : Nat) : Option OrdScope :=
  match Order.ofCode? (c / 5), Scope.ofCode? (c % 5) with
  | some o, some sc => some ⟨o, sc⟩
  | _, _ => none

/-- XWIN's `mode`: 0 map, 1 drop, 2 and 3 not accepted (R86). -/
def bool2? : Nat → Option Bool
  | 0 => some false | 1 => some true | _ => none

/-- The command fields of format XC (R86). -/
def xc (w : Nat) : Xc :=
  ⟨decide (fld w 10 1 = 1), decide (fld w 9 1 = 1), Fin.ofNat 8 (w / 2 ^ 6), Fin.ofNat 64 w⟩

/-- The command fields as bits [10:0] (R86). -/
def Xc.code (x : Xc) : Nat := x.acq.toNat * 2 ^ 10 + x.rel.toNat * 2 ^ 9 + x.sc.val * 2 ^ 6 + x.tag.val

/-- Decoding of the C slot, by major opcode (R80). -/
def decodeC (w : Nat) : Except DecodeError Instr :=
  match fld w 21 7 with
  | 0x0 => res w 0x1fffff (chk (.nop))
  | 0x1 => res w 0x1ff000 (chk (.stall (imm 12 w 0)))
  | 0x2 => if fld w 20 1 = 0 then res w 0x100000 (chk (.brScalar (bit w 19) (reg w 14) (imm 14 w 0))) else res w 0x60000 (chk (.brPredicate (bit w 19) (preg w 14) (imm 14 w 0)))
  | 0x3 => chk (.j (imm 21 w 0))
  | 0x4 => res w 0xffff (chk (.jr (reg w 16)))
  | 0x5 => chk (.call (imm 21 w 0))
  | 0x6 => res w 0xffff (chk (.callr (reg w 16)))
  | 0x7 => res w 0x1fffff (chk (.ret))
  | 0x8 => chk (.loop (num 2 w 20) (imm 10 w 10) (imm 10 w 0))
  | 0x9 => res w 0x7c00 (chk (.loops (num 2 w 20) (reg w 15) (imm 10 w 0)))
  | 0xa => res w 0xfffff (chk (.lbrk (num 2 w 20)))
  | 0xb => res w 0x1fffff (chk (.tend))
  | 0xc => res w 0x1fffff (chk (.tyield))
  | 0xd => res w 0x1fff00 (chk (.trap (imm 8 w 0)))
  | 0xe => res w 0x1fffff (chk (.tret))
  | 0xf => res w 0xffff (chk (.wtall (reg w 16)))
  | 0x10 => res w 0xffff (chk (.wtany (reg w 16)))
  | 0x11 => res w 0x7ff (chk (.tffr (reg w 16) (reg w 11)))
  | 0x12 => res w 0xffff (chk (.tclr (reg w 16)))
  | 0x13 => res w 0xfff (chk (.cbar (reg w 16) (num 16 w 12)))
  | 0x14 => res w 0xffff (acc (OrdScope.ofCode? (fld w 16 5)) fun os => chk (.fence os))
  | 0x15 => res w 0xf (chk (.mfc (reg w 16) (imm 12 w 4)))
  | 0x16 => res w 0xf (chk (.mtc (reg w 16) (imm 12 w 4)))
  | 0x17 => res w 0xffff (chk (.qpop (reg w 16)))
  | 0x18 => res w 0x1fffff (chk (.sync))
  | _ => .error .unassigned

/-- Decoding of the A and B slots, by major opcode (R81). -/
def decodeAB (y : AB) (w : Nat) : Except DecodeError Instr :=
  match fld w 21 7 with
  | 0x0 => zero w 0x3f (chk (.add y (reg w 16) (reg w 11) (reg w 6)))
  | 0x1 => zero w 0x3f (chk (.sub y (reg w 16) (reg w 11) (reg w 6)))
  | 0x2 => chk (.addi y (reg w 16) (reg w 11) (imm 11 w 0))
  | 0x3 => chk (.movi y (reg w 16) (imm 16 w 0))
  | 0x4 => chk (.movhi y (reg w 16) (imm 16 w 0))
  | 0x5 => zero w 0x3f (chk (.mul y (reg w 16) (reg w 11) (reg w 6)))
  | 0x6 => zero w 0x3f (chk (.mulhi y (reg w 16) (reg w 11) (reg w 6)))
  | 0x7 => zero w 0x3f (chk (.mulhn y (reg w 16) (reg w 11) (reg w 6)))
  | 0x8 => zero w 0x3f (chk (.div y (reg w 16) (reg w 11) (reg w 6)))
  | 0x9 => zero w 0x3f (chk (.divn y (reg w 16) (reg w 11) (reg w 6)))
  | 0xa => zero w 0x3f (chk (.rem y (reg w 16) (reg w 11) (reg w 6)))
  | 0xb => zero w 0x3f (chk (.remn y (reg w 16) (reg w 11) (reg w 6)))
  | 0xc => zero w 0x3f (chk (.and y (reg w 16) (reg w 11) (reg w 6)))
  | 0xd => zero w 0x3f (chk (.or y (reg w 16) (reg w 11) (reg w 6)))
  | 0xe => zero w 0x3f (chk (.xor y (reg w 16) (reg w 11) (reg w 6)))
  | 0xf => zero w 0x3f (chk (.andn y (reg w 16) (reg w 11) (reg w 6)))
  | 0x10 => chk (.andi y (reg w 16) (reg w 11) (imm 11 w 0))
  | 0x11 => chk (.ori y (reg w 16) (reg w 11) (imm 11 w 0))
  | 0x12 => chk (.xori y (reg w 16) (reg w 11) (imm 11 w 0))
  | 0x13 => zero w 0x3f (chk (.shl y (reg w 16) (reg w 11) (reg w 6)))
  | 0x14 => zero w 0x3f (chk (.shrl y (reg w 16) (reg w 11) (reg w 6)))
  | 0x15 => zero w 0x3f (chk (.shra y (reg w 16) (reg w 11) (reg w 6)))
  | 0x16 => res w 0x7c0 (chk (.shli y (reg w 16) (reg w 11) (num 64 w 0)))
  | 0x17 => res w 0x7c0 (chk (.shrli y (reg w 16) (reg w 11) (num 64 w 0)))
  | 0x18 => res w 0x7c0 (chk (.shrai y (reg w 16) (reg w 11) (num 64 w 0)))
  | 0x19 => zero w 0x7ff (chk (.clz y (reg w 16) (reg w 11)))
  | 0x1a => zero w 0x7ff (chk (.ctz y (reg w 16) (reg w 11)))
  | 0x1b => zero w 0x7ff (chk (.popc y (reg w 16) (reg w 11)))
  | 0x1c => zero w 0x3f (chk (.min y (reg w 16) (reg w 11) (reg w 6)))
  | 0x1d => zero w 0x3f (chk (.max y (reg w 16) (reg w 11) (reg w 6)))
  | 0x1e => zero w 0x3f (chk (.minn y (reg w 16) (reg w 11) (reg w 6)))
  | 0x1f => zero w 0x3f (chk (.maxn y (reg w 16) (reg w 11) (reg w 6)))
  | 0x20 => res w 0x7 (chk (.sel y (reg w 16) (reg w 11) (reg w 6) (preg w 3)))
  | 0x21 => res w 0x7 (acc (Cc.ofCode? (fld w 3 3)) fun c => chk (.cmp y (reg w 16) (reg w 11) (reg w 6) c))
  | 0x22 => acc (Cc.ofCode? (fld w 8 3)) fun c => chk (.cmpi y (reg w 16) (reg w 11) c (imm 8 w 0))
  | 0x23 => res w 0xff (chk (.plog y (preg w 18) (preg w 15) (preg w 12) (imm 4 w 8)))
  | 0x24 => res w 0xfff (chk (.pmov y (bit w 20) (reg w 15) (preg w 12)))
  | 0x25 => res w 0x7 (chk (.addsc y (reg w 16) (reg w 11) (reg w 6) (num 8 w 3)))
  | 0x26 => chk (.ext y (reg w 16) (reg w 11) (num 64 w 5) (num 32 w 0))
  | 0x27 => res w 0x1f (chk (.fadd y (reg w 16) (reg w 11) (reg w 6) (FD.ofCode (fld w 5 1))))
  | 0x28 => res w 0x1f (chk (.fsub y (reg w 16) (reg w 11) (reg w 6) (FD.ofCode (fld w 5 1))))
  | 0x29 => res w 0x1f (chk (.fmul y (reg w 16) (reg w 11) (reg w 6) (FD.ofCode (fld w 5 1))))
  | 0x2a => chk (.ffma y (reg w 16) (reg w 11) (reg w 6) (reg w 1) (FD.ofCode (fld w 0 1)))
  | 0x2b => res w 0x3 (acc (Fcc.ofCode? (fld w 3 3)) fun c => chk (.fcmp y (reg w 16) (reg w 11) (reg w 6) c (FD.ofCode (fld w 2 1))))
  | 0x2c => res w 0x7 (chk (.fcvt y (reg w 16) (reg w 11) (Ty.ofCode (fld w 7 4)) (Ty.ofCode (fld w 3 4))))
  | 0x2d => res w 0xf (chk (.fmnx y (reg w 16) (reg w 11) (reg w 6) (FD.ofCode (fld w 5 1)) (bit w 4)))
  | _ => .error .unassigned

/-- Decoding of the L slot, by major opcode (R82). -/
def decodeL (w : Nat) : Except DecodeError Instr :=
  match fld w 21 7 with
  | 0x0 => chk (.lds (reg w 16) (reg w 11) (IntTy.ofCode (fld w 8 3)) (imm 8 w 0))
  | 0x1 => res w 0x400 (chk (.sts (reg w 16) (reg w 11) (Size.ofCode (fld w 8 2)) (imm 8 w 0)))
  | 0x2 => chk (.ldv (reg w 16) (reg w 11) (preg w 8) (imm 8 w 0))
  | 0x3 => chk (.stv (reg w 16) (reg w 11) (preg w 8) (imm 8 w 0))
  | 0x4 => res w 0x400 (chk (.ldvb (reg w 16) (reg w 11) (Size.ofCode (fld w 8 2)) (imm 8 w 0)))
  | 0x5 => res w 0x1 (chk (.ldvx (reg w 16) (reg w 11) (reg w 6) (preg w 3) (Size.ofCode (fld w 1 2))))
  | 0x6 => res w 0x1 (chk (.stvx (reg w 16) (reg w 11) (reg w 6) (preg w 3) (Size.ofCode (fld w 1 2))))
  | 0x7 => res w 0x30700 (chk (.ldpm (preg w 18) (reg w 11) (imm 8 w 0)))
  | 0x8 => res w 0x30700 (chk (.stpm (preg w 18) (reg w 11) (imm 8 w 0)))
  | 0x9 => res w 0x7 (acc (OrdScope.ofCode? (fld w 3 5)) fun os => chk (.ldg (reg w 16) (reg w 11) (IntTy.ofCode (fld w 8 3)) os))
  | 0xa => res w 0x7 (zero w 0x400 (acc (OrdScope.ofCode? (fld w 3 5)) fun os => chk (.stg (reg w 16) (reg w 11) (Size.ofCode (fld w 8 2)) os)))
  | 0xb => res w 0x1 (acc (Aop.ofCode? (fld w 7 4)) fun p => acc (OrdScope.ofCode? (fld w 1 5)) fun os => chk (.atg (reg w 16) (reg w 11) p (bit w 6) os))
  | 0xc => acc (OrdScope.ofCode? (fld w 0 5)) fun os => chk (.casg (reg w 16) (reg w 11) (reg w 6) (bit w 5) os)
  | 0xd => res w 0x1 (acc (Aop.ofCode? (fld w 7 4)) fun p => acc (OrdScope.ofCode? (fld w 1 5)) fun os => chk (.ats (reg w 16) (reg w 11) p (bit w 6) os))
  | 0xe => acc (OrdScope.ofCode? (fld w 0 5)) fun os => chk (.cass (reg w 16) (reg w 11) (reg w 6) (bit w 5) os)
  | _ => .error .unassigned

/-- Decoding of the V slot from opcode 0x1E on: conversions, reductions, moves (R83). -/
def decodeVHigh (w : Nat) : Except DecodeError Instr :=
  match fld w 21 7 with
  | 0x1e => chk (.vcvt (reg w 16) (reg w 11) (Ty.ofCode (fld w 7 4)) (Ty.ofCode (fld w 3 4)) (preg w 0))
  | 0x1f => chk (.vqnt (reg w 16) (reg w 11) (Ty.ofCode (fld w 7 4)) (Ty.ofCode (fld w 3 4)) (preg w 0))
  | 0x20 => chk (.vdqnt (reg w 16) (reg w 11) (Ty.ofCode (fld w 7 4)) (Ty.ofCode (fld w 3 4)) (preg w 0))
  | 0x21 => zero w 0x1 (acc (Rop.ofCode? (fld w 8 3)) fun r => acc (RedTy.ofCode? (fld w 4 1) (fld w 1 3)) fun t => chk (.vred (reg w 16) (reg w 11) r (preg w 5) t))
  | 0x22 => acc (Rop.ofCode? (fld w 8 3)) fun r => acc (RedTy.ofCode? (fld w 4 1) (fld w 1 3)) fun t => chk (.vscan (reg w 16) (reg w 11) r (preg w 5) t (bit w 0))
  | 0x23 => chk (.vperm (reg w 16) (reg w 11) (reg w 6) (preg w 3) (IntTy.ofCode (fld w 0 3)))
  | 0x24 => zero w 0x7c0 (chk (.vbcst (reg w 16) (reg w 11) (preg w 3) (IntTy.ofCode (fld w 0 3))))
  | 0x25 => zero w 0x7c0 (chk (.viota (reg w 16) (reg w 11) (preg w 3) (IntTy.ofCode (fld w 0 3))))
  | 0x26 => zero w 0x7c0 (chk (.vcmpr (reg w 16) (reg w 11) (preg w 3) (IntTy.ofCode (fld w 0 3))))
  | 0x27 => res w 0x18 (chk (.vmovs (reg w 16) (reg w 11) (reg w 6) (bit w 5) (IntTy.ofCode (fld w 0 3))))
  | 0x28 => res w 0x1 (chk (.vdefer (reg w 16) (reg w 11) (reg w 6) (preg w 3) (num 4 w 1)))
  | 0x29 => res w 0x1f (chk (.vdrain (reg w 16) (reg w 11) (preg w 8) (bit w 7) (num 4 w 5)))
  | 0x2a => res w 0x1f0038 (chk (.vtoq (reg w 11) (reg w 6) (IntTy.ofCode (fld w 0 3))))
  | 0x2b => acc (Rop.ofCode? (fld w 4 2)) fun r => acc (RedTy.ofCode? (fld w 3 1) (fld w 0 3)) fun t => chk (.vsred (reg w 16) (reg w 11) (reg w 6) r t)
  | _ => .error .unassigned

/-- Decoding of the V slot, by major opcode (R83). -/
def decodeV (w : Nat) : Except DecodeError Instr :=
  match fld w 21 7 with
  | 0x0 => chk (.vadd (reg w 16) (reg w 11) (reg w 6) (preg w 3) (IntTy.ofCode (fld w 0 3)))
  | 0x1 => chk (.vsub (reg w 16) (reg w 11) (reg w 6) (preg w 3) (IntTy.ofCode (fld w 0 3)))
  | 0x2 => chk (.vmul (reg w 16) (reg w 11) (reg w 6) (preg w 3) (IntTy.ofCode (fld w 0 3)))
  | 0x3 => chk (.vmulhi (reg w 16) (reg w 11) (reg w 6) (preg w 3) (IntTy.ofCode (fld w 0 3)))
  | 0x4 => chk (.vmad (reg w 16) (reg w 11) (reg w 6) (preg w 3) (IntTy.ofCode (fld w 0 3)))
  | 0x5 => chk (.vand (reg w 16) (reg w 11) (reg w 6) (preg w 3) (IntTy.ofCode (fld w 0 3)))
  | 0x6 => chk (.vor (reg w 16) (reg w 11) (reg w 6) (preg w 3) (IntTy.ofCode (fld w 0 3)))
  | 0x7 => chk (.vxor (reg w 16) (reg w 11) (reg w 6) (preg w 3) (IntTy.ofCode (fld w 0 3)))
  | 0x8 => chk (.vshl (reg w 16) (reg w 11) (reg w 6) (preg w 3) (IntTy.ofCode (fld w 0 3)))
  | 0x9 => chk (.vshrl (reg w 16) (reg w 11) (reg w 6) (preg w 3) (IntTy.ofCode (fld w 0 3)))
  | 0xa => chk (.vshra (reg w 16) (reg w 11) (reg w 6) (preg w 3) (IntTy.ofCode (fld w 0 3)))
  | 0xb => chk (.vmin (reg w 16) (reg w 11) (reg w 6) (preg w 3) (IntTy.ofCode (fld w 0 3)))
  | 0xc => chk (.vmax (reg w 16) (reg w 11) (reg w 6) (preg w 3) (IntTy.ofCode (fld w 0 3)))
  | 0xd => zero w 0x7c0 (chk (.vabs (reg w 16) (reg w 11) (preg w 3) (IntTy.ofCode (fld w 0 3))))
  | 0xe => zero w 0x7c0 (chk (.vneg (reg w 16) (reg w 11) (preg w 3) (IntTy.ofCode (fld w 0 3))))
  | 0xf => chk (.vsel (reg w 16) (reg w 11) (reg w 6) (preg w 3) (IntTy.ofCode (fld w 0 3)))
  | 0x10 => res w 0x3 (acc (Cc.ofCode? (fld w 15 3)) fun c => chk (.vcmp (preg w 18) c (reg w 10) (reg w 5) (IntTy.ofCode (fld w 2 3))))
  | 0x11 => acc (FpTy.ofCode? (fld w 0 3)) fun t => chk (.vfadd (reg w 16) (reg w 11) (reg w 6) (preg w 3) t)
  | 0x12 => acc (FpTy.ofCode? (fld w 0 3)) fun t => chk (.vfsub (reg w 16) (reg w 11) (reg w 6) (preg w 3) t)
  | 0x13 => acc (FpTy.ofCode? (fld w 0 3)) fun t => chk (.vfmul (reg w 16) (reg w 11) (reg w 6) (preg w 3) t)
  | 0x14 => acc (FpTy.ofCode? (fld w 0 3)) fun t => chk (.vffma (reg w 16) (reg w 11) (reg w 6) (preg w 3) t)
  | 0x15 => acc (FpTy.ofCode? (fld w 0 3)) fun t => chk (.vfdiv (reg w 16) (reg w 11) (reg w 6) (preg w 3) t)
  | 0x16 => zero w 0x7c0 (acc (FpTy.ofCode? (fld w 0 3)) fun t => chk (.vfsqrt (reg w 16) (reg w 11) (preg w 3) t))
  | 0x17 => zero w 0x7c0 (acc (FpTy.ofCode? (fld w 0 3)) fun t => chk (.vfrcp (reg w 16) (reg w 11) (preg w 3) t))
  | 0x18 => zero w 0x7c0 (acc (FpTy.ofCode? (fld w 0 3)) fun t => chk (.vfrsq (reg w 16) (reg w 11) (preg w 3) t))
  | 0x19 => zero w 0x7c0 (acc (FpTy.ofCode? (fld w 0 3)) fun t => chk (.vfexp2 (reg w 16) (reg w 11) (preg w 3) t))
  | 0x1a => zero w 0x7c0 (acc (FpTy.ofCode? (fld w 0 3)) fun t => chk (.vflog2 (reg w 16) (reg w 11) (preg w 3) t))
  | 0x1b => acc (FpTy.ofCode? (fld w 0 3)) fun t => chk (.vfmin (reg w 16) (reg w 11) (reg w 6) (preg w 3) t)
  | 0x1c => acc (FpTy.ofCode? (fld w 0 3)) fun t => chk (.vfmax (reg w 16) (reg w 11) (reg w 6) (preg w 3) t)
  | 0x1d => res w 0x3 (acc (Fcc.ofCode? (fld w 15 3)) fun c => acc (FpTy.ofCode? (fld w 2 3)) fun t => chk (.vfcmp (preg w 18) c (reg w 10) (reg w 5) t))
  | _ => decodeVHigh w

/-- Decoding of the M slot, by major opcode (R84). -/
def decodeM (w : Nat) : Except DecodeError Instr :=
  match fld w 21 7 with
  | 0x0 => res w 0x3fff (chk (.mldw (num 2 w 20) (bit w 19) (reg w 14)))
  | 0x1 => res w 0xf (chk (.mmul (num 4 w 19) (reg w 14) (num 4 w 12) (num 8 w 9) (reg w 4)))
  | 0x2 => res w 0x7ffff (chk (.mzero (num 4 w 19)))
  | 0x3 => res w 0x3fff (chk (.mload (num 4 w 19) (reg w 14)))
  | 0x4 => res w 0x3f (chk (.mdrain (num 4 w 19) (reg w 14) (Ty.ofCode (fld w 10 4)) (preg w 7) (bit w 6)))
  | 0x5 => res w 0x7fff (chk (.mtt (num 4 w 19) (num 4 w 17) (num 4 w 15)))
  | 0x6 => res w 0x7fff (chk (.maddt (num 4 w 19) (num 4 w 17) (num 4 w 15)))
  | 0x7 => res w 0xfff (chk (.mscl (num 4 w 19) (num 4 w 17) (reg w 12)))
  | 0x8 => res w 0x1ffff (chk (.mtrn (num 4 w 19) (num 4 w 17)))
  | 0x9 => res w 0x3fff (chk (.mnorm (reg w 16) (num 4 w 14)))
  | 0xa => res w 0x3fff (chk (.mpoly (num 4 w 19) (num 4 w 17) (num 8 w 14)))
  | 0xb => res w 0xffff (chk (.miter (num 4 w 19) (num 4 w 17) (bit w 16)))
  | _ => .error .unassigned

/-- Decoding of the F slot, by major opcode (R85). -/
def decodeF (w : Nat) : Except DecodeError Instr :=
  match fld w 21 7 with
  | 0x0 => res w 0x1ffc00 (chk (.fmt (imm 10 w 0)))
  | 0x1 => res w 0xffff (chk (.fmts (reg w 16)))
  | 0x2 => res w 0xffff (chk (.sla (reg w 16)))
  | 0x3 => res w 0xffff (chk (.slb (reg w 16)))
  | 0x4 => res w 0xffff (chk (.slq (reg w 16)))
  | 0x5 => res w 0x1fffff (chk (.slz))
  | _ => .error .unassigned

/-- Decoding of the X slot, by major opcode (R86). -/
def decodeX (w : Nat) : Except DecodeError Instr :=
  match fld w 21 7 with
  | 0x0 => zero w 0xf800 (chk (.xcp (reg w 16) (xc w)))
  | 0x1 => chk (.xcph (reg w 16) (reg w 11) (xc w))
  | 0x2 => chk (.xmc (reg w 16) (reg w 11) (xc w))
  | 0x3 => chk (.xga (reg w 16) (reg w 11) (xc w))
  | 0x4 => chk (.xsc (reg w 16) (reg w 11) (xc w))
  | 0x5 => res w 0x1ff (acc (bool2? (fld w 9 2)) fun drop => chk (.xwin (reg w 16) (reg w 11) drop))
  | 0x6 => zero w 0xf800 (chk (.xwb (reg w 16) (xc w)))
  | 0x7 => zero w 0xf800 (chk (.xinv (reg w 16) (xc w)))
  | 0x8 => zero w 0xf800 (chk (.xgate (reg w 16) (xc w)))
  | 0x9 => res w 0xffff (chk (.xcan (reg w 16)))
  | 0xa => res w 0xff (chk (.qenq (preg w 18) (reg w 13) (reg w 8)))
  | 0xb => res w 0x3f (zero w 0x7c0 (chk (.qdeq (reg w 16) (reg w 11))))
  | 0xc => res w 0xff (chk (.tqpush (preg w 18) (reg w 13) (reg w 8)))
  | 0xd => zero w 0xf800 (chk (.launch (reg w 16) (xc w)))
  | 0xe => chk (.gsmpl (reg w 16) (reg w 11) (xc w))
  | 0xf => chk (.gfork (reg w 16) (reg w 11) (xc w))
  | 0x10 => chk (.gtrunc (reg w 16) (reg w 11) (xc w))
  | 0x11 => res w 0x3f (zero w 0x1f0000 (chk (.gcur (reg w 11) (reg w 6))))
  | 0x12 => chk (.gins (reg w 16) (reg w 11) (xc w))
  | 0x13 => zero w 0xf800 (chk (.gsnap (reg w 16) (xc w)))
  | 0x14 => zero w 0xf800 (chk (.wjw (reg w 16) (xc w)))
  | 0x15 => zero w 0xf800 (chk (.wjc (reg w 16) (xc w)))
  | 0x16 => zero w 0xf800 (chk (.wja (reg w 16) (xc w)))
  | 0x17 => zero w 0xf800 (chk (.wjd (reg w 16) (xc w)))
  | 0x18 => res w 0x3f (zero w 0x7c0 (chk (.wwear (reg w 16) (reg w 11))))
  | 0x19 => zero w 0xf800 (chk (.xhash (reg w 16) (xc w)))
  | 0x1a => zero w 0xf800 (chk (.xsign (reg w 16) (xc w)))
  | 0x1b => zero w 0xf800 (chk (.xvfy (reg w 16) (xc w)))
  | 0x1c => res w 0x3f (zero w 0x1f0000 (chk (.xhint (reg w 11) (reg w 6))))
  | 0x1d => res w 0xffff (chk (.xpwr (reg w 16)))
  | 0x1e => res w 0xff (chk (.xevt (reg w 16) (imm 8 w 8)))
  | _ => .error .unassigned

/-- The instruction of a word, whatever its start bit (R67). -/
def decodeWord (w : Nat) : Except DecodeError Instr :=
  match fld w 28 3 with
  | 0 => decodeC w
  | 1 => decodeAB .a w
  | 2 => decodeAB .b w
  | 3 => decodeL w
  | 4 => decodeV w
  | 5 => decodeM w
  | 6 => decodeF w
  | _ => decodeX w

/-- A word from its fixed bits and its (value, low bit) fields (R68). -/
def word (base : Nat) : List (Nat × Nat) → Nat
  | [] => base
  | (v, lo) :: fs => word (base + v * 2 ^ lo) fs

/-- The word of an instruction (R80-R86) with the start bit clear; a step without an encoding has none. -/
def encode : Instr → Option Nat
  | .nop  => some (word 0x00000000 [])
  | .stall n => some (word 0x00200000 [(n.toNat, 0)])
  | .brScalar nz a o => some (word 0x00400000 [(nz.toNat, 19), (a.val, 14), (o.toNat, 0)])
  | .brPredicate neg p o => some (word 0x00500000 [(neg.toNat, 19), (p.val, 14), (o.toNat, 0)])
  | .j o => some (word 0x00600000 [(o.toNat, 0)])
  | .jr a => some (word 0x00800000 [(a.val, 16)])
  | .call o => some (word 0x00a00000 [(o.toNat, 0)])
  | .callr a => some (word 0x00c00000 [(a.val, 16)])
  | .ret  => some (word 0x00e00000 [])
  | .loop l c e => some (word 0x01000000 [(l.val, 20), (c.toNat, 10), (e.toNat, 0)])
  | .loops l a e => some (word 0x01200000 [(l.val, 20), (a.val, 15), (e.toNat, 0)])
  | .lbrk l => some (word 0x01400000 [(l.val, 20)])
  | .tend  => some (word 0x01600000 [])
  | .tyield  => some (word 0x01800000 [])
  | .trap c => some (word 0x01a00000 [(c.toNat, 0)])
  | .tret  => some (word 0x01c00000 [])
  | .wtall a => some (word 0x01e00000 [(a.val, 16)])
  | .wtany a => some (word 0x02000000 [(a.val, 16)])
  | .tffr d a => some (word 0x02200000 [(d.val, 16), (a.val, 11)])
  | .tclr a => some (word 0x02400000 [(a.val, 16)])
  | .cbar a b => some (word 0x02600000 [(a.val, 16), (b.val, 12)])
  | .fence os => some (word 0x02800000 [(os.code, 16)])
  | .mfc d c => some (word 0x02a00000 [(d.val, 16), (c.toNat, 4)])
  | .mtc a c => some (word 0x02c00000 [(a.val, 16), (c.toNat, 4)])
  | .qpop d => some (word 0x02e00000 [(d.val, 16)])
  | .sync  => some (word 0x03000000 [])
  | .add y d a b => some (word 0x00000000 [(y.code, 28), (d.val, 16), (a.val, 11), (b.val, 6)])
  | .sub y d a b => some (word 0x00200000 [(y.code, 28), (d.val, 16), (a.val, 11), (b.val, 6)])
  | .addi y d a i => some (word 0x00400000 [(y.code, 28), (d.val, 16), (a.val, 11), (i.toNat, 0)])
  | .movi y d i => some (word 0x00600000 [(y.code, 28), (d.val, 16), (i.toNat, 0)])
  | .movhi y d i => some (word 0x00800000 [(y.code, 28), (d.val, 16), (i.toNat, 0)])
  | .mul y d a b => some (word 0x00a00000 [(y.code, 28), (d.val, 16), (a.val, 11), (b.val, 6)])
  | .mulhi y d a b => some (word 0x00c00000 [(y.code, 28), (d.val, 16), (a.val, 11), (b.val, 6)])
  | .mulhn y d a b => some (word 0x00e00000 [(y.code, 28), (d.val, 16), (a.val, 11), (b.val, 6)])
  | .div y d a b => some (word 0x01000000 [(y.code, 28), (d.val, 16), (a.val, 11), (b.val, 6)])
  | .divn y d a b => some (word 0x01200000 [(y.code, 28), (d.val, 16), (a.val, 11), (b.val, 6)])
  | .rem y d a b => some (word 0x01400000 [(y.code, 28), (d.val, 16), (a.val, 11), (b.val, 6)])
  | .remn y d a b => some (word 0x01600000 [(y.code, 28), (d.val, 16), (a.val, 11), (b.val, 6)])
  | .and y d a b => some (word 0x01800000 [(y.code, 28), (d.val, 16), (a.val, 11), (b.val, 6)])
  | .or y d a b => some (word 0x01a00000 [(y.code, 28), (d.val, 16), (a.val, 11), (b.val, 6)])
  | .xor y d a b => some (word 0x01c00000 [(y.code, 28), (d.val, 16), (a.val, 11), (b.val, 6)])
  | .andn y d a b => some (word 0x01e00000 [(y.code, 28), (d.val, 16), (a.val, 11), (b.val, 6)])
  | .andi y d a i => some (word 0x02000000 [(y.code, 28), (d.val, 16), (a.val, 11), (i.toNat, 0)])
  | .ori y d a i => some (word 0x02200000 [(y.code, 28), (d.val, 16), (a.val, 11), (i.toNat, 0)])
  | .xori y d a i => some (word 0x02400000 [(y.code, 28), (d.val, 16), (a.val, 11), (i.toNat, 0)])
  | .shl y d a b => some (word 0x02600000 [(y.code, 28), (d.val, 16), (a.val, 11), (b.val, 6)])
  | .shrl y d a b => some (word 0x02800000 [(y.code, 28), (d.val, 16), (a.val, 11), (b.val, 6)])
  | .shra y d a b => some (word 0x02a00000 [(y.code, 28), (d.val, 16), (a.val, 11), (b.val, 6)])
  | .shli y d a h => some (word 0x02c00000 [(y.code, 28), (d.val, 16), (a.val, 11), (h.val, 0)])
  | .shrli y d a h => some (word 0x02e00000 [(y.code, 28), (d.val, 16), (a.val, 11), (h.val, 0)])
  | .shrai y d a h => some (word 0x03000000 [(y.code, 28), (d.val, 16), (a.val, 11), (h.val, 0)])
  | .clz y d a => some (word 0x03200000 [(y.code, 28), (d.val, 16), (a.val, 11)])
  | .ctz y d a => some (word 0x03400000 [(y.code, 28), (d.val, 16), (a.val, 11)])
  | .popc y d a => some (word 0x03600000 [(y.code, 28), (d.val, 16), (a.val, 11)])
  | .min y d a b => some (word 0x03800000 [(y.code, 28), (d.val, 16), (a.val, 11), (b.val, 6)])
  | .max y d a b => some (word 0x03a00000 [(y.code, 28), (d.val, 16), (a.val, 11), (b.val, 6)])
  | .minn y d a b => some (word 0x03c00000 [(y.code, 28), (d.val, 16), (a.val, 11), (b.val, 6)])
  | .maxn y d a b => some (word 0x03e00000 [(y.code, 28), (d.val, 16), (a.val, 11), (b.val, 6)])
  | .sel y d a b p => some (word 0x04000000 [(y.code, 28), (d.val, 16), (a.val, 11), (b.val, 6), (p.val, 3)])
  | .cmp y d a b c => some (word 0x04200000 [(y.code, 28), (d.val, 16), (a.val, 11), (b.val, 6), (c.code, 3)])
  | .cmpi y d a c i => some (word 0x04400000 [(y.code, 28), (d.val, 16), (a.val, 11), (c.code, 8), (i.toNat, 0)])
  | .plog y d a b f => some (word 0x04600000 [(y.code, 28), (d.val, 18), (a.val, 15), (b.val, 12), (f.toNat, 8)])
  | .pmov y dir x p => some (word 0x04800000 [(y.code, 28), (dir.toNat, 20), (x.val, 15), (p.val, 12)])
  | .addsc y d a b h => some (word 0x04a00000 [(y.code, 28), (d.val, 16), (a.val, 11), (b.val, 6), (h.val, 3)])
  | .ext y d a p l => some (word 0x04c00000 [(y.code, 28), (d.val, 16), (a.val, 11), (p.val, 5), (l.val, 0)])
  | .fadd y d a b f => some (word 0x04e00000 [(y.code, 28), (d.val, 16), (a.val, 11), (b.val, 6), (f.code, 5)])
  | .fsub y d a b f => some (word 0x05000000 [(y.code, 28), (d.val, 16), (a.val, 11), (b.val, 6), (f.code, 5)])
  | .fmul y d a b f => some (word 0x05200000 [(y.code, 28), (d.val, 16), (a.val, 11), (b.val, 6), (f.code, 5)])
  | .ffma y d a b c f => some (word 0x05400000 [(y.code, 28), (d.val, 16), (a.val, 11), (b.val, 6), (c.val, 1), (f.code, 0)])
  | .fcmp y d a b c f => some (word 0x05600000 [(y.code, 28), (d.val, 16), (a.val, 11), (b.val, 6), (c.code, 3), (f.code, 2)])
  | .fcvt y d a t f => some (word 0x05800000 [(y.code, 28), (d.val, 16), (a.val, 11), (t.code, 7), (f.code, 3)])
  | .fmnx y d a b f m => some (word 0x05a00000 [(y.code, 28), (d.val, 16), (a.val, 11), (b.val, 6), (f.code, 5), (m.toNat, 4)])
  | .lds d a w o => some (word 0x30000000 [(d.val, 16), (a.val, 11), (w.code, 8), (o.toNat, 0)])
  | .sts b a w o => some (word 0x30200000 [(b.val, 16), (a.val, 11), (w.code, 8), (o.toNat, 0)])
  | .ldv d a p o => some (word 0x30400000 [(d.val, 16), (a.val, 11), (p.val, 8), (o.toNat, 0)])
  | .stv b a p o => some (word 0x30600000 [(b.val, 16), (a.val, 11), (p.val, 8), (o.toNat, 0)])
  | .ldvb d a s o => some (word 0x30800000 [(d.val, 16), (a.val, 11), (s.code, 8), (o.toNat, 0)])
  | .ldvx d a b p s => some (word 0x30a00000 [(d.val, 16), (a.val, 11), (b.val, 6), (p.val, 3), (s.code, 1)])
  | .stvx c a b p s => some (word 0x30c00000 [(c.val, 16), (a.val, 11), (b.val, 6), (p.val, 3), (s.code, 1)])
  | .ldpm d a o => some (word 0x30e00000 [(d.val, 18), (a.val, 11), (o.toNat, 0)])
  | .stpm b a o => some (word 0x31000000 [(b.val, 18), (a.val, 11), (o.toNat, 0)])
  | .ldg d a w os => some (word 0x31200000 [(d.val, 16), (a.val, 11), (w.code, 8), (os.code, 3)])
  | .stg b a w os => some (word 0x31400000 [(b.val, 16), (a.val, 11), (w.code, 8), (os.code, 3)])
  | .atg d a p w os => some (word 0x31600000 [(d.val, 16), (a.val, 11), (p.code, 7), (w.toNat, 6), (os.code, 1)])
  | .casg d a b w os => some (word 0x31800000 [(d.val, 16), (a.val, 11), (b.val, 6), (w.toNat, 5), (os.code, 0)])
  | .ats d a p w os => some (word 0x31a00000 [(d.val, 16), (a.val, 11), (p.code, 7), (w.toNat, 6), (os.code, 1)])
  | .cass d a b w os => some (word 0x31c00000 [(d.val, 16), (a.val, 11), (b.val, 6), (w.toNat, 5), (os.code, 0)])
  | .vadd d a b p t => some (word 0x40000000 [(d.val, 16), (a.val, 11), (b.val, 6), (p.val, 3), (t.code, 0)])
  | .vsub d a b p t => some (word 0x40200000 [(d.val, 16), (a.val, 11), (b.val, 6), (p.val, 3), (t.code, 0)])
  | .vmul d a b p t => some (word 0x40400000 [(d.val, 16), (a.val, 11), (b.val, 6), (p.val, 3), (t.code, 0)])
  | .vmulhi d a b p t => some (word 0x40600000 [(d.val, 16), (a.val, 11), (b.val, 6), (p.val, 3), (t.code, 0)])
  | .vmad d a b p t => some (word 0x40800000 [(d.val, 16), (a.val, 11), (b.val, 6), (p.val, 3), (t.code, 0)])
  | .vand d a b p t => some (word 0x40a00000 [(d.val, 16), (a.val, 11), (b.val, 6), (p.val, 3), (t.code, 0)])
  | .vor d a b p t => some (word 0x40c00000 [(d.val, 16), (a.val, 11), (b.val, 6), (p.val, 3), (t.code, 0)])
  | .vxor d a b p t => some (word 0x40e00000 [(d.val, 16), (a.val, 11), (b.val, 6), (p.val, 3), (t.code, 0)])
  | .vshl d a b p t => some (word 0x41000000 [(d.val, 16), (a.val, 11), (b.val, 6), (p.val, 3), (t.code, 0)])
  | .vshrl d a b p t => some (word 0x41200000 [(d.val, 16), (a.val, 11), (b.val, 6), (p.val, 3), (t.code, 0)])
  | .vshra d a b p t => some (word 0x41400000 [(d.val, 16), (a.val, 11), (b.val, 6), (p.val, 3), (t.code, 0)])
  | .vmin d a b p t => some (word 0x41600000 [(d.val, 16), (a.val, 11), (b.val, 6), (p.val, 3), (t.code, 0)])
  | .vmax d a b p t => some (word 0x41800000 [(d.val, 16), (a.val, 11), (b.val, 6), (p.val, 3), (t.code, 0)])
  | .vabs d a p t => some (word 0x41a00000 [(d.val, 16), (a.val, 11), (p.val, 3), (t.code, 0)])
  | .vneg d a p t => some (word 0x41c00000 [(d.val, 16), (a.val, 11), (p.val, 3), (t.code, 0)])
  | .vsel d a b p t => some (word 0x41e00000 [(d.val, 16), (a.val, 11), (b.val, 6), (p.val, 3), (t.code, 0)])
  | .vcmp d c a b t => some (word 0x42000000 [(d.val, 18), (c.code, 15), (a.val, 10), (b.val, 5), (t.code, 2)])
  | .vfadd d a b p t => some (word 0x42200000 [(d.val, 16), (a.val, 11), (b.val, 6), (p.val, 3), (t.code, 0)])
  | .vfsub d a b p t => some (word 0x42400000 [(d.val, 16), (a.val, 11), (b.val, 6), (p.val, 3), (t.code, 0)])
  | .vfmul d a b p t => some (word 0x42600000 [(d.val, 16), (a.val, 11), (b.val, 6), (p.val, 3), (t.code, 0)])
  | .vffma d a b p t => some (word 0x42800000 [(d.val, 16), (a.val, 11), (b.val, 6), (p.val, 3), (t.code, 0)])
  | .vfdiv d a b p t => some (word 0x42a00000 [(d.val, 16), (a.val, 11), (b.val, 6), (p.val, 3), (t.code, 0)])
  | .vfsqrt d a p t => some (word 0x42c00000 [(d.val, 16), (a.val, 11), (p.val, 3), (t.code, 0)])
  | .vfrcp d a p t => some (word 0x42e00000 [(d.val, 16), (a.val, 11), (p.val, 3), (t.code, 0)])
  | .vfrsq d a p t => some (word 0x43000000 [(d.val, 16), (a.val, 11), (p.val, 3), (t.code, 0)])
  | .vfexp2 d a p t => some (word 0x43200000 [(d.val, 16), (a.val, 11), (p.val, 3), (t.code, 0)])
  | .vflog2 d a p t => some (word 0x43400000 [(d.val, 16), (a.val, 11), (p.val, 3), (t.code, 0)])
  | .vfmin d a b p t => some (word 0x43600000 [(d.val, 16), (a.val, 11), (b.val, 6), (p.val, 3), (t.code, 0)])
  | .vfmax d a b p t => some (word 0x43800000 [(d.val, 16), (a.val, 11), (b.val, 6), (p.val, 3), (t.code, 0)])
  | .vfcmp d c a b t => some (word 0x43a00000 [(d.val, 18), (c.code, 15), (a.val, 10), (b.val, 5), (t.code, 2)])
  | .vcvt d a t f p => some (word 0x43c00000 [(d.val, 16), (a.val, 11), (t.code, 7), (f.code, 3), (p.val, 0)])
  | .vqnt d a t f p => some (word 0x43e00000 [(d.val, 16), (a.val, 11), (t.code, 7), (f.code, 3), (p.val, 0)])
  | .vdqnt d a t f p => some (word 0x44000000 [(d.val, 16), (a.val, 11), (t.code, 7), (f.code, 3), (p.val, 0)])
  | .vred d a r p t => some (word 0x44200000 [(d.val, 16), (a.val, 11), (r.code, 8), (p.val, 5), (t.fl, 4), (t.code, 1)])
  | .vscan d a r p t e => some (word 0x44400000 [(d.val, 16), (a.val, 11), (r.code, 8), (p.val, 5), (t.fl, 4), (t.code, 1), (e.toNat, 0)])
  | .vperm d a b p t => some (word 0x44600000 [(d.val, 16), (a.val, 11), (b.val, 6), (p.val, 3), (t.code, 0)])
  | .vbcst d a p t => some (word 0x44800000 [(d.val, 16), (a.val, 11), (p.val, 3), (t.code, 0)])
  | .viota d a p t => some (word 0x44a00000 [(d.val, 16), (a.val, 11), (p.val, 3), (t.code, 0)])
  | .vcmpr d a p t => some (word 0x44c00000 [(d.val, 16), (a.val, 11), (p.val, 3), (t.code, 0)])
  | .vmovs d a b dir t => some (word 0x44e00000 [(d.val, 16), (a.val, 11), (b.val, 6), (dir.toNat, 5), (t.code, 0)])
  | .vdefer a b c p n => some (word 0x45000000 [(a.val, 16), (b.val, 11), (c.val, 6), (p.val, 3), (n.val, 1)])
  | .vdrain d c p l n => some (word 0x45200000 [(d.val, 16), (c.val, 11), (p.val, 8), (l.toNat, 7), (n.val, 5)])
  | .vtoq a b t => some (word 0x45400000 [(a.val, 11), (b.val, 6), (t.code, 0)])
  | .vsred d a b r t => some (word 0x45600000 [(d.val, 16), (a.val, 11), (b.val, 6), (r.code, 4), (t.fl, 3), (t.code, 0)])
  | .mldw w f a => some (word 0x50000000 [(w.val, 20), (f.toNat, 19), (a.val, 14)])
  | .mmul t a g b c => some (word 0x50200000 [(t.val, 19), (a.val, 14), (g.val, 12), (b.val, 9), (c.val, 4)])
  | .mzero t => some (word 0x50400000 [(t.val, 19)])
  | .mload t a => some (word 0x50600000 [(t.val, 19), (a.val, 14)])
  | .mdrain t a k p c => some (word 0x50800000 [(t.val, 19), (a.val, 14), (k.code, 10), (p.val, 7), (c.toNat, 6)])
  | .mtt t a b => some (word 0x50a00000 [(t.val, 19), (a.val, 17), (b.val, 15)])
  | .maddt t a b => some (word 0x50c00000 [(t.val, 19), (a.val, 17), (b.val, 15)])
  | .mscl t a s => some (word 0x50e00000 [(t.val, 19), (a.val, 17), (s.val, 12)])
  | .mtrn t a => some (word 0x51000000 [(t.val, 19), (a.val, 17)])
  | .mnorm d a => some (word 0x51200000 [(d.val, 16), (a.val, 14)])
  | .mpoly t a g => some (word 0x51400000 [(t.val, 19), (a.val, 17), (g.val, 14)])
  | .miter t a m => some (word 0x51600000 [(t.val, 19), (a.val, 17), (m.toNat, 16)])
  | .fmt f => some (word 0x60000000 [(f.toNat, 0)])
  | .fmts a => some (word 0x60200000 [(a.val, 16)])
  | .sla a => some (word 0x60400000 [(a.val, 16)])
  | .slb a => some (word 0x60600000 [(a.val, 16)])
  | .slq a => some (word 0x60800000 [(a.val, 16)])
  | .slz  => some (word 0x60a00000 [])
  | .xcp a x => some (word 0x70000000 [(a.val, 16), (x.code, 0)])
  | .xcph a b x => some (word 0x70200000 [(a.val, 16), (b.val, 11), (x.code, 0)])
  | .xmc a b x => some (word 0x70400000 [(a.val, 16), (b.val, 11), (x.code, 0)])
  | .xga a b x => some (word 0x70600000 [(a.val, 16), (b.val, 11), (x.code, 0)])
  | .xsc a b x => some (word 0x70800000 [(a.val, 16), (b.val, 11), (x.code, 0)])
  | .xwin a b drop => some (word 0x70a00000 [(a.val, 16), (b.val, 11), (drop.toNat, 9)])
  | .xwb a x => some (word 0x70c00000 [(a.val, 16), (x.code, 0)])
  | .xinv a x => some (word 0x70e00000 [(a.val, 16), (x.code, 0)])
  | .xgate a x => some (word 0x71000000 [(a.val, 16), (x.code, 0)])
  | .xcan a => some (word 0x71200000 [(a.val, 16)])
  | .qenq p a b => some (word 0x71400000 [(p.val, 18), (a.val, 13), (b.val, 8)])
  | .qdeq d a => some (word 0x71600000 [(d.val, 16), (a.val, 11)])
  | .tqpush p a b => some (word 0x71800000 [(p.val, 18), (a.val, 13), (b.val, 8)])
  | .launch a x => some (word 0x71a00000 [(a.val, 16), (x.code, 0)])
  | .gsmpl a b x => some (word 0x71c00000 [(a.val, 16), (b.val, 11), (x.code, 0)])
  | .gfork a b x => some (word 0x71e00000 [(a.val, 16), (b.val, 11), (x.code, 0)])
  | .gtrunc a b x => some (word 0x72000000 [(a.val, 16), (b.val, 11), (x.code, 0)])
  | .gcur a b => some (word 0x72200000 [(a.val, 11), (b.val, 6)])
  | .gins a b x => some (word 0x72400000 [(a.val, 16), (b.val, 11), (x.code, 0)])
  | .gsnap a x => some (word 0x72600000 [(a.val, 16), (x.code, 0)])
  | .wjw a x => some (word 0x72800000 [(a.val, 16), (x.code, 0)])
  | .wjc a x => some (word 0x72a00000 [(a.val, 16), (x.code, 0)])
  | .wja a x => some (word 0x72c00000 [(a.val, 16), (x.code, 0)])
  | .wjd a x => some (word 0x72e00000 [(a.val, 16), (x.code, 0)])
  | .wwear d a => some (word 0x73000000 [(d.val, 16), (a.val, 11)])
  | .xhash a x => some (word 0x73200000 [(a.val, 16), (x.code, 0)])
  | .xsign a x => some (word 0x73400000 [(a.val, 16), (x.code, 0)])
  | .xvfy a x => some (word 0x73600000 [(a.val, 16), (x.code, 0)])
  | .xhint a b => some (word 0x73800000 [(a.val, 11), (b.val, 6)])
  | .xpwr a => some (word 0x73a00000 [(a.val, 16)])
  | .xevt a c => some (word 0x73c00000 [(a.val, 16), (c.toNat, 8)])
  | .shadowWriteLands _ => none
  | .interlockedResultArrives _ _ => none
  | .vtoqPushLands _ => none
  | .correctableErrorFreeze _ => none
  | .freezeEnd _ => none
  | .instructionFetchFault _ => none
  | .heldAccessFault _ => none
  | .sideLogReplay _ _ => none
  | .gatherScatterElement _ => none
  | .vsredVectorRead _ => none
  | .mUnitCompletes _ _ => none
  | .miterPhaseEnd _ => none
  | .arrayPoisonDetected _ _ => none
  | .remoteAccessArrives _ _ => none
  | .waitConditionHolds _ => none
  | .parkBoundExpires _ => none
  | .parkedConditionHolds _ _ => none
  | .tendWaitEnds _ => none
  | .completionSignals _ => none
  | .sliceExpiry _ => none
  | .priorityPreemption _ => none
  | .preempted _ => none
  | .supqItemAppend _ => none
  | .schedulerBind _ => none
  | .copyBoxComplete _ _ _ => none
  | .engineFaultDelivery _ => none
  | .commandCompletes _ _ => none
  | .windowFillCompletes _ => none
  | .backgroundWriteback _ _ _ => none
  | .storeAcknowledged _ _ => none
  | .fenceMarkerAck _ _ => none
  | .qdeqItemDelivered _ _ => none
  | .queueStart _ _ => none
  | .registerWrite _ _ _ _ _ => none
  | .cqtailDoorbell _ _ => none
  | .cpheadWrite _ _ => none
  | .ringEnable _ _ => none
  | .pushRecord _ => none
  | .pushItem _ => none
  | .gorqueLaunchPacket _ _ _ _ _ => none
  | .partCreate  => none
  | .partDestroy  => none
  | .vfAssign  => none
  | .ctxAssign  => none
  | .vatFence  => none
  | .vatReadmit  => none
  | .deepOffEnter  => none
  | .deepOffLeave  => none
  | .distributorPushChunk _ => none
  | .chunkComplete _ _ => none
  | .governorPeriod _ _ _ _ => none
  | .darkDwellExpires _ => none
  | .clusterDark _ => none
  | .clusterWake _ => none
  | .powerLoss  => none
  | .coldBoot  => none
  | .imageDelivery _ => none
  | .partitionCoreResume _ => none
  | .wjaApply _ => none
  | .rollForwardRetry _ => none
  | .invalPage _ _ _ => none
  | .invalContext _ _ => none
  | .invalPartition _ => none
  | .slcmdReplay _ _ => none
  | .slcmdUnreplayable _ _ => none
  | .pcselWrite _ _ _ => none
  | .maskDeadlineExpires _ _ => none
  | .getVersion _ _ => none
  | .getCapabilities _ _ => none
  | .negotiateAlgorithms _ _ => none
  | .getCertificate _ _ _ _ _ => none
  | .challenge _ _ _ => none
  | .getMeasurements _ _ _ _ _ => none
  | .keyExchange _ _ => none
  | .finish _ _ _ _ => none
  | .endSession _ => none
  | .compCreate _ => none
  | .compClaim _ _ => none
  | .keyLoad _ _ _ _ _ _ => none
  | .keyRetire _ _ => none
  | .keySlotDrained _ => none
  | .codeSeal _ _ _ _ => none
  | .grantSet _ _ _ _ => none
  | .gateSet _ _ _ _ _ _ _ _ => none
  | .lockInterfaceRequest _ _ => none
  | .startInterfaceRequest _ _ _ => none
  | .stopInterfaceRequest _ _ => none
  | .getDeviceInterfaceReport _ _ => none
  | .getDeviceInterfaceState _ _ => none
  | .ideFailure _ => none
  | .hotReset _ => none
  | .linkDown _ => none
  | .uncorrectableError _ => none
  | .heartbeatCheck _ => none
  | .rowRefreshManagement _ _ _ => none
  | .hbmTemperatureChange _ _ => none
  | .activationWindow _ => none
  | .rhcfgWrite _ _ => none
  | .receiptRequest _ => none
  | .repairRecord _ => none
  | .storeRetiresIntoSideLog _ => none
  | .gorquePortLinkFailure _ => none
  | .spdmUnsupportedRequest _ _ => none
  | .registerRead _ _ _ => none
  | .invalidationCompletes _ => none

/-- The slot of an instruction (R67); a step without an encoding has none. -/
def Instr.slot : Instr → Option Nat
  | .nop => some 0
  | .stall _ => some 0
  | .brScalar _ _ _ => some 0
  | .brPredicate _ _ _ => some 0
  | .j _ => some 0
  | .jr _ => some 0
  | .call _ => some 0
  | .callr _ => some 0
  | .ret => some 0
  | .loop _ _ _ => some 0
  | .loops _ _ _ => some 0
  | .lbrk _ => some 0
  | .tend => some 0
  | .tyield => some 0
  | .trap _ => some 0
  | .tret => some 0
  | .wtall _ => some 0
  | .wtany _ => some 0
  | .tffr _ _ => some 0
  | .tclr _ => some 0
  | .cbar _ _ => some 0
  | .fence _ => some 0
  | .mfc _ _ => some 0
  | .mtc _ _ => some 0
  | .qpop _ => some 0
  | .sync => some 0
  | .add y _ _ _ => some y.code
  | .sub y _ _ _ => some y.code
  | .addi y _ _ _ => some y.code
  | .movi y _ _ => some y.code
  | .movhi y _ _ => some y.code
  | .mul y _ _ _ => some y.code
  | .mulhi y _ _ _ => some y.code
  | .mulhn y _ _ _ => some y.code
  | .div y _ _ _ => some y.code
  | .divn y _ _ _ => some y.code
  | .rem y _ _ _ => some y.code
  | .remn y _ _ _ => some y.code
  | .and y _ _ _ => some y.code
  | .or y _ _ _ => some y.code
  | .xor y _ _ _ => some y.code
  | .andn y _ _ _ => some y.code
  | .andi y _ _ _ => some y.code
  | .ori y _ _ _ => some y.code
  | .xori y _ _ _ => some y.code
  | .shl y _ _ _ => some y.code
  | .shrl y _ _ _ => some y.code
  | .shra y _ _ _ => some y.code
  | .shli y _ _ _ => some y.code
  | .shrli y _ _ _ => some y.code
  | .shrai y _ _ _ => some y.code
  | .clz y _ _ => some y.code
  | .ctz y _ _ => some y.code
  | .popc y _ _ => some y.code
  | .min y _ _ _ => some y.code
  | .max y _ _ _ => some y.code
  | .minn y _ _ _ => some y.code
  | .maxn y _ _ _ => some y.code
  | .sel y _ _ _ _ => some y.code
  | .cmp y _ _ _ _ => some y.code
  | .cmpi y _ _ _ _ => some y.code
  | .plog y _ _ _ _ => some y.code
  | .pmov y _ _ _ => some y.code
  | .addsc y _ _ _ _ => some y.code
  | .ext y _ _ _ _ => some y.code
  | .fadd y _ _ _ _ => some y.code
  | .fsub y _ _ _ _ => some y.code
  | .fmul y _ _ _ _ => some y.code
  | .ffma y _ _ _ _ _ => some y.code
  | .fcmp y _ _ _ _ _ => some y.code
  | .fcvt y _ _ _ _ => some y.code
  | .fmnx y _ _ _ _ _ => some y.code
  | .lds _ _ _ _ => some 3
  | .sts _ _ _ _ => some 3
  | .ldv _ _ _ _ => some 3
  | .stv _ _ _ _ => some 3
  | .ldvb _ _ _ _ => some 3
  | .ldvx _ _ _ _ _ => some 3
  | .stvx _ _ _ _ _ => some 3
  | .ldpm _ _ _ => some 3
  | .stpm _ _ _ => some 3
  | .ldg _ _ _ _ => some 3
  | .stg _ _ _ _ => some 3
  | .atg _ _ _ _ _ => some 3
  | .casg _ _ _ _ _ => some 3
  | .ats _ _ _ _ _ => some 3
  | .cass _ _ _ _ _ => some 3
  | .vadd _ _ _ _ _ => some 4
  | .vsub _ _ _ _ _ => some 4
  | .vmul _ _ _ _ _ => some 4
  | .vmulhi _ _ _ _ _ => some 4
  | .vmad _ _ _ _ _ => some 4
  | .vand _ _ _ _ _ => some 4
  | .vor _ _ _ _ _ => some 4
  | .vxor _ _ _ _ _ => some 4
  | .vshl _ _ _ _ _ => some 4
  | .vshrl _ _ _ _ _ => some 4
  | .vshra _ _ _ _ _ => some 4
  | .vmin _ _ _ _ _ => some 4
  | .vmax _ _ _ _ _ => some 4
  | .vabs _ _ _ _ => some 4
  | .vneg _ _ _ _ => some 4
  | .vsel _ _ _ _ _ => some 4
  | .vcmp _ _ _ _ _ => some 4
  | .vfadd _ _ _ _ _ => some 4
  | .vfsub _ _ _ _ _ => some 4
  | .vfmul _ _ _ _ _ => some 4
  | .vffma _ _ _ _ _ => some 4
  | .vfdiv _ _ _ _ _ => some 4
  | .vfsqrt _ _ _ _ => some 4
  | .vfrcp _ _ _ _ => some 4
  | .vfrsq _ _ _ _ => some 4
  | .vfexp2 _ _ _ _ => some 4
  | .vflog2 _ _ _ _ => some 4
  | .vfmin _ _ _ _ _ => some 4
  | .vfmax _ _ _ _ _ => some 4
  | .vfcmp _ _ _ _ _ => some 4
  | .vcvt _ _ _ _ _ => some 4
  | .vqnt _ _ _ _ _ => some 4
  | .vdqnt _ _ _ _ _ => some 4
  | .vred _ _ _ _ _ => some 4
  | .vscan _ _ _ _ _ _ => some 4
  | .vperm _ _ _ _ _ => some 4
  | .vbcst _ _ _ _ => some 4
  | .viota _ _ _ _ => some 4
  | .vcmpr _ _ _ _ => some 4
  | .vmovs _ _ _ _ _ => some 4
  | .vdefer _ _ _ _ _ => some 4
  | .vdrain _ _ _ _ _ => some 4
  | .vtoq _ _ _ => some 4
  | .vsred _ _ _ _ _ => some 4
  | .mldw _ _ _ => some 5
  | .mmul _ _ _ _ _ => some 5
  | .mzero _ => some 5
  | .mload _ _ => some 5
  | .mdrain _ _ _ _ _ => some 5
  | .mtt _ _ _ => some 5
  | .maddt _ _ _ => some 5
  | .mscl _ _ _ => some 5
  | .mtrn _ _ => some 5
  | .mnorm _ _ => some 5
  | .mpoly _ _ _ => some 5
  | .miter _ _ _ => some 5
  | .fmt _ => some 6
  | .fmts _ => some 6
  | .sla _ => some 6
  | .slb _ => some 6
  | .slq _ => some 6
  | .slz => some 6
  | .xcp _ _ => some 7
  | .xcph _ _ _ => some 7
  | .xmc _ _ _ => some 7
  | .xga _ _ _ => some 7
  | .xsc _ _ _ => some 7
  | .xwin _ _ _ => some 7
  | .xwb _ _ => some 7
  | .xinv _ _ => some 7
  | .xgate _ _ => some 7
  | .xcan _ => some 7
  | .qenq _ _ _ => some 7
  | .qdeq _ _ => some 7
  | .tqpush _ _ _ => some 7
  | .launch _ _ => some 7
  | .gsmpl _ _ _ => some 7
  | .gfork _ _ _ => some 7
  | .gtrunc _ _ _ => some 7
  | .gcur _ _ => some 7
  | .gins _ _ _ => some 7
  | .gsnap _ _ => some 7
  | .wjw _ _ => some 7
  | .wjc _ _ => some 7
  | .wja _ _ => some 7
  | .wjd _ _ => some 7
  | .wwear _ _ => some 7
  | .xhash _ _ => some 7
  | .xsign _ _ => some 7
  | .xvfy _ _ => some 7
  | .xhint _ _ => some 7
  | .xpwr _ => some 7
  | .xevt _ _ => some 7
  | .shadowWriteLands _ => none
  | .interlockedResultArrives _ _ => none
  | .vtoqPushLands _ => none
  | .correctableErrorFreeze _ => none
  | .freezeEnd _ => none
  | .instructionFetchFault _ => none
  | .heldAccessFault _ => none
  | .sideLogReplay _ _ => none
  | .gatherScatterElement _ => none
  | .vsredVectorRead _ => none
  | .mUnitCompletes _ _ => none
  | .miterPhaseEnd _ => none
  | .arrayPoisonDetected _ _ => none
  | .remoteAccessArrives _ _ => none
  | .waitConditionHolds _ => none
  | .parkBoundExpires _ => none
  | .parkedConditionHolds _ _ => none
  | .tendWaitEnds _ => none
  | .completionSignals _ => none
  | .sliceExpiry _ => none
  | .priorityPreemption _ => none
  | .preempted _ => none
  | .supqItemAppend _ => none
  | .schedulerBind _ => none
  | .copyBoxComplete _ _ _ => none
  | .engineFaultDelivery _ => none
  | .commandCompletes _ _ => none
  | .windowFillCompletes _ => none
  | .backgroundWriteback _ _ _ => none
  | .storeAcknowledged _ _ => none
  | .fenceMarkerAck _ _ => none
  | .qdeqItemDelivered _ _ => none
  | .queueStart _ _ => none
  | .registerWrite _ _ _ _ _ => none
  | .cqtailDoorbell _ _ => none
  | .cpheadWrite _ _ => none
  | .ringEnable _ _ => none
  | .pushRecord _ => none
  | .pushItem _ => none
  | .gorqueLaunchPacket _ _ _ _ _ => none
  | .partCreate => none
  | .partDestroy => none
  | .vfAssign => none
  | .ctxAssign => none
  | .vatFence => none
  | .vatReadmit => none
  | .deepOffEnter => none
  | .deepOffLeave => none
  | .distributorPushChunk _ => none
  | .chunkComplete _ _ => none
  | .governorPeriod _ _ _ _ => none
  | .darkDwellExpires _ => none
  | .clusterDark _ => none
  | .clusterWake _ => none
  | .powerLoss => none
  | .coldBoot => none
  | .imageDelivery _ => none
  | .partitionCoreResume _ => none
  | .wjaApply _ => none
  | .rollForwardRetry _ => none
  | .invalPage _ _ _ => none
  | .invalContext _ _ => none
  | .invalPartition _ => none
  | .slcmdReplay _ _ => none
  | .slcmdUnreplayable _ _ => none
  | .pcselWrite _ _ _ => none
  | .maskDeadlineExpires _ _ => none
  | .getVersion _ _ => none
  | .getCapabilities _ _ => none
  | .negotiateAlgorithms _ _ => none
  | .getCertificate _ _ _ _ _ => none
  | .challenge _ _ _ => none
  | .getMeasurements _ _ _ _ _ => none
  | .keyExchange _ _ => none
  | .finish _ _ _ _ => none
  | .endSession _ => none
  | .compCreate _ => none
  | .compClaim _ _ => none
  | .keyLoad _ _ _ _ _ _ => none
  | .keyRetire _ _ => none
  | .keySlotDrained _ => none
  | .codeSeal _ _ _ _ => none
  | .grantSet _ _ _ _ => none
  | .gateSet _ _ _ _ _ _ _ _ => none
  | .lockInterfaceRequest _ _ => none
  | .startInterfaceRequest _ _ _ => none
  | .stopInterfaceRequest _ _ => none
  | .getDeviceInterfaceReport _ _ => none
  | .getDeviceInterfaceState _ _ => none
  | .ideFailure _ => none
  | .hotReset _ => none
  | .linkDown _ => none
  | .uncorrectableError _ => none
  | .heartbeatCheck _ => none
  | .rowRefreshManagement _ _ _ => none
  | .hbmTemperatureChange _ _ => none
  | .activationWindow _ => none
  | .rhcfgWrite _ _ => none
  | .receiptRequest _ => none
  | .repairRecord _ => none
  | .storeRetiresIntoSideLog _ => none
  | .gorquePortLinkFailure _ => none
  | .spdmUnsupportedRequest _ _ => none
  | .registerRead _ _ _ => none
  | .invalidationCompletes _ => none

/-- A word with its start bit (R67). -/
def withStart (w : Nat) : Nat := w % 2 ^ 31 + 2 ^ 31

/-- The first bytes of an instruction in memory, as a word (R5, R66). -/
def wordOfBytes : List (BitVec 8) → Nat
  | [] => 0
  | b :: bs => b.toNat + 256 * wordOfBytes bs

/-- The four bytes of a word in address order (R5). -/
def bytesOfWord (w : Nat) : List (BitVec 8) :=
  [BitVec.ofNat 8 w, BitVec.ofNat 8 (w / 256), BitVec.ofNat 8 (w / 65536), BitVec.ofNat 8 (w / 16777216)]

/-- Decodes the four bytes at the start of a list and returns the rest (R66). -/
def decodeBytes : List (BitVec 8) → Except DecodeError (Instr × List (BitVec 8))
  | b0 :: b1 :: b2 :: b3 :: rest => (decodeWord (wordOfBytes [b0, b1, b2, b3])).map (·, rest)
  | _ => .error .unassigned

/-- The instruction the decoder reads from a row's bits, laid out in memory byte by byte and padded with zero bits
to one word; bits above the word are not part of any instruction. -/
def decodeTableWord (nbits w : Nat) : Option Instr :=
  match decodeBytes (bytesOfWord (w % 2 ^ nbits)) with
  | .ok (i, _) => some i
  | .error _ => none

end Sys2Proof
end

