-- ==== Sys2Proof/Config.lean ====
section
/-! DEFINITION. What the manual leaves open: opaque constants, so that no proof can see a value of one.
Each is named in the assumption log. -/

namespace Sys2Proof.Config

/-- Ticks that pass before the n-th observation of the timebase (R17, R65, R297). -/
opaque elapsedTicks : Nat → Nat

/-- What a 64-byte line written under one key tag reads as under another (R344). -/
opaque foreignLine : Nat → Nat → Nat → BitVec 512

/-- Half of the even .sq4 code chosen for an element whose block has an effective scale that rounds to 0 (R153). -/
opaque tiedCode : Nat → Nat

/-- Whether a cached translation is still kept when the n-th step looks it up (R322). -/
opaque keepsTranslation : Nat → Bool

/-- The key that the n-th CODE_SEAL generates (R346). -/
opaque freshKey : Nat → BitVec 256

/-- The n-th nonce of the Umpire (R424). -/
opaque nonce : Nat → BitVec 256

/-- The private scalar of the device signing key kid, for the kids that hold one (R212, R424). -/
opaque deviceKey : Nat → Nat

/-- Which attempt of a unit write passes its verify: attempt level of the n-th write, true if it passes (R381, R383). -/
opaque verifyPasses : Nat → Nat → Bool

/-- Bytes of the certificate chain in slot 0 (R424). -/
opaque certChain : Nat → BitVec 8

/-- Bytes of the certificate chain in slot 0 behind its first (R424). -/
opaque certLen : Nat

/-- The wire bytes of an SPDM reply, whose encoding the SPDM standard fixes and this manual does not (R423). -/
opaque spdmReplyBytes : Nat → List (BitVec 8)

/-- Issue cycles a blocked QPOP was held for, in cluster-clock cycles (R109, R65). -/
opaque heldCycles : Nat → Nat

/-- Opaque matrix-latch contents for a held array or loader instruction (R186: meaningful only to the array). -/
opaque latchOpaque : Nat → Nat

/-- A register that the spec leaves open at one event: trapinfo of a cause whose contents no rule states (R105, R107, R189). -/
opaque openWord : Nat → BitVec 64

/-- What a 64-bit place of a task holds after the n-th restore whose prog, latches or held records a supervisor had changed; R312 calls
its results undefined. -/
opaque undefinedResult : Nat → Nat → BitVec 64

/-- How many lines of an access the cluster store did not serve (R324). -/
opaque missedLines : Nat → Nat

/-- Whether a unit whose n-th attempt failed its verify is left uncorrectable (R381, R385). -/
opaque tornUnit : Nat → Bool

/-- Whether an attempt at a mirrored copy of a remap entry passes its verify: attempts 0 to 4 are of the first copy, 5 to 9 of the
second, and those of a second entry written with the first follow from 10 on (R382). -/
opaque entryPasses : Nat → Nat → Bool

/-- Attempts that the n-th write of the wear counters to their mirrored copies makes (R383). -/
opaque counterAttempts : Nat → Nat

/-- A digest of tables whose byte form no rule states (R422). -/
opaque tableDigest : Nat → BitVec 384

/-- The 96 signature bytes of the n-th record that the Umpire writes for a repair (R398, R426). -/
opaque recordSign : Nat → BitVec 768

/-- The DARK dwell in ticks that the governor sets for a cluster, before it is brought within its limits (R390). -/
opaque darkDwell : Nat → Nat → Nat

/-- The receipt queue that a partition's layout record names (R425). -/
opaque receiptQueue : Nat → Nat

/-- Whether a cluster store holds a copy of the line of the n-th store when its home orders the store (R249). -/
opaque holdsCopy : Nat → Nat → Bool

/-- Which stale copy the home invalidates next (R249). -/
opaque pickCopy : Nat → Nat

/-- Frame of 64 KiB of physical memory in which a partition's queue table page begins: no rule gives the address (R276). -/
opaque queueFrame : Nat → Nat

/-- Frame of 64 KiB of physical memory in which a partition's context table page begins: no rule gives the address (R306). -/
opaque contextFrame : Nat → Nat

/-- Which of the cores that issue takes the n-th turn (R26: the cores issue side by side). -/
opaque pickCore : Nat → Nat

/-- Which of the things that may happen next does happen at the n-th step: 0 for the bundle of the core, else an internal event
(R26, R249, R282). -/
opaque pickEvent : Nat → Nat

end Sys2Proof.Config
end

