-- ==== Sys2Proof/Machine/Num.lean ====
section
/-! DEFINITION. Number formats and exact arithmetic (R37 to R63): decoding a format to an exact value, exact sums,
products, quotients and roots, one rounding into a format, saturation, and the order of trees and scans. -/

namespace Sys2Proof.Machine

/-- An exact value, or a NaN or infinity (R40). `fin neg m e st` is plus or minus (m + d) * 2^e, where d is 0, or, when
`st` is set, some amount strictly between 0 and 1 that no rounding can tell apart (R47). -/
inductive Ext where
  | nan (signalling : Bool)
  | inf (neg : Bool)
  | fin (neg : Bool) (m : Nat) (e : Int) (st : Bool)
  deriving DecidableEq, Repr

/-- Which special values a format has (R40). -/
inductive Special where
  | ieee
  | nanOnly
  | none
  deriving DecidableEq, Repr

/-- A binary floating-point format: width, fraction bits, bias and special values (R40). -/
structure Fmt where
  width : Nat
  frac : Nat
  bias : Nat
  special : Special
  deriving DecidableEq, Repr

/-- FP64 (R40). -/
def fp64 : Fmt := ⟨64, 52, 1023, .ieee⟩
/-- FP32 (R40). -/
def fp32 : Fmt := ⟨32, 23, 127, .ieee⟩
/-- BF16 (R40). -/
def bf16 : Fmt := ⟨16, 7, 127, .ieee⟩
/-- FP16 (R40). -/
def fp16 : Fmt := ⟨16, 10, 15, .ieee⟩
/-- E5M2 (R40). -/
def e5m2 : Fmt := ⟨8, 2, 15, .ieee⟩
/-- E4M3 (R40). -/
def e4m3 : Fmt := ⟨8, 3, 7, .nanOnly⟩
/-- E2M1 (R40). -/
def e2m1 : Fmt := ⟨4, 1, 1, .none⟩

/-- The rounding modes (R47). -/
inductive Rm where
  | rne | rtz | up | down
  deriving DecidableEq, Repr

/-- Rounding mode of `rm` (R37). -/
def Rm.ofCode : Nat → Rm
  | 0 => .rne | 1 => .rtz | 2 => .up | _ => .down

/-- Rounding and saturation of one operation (R48). -/
structure RndCtl where
  rm : Rm
  sat : Bool
  deriving DecidableEq, Repr

/-- RNE with saturation off: the matrix engine, the partition cores and the Umpire (R48). -/
def rneOff : RndCtl := ⟨.rne, false⟩

/-- Invalid operation. -/
def flagI : Flags := 16
/-- Division by zero. -/
def flagZ : Flags := 8
/-- Overflow. -/
def flagO : Flags := 4
/-- Underflow. -/
def flagU : Flags := 2
/-- Inexact. -/
def flagX : Flags := 1

/-- A flag if a condition holds. -/
def flagIf (c : Bool) (f : Flags) : Flags := if c then f else 0

/-- Exponent of one unit of the smallest subnormal of a format (R40). -/
def Fmt.qmin (f : Fmt) : Int := 1 - (f.bias : Int) - (f.frac : Int)

/-- The exponent field of the NaNs and infinities, or of the largest finite values (R40). -/
def Fmt.emax (f : Fmt) : Nat := 2 ^ (f.width - 1 - f.frac) - 1

/-- Magnitude bits of the largest finite value (R40). -/
def Fmt.maxFinite (f : Fmt) : Nat :=
  match f.special with
  | .ieee => f.emax * 2 ^ f.frac - 1
  | .nanOnly => 2 ^ (f.width - 1) - 2
  | .none => 2 ^ (f.width - 1) - 1

/-- The canonical NaN (R40, R41); a format without NaN delivers 0 (R50). -/
def Fmt.canonicalNaN (f : Fmt) : Nat :=
  match f.special with
  | .ieee => f.emax * 2 ^ f.frac + 2 ^ (f.frac - 1)
  | .nanOnly => 2 ^ (f.width - 1) - 1
  | .none => 0

/-- Puts the sign bit of a format on magnitude bits (R40). -/
def Fmt.signed (f : Fmt) (neg : Bool) (mag : Nat) : Nat := if neg then 2 ^ (f.width - 1) + mag else mag

/-- The value of the low bits of a pattern in a format (R40). -/
def Fmt.value (f : Fmt) (bits : Nat) : Ext :=
  let neg := decide (bits / 2 ^ (f.width - 1) % 2 = 1)
  let mag := bits % 2 ^ (f.width - 1)
  let ef := mag / 2 ^ f.frac
  let fr := mag % 2 ^ f.frac
  if f.special = .ieee ∧ ef = f.emax then
    if fr = 0 then .inf neg else .nan (decide (fr < 2 ^ (f.frac - 1)))
  else if f.special = .nanOnly ∧ mag = 2 ^ (f.width - 1) - 1 then .nan false
  else if ef = 0 then .fin neg fr f.qmin false
  else .fin neg (2 ^ f.frac + fr) (f.qmin + (ef : Int) - 1) false

/-- Number of bits of a natural number. -/
def bitLen (m : Nat) : Nat := if m = 0 then 0 else Nat.log2 m + 1

/-- Rounds (m + d) * 2^e to a whole number of units 2^q in a mode; answers the count and whether it was inexact (R47). -/
def roundUnits (rm : Rm) (neg : Bool) (m : Nat) (e : Int) (st : Bool) (q : Int) : Nat × Bool :=
  if q ≤ e then
    (m * 2 ^ (e - q).toNat + (if st && (match rm with | .up => !neg | .down => neg | _ => false) then 1 else 0), st)
  else
    let sh := (q - e).toNat
    let big := decide (bitLen m + 1 < sh)
    let n := if big then 0 else m / 2 ^ sh
    let r := if big then m else m % 2 ^ sh
    let inexact := st || decide (r ≠ 0)
    let half := if big then 2 * m + 2 else 2 ^ (sh - 1)
    let inc := match rm with
      | .rne => decide (half < r) || (decide (r = half) && (st || decide (n % 2 = 1)))
      | .rtz => false
      | .up => inexact && !neg
      | .down => inexact && neg
    (if inc then n + 1 else n, inexact)

/-- Overflow of a finite result to an infinity rather than to the largest finite value, by mode (R50). -/
def overflowsToInf (rm : Rm) (neg : Bool) : Bool :=
  match rm with
  | .rne => true
  | .rtz => false
  | .up => !neg
  | .down => neg

/-- Delivers an infinity to a format (R50). -/
def deliverInf (f : Fmt) (c : RndCtl) (neg : Bool) : Nat × Flags :=
  match f.special with
  | .ieee => (f.signed neg (if c.sat then f.maxFinite else f.emax * 2 ^ f.frac), 0)
  | .nanOnly => if c.sat then (f.signed neg f.maxFinite, 0) else (f.canonicalNaN, flagO)
  | .none => (f.signed neg f.maxFinite, flagIf (!c.sat) flagO)

/-- Delivers a finite value beyond the largest finite one after rounding (R50). -/
def deliverOver (f : Fmt) (c : RndCtl) (neg : Bool) : Nat × Flags :=
  match f.special with
  | .ieee =>
    (f.signed neg (if c.sat then f.maxFinite else if overflowsToInf c.rm neg then f.emax * 2 ^ f.frac else f.maxFinite),
      flagO ||| flagX)
  | .nanOnly => (if c.sat then f.signed neg f.maxFinite else f.canonicalNaN, flagO ||| flagX)
  | .none => (f.signed neg f.maxFinite, flagO ||| flagX)

/-- Delivers an exact finite value: one rounding, tininess after rounding, overflow (R42, R47, R50). -/
def deliverFin (f : Fmt) (c : RndCtl) (neg : Bool) (m : Nat) (e : Int) (st : Bool) : Nat × Flags :=
  if m = 0 ∧ st = false then (f.signed neg 0, 0) else
    let q0 := e + (bitLen m : Int) - (f.frac : Int) - 1
    let q := max q0 f.qmin
    let (n, inexact) := roundUnits c.rm neg m e st q
    let mag := if n = 0 then 0 else (q - f.qmin).toNat * 2 ^ f.frac + n
    if f.maxFinite < mag then deliverOver f c neg else
      let tiny := decide (q0 < f.qmin) &&
        !(decide (q0 + 1 = f.qmin) && decide ((roundUnits c.rm neg m e st q0).1 = 2 ^ (f.frac + 1)))
      (f.signed neg mag, flagIf inexact flagX ||| flagIf (inexact && tiny) flagU)

/-- Delivers a result to a format, without the flag of a signalling operand (R50). -/
def deliver (f : Fmt) (c : RndCtl) : Ext → Nat × Flags
  | .nan _ => (f.canonicalNaN, flagIf (decide (f.special = .none)) flagI)
  | .inf neg => deliverInf f c neg
  | .fin neg m e st => deliverFin f c neg m e st

/-- A signalling NaN operand sets `fi` (R41). -/
def sigFlag : Ext → Flags
  | .nan true => flagI
  | _ => 0

/-- A NaN. -/
def Ext.isNaN : Ext → Bool
  | .nan _ => true
  | _ => false

/-- An infinity. -/
def Ext.isInf : Ext → Bool
  | .inf _ => true
  | _ => false

/-- A zero of either sign. -/
def Ext.isZero : Ext → Bool
  | .fin _ 0 _ false => true
  | _ => false

/-- The sign; a NaN has none. -/
def Ext.isNeg : Ext → Bool
  | .nan _ => false
  | .inf n => n
  | .fin n _ _ _ => n

/-- The value with its sign inverted (R49). -/
def Ext.negate : Ext → Ext
  | .nan s => .nan s
  | .inf n => .inf (!n)
  | .fin n m e st => .fin (!n) m e st

/-- +0. -/
def Ext.zero : Ext := .fin false 0 0 false

/-- The exact product; the flag is that of 0 times infinity and of a signalling operand (R52, R56). -/
def mulExt (x y : Ext) : Ext × Flags :=
  let sig := sigFlag x ||| sigFlag y
  match x, y with
  | .nan _, _ => (.nan false, sig)
  | _, .nan _ => (.nan false, sig)
  | .inf a, .inf b => (.inf (a != b), 0)
  | .inf a, .fin b m _ _ => if m = 0 then (.nan false, flagI) else (.inf (a != b), 0)
  | .fin a m _ _, .inf b => if m = 0 then (.nan false, flagI) else (.inf (a != b), 0)
  | .fin a m e _, .fin b n f _ => (.fin (a != b) (m * n) (e + f) false, 0)

/-- The least exponent of the finite members of a list that are not zero. -/
def minExp : List Ext → Option Int
  | [] => none
  | .fin _ m e _ :: xs =>
    if m = 0 then minExp xs else
      match minExp xs with
      | none => some e
      | some f => some (min e f)
  | _ :: xs => minExp xs

/-- The sum of the finite members in units of 2^q. -/
def sumUnits (q : Int) : List Ext → Int
  | [] => 0
  | .fin neg m e _ :: xs =>
    (if m = 0 then 0 else if neg then -((m * 2 ^ (e - q).toNat : Nat) : Int) else ((m * 2 ^ (e - q).toNat : Nat) : Int))
      + sumUnits q xs
  | _ :: xs => sumUnits q xs

/-- The exact sum of finite values with the sign of an exact zero by mode (R49). -/
def sumFin (rm : Rm) (xs : List Ext) : Ext :=
  match minExp xs with
  | none =>
    if xs.all (fun x => x.isNeg) then .fin true 0 0 false
    else if xs.all (fun x => !x.isNeg) then .zero
    else .fin (decide (rm = .down)) 0 0 false
  | some q =>
    let s := sumUnits q xs
    if s = 0 then .fin (decide (rm = .down)) 0 0 false
    else .fin (decide (s < 0)) s.natAbs q false

/-- The exact sum of a list (R49, R52, R53): a NaN member gives NaN; infinities of both signs give NaN and set `fi`;
then an infinity; else the exact sum. -/
def sumExt (rm : Rm) (xs : List Ext) : Ext × Flags :=
  if xs.any Ext.isNaN then (.nan false, flagIf (xs.any (fun x => decide (x = .nan true))) flagI)
  else if xs.any (fun x => decide (x = .inf true)) then
    if xs.any (fun x => decide (x = .inf false)) then (.nan false, flagI) else (.inf true, 0)
  else if xs.any (fun x => decide (x = .inf false)) then (.inf false, 0)
  else (sumFin rm xs, 0)

/-- Rounds a result into a format and joins its flags (R50). -/
def finishOp (f : Fmt) (c : RndCtl) (r : Ext × Flags) : Nat × Flags :=
  let d := deliver f c r.1
  (d.1, d.2 ||| r.2)

/-- Addition in a format (R116, R148). -/
def fpAdd (f : Fmt) (c : RndCtl) (x y : Nat) : Nat × Flags :=
  finishOp f c (sumExt c.rm [f.value x, f.value y])

/-- Subtraction in a format (R116, R148). -/
def fpSub (f : Fmt) (c : RndCtl) (x y : Nat) : Nat × Flags :=
  finishOp f c (sumExt c.rm [f.value x, (f.value y).negate])

/-- Multiplication in a format (R116, R148). -/
def fpMul (f : Fmt) (c : RndCtl) (x y : Nat) : Nat × Flags := finishOp f c (mulExt (f.value x) (f.value y))

/-- The exact x * y + z (R52): an invalid product is detected whatever the addend. -/
def fmaExt (rm : Rm) (x y z : Ext) : Ext × Flags :=
  let p := mulExt x y
  let s := sumExt rm [p.1, z]
  (s.1, p.2 ||| s.2)

/-- Fused multiply-add with one rounding (R116, R148). -/
def fpFma (f : Fmt) (c : RndCtl) (x y z : Nat) : Nat × Flags :=
  finishOp f c (fmaExt c.rm (f.value x) (f.value y) (f.value z))

/-- The exact quotient, to more bits than any format has, with the cases of R63. -/
def divExt (x y : Ext) : Ext × Flags :=
  let sig := sigFlag x ||| sigFlag y
  match x, y with
  | .nan _, _ => (.nan false, sig)
  | _, .nan _ => (.nan false, sig)
  | .inf _, .inf _ => (.nan false, flagI)
  | .inf a, .fin b _ _ _ => (.inf (a != b), 0)
  | .fin a _ _ _, .inf b => (.fin (a != b) 0 0 false, 0)
  | .fin a m e _, .fin b n f _ =>
    if n = 0 then (if m = 0 then (.nan false, flagI) else (.inf (a != b), flagZ))
    else if m = 0 then (.fin (a != b) 0 0 false, 0)
    else
      let k := bitLen n + 60 - bitLen m
      (.fin (a != b) (m * 2 ^ k / n) (e - f - (k : Int)) (decide (m * 2 ^ k % n ≠ 0)), 0)

/-- Division in a format (R148). -/
def fpDiv (f : Fmt) (c : RndCtl) (x y : Nat) : Nat × Flags := finishOp f c (divExt (f.value x) (f.value y))

/-- The integer square root by bits: r is the root found so far, and the next bit tried is 2^k. -/
def isqrtBits (m : Nat) : Nat → Nat → Nat
  | 0, r => if (r + 1) * (r + 1) ≤ m then r + 1 else r
  | k + 1, r => isqrtBits m k (if (r + 2 ^ (k + 1)) * (r + 2 ^ (k + 1)) ≤ m then r + 2 ^ (k + 1) else r)

/-- The largest r with r * r ≤ m. -/
def isqrt (m : Nat) : Nat := isqrtBits m (bitLen m / 2) 0

/-- The square root, with the cases of R63. -/
def sqrtExt (x : Ext) : Ext × Flags :=
  match x with
  | .nan s => (.nan false, flagIf s flagI)
  | .inf true => (.nan false, flagI)
  | .inf false => (.inf false, 0)
  | .fin neg m e _ =>
    if m = 0 then (.fin neg 0 0 false, 0)
    else if neg then (.nan false, flagI)
    else
      let k0 := 130 - bitLen m
      let k := if (e - (k0 : Int)) % 2 = 0 then k0 else k0 + 1
      let m' := m * 2 ^ k
      let r := isqrt m'
      (.fin false r ((e - (k : Int)) / 2) (decide (r * r ≠ m')), 0)

/-- Square root in a format (R148). -/
def fpSqrt (f : Fmt) (c : RndCtl) (x : Nat) : Nat × Flags := finishOp f c (sqrtExt (f.value x))

/-- Reciprocal in a format: 1 / x, with the cases of R63. -/
def fpRcp (f : Fmt) (c : RndCtl) (x : Nat) : Nat × Flags :=
  finishOp f c (divExt (.fin false 1 0 false) (f.value x))

/-- The reciprocal square root, with the cases of R63. -/
def rsqrtExt (x : Ext) : Ext × Flags :=
  match x with
  | .nan s => (.nan false, flagIf s flagI)
  | .inf true => (.nan false, flagI)
  | .inf false => (.zero, 0)
  | .fin neg m e _ =>
    if m = 0 then (.inf neg, flagZ)
    else if neg then (.nan false, flagI)
    else
      let m' := if e % 2 = 0 then m else 2 * m
      let e' := if e % 2 = 0 then e else e - 1
      let k := bitLen m' + 130
      let r := isqrt (2 ^ (2 * k) / m')
      (.fin false r (-(k : Int) - e' / 2) (decide (m' * r * r ≠ 2 ^ (2 * k))), 0)

/-- Reciprocal square root in a format (R148). -/
def fpRsq (f : Fmt) (c : RndCtl) (x : Nat) : Nat × Flags := finishOp f c (rsqrtExt (f.value x))

/-- Bits after the point of the fixed-point series. -/
def seriesBits : Nat := 320

/-- ln 2 as a fixed-point number of 320 bits: the sum over k of 1 / (k 2^k), k from n down to 1. -/
def ln2Series : Nat → Nat
  | 0 => 0
  | k + 1 => 2 ^ (seriesBits + 40) / ((k + 1) * 2 ^ (k + 1)) + ln2Series k

/-- ln 2 with 320 bits after the point (R63). -/
def ln2Fixed : Nat := ln2Series 370 / 2 ^ 40

/-- The sum of t^j / j! from the j-th term on, n terms; `term` is the j-th term. -/
def expSeries (t : Nat) : Nat → Nat → Nat → Nat
  | 0, _, _ => 0
  | n + 1, j, term => term + expSeries t n (j + 1) (term * t / 2 ^ seriesBits / (j + 1))

/-- 2^f for a fraction f / 2^320, with 320 bits after the point (R63). -/
def exp2Fixed (f : Nat) : Nat := expSeries (f * ln2Fixed / 2 ^ seriesBits) 80 0 (2 ^ seriesBits)

/-- The sum of z^(2j+1) / (2j+1) from the j-th term on, n terms; `p` is z^(2j+1). -/
def atanhSeries (z2 : Nat) : Nat → Nat → Nat → Nat
  | 0, _, _ => 0
  | n + 1, j, p => p / (2 * j + 1) + atanhSeries z2 n (j + 1) (p * z2 / 2 ^ seriesBits)

/-- log2 of m / 2^(bitLen m - 1), which lies between 1 and 2, with 320 bits after the point (R63). -/
def log2Frac (m : Nat) : Nat :=
  let d := 2 ^ (bitLen m - 1)
  let z := (m - d) * 2 ^ seriesBits / (m + d)
  2 * atanhSeries (z * z / 2 ^ seriesBits) 110 0 z * 2 ^ seriesBits / ln2Fixed

/-- The exact 2^x, with the cases of R63. A value that is not a power of two is irrational, so the truncated series with
a sticky amount rounds correctly (assumption log 6). -/
def exp2Ext (x : Ext) : Ext × Flags :=
  match x with
  | .nan s => (.nan false, flagIf s flagI)
  | .inf true => (.zero, 0)
  | .inf false => (.inf false, 0)
  | .fin neg m e _ =>
    if m = 0 then (.fin false 1 0 false, 0)
    else if 12 < e + (bitLen m : Int) then
      (if neg then .fin false 1 (-8192) true else .fin false (2 ^ 100) 8192 true, 0)
    else if e + (bitLen m : Int) < -100 then
      (if neg then .fin false (2 ^ 100 - 1) (-100) true else .fin false (2 ^ 100) (-100) true, 0)
    else
      let k := if 0 ≤ e then 0 else (-e).toNat
      let v : Int := (if neg then -1 else 1) * ((m * 2 ^ e.toNat : Nat) : Int)
      let whole := v / ((2 ^ k : Nat) : Int)
      let frac := (v % ((2 ^ k : Nat) : Int)).toNat
      if frac = 0 then (.fin false 1 whole false, 0)
      else (.fin false (exp2Fixed (frac * 2 ^ seriesBits / 2 ^ k)) (whole - (seriesBits : Int)) true, 0)

/-- Base-2 exponential in a format (R148). -/
def fpExp2 (f : Fmt) (c : RndCtl) (x : Nat) : Nat × Flags := finishOp f c (exp2Ext (f.value x))

/-- The exact log2 x, with the cases of R63 (assumption log 6). -/
def log2Ext (x : Ext) : Ext × Flags :=
  match x with
  | .nan s => (.nan false, flagIf s flagI)
  | .inf true => (.nan false, flagI)
  | .inf false => (.inf false, 0)
  | .fin neg m e _ =>
    if m = 0 then (.inf true, flagZ)
    else if neg then (.nan false, flagI)
    else
      let whole : Int := e + (bitLen m : Int) - 1
      if m = 2 ^ (bitLen m - 1) then
        (.fin (decide (whole < 0)) whole.natAbs 0 false, 0)
      else
        let r : Int := whole * ((2 ^ seriesBits : Nat) : Int) + (log2Frac m : Int)
        (.fin (decide (r < 0)) r.natAbs (-(seriesBits : Int)) true, 0)

/-- Base-2 logarithm in a format (R148). -/
def fpLog2 (f : Fmt) (c : RndCtl) (x : Nat) : Nat × Flags := finishOp f c (log2Ext (f.value x))

/-- A finite value times 2^k as an integer, for the least exponent k of two values. -/
def Ext.scaled (q : Int) : Ext → Int
  | .fin neg m e _ => if neg then -((m * 2 ^ (e - q).toNat : Nat) : Int) else ((m * 2 ^ (e - q).toNat : Nat) : Int)
  | _ => 0

/-- The order of two values that are not NaN: negative, 0 or positive as the first is less, equal or greater. -/
def cmpExt (x y : Ext) : Int :=
  match x, y with
  | .inf a, .inf b => if a = b then 0 else if a then -1 else 1
  | .inf a, _ => if a then -1 else 1
  | _, .inf b => if b then 1 else -1
  | .fin _ _ e _, .fin _ _ f _ => x.scaled (min e f) - y.scaled (min e f)
  | _, _ => 0

/-- Floating-point comparison (R117): -0 equals +0; lt and le set `fi` for any NaN, eq and un for a signalling one. -/
def fpCompare (f : Fmt) (c : Fcc) (x y : Nat) : Bool × Flags :=
  let a := f.value x
  let b := f.value y
  let sig := sigFlag a ||| sigFlag b
  if a.isNaN || b.isNaN then
    match c with
    | .eq => (false, sig)
    | .un => (true, sig)
    | .lt => (false, flagI)
    | .le => (false, flagI)
  else
    match c with
    | .eq => (decide (cmpExt a b = 0), 0)
    | .un => (false, 0)
    | .lt => (decide (cmpExt a b < 0), 0)
    | .le => (decide (cmpExt a b ≤ 0), 0)

/-- Whether the first of two values that are not NaN is the smaller, -0 below +0 (R117). -/
def fpLess (a b : Ext) : Bool :=
  decide (cmpExt a b < 0) || (decide (cmpExt a b = 0) && a.isNeg && !b.isNeg)

/-- Minimum or maximum (R117, R148): one of the two operands as R50 delivers it, so that `sat` bounds an infinity (log 19), or the
canonical NaN. -/
def fpMinMax (f : Fmt) (c : RndCtl) (mx : Bool) (x y : Nat) : Nat × Flags :=
  let a := f.value x
  let b := f.value y
  if a.isNaN || b.isNaN then (f.canonicalNaN, sigFlag a ||| sigFlag b)
  else deliver f c (if fpLess a b != mx then a else b)

/-- Width in bits of an integer type (R46). -/
def intTyBits : IntTy → Nat
  | .i8 => 8 | .i16 => 16 | .i32 => 32 | .i64 => 64 | .n8 => 8 | .n16 => 16 | .n32 => 32 | .n64 => 64

/-- Two's-complement types (R46). -/
def intTySigned : IntTy → Bool
  | .i8 => true | .i16 => true | .i32 => true | .i64 => true | _ => false

/-- The value of the low bits of a pattern as an integer type (R46). -/
def intValue (signed : Bool) (w : Nat) (x : Nat) : Int :=
  let y := x % 2 ^ w
  if signed ∧ 2 ^ (w - 1) ≤ y then (y : Int) - ((2 ^ w : Nat) : Int) else (y : Int)

/-- The least value of an integer type. -/
def intMin (signed : Bool) (w : Nat) : Int := if signed then -((2 ^ (w - 1) : Nat) : Int) else 0

/-- The greatest value of an integer type. -/
def intMax (signed : Bool) (w : Nat) : Int :=
  if signed then ((2 ^ (w - 1) : Nat) : Int) - 1 else ((2 ^ w : Nat) : Int) - 1

/-- The pattern of an integer at a width, modulo 2^w (R46). -/
def intBits (w : Nat) (v : Int) : Nat := (v % ((2 ^ w : Nat) : Int)).toNat

/-- An integer as an exact value (R51). -/
def extOfInt (v : Int) : Ext := .fin (decide (v < 0)) v.natAbs 0 false

/-- Rounds a value to an integer type (R50): NaN gives 0 and infinities and values out of range give the type's least or
greatest value, both with `fi`. -/
def deliverInt (signed : Bool) (w : Nat) (rm : Rm) (x : Ext) : Nat × Flags :=
  match x with
  | .nan _ => (0, flagI)
  | .inf neg => (intBits w (if neg then intMin signed w else intMax signed w), flagI)
  | .fin neg m e st =>
    if 200 < e + (bitLen m : Int) then (intBits w (if neg then intMin signed w else intMax signed w), flagI) else
    let r := roundUnits rm neg m e st 0
    let v : Int := if neg then -(r.1 : Int) else (r.1 : Int)
    if v < intMin signed w then (intBits w (intMin signed w), flagI)
    else if intMax signed w < v then (intBits w (intMax signed w), flagI)
    else (intBits w v, flagIf r.2 flagX)

/-- Conversion between integer types (R51): out of range clamps with `sat` and wraps without it; no flag. -/
def convInt (signed : Bool) (w : Nat) (sat : Bool) (v : Int) : Nat :=
  if sat then intBits w (max (intMin signed w) (min (intMax signed w) v)) else intBits w v

/-- What a type code of 0 to 13 is (R77). -/
inductive TyKind where
  | int (signed : Bool) (w : Nat)
  | fp (f : Fmt)
  deriving DecidableEq, Repr

/-- The kind of a type code; the block types do not stand for single numbers and take E2M1 (R77). -/
def tyKind : Ty → TyKind
  | .i8 => .int true 8 | .i16 => .int true 16 | .i32 => .int true 32 | .i64 => .int true 64
  | .n8 => .int false 8 | .n16 => .int false 16 | .n32 => .int false 32 | .n64 => .int false 64
  | .f64 => .fp fp64 | .f32 => .fp fp32 | .bf16 => .fp bf16 | .f16 => .fp fp16
  | .e4m3 => .fp e4m3 | .e5m2 => .fp e5m2 | .mx4 => .fp e2m1 | .sq4 => .fp e2m1

/-- Width in bits of a kind. -/
def TyKind.bits : TyKind → Nat
  | .int _ w => w
  | .fp f => f.width

/-- The format of a floating-point type (R77). -/
def fpFmt : FpTy → Fmt
  | .f64 => fp64 | .f32 => fp32 | .bf16 => bf16 | .f16 => fp16

/-- The scalar format of `fd` (R116). -/
def fdFmt : FD → Fmt
  | .f32 => fp32 | .f64 => fp64

/-- Conversion of one element between types (R51, R118, R149). R51 calls an integer to FP64 exact: one of 64 bits that FP64 cannot hold is
rounded by `rm` and sets `fx` (log 56). -/
def convert (c : RndCtl) (dst src : Ty) (x : Nat) : Nat × Flags :=
  match tyKind dst, tyKind src with
  | .int s w, .int s' w' => (convInt s w c.sat (intValue s' w' x), 0)
  | .int s w, .fp f => deliverInt s w c.rm (f.value x)
  | .fp f, .int s' w' => deliver f c (extOfInt (intValue s' w' x))
  | .fp f, .fp f' => finishOp f c (f'.value x, sigFlag (f'.value x))

/-- Integer minimum or maximum under the signedness of a type (R145). -/
def intMinMax (signed : Bool) (w : Nat) (mx : Bool) (x y : Nat) : Nat :=
  if decide (intValue signed w x < intValue signed w y) != mx then x % 2 ^ w else y % 2 ^ w

/-- A value of a reduction, with the flags of the steps that made it (R59, R143). -/
abbrev RedVal := Option (Nat × Flags)

/-- One node of the tree: an excluded operand passes the other on (R59). -/
def redNode (op : Nat → Nat → Nat × Flags) (x y : RedVal) : RedVal :=
  match x, y with
  | none, y => y
  | x, none => x
  | some (a, fa), some (b, fb) => let r := op a b; some (r.1, r.2 ||| fa ||| fb)

/-- One level of the tree (R59). -/
def redLevel (op : Nat → Nat → Nat × Flags) : List RedVal → List RedVal
  | x :: y :: xs => redNode op x y :: redLevel op xs
  | xs => xs

/-- The tree of R59 with n levels. -/
def redTree (op : Nat → Nat → Nat × Flags) : Nat → List RedVal → RedVal
  | 0, xs => xs.head?.join
  | n + 1, xs => redTree op n (redLevel op xs)

/-- Pushes a block on the blocks so far, joining blocks of equal length; the shortest block stands first (R60). -/
def scanPush (op : Nat → Nat → Nat × Flags) : List (Nat × RedVal) → Nat → RedVal → List (Nat × RedVal)
  | [], n, x => [(n, x)]
  | (m, y) :: bs, n, x => if m = n then scanPush op bs (2 * n) (redNode op y x) else (n, x) :: (m, y) :: bs

/-- The blocks combined from left to right, the longest first (R60). -/
def scanValue (op : Nat → Nat → Nat × Flags) (bs : List (Nat × RedVal)) : RedVal :=
  match bs.reverse with
  | [] => none
  | (_, x) :: xs => xs.foldl (fun acc b => redNode op acc b.2) x

/-- The inclusive scan of R60. -/
def scanIncl (op : Nat → Nat → Nat × Flags) : List (Nat × RedVal) → List RedVal → List RedVal
  | _, [] => []
  | bs, x :: xs =>
    let bs' := scanPush op bs 1 x
    scanValue op bs' :: scanIncl op bs' xs

/-- The combining operation of a reduction (R155). -/
def redOp (c : RndCtl) (r : Rop) (t : RedTy) (x y : Nat) : Nat × Flags :=
  match t with
  | .int t =>
    let w := intTyBits t
    (match r with
      | .sum => (x + y) % 2 ^ w
      | .min => intMinMax (intTySigned t) w false x y
      | .max => intMinMax (intTySigned t) w true x y
      | .and => x &&& y
      | .or => x ||| y
      | .xor => x ^^^ y, 0)
  | .fp t =>
    match r with
    | .sum => fpAdd (fpFmt t) c x y
    | .min => fpMinMax (fpFmt t) c false x y
    | _ => fpMinMax (fpFmt t) c true x y

/-- The identity of a reduction (R59, R155). -/
def redIdentity (r : Rop) (t : RedTy) : Nat :=
  match t with
  | .int t =>
    let w := intTyBits t
    match r with
    | .min => intBits w (intMax (intTySigned t) w)
    | .max => intBits w (intMin (intTySigned t) w)
    | .and => 2 ^ w - 1
    | _ => 0
  | .fp t =>
    let f := fpFmt t
    match r with
    | .min => f.emax * 2 ^ f.frac
    | .max => f.signed true (f.emax * 2 ^ f.frac)
    | _ => 0

/-- Width in bits of a reduction type. -/
def redTyBits : RedTy → Nat
  | .int t => intTyBits t
  | .fp t => (fpFmt t).width

/-- The E8M0 scale as an exact value (R43). -/
def e8m0 (x : Nat) : Ext := if x % 256 = 255 then .nan false else .fin false 1 (((x % 256 : Nat) : Int) - 127) false

/-- The BF16 constants of the SQ4 codebook (R45). -/
def sq4Codebook : List Nat :=
  [0xBFF0, 0xBFA8, 0xBF80, 0xBF48, 0xBF14, 0xBED0, 0xBE70, 0xBDA0,
   0x3DA0, 0x3E70, 0x3ED0, 0x3F14, 0x3F48, 0x3F80, 0x3FA8, 0x3FF0]

/-- The value of an SQ4 code (R45). -/
def sq4Value (c : Nat) : Ext := bf16.value (sq4Codebook.getD (c % 16) 0)

/-- The effective scale of an SQ4 block as an FP32 pattern (R44), with the `fi` of a signalling super-scale (R41) and of an infinite one
times a q of 0 (R52); its one rounding reports nothing (log 55). -/
def sq4Scale (s q : Nat) : Nat × Flags :=
  match fp32.value s with
  | .nan sg => (fp32.canonicalNaN, flagIf sg flagI)
  | .inf neg => if q = 0 then (fp32.canonicalNaN, flagI) else (fp32.signed neg (fp32.emax * 2 ^ fp32.frac), 0)
  | .fin neg m e _ =>
    if q = 0 ∨ m = 0 then (if q = 0 then 0 else fp32.signed neg 0, 0)
    else ((deliver fp32 rneOff (divExt (.fin neg (m * q) e false) (.fin false 255 0 false)).1).1, 0)

end Sys2Proof.Machine
end

