-- ==== Sys2Proof/Machine/State.lean ====
section
/-! DEFINITION. The state of a module as plain data (R15, R16, R20 and the pages, tables and units of the later chapters),
its faults and refusals, and the state right after reset. Tables are lists of key and value pairs; a key that is not
listed has the table's default. -/

namespace Sys2Proof.Machine

/-- Why a step stops. -/
inductive Fault where
  /-- Raised by a step of a module that has stopped serving, whose standby Umpire has failed, when nothing else is due (R427).
  Safe: the hardware does nothing there either until a cold boot. -/
  | halted
  deriving DecidableEq, Repr

/-- What the model refuses. -/
inductive Refusal where
  /-- Raised by an arm of `exec` that has no meaning yet. Safe. -/
  | notModelled (mnemonic : String)
  deriving DecidableEq, Repr

/-- Cause codes of R305. -/
inductive Cause where
  | illegal | notStart | slotAbsent | stallShort | bankConflict | scratchRange | misaligned | privilege | compartment
  | translation | permission | sideLogFull | poisonConsumed | divergence | iterCap | queueError | launchTooLarge
  | maskLate | lateFrame | releaseBlocked | fenceLost | integrity | wearOut | powerLoss | trapInsn | preempted | streamState
  deriving DecidableEq, Repr

/-- A trap: its cause and trapinfo (R313). -/
structure Trap where
  cause : Cause
  info : Word
  deriving DecidableEq, Repr

/-- The destination of a pending write: the kinds of R33, and control registers, whose writes govern the next bundle (R17).
A write to fmt is of the whole register (MTC) or of its format fields (R37). -/
inductive Dest where
  | scalar (r : Reg)
  | vector (r : Reg)
  | pred (r : PReg)
  | fmt (whole : Bool)
  | latch (i : Fin 4)
  | tstat (t : TileNo)
  | ctl (n : Fin 96)
  deriving DecidableEq, Repr

/-- A pending write (R32, R33, R309) with the vector-status flags that land with it (R38). -/
structure Entry where
  dest : Dest
  value : Nat
  flags : Flags
  remaining : Nat
  age : Nat
  slot : Nat
  deriving DecidableEq, Repr

/-- An entry of the return queue; a count of 0 means landed (R159, R308). -/
structure RqEntry where
  value : Word
  remaining : Nat
  deriving DecidableEq, Repr

/-- An L-slot access to global memory or to another core's scratchpad (R132, R138, R139, R308), with the age of the bundle it issued in:
a fence or a release counts what is earlier (R105, R190). -/
structure Access where
  instr : Instr
  addr : Nat
  data : Word
  expect : Word
  age : Nat
  deriving DecidableEq, Repr

/-- What an interlocked operation waits for (R28). -/
inductive IlkKind where
  /-- The result is fixed: a division, a counter read, an append's outcome. -/
  | value (v : Nat)
  /-- MFC of tick: sampled when it arrives. -/
  | tick
  /-- A global or remote access; `got` is its result once it is performed. -/
  | access (a : Access) (got : Option Nat)
  /-- A QDEQ registered with its queue; `item` once one is given (R280). -/
  | qdeq (part qn : Nat) (item : Option Word)
  /-- The append of a QENQ, behind its release (R204). -/
  | enq (part qn : Nat) (item : Word)
  /-- The push of a TQPUSH's captured record, behind its release (R205). -/
  | push (part qn : Nat) (record : BitVec 512) (addr : Nat)
  /-- The black-box entry of an XEVT, behind its release: code, context, value (R215). -/
  | evt (code ctx : Nat) (value : Word)
  deriving DecidableEq, Repr

/-- An outstanding interlocked operation and its destination, if it has one (R28). -/
structure Ilk where
  kind : IlkKind
  dest : Option Dest
  age : Nat
  deriving DecidableEq, Repr

/-- The gather latch (R129). -/
structure Gather where
  word : Nat
  load : Bool
  dest : Reg
  size : Size
  base : Word
  idx : Vec
  pred : Pred
  data : Vec
  acc : Vec
  elem : Nat
  age : Nat
  deriving DecidableEq, Repr

/-- The streaming latch (R164). -/
structure Stream where
  word : Nat
  dest : Reg
  rop : Rop
  ty : RedTy
  addr : Nat
  count : Nat
  acc : Vec
  done : Nat
  rnd : RndCtl
  flags : Flags
  age : Nat
  deriving DecidableEq, Repr

/-- What an M-slot instruction captures at issue (R168). -/
structure MCapture where
  fmt : BitVec 10
  sla : BitVec 32768
  slb : BitVec 32768
  slq : BitVec 4096
  icaptrap : Bool
  mco : Vector Word 8
  mcap : Word
  mtol : Word
  mdiv : Word
  deriving DecidableEq, Repr

/-- The instruction in the array (R166, R186): its scalar operands, its cycles, the rows read so far, and the tiles as they stood when it
started (R168). -/
structure ArrayOp where
  word : Nat
  instr : Instr
  a : Nat
  b : Nat
  pred : Pred
  cap : MCapture
  phase : Nat
  iter : Nat
  cyc : Nat
  total : Nat
  aRows : List Nat
  bRows : List Nat
  resid : Nat
  age : Nat
  tiles : Vector TileBits 4
  deriving DecidableEq, Repr

/-- The MLDW in the loader (R166, R174). -/
structure LoaderOp where
  word : Nat
  buf : Fin 2
  fromScratch : Bool
  off : Nat
  sq4 : Bool
  cyc : Nat
  rows : List Nat
  age : Nat
  deriving DecidableEq, Repr

/-- The state of a 4 KiB piece of a window (R225). -/
inductive Piece where
  | unfilled | filling | clean | dirty
  deriving DecidableEq, Repr

/-- A window: its region word, its global range and its pieces (R200, R225, R308); the commands name the window they act on. -/
structure Window where
  region : Word
  ga : Nat
  pieces : List Piece
  deriving DecidableEq, Repr

/-- An outstanding command (R187, R314): `told` once its fault has been delivered, `seq` its place among the commands of the
module, `core` the core it was issued on, `ctx` the context its core had then (R340). -/
structure Cmd where
  tag : Fin 64
  instr : Instr
  word : Nat
  desc : Nat
  opA : Word
  opB : Word
  opB1 : Word
  list : List Nat
  boxes : Nat
  bitmap : BitVec 256
  started : BitVec 256
  fault : Option Trap
  cancelled : Bool
  done : Bool
  seq : Nat
  fetched : List Nat
  told : Bool
  core : CoreId
  ctx : Nat
  /-- Age of the bundle it issued in (R190). -/
  age : Nat
  /-- Stores before its issue, own or observed, that its release covers (R190, R250). -/
  covers : List Nat
  /-- Pending writes its engine has read (R249). -/
  seen : List Nat
  /-- A store of its engine, or one that its release covers, has been lost (R254). -/
  lost : Bool
  deriving DecidableEq, Repr

/-- A side-log entry (R317): state 0 awaiting translation, 1 replaying, 2 unreplayable. -/
structure LogEntry where
  access : Access
  state : Nat
  deriving DecidableEq, Repr

/-- What the successor of a bundle waits for (R100, R106, R107, R199, R209). A wait that can never end has failed: the waiting bundle
raises its trap at its boundary (R74 item 2, R105, R209). -/
inductive Wait where
  | sync
  | arrive (b : Fin 16) (n : Nat)
  | cbar (b : Fin 16) (gen : Nat)
  | xcan (tags : List (Fin 64))
  | gcur (stream : Word) (cursor : Word)
  | tend
  | failed (t : Trap)
  /-- The wait of the C slot, then that of the X slot of the same bundle. -/
  | both (x y : Wait)
  deriving DecidableEq, Repr

/-- Ordering state of a party (R105, R245, R249, R250, R254). -/
structure Ordering where
  /-- The fences in force, each with the age of the first bundle that it holds (R105). -/
  fence : List (OrdScope × Nat)
  /-- Vats whose acknowledgement of a fence marker is awaited (R250). -/
  marks : List Nat
  /-- Its own stores that are not performed everywhere, each with the age of its bundle (R249). -/
  own : List (Nat × Nat)
  /-- Stores that a release of it covers beside them, each with the age of the bundle that met it: those it has read, those that what it
  acquired carries, and write-backs of its windows (R226, R245, R249). -/
  seen : List (Nat × Nat)
  /-- Stores that its release fences have covered, with the scope of the fence; its later stores carry them (R243, R245). -/
  rel : List (Scope × Nat)
  /-- A store that a release of it covers has been lost: the age of the earliest (R254). -/
  lost : Option Nat
  /-- One of its own stores has been lost (R106, R254). -/
  lostOwn : Bool
  /-- The wait in force. -/
  wait : Option Wait
  deriving DecidableEq, Repr

/-- A reuse hint with its counts (R213, R324). -/
structure Hint where
  addr : Nat
  len : Nat
  cls : Nat
  accesses : Nat
  misses : Nat
  deriving DecidableEq, Repr

/-- The resident task (R216, R219): its record, where it came from, its context slot, its measurement and the code slot that gives it
(R346), and the weight sets it reads (R252). -/
structure Task where
  record : BitVec 512
  part : Nat
  qn : Nat
  ctx : Nat
  slot : Nat
  cls : Nat
  meas : Option (BitVec 384)
  code : Nat
  sets : List Nat
  deriving DecidableEq, Repr

/-- What a parked task waits for (R219, R280, R284); `arrive` is a CBAR whose arrival is still due (R107). -/
inductive Cond where
  | tags (all : Bool) (mask : Word)
  | qpop
  | qdeq
  | barrier (b : Fin 16) (gen : Nat)
  | arrive (b : Fin 16) (n : Nat)
  | met
  deriving DecidableEq, Repr

/-- The state of a task that is not resident (R219); one that is gone stays listed only while its commands run on (R428). -/
inductive TaskState where
  | ready
  | parked (c : Cond)
  | trapped (valid : Bool)
  | suspended
  | gone
  deriving DecidableEq, Repr

/-- Handler state of a partition core or the Umpire: what is frozen (R316), and the wait that the handler sets aside. -/
structure Frozen where
  shadow : List Entry
  qpop : Option Reg
  held : Option Access
  wait : Option Wait
  deriving DecidableEq, Repr

/-- What stays pending beside the faults that are due: the slots of those that no L-slot word found (R74), and on a partition core
or the Umpire in handler state the faults and faulted commands that were due when the handler was entered (R304, R316). -/
structure Pending where
  slots : List (Trap × Nat)
  due : List Trap
  tags : List (Fin 64)
  deriving DecidableEq, Repr

/-- Power states (R390). -/
inductive Power where
  | run | idle | dark
  deriving DecidableEq, Repr

/-- A core's non-volatile image (R393): `trap` holds trapcause, trapinfo and trappc, `pcsel` a context written and not yet in force. -/
structure NvImage where
  pc : BitVec 49
  prog : Word
  shadow : List Entry
  loops : List Word
  tagbits : Word
  ctx : Nat
  comp : Nat
  taskid : Word
  trap : List Word
  pcsel : Option Nat
  record : BitVec 512
  deriving DecidableEq, Repr

/-- A unit of the weight store: 64 stored bytes, unit sequence, and whether its ECC fails (R379, R380). -/
structure WUnit where
  data : BitVec 512
  seq : Word
  bad : Bool
  deriving DecidableEq, Repr

/-- A segment-table entry (R345, R379): role 0 weights, 1 journal, 2 spare. -/
structure Seg where
  wld : Nat
  comp : Nat
  slot : Nat
  wset : Nat
  write : Bool
  role : Nat
  deriving DecidableEq, Repr

/-- The journal unit (R210, R384): st 0 Empty, 1 Staging, 2 Committed; the open transaction with its ranges as (offset, length,
first data unit); the generation of the state record written last. -/
structure Journal where
  st : Nat
  seq : Nat
  wset : Nat
  jstart : Nat
  jhead : Nat
  hiseq : Nat
  gen : Nat
  ranges : List (Nat × Nat × Nat)
  deriving DecidableEq, Repr

/-- A core's weight store: units, segment table, remap entries as (state, unit) and wear counters, each in mirrored copies, wear
report, attempts so far at the unit in hand, units written by the form in hand, whether a segment was converted, the set whose reads
wait, and the journal (R379 to R388). -/
structure WStore where
  /-- Units that differ from an unwritten one (R379, R380). -/
  units : List (Nat × WUnit)
  /-- The segment table (R345, R379). -/
  segs : List (Nat × Seg)
  /-- The first copy of the remap entries that differ from their reset value (R382). -/
  remap : List (Nat × (Nat × Nat))
  /-- The second, mirrored copy of them (R382). -/
  mirror : List (Nat × (Nat × Nat))
  /-- Copies that are left in error, as (entry, copy) (R382). -/
  badCopies : List (Nat × Nat)
  /-- Segment wear counters, in the journal unit's counter cache (R383). -/
  wear : List (Nat × Nat)
  /-- The first copy of the counters on the medium (R379, R383). -/
  wearCopy : List (Nat × Nat)
  /-- The second, mirrored copy of them (R379, R383). -/
  wearMirror : List (Nat × Nat)
  /-- Attempts that no segment counts (R383). -/
  report : Nat
  /-- Attempts made at the unit in hand (R381). -/
  tries : Nat
  /-- Units written by the form in hand (R252, R386). -/
  pos : Nat
  /-- The conversion of a segment into spares has been used (R426). -/
  converted : Bool
  /-- The weight set whose apply is in progress, or is due again now that a repair has supplied spares (R252, R388). -/
  applying : Option Nat
  /-- The apply of the committed update has ended in WEAR_OUT (R387). -/
  worn : Bool
  /-- The journal (R384). -/
  jnl : Journal
  deriving DecidableEq, Repr

/-- What the bundle in issue asked for at its end (R93, R97, R99 to R103, R109, R187), and its successor's address (R92). -/
structure Flow where
  branch : Option Nat
  isCall : Bool
  skipTo : Option (Fin 2 × Nat)
  arm : Option (Fin 2 × Nat × Nat)
  lbrk : List (Fin 2)
  cycles : Nat
  trapDone : Option Word
  tend : Bool
  tyield : Bool
  tret : Bool
  cbar : Option (Fin 16 × Nat)
  qpop : Option Reg
  fence : Option OrdScope
  clear : Word
  succ : Nat
  wait : Option Wait
  deriving DecidableEq, Repr

/-- A core (R15, R16, R20). A partition core and the Umpire use the subset R20 gives them. -/
structure Core where
  /-- Which core this is: coreno is computed from it (R19). -/
  id : CoreId
  /-- Scalar registers; `Core.rs` reads s0 as zero (R15). -/
  s : Vector Word 32
  /-- Vector registers (R15). -/
  v : Vector Vec 32
  /-- Predicate registers; p0 reads as all ones (R15). -/
  p : Vector Pred 8
  /-- Accumulator tiles t0 to t3 (R15). -/
  tiles : Vector TileBits 4
  /-- The flag set of each tile, folded into its tile status (R176). -/
  tflags : Vector Flags 4
  /-- Weight buffers w0 and w1 (R15). -/
  wbuf : Vector WBuf 2
  /-- Scale latch sla (R15, R171). -/
  sla : BitVec 32768
  /-- Scale latch slb (R15, R171). -/
  slb : BitVec 32768
  /-- Scale latch slq (R15, R171). -/
  slq : BitVec 4096
  /-- Control registers by number (R16); coreno and tick are not held here. -/
  ctl : Vector Word 96
  /-- Program counter: the next bundle (R15). -/
  pc : BitVec 49
  /-- Whey write index (R15, R160). -/
  wi : BitVec 16
  /-- Whey read index (R15, R160). -/
  ri : BitVec 16
  /-- Return queue, the oldest entry first (R15, R159). -/
  rq : List RqEntry
  /-- Pending writes of every latency; those of latency 2 or more are the shadow queue (R32). -/
  shadow : List Entry
  /-- Age of the bundle in issue: issue cycles of the residency (R309). -/
  age : Nat
  /-- Outstanding interlocked operations (R28). -/
  ilk : List Ilk
  /-- Stores to global memory or another core that have not been performed (R132, R136). -/
  stq : List Access
  /-- The held access record (R135, R308). -/
  held : Option (Access × Option Dest)
  /-- An access that is performed again before the next bundle issues (R135, R311, R316). -/
  redo : Option Access
  /-- A save under way, which awaits results, and the state its task is saved in (R310). -/
  saving : Option TaskState
  /-- The held QPOP (R109, R308). -/
  qpop : Option Reg
  /-- The gather latch (R129, R131). -/
  gather : Option Gather
  /-- The streaming latch (R164). -/
  stream : Option Stream
  /-- The instruction in the array (R166). -/
  array : Option ArrayOp
  /-- The MLDW in the loader (R166). -/
  loader : Option LoaderOp
  /-- The side log (R136, R317). -/
  log : List LogEntry
  /-- The window table (R225, R308). -/
  wins : List Window
  /-- The commands outstanding, one per tag (R187, R314). -/
  cmds : List Cmd
  /-- Faults found after issue, to be taken at the next boundary (R304). -/
  due : List Trap
  /-- What stays pending beside them (R74, R304, R316). -/
  pending : Pending
  /-- Pieces whose last fill failed, with the trap that what waits for one takes (R122, R225). -/
  badFills : List (Nat × Trap)
  /-- What orders the accesses of the core (R249, R250). -/
  ord : Ordering
  /-- What the C slot of the bundle in issue asked for; plain between bundles. -/
  flow : Flow
  /-- Scratchpad bytes (R20, R21). -/
  scratch : Mem
  /-- Poisoned 64-byte lines of the scratchpad (R127). -/
  poison : List Nat
  /-- Reuse hints (R213, R324). -/
  hints : List Hint
  /-- Bundles issued in this residency (R294). -/
  issued : Nat
  /-- The bundle at which a delayed CBAR has already arrived (R107). -/
  arrived : Option (BitVec 49)
  /-- Tags that the held-tag mask of a restored register space names and no command has (R187, R308). -/
  heldTags : Word
  /-- The TEND record (R100, R308). -/
  tendDone : Bool
  /-- The resident task (R216). -/
  task : Option Task
  /-- The context and compartment bound last (R221). -/
  lastCtx : Option (Nat × Nat)
  /-- Handler state of a partition core or the Umpire (R316). -/
  frozen : Option Frozen
  /-- The context that pcsel named and the next SYNC brings into force (R340). -/
  pcselNext : Option Nat
  /-- Halted by a fault in handler state, or its state lost (R316, R413). -/
  halted : Bool
  /-- Power state (R390). -/
  power : Power
  /-- Engines disabled by a repair record, as slot numbers (R75, R426). -/
  off : List (Fin 8)
  /-- Neither disabled by a record nor retired (R426). -/
  enabled : Bool
  /-- Cycles of the freeze that are left (R36). -/
  freeze : Nat
  /-- Corrected-error count (R426). -/
  corrected : Nat
  /-- Ticks of the last sixteen freezes (R426). -/
  freezeTicks : List Nat
  /-- The non-volatile image in the flip-flops (R393). -/
  nv : Option NvImage
  /-- The weight store (R379). -/
  ws : WStore
  deriving DecidableEq, Repr

/-- A cluster barrier in generations (R107); the barrier is Open when no arrival is counted. -/
structure Barrier where
  owner : Nat × Nat
  count : Nat
  arrived : Nat
  gen : Nat
  deriving DecidableEq, Repr

/-- A supervisor item not yet appended (R313): `waits` are the stores that its release waits for, `task` the context and slot
of the trapped task whose side log it waits for. -/
structure SupItem where
  part : Nat
  qn : Nat
  item : Word
  waits : List Nat
  task : Option (Nat × Nat)
  deriving DecidableEq, Repr

/-- A cluster: barriers, scheduler pointers, supervisor items held, and its power and halt marks (R107, R282, R313, R391). -/
structure Cluster where
  /-- Barriers that are owned (R107). -/
  barriers : List (Nat × Barrier)
  /-- The stores that the arrivals of a barrier's generation cover; who departs has them covered (R239, R245, R248). -/
  gathered : List (Nat × List Nat)
  /-- Scheduler pointers, one per class (R282). -/
  ptr : List Nat
  /-- Supervisor items not yet appended, in order (R313). -/
  items : List SupItem
  /-- DARK (R391). -/
  dark : Bool
  /-- Halted (R413). -/
  halted : Bool
  /-- The DARK dwell in ticks (R390). -/
  dwell : Nat
  /-- Power allotment in microwatts (R298). -/
  allot : Nat
  deriving DecidableEq, Repr

/-- A task that is not resident: what is not in the bytes of its context slot (R219, R284, R310);
`images` are the pending latch writes, whose values the opaque matrix latch holds (R308). -/
structure Saved where
  /-- Its record and place. -/
  task : Task
  /-- Cluster it was saved from. -/
  cl : Nat
  /-- Core its record pins it to. -/
  pin : Option Nat
  /-- Ready, parked, trapped or suspended. -/
  state : TaskState
  /-- Its commands (R314). -/
  cmds : List Cmd
  /-- Its pending QDEQs and fixed results (R280, R310). -/
  ilk : List Ilk
  /-- Its stores not yet performed. -/
  stq : List Access
  /-- Its side log as the save wrote it: what an entry's 32 bytes do not hold (R317). -/
  log : List LogEntry
  /-- The age of its held access (R308). -/
  heldAge : Nat
  /-- The age of its gather latch (R131). -/
  gatherAge : Nat
  /-- Held array instruction (R186). -/
  array : Option ArrayOp
  /-- Held loader instruction (R186). -/
  loader : Option LoaderOp
  /-- Its ordering state. -/
  ord : Ordering
  /-- Faults not yet taken (R304). -/
  due : List Trap
  /-- The slots of those that no L-slot word found (R74). -/
  pending : Pending
  /-- Its reuse hints (R213). -/
  hints : List Hint
  /-- The flag sets of its tiles, kept with the contents of the matrix latch (R176, R186). -/
  tflags : Vector Flags 4
  /-- The bundle that branched to its next bundle, whose checks are still to be made (R72). -/
  arrived : Option (BitVec 49)
  /-- Pending latch writes (R308). -/
  images : List Entry
  /-- Order of its resume among resume lists (R284). -/
  order : Nat
  /-- prog, the held records and the latches as the save wrote them (R312). -/
  kept : List Nat
  deriving DecidableEq, Repr

/-- A waiter of an item queue, in order of issue (R280). -/
inductive Waiter where
  | core (k : CoreId)
  | slot (ctx addr : Nat)
  deriving DecidableEq, Repr

/-- A queue-table entry (R276), the fields in force since the last start, the holes (R278) and the waiters (R280). -/
structure Queue where
  /-- Ring address as stored. -/
  base : Word
  /-- log2 of the slot count as stored. -/
  lgn : Nat
  /-- Kind, class and `st`. -/
  kind : BitVec 8
  /-- ctxid as stored. -/
  ctx : BitVec 16
  /-- Consuming cluster as stored. -/
  clu : Nat
  /-- Notify tag. -/
  ntag : Nat
  /-- Time slice. -/
  slc : Nat
  /-- The VF that may push. -/
  vfm : Nat
  /-- Error register. -/
  err : Word
  /-- Slots freed so far, modulo 2^32. -/
  head : Nat
  /-- Appends so far, modulo 2^32. -/
  tail : Nat
  /-- Ring address in force since the last start. -/
  rbase : Nat
  /-- log2 of the slot count in force. -/
  rlgn : Nat
  /-- Kind and class in force. -/
  rkind : BitVec 8
  /-- ctxid in force. -/
  rctx : Nat
  /-- Consuming cluster in force. -/
  rclu : Nat
  /-- Slots freed ahead of the head (R278). -/
  holes : List Nat
  /-- Waiters in order of issue (R280). -/
  waiters : List Waiter
  deriving DecidableEq, Repr

/-- A partition (R291, R292), its stream table registers (R355), its queued invalidations (R322) and counts. -/
structure Part where
  /-- The partition exists. -/
  exists' : Bool
  /-- Its clusters. -/
  clusters : BitVec 32
  /-- Power tier. -/
  tier : Nat
  /-- Floor in watts. -/
  floor : Nat
  /-- HBM pseudo-channel sets. -/
  sets : BitVec 256
  /-- Gorque lanes. -/
  lanes : BitVec 144
  /-- Class-G share in percent. -/
  share : Nat
  /-- Stream table base (R355). -/
  stbase : Word
  /-- Stream table count and context (R355). -/
  stcfg : Word
  /-- Invalidations queued and, behind the first 16, writes of `inval` that wait (R322). -/
  inval : List (Nat × Nat × Nat)
  /-- Class-U overruns counted (R301). -/
  overrun : Nat
  /-- Power allotment in microwatts (R298). -/
  allot : Nat
  /-- The receipt item queue that its layout record names (R425). -/
  receipts : Nat
  /-- Its partition cores have halted (R316, R413). -/
  halted : Bool
  /-- Where its queue table page stands in physical memory, if it does (R276). -/
  qpage : Option Nat
  /-- Where its context table page stands in physical memory, if it does (R306). -/
  cpage : Option Nat
  deriving DecidableEq, Repr

/-- A context-table entry (R306) and the partition it is assigned to (R292). -/
structure Ctx where
  /-- The partition it is assigned to (R292). -/
  part : Option Nat
  /-- Level-1 table. -/
  root : Word
  /-- World. -/
  wld : Nat
  /-- Valid. -/
  v : Bool
  /-- Key slot of the context slots. -/
  kslot : Nat
  /-- Supervisor queue. -/
  supq : Nat
  /-- Queue of the context-slot pool. -/
  plq : Nat
  /-- Hint report area (R325). -/
  hrep : Word
  deriving DecidableEq, Repr

/-- A cached translation: context, virtual page, the leaf entry and its page size in bits (R322). -/
structure Cached where
  ctx : Nat
  page : Nat
  bits : Nat
  entry : Word
  deriving DecidableEq, Repr

/-- A key slot (R341); `meas` is the measurement of a code slot (R346). -/
structure KeySlot where
  /-- Generation. -/
  gen : Nat
  /-- World. -/
  wld : Nat
  /-- Owning compartment. -/
  comp : Nat
  /-- Partition cores and units may use it. -/
  pc : Bool
  /-- 0 none, 1 table, 2 memory, 3 weight, 4 host link, 5 code. -/
  kind : Nat
  /-- 0 Empty, 1 Active, 2 Retiring. -/
  st : Nat
  /-- Key material. -/
  key : BitVec 256
  /-- Measurement of a code slot (R346). -/
  meas : BitVec 384
  deriving DecidableEq, Repr

/-- A compartment: its world, owner session and the owner's certificate (R337, R352). -/
structure Comp where
  wld : Nat
  owner : Option Nat
  cert : Nat
  deriving DecidableEq, Repr

/-- A gate (R348): its fields, which owners have declared exactly them, and how often it has left the state On (R349). -/
structure Gate where
  src : Nat
  dst : Nat
  sva : Nat
  slen : Nat
  dva : Nat
  dlen : Nat
  bySrc : Bool
  byDst : Bool
  epoch : Nat
  deriving DecidableEq, Repr

/-- A weight set: the compartment that last set its grants, its grant list (R347), and its readers (R252). -/
structure WSet where
  comp : Nat
  grants : List (BitVec 384)
  readers : Nat
  deriving DecidableEq, Repr

/-- TDISP states (R351). -/
inductive Tdi where
  | unlocked | locked | run | error
  deriving DecidableEq, Repr

/-- A virtual function: its partition, rings (R286) and TDI (R351). -/
structure Vf where
  /-- Partition (R353). -/
  part : Option Nat
  /-- Command ring base. -/
  cqbase : Word
  /-- Command ring configuration. -/
  cqcfg : Word
  /-- Doorbell. -/
  cqtail : BitVec 16
  /-- Commands taken. -/
  cqhead : BitVec 16
  /-- Completion ring base. -/
  cpbase : Word
  /-- Completion ring configuration. -/
  cpcfg : Word
  /-- Entries consumed. -/
  cphead : BitVec 16
  /-- Entries written. -/
  cptail : BitVec 16
  /-- TDISP state (R351). -/
  tdi : Tdi
  /-- World bound at LOCK (R337). -/
  wld : Nat
  /-- Session that locked it. -/
  session : Option Nat
  /-- Nonce that LOCK returned. -/
  nonce : BitVec 256
  deriving DecidableEq, Repr

/-- A launch-table entry (R287). -/
structure LaunchEntry where
  smod : Nat
  wld : Nat
  v : Bool
  q0 : Nat
  qc : Nat
  deriving DecidableEq, Repr

/-- States of a vat (R414). -/
inductive VatState where
  | live | fenced | readmitting
  deriving DecidableEq, Repr

/-- A vat: its state (R414), launch table and rejections (R287), and HBM control (R418 to R420). -/
structure Vat where
  /-- Live, Fenced or Re-admitting (R414). -/
  state : VatState
  /-- Launch table (R287). -/
  launch : List LaunchEntry
  /-- Launch packets rejected (R287). -/
  rejects : Nat
  /-- rhcfg (R420). -/
  rhcfg : Word
  /-- Activation counters by bank and row (R418). -/
  rows : List ((Nat × Nat) × Nat)
  /-- Activations per bank in the window (R419). -/
  acts : List (Nat × Nat)
  /-- Hot state (R419). -/
  hot : Bool
  /-- Stack temperature last reported, in degrees (R419). -/
  temp : Nat
  /-- Activations by bank and row that wait for the next window (R419). -/
  waiting : List (Nat × Nat)
  deriving DecidableEq, Repr

/-- A chunk of a spread launch: its cluster, the next index to push, and the tasks not yet complete (R289). `owner` is the vat whose
distributor pushes it (R415), `key` names it in the records it pushes: a reissued chunk has a key of its own (R417). -/
structure Chunk where
  num : Nat
  cl : Nat
  next : Nat
  left : Nat
  owner : Nat
  key : Nat
  deriving DecidableEq, Repr

/-- A spread launch (R206, R289, R290): `seq` names its command, `bitmap` is the address of its completion bitmap, `done` the chunks
whose bits are set, `chunks` those being pushed or run, `ready` once the template has been read, `ctx` the issuer's context; `dead` once
a fence has failed it (R417), `master` the vat that holds its chunk counters (R416), `reissues` how often chunks were reissued. -/
structure Launch where
  id : Nat
  part : Nat
  ctx : Nat
  issuer : CoreId
  tag : Fin 64
  seq : Nat
  record : BitVec 512
  lo : Nat
  hi : Nat
  cmask : BitVec 32
  dim : Nat
  reiss : Bool
  qn : Nat
  bitmap : Nat
  done : List Nat
  chunks : List Chunk
  tmpl : Nat
  ready : Bool
  dead : Bool
  master : Nat
  reissues : Nat
  deriving DecidableEq, Repr

/-- The party that made a write (R235, R243): a core that runs firmware, a tile task wherever it stands, the engine of a command, or a unit
of the module. -/
inductive Writer where
  | core (k : CoreId)
  | task (ctx slot : Nat)
  | engine (seq : Nat)
  | unit
  deriving DecidableEq, Repr

/-- Stores that what was written at n bytes carries (R245): a release store, or a store behind a release fence, covers them, and who
acquires it has them covered, if the release reaches it (R236). `src` is where the writer stood. -/
structure Carry where
  src : CoreId
  writer : Writer
  pa : Nat
  n : Nat
  ids : List (Scope × Nat)
  deriving DecidableEq, Repr

/-- A global store that its home has not acknowledged (R249): who wrote it, where, its bytes and the key label (R344). `eng` names
the command whose engine wrote it, `psn` poisons its line (R192), `rmw` tells a read-modify-write, and `carried` is what it carries
(R243, R245). -/
structure PStore where
  id : Nat
  src : CoreId
  eng : Option Nat
  pa : Nat
  bytes : List (BitVec 8)
  label : Nat × Nat
  psn : Bool
  writer : Writer
  rmw : Bool
  carried : List (Scope × Nat)
  deriving DecidableEq, Repr

/-- A store that its home has ordered and whose line still has stale copies (R249): the store's identity, its writer and the command
whose engine wrote it, the bytes before it, whether their line was poisoned (R255) and what they carried (R245), and the clusters whose
cluster stores still hold those. -/
structure Stale where
  id : Nat
  src : CoreId
  eng : Option Nat
  pa : Nat
  old : List (BitVec 8)
  psn : Bool
  label : Nat × Nat
  cls : List Nat
  carry : List Carry
  deriving DecidableEq, Repr

/-- What a core has read and not acquired yet (R243, R245): a store that what it read carries, or the scratchpad of a core. -/
inductive Hearing where
  | store (i : Nat)
  | scratch (k : CoreId)
  deriving DecidableEq, Repr

/-- An SPDM connection (R423, R424): its state 0 none, 1 versioned, 2 capable, 3 negotiated, 4 authenticated; its
transcripts as bytes, the three parts in the order of R424. -/
structure Conn where
  state : Nat
  vca : List (BitVec 8)
  certs : List (BitVec 8)
  meas : List (BitVec 8)
  deriving DecidableEq, Repr

/-- An SPDM session (R350): the certificate its requester proved and the VF it is bound to. -/
structure Session where
  finished : Bool
  cert : Nat
  vf : Option Nat
  deriving DecidableEq, Repr

/-- A reply of the Umpire or of a register page, as data (R285, R292, R336, R352, R423). -/
structure Reply where
  code : Nat
  value : Nat
  bytes : List (BitVec 8)
  deriving DecidableEq, Repr

/-- A completion signal due after a task has ended (R218): 0 dnext, 1 done, 2 notify. -/
structure Signal where
  record : BitVec 512
  part : Nat
  qn : Nat
  cl : Nat
  ctx : Nat
  deriving DecidableEq, Repr

/-- A copy of a configuration record (R398): its version, whether its signature is good, the length of its body in bytes, its body,
and its signature. -/
structure ConfigCopy where
  ver : Nat
  good : Bool
  len : Nat
  body : Nat
  sign : Nat
  deriving DecidableEq, Repr

/-- A copy of the firmware image in the non-volatile store (R397): its version, whether it verifies, the handler entries of the Umpire's
and of the partition cores' images, and their bytes. -/
structure Firmware where
  ver : Nat
  good : Bool
  handler : Nat
  image : Mem
  phandler : Nat
  pimage : Mem
  deriving DecidableEq, Repr

/-- A receipt request in hand (R425). -/
structure Receipt where
  part : Nat
  ctx : Nat
  addr : Nat
  deriving DecidableEq, Repr

/-- The Umpire: which die is in charge, the lapses counted, whether the module has stopped, the mailbox (R292), deep off (R392, R427), and the
handler entries and bytes of its own and of the partition cores' firmware images (R316, R396). -/
structure Umpire where
  /-- The standby is in charge. -/
  standby : Bool
  /-- Heartbeat lapses counted. -/
  lapses : Nat
  /-- The module has stopped serving. -/
  stopped : Bool
  /-- Deep off (R392). -/
  deepOff : Bool
  /-- Request buffer. -/
  mbreq : BitVec 2048
  /-- Mailbox status. -/
  mbst : Word
  /-- Handler entry of the Umpire image. -/
  handler : Nat
  /-- Bytes of the Umpire image. -/
  image : Mem
  /-- Handler entry of the partition cores' image. -/
  phandler : Nat
  /-- Bytes of the partition cores' image. -/
  pimage : Mem
  /-- Measurements that CODE_SEAL has returned, by world (R425). -/
  sealed : List (Nat × BitVec 384)
  /-- Cores that the next record write disables (R426). -/
  flagged : List CoreId
  /-- The two copies of the firmware in the non-volatile store (R397). -/
  firmware : List Firmware
  /-- The standby has failed while it was not in charge (R427). -/
  failed : Bool
  /-- Why cores are retired: the slot of the engine that a repair disables, or 0 for the core itself (R426). -/
  retired : List (CoreId × Nat)
  /-- The link of the black-box entry that the ring dropped last (R421). -/
  boxLink : Nat
  deriving DecidableEq, Repr

/-- What the last slot word or step did: issued, held before issue (`counts` if empty issue cycles pass), or trapped. -/
inductive Verdict where
  | issued
  | held (counts : Bool)
  | trapped (t : Trap)
  deriving DecidableEq, Repr

/-- The module. `c` is the core that steps; the other cores that differ from a dark core are in `others`. -/
structure State where
  /-- The core that steps. -/
  c : Core
  /-- The other cores that differ from a dark core. -/
  others : List (CoreId × Core)
  /-- Clusters by number (R13). -/
  clusters : List (Nat × Cluster)
  /-- Partitions by number (R291). -/
  parts : List (Nat × Part)
  /-- Queue tables: entries by partition and queue number (R276). -/
  queues : List ((Nat × Nat) × Queue)
  /-- The context table by ctxid (R306). -/
  ctxs : List (Nat × Ctx)
  /-- Cached translations (R322). -/
  cached : List Cached
  /-- Key slots (R341). -/
  keys : List (Nat × KeySlot)
  /-- Compartments and their owners (R337). -/
  comps : List (Nat × Comp)
  /-- Gate tables by world and entry (R348). -/
  gates : List ((Nat × Nat) × Gate)
  /-- Weight sets with their grant lists and readers (R252, R347). -/
  wsets : List (Nat × WSet)
  /-- Virtual functions (R286, R351). -/
  vfs : List (Nat × Vf)
  /-- Vats (R13, R414). -/
  vats : List (Nat × Vat)
  /-- Tasks that have a context slot and are not resident (R219). -/
  tasks : List Saved
  /-- Spread launches in progress (R289). -/
  launches : List Launch
  /-- Completion signals due, in order (R218). -/
  signals : List Signal
  /-- Global memory by physical address (R237). -/
  mem : Mem
  /-- Host memory, keyed by VF (R196, R286). -/
  host : Mem
  /-- Poisoned lines of global memory (R411). -/
  poison : List Nat
  /-- Key and generation under which each line was last written (R344). -/
  labels : List (Nat × (Nat × Nat))
  /-- Global stores that their home has not acknowledged, the oldest first (R249). -/
  stores : List PStore
  /-- Global stores that their home has ordered and that some cluster store does not show yet, in the order of the home (R249). -/
  stale : List Stale
  /-- What stands at the homes and in the scratchpads carries stores to those that acquire it (R245). -/
  carry : List Carry
  /-- What the cores have read and not acquired yet (R245). -/
  heard : List (CoreId × Hearing)
  /-- Worlds suspended (R354). -/
  suspended : List Nat
  /-- SPDM connections (R423). -/
  conns : List (Nat × Conn)
  /-- SPDM sessions (R350). -/
  sessions : List (Nat × Session)
  /-- Measurement registers MR0 to MR15 (R422). -/
  mrs : Vector (BitVec 384) 16
  /-- The black box, the oldest entry first (R421). -/
  boxLog : List (BitVec 512)
  /-- What the module has answered to the outside, in order. -/
  replies : List Reply
  /-- Receipt requests in hand (R425). -/
  receipts : List Receipt
  /-- The Umpire and the firmware images (R292, R427). -/
  umpire : Umpire
  /-- Configuration records: two copies of each type, by type and copy (R398). -/
  records : List ((Nat × Nat) × ConfigCopy)
  /-- Core images that the boot collected and nothing has resumed (R395). -/
  images : List (CoreId × NvImage)
  /-- The supply monitor has reported failure (R393). -/
  powerLost : Bool
  /-- Gorque ports removed from routing (R410). -/
  portsDown : List Nat
  /-- The module tick (R297). -/
  tick : Word
  /-- The model's own: the next identity of a store, launch, command, session or saved task. -/
  ids : Nat
  /-- The model's own: where the next free value is taken (assumption log 3). -/
  freeCtr : Nat
  /-- The model's own: outside inputs and steps due before the next bundle (log 4). -/
  agenda : List Instr
  /-- The model's own: cores whose turns come before the choice among the cores that issue is open (log 4). -/
  turns : List CoreId
  /-- The boot steps of R397 have run. -/
  booted : Bool
  /-- Cores whose journals the boot has still to scan (R388, R397); none before the boot has begun. -/
  scans : Option (List CoreId)
  /-- The model's own: what the last slot word or step did (log 4). -/
  verdict : Verdict
  /-- The model's own: the word of the slot in issue (log 4). -/
  word : Nat
  deriving DecidableEq, Repr

/-- No C-slot action: the bundle goes on to its successor in one cycle (R93). -/
def Flow.none : Flow :=
  { branch := .none, isCall := false, skipTo := .none, arm := .none, lbrk := [], cycles := 1, trapDone := .none,
    tend := false, tyield := false, tret := false, cbar := .none, qpop := .none, fence := .none,
    clear := 0, succ := 0, wait := .none }

/-- No access outstanding. -/
def Ordering.none : Ordering := { fence := [], marks := [], own := [], seen := [], rel := [], lost := .none, lostOwn := false, wait := .none }

/-- What is kept of a task beside the bytes of its slot when nothing of it is outstanding. -/
def Saved.bare (t : Task) (cl : Nat) (st : TaskState) (order : Nat) : Saved :=
  { task := t, cl := cl, pin := .none, state := st, cmds := [], ilk := [], stq := [], log := [], heldAge := 0, gatherAge := 0, array := .none
    loader := .none, ord := Ordering.none, due := [], pending := ⟨[], [], []⟩, hints := [], tflags := Vector.replicate 4 0, arrived := .none
    images := [], order := order, kept := [] }

/-- A weight store that nothing has written (R379, R380); segments 1,022 and 1,023 hold the journal. -/
def WStore.fresh : WStore :=
  { units := [], segs := [(1022, ⟨0, 0, 0, 0, false, 1⟩), (1023, ⟨0, 0, 0, 0, false, 1⟩)], remap := [], mirror := []
    badCopies := [], wear := [], wearCopy := [], wearMirror := [], report := 0, tries := 0, pos := 0, converted := false, applying := .none
    worn := false, jnl := ⟨0, 0, 0, 0, 0, 0, 0, []⟩ }

/-- A core as the boot leaves it: DARK, every register 0 but p0, whose bits are ones (R220, R397). -/
def Core.dark (k : CoreId) : Core :=
  { id := k
    s := Vector.replicate 32 0
    v := Vector.replicate 32 0
    p := (Vector.replicate 8 0).set 0 (BitVec.allOnes 512)
    tiles := Vector.replicate 4 0
    tflags := Vector.replicate 4 0
    wbuf := Vector.replicate 2 0
    sla := 0
    slb := 0
    slq := 0
    ctl := Vector.replicate 96 0
    pc := 0
    wi := 0
    ri := 0
    rq := []
    shadow := []
    age := 0
    ilk := []
    stq := []
    held := .none
    redo := .none
    saving := .none
    qpop := .none
    gather := .none
    stream := .none
    array := .none
    loader := .none
    log := []
    wins := []
    cmds := []
    due := []
    pending := ⟨[], [], []⟩
    badFills := []
    ord := Ordering.none
    flow := Flow.none
    scratch := []
    poison := []
    hints := []
    issued := 0
    arrived := .none
    heldTags := 0
    tendDone := false
    task := .none
    lastCtx := .none
    frozen := .none
    pcselNext := .none
    halted := false
    power := .dark
    off := []
    enabled := true
    freeze := 0
    corrected := 0
    freezeTicks := []
    nv := .none
    ws := WStore.fresh }

/-- A cluster after boot: barriers Open, pointers 0, DARK (R107, R282, R397). -/
def Cluster.fresh : Cluster :=
  { barriers := [], gathered := [], ptr := [0, 0, 0, 0], items := [], dark := true, halted := false, dwell := 50000, allot := 0 }

/-- The Umpire after reset: vat 0 in charge, mailbox clear. -/
def Umpire.fresh : Umpire :=
  { standby := false, lapses := 0, stopped := false, deepOff := false, mbreq := 0, mbst := 0, handler := 0, image := [],
    phandler := 0, pimage := [], sealed := [], flagged := [], firmware := [], failed := false, retired := [], boxLink := 0 }

/-- Key slot 0 holds the table key; it is never loaded or retired (R321, R341). -/
def KeySlot.table : KeySlot :=
  { gen := 0, wld := 0, comp := 0, pc := false, kind := 1, st := 1, key := 0, meas := 0 }

/-- The module at power-on, before the boot steps of R397: nothing is resident, memory is zero with poison clear (R394), and
no core runs. The values the manual does not give are those of assumption log 2. -/
def State.reset : State :=
  { c := Core.dark (.compute 0 0)
    others := []
    clusters := []
    parts := []
    queues := []
    ctxs := []
    cached := []
    keys := [(0, KeySlot.table)]
    comps := []
    gates := []
    wsets := []
    vfs := []
    vats := []
    tasks := []
    launches := []
    signals := []
    mem := []
    host := []
    poison := []
    labels := []
    stores := []
    stale := []
    carry := []
    heard := []
    suspended := []
    conns := []
    sessions := []
    mrs := Vector.replicate 16 0
    boxLog := []
    replies := []
    receipts := []
    umpire := Umpire.fresh
    records := [1, 2, 3, 4, 5].map (fun ty => ((ty, 0), ⟨0, true, 0, 0, 0⟩))
    images := []
    powerLost := false
    portsDown := []
    tick := 0
    ids := 0
    freeCtr := 0
    agenda := []
    turns := []
    booted := false
    scans := .none
    verdict := .issued
    word := 0 }

end Sys2Proof.Machine
end

