-- ==== Sys2Proof/Machine/Mem.lean ====
section
/-! DEFINITION. Sparse memories and tables: a memory lists the bytes that are not 0 in rising order of address (R390, R394);
a table lists its entries by key. Byte order is decided here, once (R5). -/

namespace Sys2Proof.Machine

/-- The byte at an address: 0 where nothing is listed. -/
def memGet : Mem → Nat → BitVec 8
  | [], _ => 0
  | (x, b) :: m, a => if x = a then b else memGet m a

/-- The part of a memory below an address. -/
def memBelow (a : Nat) : Mem → Mem
  | [] => []
  | (x, b) :: m => if x < a then (x, b) :: memBelow a m else []

/-- The part of a memory from an address on. -/
def memFrom (a : Nat) : Mem → Mem
  | [] => []
  | (x, b) :: m => if x < a then memFrom a m else (x, b) :: m

/-- The cells of consecutive bytes: no entry for a byte 0. -/
def cellsOf : Nat → List (BitVec 8) → Mem
  | _, [] => []
  | a, b :: bs => if b = 0 then cellsOf (a + 1) bs else (a, b) :: cellsOf (a + 1) bs

/-- Replaces the n bytes at an address by cells within them. -/
def memSplice (m : Mem) (a n : Nat) (cs : Mem) : Mem := memBelow a m ++ (cs ++ memFrom (a + n) m)

/-- Writes consecutive bytes. -/
def memWrite (m : Mem) (a : Nat) (bs : List (BitVec 8)) : Mem := memSplice m a bs.length (cellsOf a bs)

/-- The cells of the 2^d low bytes of a number at an address: halves that are 0 have none. -/
def cellsPow : Nat → Nat → Nat → Mem
  | 0, a, v => if v % 256 = 0 then [] else [(a, BitVec.ofNat 8 v)]
  | d + 1, a, v =>
    if v = 0 then []
    else cellsPow d a (v % 256 ^ 2 ^ d) ++ cellsPow d (a + 2 ^ d) (v / 256 ^ 2 ^ d)

/-- Writes the 2^d low bytes of a number (R5). -/
def memPow (m : Mem) (a d v : Nat) : Mem := memSplice m a (2 ^ d) (cellsPow d a v)

/-- The canonical form: addresses strictly rising, no byte 0. -/
def Memory.wf : Mem → Bool
  | [] => true
  | [(_, b)] => decide (b ≠ 0)
  | (x, b) :: (y, c) :: m => decide (b ≠ 0) && decide (x < y) && Memory.wf ((y, c) :: m)

/-- The little-endian value of the cells, counted from an address (R5). -/
def memValue (a : Nat) : Mem → Nat
  | [] => 0
  | (x, b) :: m => b.toNat * 256 ^ (x - a) + memValue a m

/-- The n bytes at an address as a number, the byte at the lowest address in its low bits (R5). -/
def memRead (m : Mem) (a n : Nat) : Nat := memValue a (memBelow (a + n) (memFrom a m))

/-- The n low bytes of a number, the lowest first (R5). -/
def bytesOf : Nat → Nat → List (BitVec 8)
  | 0, _ => []
  | n + 1, v => BitVec.ofNat 8 v :: bytesOf n (v / 256)

/-- Bytes as a number, the first in the low bits (R5). -/
def natOfBytes : List (BitVec 8) → Nat
  | [] => 0
  | b :: bs => b.toNat + 256 * natOfBytes bs

/-- Bytes as a number, the first in the high bits. -/
def natOfBytesBE (bs : List (BitVec 8)) : Nat := natOfBytes bs.reverse

/-- The n low bytes of a number, the highest first. -/
def bytesBE (n v : Nat) : List (BitVec 8) := (bytesOf n v).reverse

/-- Writes the n low bytes of a number (R5). -/
def memPut (m : Mem) (a n v : Nat) : Mem := memWrite m a (bytesOf n v)

/-- The bits [lo + n - 1 : lo] of a number (R4). -/
def bits (v lo n : Nat) : Nat := v / 2 ^ lo % 2 ^ n

/-- The n bytes from byte lo on of a descriptor or record (R5). -/
def field (v lo n : Nat) : Nat := bits v (8 * lo) (8 * n)

/-- Replaces the bits [lo + n - 1 : lo] of a number (R4). -/
def setBits (v lo n x : Nat) : Nat := v - bits v lo n * 2 ^ lo + x % 2 ^ n * 2 ^ lo

/-- Bit i of a number (R4). -/
def bitAt (v i : Nat) : Bool := v.testBit i

/-- The least multiple of n that is not below a. -/
def roundUp (a n : Nat) : Nat := (a + n - 1) / n * n

/-- a divided by n, rounded up. -/
def ceilDiv (a n : Nat) : Nat := (a + n - 1) / n

/-- Sign extension of the low w bits of a number to 64 bits (R46). -/
def sext64 (w v : Nat) : Word := BitVec.ofInt 64 (intValue true w v)

/-- The entry of a table at a key, or the default. -/
def look {κ α : Type} [DecidableEq κ] (d : α) : List (κ × α) → κ → α
  | [], _ => d
  | (k, a) :: t, x => if k = x then a else look d t x

/-- The entry of a table at a key, if it is listed. -/
def find? {κ α : Type} [DecidableEq κ] : List (κ × α) → κ → Option α
  | [], _ => none
  | (k, a) :: t, x => if k = x then some a else find? t x

/-- Replaces or adds the entry at a key. -/
def put {κ α : Type} [DecidableEq κ] : List (κ × α) → κ → α → List (κ × α)
  | [], x, b => [(x, b)]
  | (k, a) :: t, x, b => if k = x then (x, b) :: t else (k, a) :: put t x b

/-- Removes the entry at a key. -/
def del {κ α : Type} [DecidableEq κ] (t : List (κ × α)) (x : κ) : List (κ × α) := t.filter (fun e => decide (e.1 ≠ x))

/-- Adds an element to a list that does not hold it. -/
def insertNew {α : Type} [DecidableEq α] (x : α) (l : List α) : List α := if x ∈ l then l else l ++ [x]

/-- Replaces the n-th element of a list. -/
def setNth {α : Type} : List α → Nat → α → List α
  | [], _, _ => []
  | _ :: xs, 0, y => y :: xs
  | x :: xs, n + 1, y => x :: setNth xs n y

/-- Removes the n-th element of a list. -/
def dropNth {α : Type} : List α → Nat → List α
  | [], _ => []
  | _ :: xs, 0 => xs
  | x :: xs, n + 1 => x :: dropNth xs n

/-- The 64-byte lines that n bytes at an address touch (R127, R411). -/
def linesOf (a n : Nat) : List Nat :=
  if n = 0 then [] else (List.range ((a + n - 1) / 64 - a / 64 + 1)).map (· + a / 64)

/-- The 64-byte lines that n bytes at an address cover whole (R127). -/
def wholeLines (a n : Nat) : List Nat :=
  (linesOf a n).filter (fun l => decide (a ≤ 64 * l ∧ 64 * l + 64 ≤ a + n))

end Sys2Proof.Machine
end

