-- ==== Sys2Proof/Machine/Operands.lean ====
section
/-! DEFINITION. Operand forms: control-register names (R16), register reads and writes of a core (R15, R29), lanes of a
vector and their governing predicate bits (R142), pending writes and their landing (R27 to R33, R37, R38). -/

namespace Sys2Proof.Machine

/-- Control-register numbers (R16). -/
abbrev crTagbits : Fin 96 := 0x00
/-- fmt -/
abbrev crFmt : Fin 96 := 0x01
/-- prog -/
abbrev crProg : Fin 96 := 0x02
/-- lbeg0; level 1 lies 4 above -/
abbrev crLbeg : Fin 96 := 0x04
/-- lend0; level 1 lies 4 above -/
abbrev crLend : Fin 96 := 0x05
/-- lcnt0; level 1 lies 4 above -/
abbrev crLcnt : Fin 96 := 0x06
/-- corecfg -/
abbrev crCorecfg : Fin 96 := 0x10
/-- coreno -/
abbrev crCoreno : Fin 96 := 0x11
/-- tstat0 to tstat3 -/
abbrev crTstat : Fin 96 := 0x14
/-- mco0 to mco7 -/
abbrev crMco : Fin 96 := 0x20
/-- mcap -/
abbrev crMcap : Fin 96 := 0x28
/-- mtol -/
abbrev crMtol : Fin 96 := 0x29
/-- mdiv -/
abbrev crMdiv : Fin 96 := 0x2A
/-- wheybase -/
abbrev crWheybase : Fin 96 := 0x30
/-- wheylen -/
abbrev crWheylen : Fin 96 := 0x31
/-- decoupst -/
abbrev crDecoupst : Fin 96 := 0x32
/-- slice -/
abbrev crSlice : Fin 96 := 0x38
/-- tick -/
abbrev crTick : Fin 96 := 0x39
/-- trapcause -/
abbrev crTrapcause : Fin 96 := 0x40
/-- trapinfo -/
abbrev crTrapinfo : Fin 96 := 0x41
/-- trappc -/
abbrev crTrappc : Fin 96 := 0x42
/-- ctxid -/
abbrev crCtxid : Fin 96 := 0x48
/-- compid -/
abbrev crCompid : Fin 96 := 0x49
/-- taskid -/
abbrev crTaskid : Fin 96 := 0x4A
/-- tilec -/
abbrev crTilec : Fin 96 := 0x4C
/-- argp -/
abbrev crArgp : Fin 96 := 0x4D
/-- livemap -/
abbrev crLivemap : Fin 96 := 0x50

/-- The number of lbeg, lend or lcnt of a loop level (R16). -/
def loopReg (base : Fin 96) (l : Fin 2) : Fin 96 := if l = 0 then base else base + 4

/-- The number of a tile's status register (R16). -/
def tstatReg (t : TileNo) : Fin 96 := Fin.ofNat 96 (crTstat.val + t.val)

/-- A compute core (R14). -/
def isCompute : CoreId → Bool
  | .compute _ _ => true
  | _ => false

/-- A partition core (R14). -/
def isPartition : CoreId → Bool
  | .partition _ => true
  | _ => false

/-- The cluster of a core; the Umpire stands in none, and 32 is its own number: it shares no cluster store (R235, R249). -/
def clusterOf : CoreId → Nat
  | .compute cl _ => cl
  | .partition cl => cl
  | .umpire => 32

/-- The number of a core within its cluster (R19). -/
def coreNumber : CoreId → Nat
  | .compute _ k => k
  | _ => 63

/-- The cluster of the die that a core stands on: 0 for the Umpire of the vat 0 die, 30 for the standby (R19). -/
def dieCluster (standby : Bool) (k : CoreId) : Nat :=
  if decide (k = .umpire) then (if standby then 30 else 0) else clusterOf k

/-- coreno of a core (R19). -/
def corenoOf (standby : Bool) (k : CoreId) : Word :=
  let cl := dieCluster standby k
  BitVec.ofNat 64 ((if isCompute k then 0 else 2 ^ 15) + cl * 2 ^ 10 + cl / 2 * 2 ^ 6 + coreNumber k)

/-- Scalar register n as read: s0 reads as zero (R15, R29). -/
def Core.rs (c : Core) (r : Reg) : Word := if r = 0 then 0 else c.s[r]

/-- Vector register n as read (R29). -/
def Core.rv (c : Core) (r : Reg) : Vec := c.v[r]

/-- Predicate register n as read: p0 reads as all ones (R15). -/
def Core.rp (c : Core) (r : PReg) : Pred := if r = 0 then BitVec.allOnes 512 else c.p[r]

/-- A control register as stored. -/
def Core.cr (c : Core) (n : Fin 96) : Word := c.ctl[n]

/-- Sets a control register. -/
def Core.setCr (c : Core) (n : Fin 96) (x : Word) : Core := { c with ctl := c.ctl.set n x }

/-- The checking scoreboard is on (R18, R35). -/
def Core.chk (c : Core) : Bool := (c.cr crCorecfg).getLsbD 0

/-- The rounding and saturation that govern a bundle: RNE without saturation where there is no fmt (R48). -/
def Core.rnd (c : Core) : RndCtl :=
  if isCompute c.id then
    ⟨Rm.ofCode (bits (c.cr crFmt).toNat 6 2), (c.cr crFmt).getLsbD 8⟩
  else rneOff

/-- Bytes of the scratchpad (R20, R21). -/
def Core.scratchSize (c : Core) : Nat := if isCompute c.id then 0x100000 else 0x200000

/-- A pending write, entered in its producer's issue cycle with its latency (R32, R33). A write of latency 2 or more to s0 or p0, which is
discarded, takes an entry like any other: the model's choice (log 54). -/
def Core.enter (c : Core) (slot : Nat) (lat : Nat) (d : Dest) (value : Nat) (flags : Flags) : Core :=
  { c with shadow := c.shadow ++ [⟨d, value, flags, lat, c.age, slot⟩] }

/-- A scalar result (R110). -/
def Core.enterS (c : Core) (slot lat : Nat) (r : Reg) (x : Word) : Core := c.enter slot lat (.scalar r) x.toNat 0

/-- A vector result (R142). -/
def Core.enterV (c : Core) (slot lat : Nat) (r : Reg) (x : Vec) : Core := c.enter slot lat (.vector r) x.toNat 0

/-- A predicate result (R114). -/
def Core.enterP (c : Core) (slot lat : Nat) (r : PReg) (x : Pred) : Core := c.enter slot lat (.pred r) x.toNat 0

/-- A control-register write, which governs the next bundle (R17). -/
def Core.enterCr (c : Core) (slot : Nat) (n : Fin 96) (x : Word) : Core := c.enter slot 1 (.ctl n) x.toNat 0

/-- Writes a scalar register; a write to s0 is discarded (R15). -/
def Core.writeS (c : Core) (r : Reg) (x : Word) : Core := if r = 0 then c else { c with s := c.s.set r x }

/-- Writes a vector register. -/
def Core.writeV (c : Core) (r : Reg) (x : Vec) : Core := { c with v := c.v.set r x }

/-- Writes a predicate register; a write to p0 is discarded (R15). -/
def Core.writeP (c : Core) (r : PReg) (x : Pred) : Core := if r = 0 then c else { c with p := c.p.set r x }

/-- Bits of tstat that MDRAIN writes: [15:8] and [4:0] (R179). -/
def drainMask : Word := 0xFF1F

/-- Bits of fmt that FMT and FMTS write: [9:0] (R172). -/
def fmtMask : Word := 0x3FF

/-- Bits that a control register has, by number (R16, R18, R37, R179, R312): fields that are not described read as zero. -/
def crMask (n : Nat) : Word :=
  if 0x20 ≤ n ∧ n ≤ 0x27 then 0xFFFFFFFF
  else if n = 0x28 then 0xFFFF
  else if n = 0x29 ∨ n = 0x2A then 0xFFFFFFFF
  else if n = 0x30 then 0xFFFFF
  else if n = 0x31 then 0x1FFFF
  else if n = 1 then 0x1F03FF
  else if n = 2 then 0xFF8FFFFFFFFFFFFF
  else if n = 0x10 then 3
  else if 0x14 ≤ n ∧ n ≤ 0x17 then 0xFFFFFFFFFFFFFF9F
  else if n = 0x40 then 0xFF
  else if n = 0x48 then 0x1FF
  else if n = 0x49 then 0xFF
  else if n = 0x4C then 0xFFFFFFFFFFFF
  else if n ∈ [0, 4, 5, 6, 8, 9, 10, 0x32, 0x38, 0x41, 0x42, 0x4A, 0x4D, 0x50] then BitVec.allOnes 64
  else 0

/-- Replaces the bits under a mask. -/
def mergeBits (mask old new : Word) : Word := (old &&& ~~~mask) ||| (new &&& mask)

/-- A value arrives in its destination (R15, R37, R160, R173, R179). -/
def Core.writeDest (c : Core) (d : Dest) (v : Nat) : Core :=
  match d with
  | .scalar r => c.writeS r (BitVec.ofNat 64 v)
  | .vector r => c.writeV r (BitVec.ofNat 4096 v)
  | .pred r => c.writeP r (BitVec.ofNat 512 v)
  | .fmt true => c.setCr crFmt (BitVec.ofNat 64 v)
  | .fmt false => c.setCr crFmt (mergeBits fmtMask (c.cr crFmt) (BitVec.ofNat 64 v))
  | .latch i =>
    match i with
    | 0 => { c with sla := BitVec.ofNat 32768 v }
    | 1 => { c with slb := BitVec.ofNat 32768 v }
    | 2 => { c with slq := BitVec.ofNat 4096 v }
    | _ => { c with sla := 0, slb := 0, slq := 0 }
  | .tstat t => c.setCr (tstatReg t) (mergeBits drainMask (c.cr (tstatReg t)) (BitVec.ofNat 64 v))
  | .ctl n =>
    let c' := c.setCr n (BitVec.ofNat 64 v)
    if n = crWheybase ∨ n = crWheylen then { c' with wi := 0, ri := 0 } else c'

/-- Sets vector-status flags, which are sticky; a core without fmt keeps none (R38, R48). -/
def Core.setFlags (c : Core) (f : Flags) : Core :=
  if isCompute c.id then c.setCr crFmt (c.cr crFmt ||| (f.zeroExtend 64 <<< 16)) else c

/-- An interlocked operation of the A or B slot becomes outstanding (R28, R110): of two that one bundle makes on one register the
higher slot's result stands (R30). -/
def Core.awaitKind (c : Core) (kind : IlkKind) (dest : Option Dest) : Core :=
  { c with ilk := c.ilk.map (fun o => if dest.isSome ∧ o.dest = dest ∧ o.age = c.age then { o with dest := none } else o) ++ [⟨kind, dest, c.age⟩] }

/-- Whether one entry lands before another of the same cycle: by age, then by slot (R30, R309). -/
def Entry.before (x y : Entry) : Bool := decide (x.age < y.age) || (decide (x.age = y.age) && decide (x.slot ≤ y.slot))

/-- Inserts an entry in landing order. -/
def insertEntry (e : Entry) : List Entry → List Entry
  | [] => [e]
  | x :: xs => if x.before e then x :: insertEntry e xs else e :: x :: xs

/-- Entries in landing order (R309). -/
def sortEntries (es : List Entry) : List Entry := es.foldr insertEntry []

/-- Values of entries that land in one cycle, in order (R30). -/
def Core.landAll (c : Core) (es : List Entry) : Core := es.foldl (fun c e => c.writeDest e.dest e.value) c

/-- The flags of entries that land in one cycle (R38). -/
def flagsOf (es : List Entry) : Flags := es.foldl (fun f e => f ||| e.flags) 0

/-- One issue cycle of the shadow queue: every entry counts down (R32). -/
def Core.countDown (c : Core) : Core :=
  { c with shadow := c.shadow.map (fun e => { e with remaining := e.remaining - 1 }) }

/-- Entries whose count is spent land in order; their flags are joined after every write, so that a set flag is never lost
(R30, R32, R38). -/
def Core.landDue (c : Core) : Core :=
  let due := sortEntries (c.shadow.filter (fun e => decide (e.remaining = 0)))
  (({ c with shadow := c.shadow.filter (fun e => decide (e.remaining ≠ 0)) } : Core).landAll due).setFlags (flagsOf due)

/-- A fault found after issue by a word of the V or M slot is due; one that no slot is noted for is of the L slot (R74, R304). -/
def Core.addFault (c : Core) (slot : Nat) (t : Trap) : Core :=
  { c with due := c.due ++ [t], pending := { c.pending with slots := c.pending.slots ++ [(t, slot)] } }

/-- One issue cycle of the return queue (R159). -/
def Core.rqCount (c : Core) : Core :=
  { c with rq := c.rq.map (fun e => { e with remaining := e.remaining - 1 }) }

/-- Element i of width w bits of a vector (R142). -/
def lane (w : Nat) (x : Vec) (i : Nat) : Nat := x.toNat / 2 ^ (w * i) % 2 ^ w

/-- A vector from its elements of width w bits; elements beyond the list are 0 (R142). -/
def packLanes (w : Nat) : List Nat → Nat
  | [] => 0
  | x :: xs => x % 2 ^ w + 2 ^ w * packLanes w xs

/-- The elements of width w bits of a vector (R142). -/
def lanesOf (w : Nat) : Nat → Nat → List Nat
  | 0, _ => []
  | n + 1, x => x % 2 ^ w :: lanesOf w n (x / 2 ^ w)

/-- Number of elements of width w bits (R142). -/
def laneCount (w : Nat) : Nat := 4096 / w

/-- The elements of a vector at a width in bits. -/
def vlanes (w : Nat) (x : Vec) : List Nat := lanesOf w (laneCount w) x.toNat

/-- The governing bits of the elements of a width: the bit of the lowest byte of each (R15, R142). -/
def governs (w : Nat) (p : Pred) : List Bool := (List.range (laneCount w)).map (fun i => p.getLsbD (i * (w / 8)))

/-- A predicate from one bit per element: every bit of an element takes its value (R147). -/
def spreadBits (w : Nat) (bs : List Bool) : Pred :=
  BitVec.ofNat 512 (packLanes (w / 8) (bs.map (fun b => if b then 2 ^ (w / 8) - 1 else 0)))

/-- Merging predication: an element whose bit is 0 keeps the old value (R142). -/
def mergeLanes (w : Nat) (p : Pred) (old new : List Nat) : Vec :=
  BitVec.ofNat 4096 (packLanes w (List.zipWith (fun g on => if g then on.2 else on.1) (governs w p) (old.zip new)))

/-- A vector with byte lane j from the second where bit j is set, else from the first (R124). -/
def mergeBytes (p : Pred) (old new : Vec) : Vec := mergeLanes 8 p (vlanes 8 old) (vlanes 8 new)

end Sys2Proof.Machine
end

