-- ==== Sys2Proof/Machine/Global.lean ====
section
/-! DEFINITION. Global memory as a party sees it: translation (R319 to R322, R339), the crypt path (R344), poison (R411),
pending stores and their acknowledgement (R249, R250), homes (R319) and fenced vats (R254). -/

namespace Sys2Proof.Machine

/-- Kinds of party that differ in R339: a task; a partition core, sampler, queue unit or distributor; the Umpire. -/
inductive PartyKind where
  | task | partition | umpire
  deriving DecidableEq, Repr

/-- A party: its kind, context, compartment and the core it stands on (R235, R339). -/
structure Party where
  kind : PartyKind
  ctx : Nat
  comp : Nat
  core : CoreId
  deriving DecidableEq, Repr

/-- What an access needs of its page (R321). -/
structure Need where
  r : Bool
  w : Bool
  x : Bool
  deriving DecidableEq, Repr

/-- A read. -/
def Need.read : Need := ⟨true, false, false⟩
/-- A write. -/
def Need.write : Need := ⟨false, true, false⟩
/-- A read-modify-write. -/
def Need.rmw : Need := ⟨true, true, false⟩
/-- An instruction fetch. -/
def Need.fetch : Need := ⟨false, false, true⟩

/-- A physical address with the crypt label of its page, whether the page is poisoned, and its key slot (R320, R321). -/
structure Xlat where
  pa : Nat
  label : Nat × Nat
  psn : Bool
  slot : Nat
  deriving DecidableEq, Repr

/-- A context-table entry at reset (R306). -/
def Ctx.fresh : Ctx := ⟨none, 0, 0, false, 0, 0, 0, 0⟩

/-- A key slot at reset (R341). -/
def KeySlot.fresh : KeySlot := ⟨0, 0, 0, false, 0, 0, 0, 0⟩

/-- A vat at reset: Live, its launch table empty, rhcfg as R420 gives it (R287, R414). -/
def Vat.fresh : Vat := ⟨.live, [], 0, 48 * 2 ^ 40 + 2048 * 2 ^ 16 + 85 * 2 ^ 8, [], [], false, 0, []⟩

/-- A queue-table entry at reset: a stopped item queue of class U (R276). -/
def Queue.fresh : Queue :=
  ⟨0, 0, 8, 0, 0, 0, 65536, 0xFFFF, 0, 0, 0, 0, 0, 8, 0, 0, [], []⟩

/-- A partition that does not exist (R291). -/
def Part.fresh : Part := ⟨false, 0, 0, 0, 0, 0, 0, 0, 0, [], 0, 0, 0, false, none, none⟩

/-- A virtual function at reset (R286, R351). -/
def Vf.fresh : Vf := ⟨none, 0, 0, 0, 0, 0, 0, 0, 0, .unlocked, 0, none, 0⟩

/-- The context of a number. -/
def State.ctx (s : State) (n : Nat) : Ctx := look Ctx.fresh s.ctxs n
/-- The key slot of a number. -/
def State.key (s : State) (n : Nat) : KeySlot := look KeySlot.fresh s.keys n
/-- The label of a line written under a key slot (R344): the key and the generation of its tweak. Slot 0 holds the table key, which no
load gives (R321). -/
def State.keyLabel (s : State) (n : Nat) : Nat × Nat := if n = 0 then (0, 0) else ((s.key n).key.toNat + 1, (s.key n).gen)

/-- The vat of a number. -/
def State.vat (s : State) (n : Nat) : Vat := look Vat.fresh s.vats n
/-- The queue of a number in a partition. -/
def State.queue (s : State) (part qn : Nat) : Queue := look Queue.fresh s.queues (part, qn)
/-- The partition of a number. -/
def State.part (s : State) (n : Nat) : Part := look Part.fresh s.parts n
/-- The virtual function of a number. -/
def State.vf (s : State) (n : Nat) : Vf := look Vf.fresh s.vfs n
/-- The cluster of a number. -/
def State.cluster (s : State) (n : Nat) : Cluster := look Cluster.fresh s.clusters n

/-- The core of a name, wherever it is held. -/
def State.core (s : State) (k : CoreId) : Core := if s.c.id = k then s.c else look (Core.dark k) s.others k

/-- Replaces a core. -/
def State.setCore (s : State) (c : Core) : State :=
  if s.c.id = c.id then { s with c := c } else { s with others := put s.others c.id c }

/-- Replaces a queue. -/
def State.setQueue (s : State) (part qn : Nat) (q : Queue) : State := { s with queues := put s.queues (part, qn) q }
/-- Replaces a cluster. -/
def State.setCluster (s : State) (n : Nat) (c : Cluster) : State := { s with clusters := put s.clusters n c }
/-- Replaces a partition. -/
def State.setPart (s : State) (n : Nat) (p : Part) : State := { s with parts := put s.parts n p }
/-- Replaces a virtual function. -/
def State.setVf (s : State) (n : Nat) (v : Vf) : State := { s with vfs := put s.vfs n v }
/-- Replaces a context. -/
def State.setCtx (s : State) (n : Nat) (c : Ctx) : State := { s with ctxs := put s.ctxs n c }
/-- Replaces a vat. -/
def State.setVat (s : State) (n : Nat) (v : Vat) : State := { s with vats := put s.vats n v }
/-- Replaces a key slot. -/
def State.setKey (s : State) (n : Nat) (k : KeySlot) : State := { s with keys := put s.keys n k }

/-- The next value of the free sequence is used up. -/
def State.tickFree (s : State) : State := { s with freeCtr := s.freeCtr + 1 }

/-- The party of a core's own accesses (R235). -/
def Core.party (c : Core) : Party :=
  ⟨match c.id with | .compute _ _ => .task | .partition _ => .partition | .umpire => .umpire,
   bits (c.cr crCtxid).toNat 0 9, bits (c.cr crCompid).toNat 0 8, c.id⟩

/-- The partition that owns a cluster (R291). The Umpire belongs to none: its handles and descriptors name the partition of the cluster
that its coreno names, the model's choice (log 70). -/
def State.partOf (s : State) (cl : Nat) : Nat :=
  let cl := if cl = 32 then dieCluster s.umpire.standby .umpire else cl
  match s.parts.find? (fun e => e.2.exists' && e.2.clusters.getLsbD cl) with
  | some e => e.1
  | none => 32

/-- The home of a physical line: its module and vat (R319). -/
def homeOf (pa : Nat) : Nat := pa / 2 ^ 36

/-- The home is a vat of this module that is not Live (R414, R415). -/
def State.fenced (s : State) (pa : Nat) : Bool := decide (homeOf pa < 16) && decide ((s.vat (homeOf pa)).state ≠ .live)

/-! ### Lines under the crypt path (R344) -/

/-- The label that stands at a line in a list of breakpoints in rising order: a breakpoint gives the label from its line on. -/
def labelAt : List (Nat × (Nat × Nat)) → (Nat × Nat) → Nat → Nat × Nat
  | [], d, _ => d
  | (x, l) :: t, d, line => if x ≤ line then labelAt t l line else d

/-- Breakpoints below a line. -/
def labelBelow (line : Nat) (t : List (Nat × (Nat × Nat))) : List (Nat × (Nat × Nat)) := t.filter (fun e => decide (e.1 < line))

/-- Breakpoints above a line. -/
def labelAbove (line : Nat) (t : List (Nat × (Nat × Nat))) : List (Nat × (Nat × Nat)) := t.filter (fun e => decide (line < e.1))

/-- Sets the label of n lines. -/
def labelSet (t : List (Nat × (Nat × Nat))) (line n : Nat) (l : Nat × Nat) : List (Nat × (Nat × Nat)) :=
  labelBelow line t ++ (line, l) :: (line + n, labelAt t (0, 0) (line + n)) :: labelAbove (line + n) t

/-- The label under which a line was last written; (0, 0), the tables' own, where nothing has written it (R321). -/
def State.labelOf (s : State) (line : Nat) : Nat × Nat := labelAt s.labels (0, 0) line

/-- A label as a number. -/
def labelCode (l : Nat × Nat) : Nat := l.1 * 2 ^ 16 + l.2 % 2 ^ 16

/-- A line read under a label: its bytes if it was written under that label, else bytes that nothing states (R344). -/
def State.line (s : State) (l : Nat × Nat) (line : Nat) : Nat :=
  let raw := memRead s.mem (64 * line) 64
  if s.labelOf line = l then raw
  else (Config.foreignLine line (labelCode (s.labelOf line) * 2 ^ 32 + labelCode l) raw).toNat

/-- n bytes within one line under a label. -/
def State.plain (s : State) (l : Nat × Nat) (pa n : Nat) : Nat := field (s.line l (pa / 64)) (pa % 64) n

/-- Marks a line poisoned. -/
def State.poisonLine (s : State) (line : Nat) : State := { s with poison := insertNew line s.poison }

/-- Writes bytes within one line under a label. Bytes of the line that are not written keep the value they read as under that
label (R344); a write of the whole line clears its poison (R411); a location on a fenced vat is not written (R254). -/
def State.writeLine (s : State) (l : Nat × Nat) (pa : Nat) (bs : List (BitVec 8)) : State :=
  if s.fenced pa then s
  else if bs.length = 64 then
    { s with mem := memWrite s.mem pa bs, labels := labelSet s.labels (pa / 64) 1 l, poison := s.poison.filter (· ≠ pa / 64) }
  else if s.labelOf (pa / 64) = l then { s with mem := memWrite s.mem pa bs }
  else
    { s with
      mem := memWrite (memPut s.mem (pa / 64 * 64) 64 (s.line l (pa / 64))) pa bs
      labels := labelSet s.labels (pa / 64) 1 l }

/-- Writes a block of 4 KiB under a label (R223). -/
def State.writeBlock (s : State) (l : Nat × Nat) (pa v : Nat) : State :=
  if s.fenced pa then s
  else
    { s with
      mem := memPow s.mem pa 12 v
      labels := labelSet s.labels (pa / 64) 64 l
      poison := s.poison.filter (fun x => decide (x < pa / 64 ∨ pa / 64 + 64 ≤ x)) }

/-- Whether n lines from one on all stand under a label. -/
def State.uniform (s : State) (l : Nat × Nat) (line n : Nat) : Bool :=
  decide (s.labelOf line = l) &&
    s.labels.all (fun e => decide (e.1 ≤ line) || decide (line + n ≤ e.1) || decide (e.2 = l))

/-- A block of 4 KiB read under a label. -/
def State.readBlock (s : State) (l : Nat × Nat) (pa : Nat) : Nat :=
  if s.uniform l (pa / 64) 64 then memRead s.mem pa 4096
  else (List.range 64).foldl (fun v i => v + s.line l (pa / 64 + i) * 2 ^ (512 * i)) 0

/-- A line reads as poisoned: it is marked, or its home is fenced (R254, R411). -/
def State.poisoned (s : State) (line : Nat) : Bool := decide (line ∈ s.poison) || s.fenced (64 * line)

/-! ### Translation -/

/-- A field that must be zero in an entry is not (R320). -/
def entryZeroSet (e : Nat) : Bool :=
  if bitAt e 1 then decide (bits e 63 1 ≠ 0 ∨ bits e 48 6 ≠ 0 ∨ bits e 5 11 ≠ 0)
  else decide (bits e 48 16 ≠ 0 ∨ bits e 2 12 ≠ 0)

/-- The walk of R321 from a table, with n levels left: the leaf entry and the page size in bits. -/
def State.walk (s : State) (va : Nat) : Nat → Nat → Except Cause (Nat × Nat)
  | 0, _ => .error .translation
  | n + 1, t =>
    let w := 16 + 11 * n
    let a := t + 8 * bits va w 11
    if s.poisoned (a / 64) then .error .poisonConsumed
    else
      let e := s.plain (0, 0) a 8
      if !bitAt e 0 || entryZeroSet e then .error .translation
      else if bitAt e 1 then
        if bits e 16 (w - 16) ≠ 0 then .error .translation else .ok (e, w)
      else s.walk va n (bits e 14 34 * 2 ^ 14)

/-- A cached translation of an address, if the device still keeps it (R322). -/
def State.cachedEntry (s : State) (ctx va : Nat) : Option (Nat × Nat) :=
  match s.cached.find? (fun c => decide (c.ctx = ctx ∧ va / 2 ^ c.bits = c.page)) with
  | some c => if Config.keepsTranslation s.freeCtr then some (c.entry.toNat, c.bits) else none
  | none => none

/-- The entry that an address translates through (R321, R322). -/
def State.entryOf (s : State) (ctx va : Nat) : Except Cause (Nat × Nat) :=
  match s.cachedEntry ctx va with
  | some e => .ok e
  | none => s.walk va 3 (s.ctx ctx).root.toNat

/-- A party may use a page under a slot of a kind (R339, R346): memory slots; a code slot for a fetch, for a read by a party that is no task,
and for a write by the Umpire; a host-link slot for a party that is no task. Nothing else is reached through a page (R323). -/
def kindAllows (p : PartyKind) (need : Need) (kind : Nat) : Bool :=
  match kind with
  | 2 => true
  | 4 => decide (p ≠ .task)
  | 5 => need.x || (decide (p ≠ .task) && !need.w) || decide (p = .umpire)
  | _ => false

/-- The check of a page's key slot for a party (R321, R339): the slot's world, then its compartment, then its kind. -/
def State.checkKey (s : State) (p : Party) (need : Need) (slot : Nat) : Option Cause :=
  let k := s.key slot
  let foreign := decide ((k.kind = 2 ∨ k.kind = 4) ∧ k.comp ≠ p.comp)
  if k.wld ≠ (s.ctx p.ctx).wld ∨ k.st ≠ 1 then some .permission
  else if foreign && decide (p.kind = .task) then some .compartment
  else if (foreign && !k.pc) || !kindAllows p.kind need k.kind then some .permission
  else none

/-- The rights of an entry (R321). -/
def entryAllows (e : Nat) (n : Need) : Bool :=
  (!n.r || bitAt e 2) && (!n.w || (bitAt e 3 && !bitAt e 55)) && (!n.x || bitAt e 4)

/-- Translation of an access of a party (R321): the checks in their order. In a context that is not valid every access of a party raises
TRANSLATION, the model's choice (log 81): R306 tests `v` at a binding. -/
def State.translate (s : State) (p : Party) (va : Nat) (need : Need) : Except Cause Xlat :=
  if 2 ^ 49 ≤ va ∨ (s.ctx p.ctx).v = false then .error .translation
  else
    match s.entryOf p.ctx va with
    | .error c => .error c
    | .ok (e, w) =>
      let slot := bits e 56 7
      match s.checkKey p need slot with
      | some c => .error c
      | none =>
        if entryAllows e need then
          .ok ⟨bits e 16 32 * 2 ^ 16 + va % 2 ^ w, s.keyLabel slot, bitAt e 54, slot⟩
        else .error .permission

/-- The device caches the translation an access used (R322). -/
def State.remember (s : State) (ctx va : Nat) : State :=
  match s.entryOf ctx va with
  | .error _ => s
  | .ok (e, w) =>
    let c : Cached := ⟨ctx, va / 2 ^ w, w, BitVec.ofNat 64 e⟩
    { s with cached := insertNew c s.cached }

/-! ### Accesses of one line -/

/-- A store as its line takes it: its bytes, and the poison it carries (R192, R249). -/
def State.takeStore (s : State) (x : PStore) : State :=
  let s' := s.writeLine x.label x.pa x.bytes
  if x.psn && !s.fenced x.pa then s'.poisonLine (x.pa / 64) else s'

/-- A stale copy of a line: the bytes before a store and the poison of their line (R255), where the line still stands under the store's
label. -/
def State.staleBytes (s : State) (y : Stale) : State :=
  if s.labelOf (y.pa / 64) = y.label then
    { s with
      mem := memWrite s.mem y.pa y.old
      poison := if y.psn then insertNew (y.pa / 64) s.poison else s.poison.filter (fun l => decide (l ≠ y.pa / 64)) }
  else s

/-- What the cluster store of a cluster shows (R249): the home's lines, its stale copies, and its own pending stores in order. -/
def State.view (s : State) (cl : Nat) : State :=
  (s.stores.filter (fun x => decide (clusterOf x.src = cl))).foldl State.takeStore
    ((s.stale.filter (fun y => decide (cl ∈ y.cls))).foldr (fun y s => s.staleBytes y) s)

/-- Two ranges of bytes share a byte. -/
def overlap (a n b m : Nat) : Bool := decide (0 < n ∧ 0 < m ∧ a < b + m ∧ b < a + n)

/-- The stores that a read of n bytes in a core's cluster observes and that are not performed everywhere: those pending in the cluster, and
those whose stale copies are in other clusters (R249). The reads of an engine observe the issuing core's own stores among them. -/
def State.observedAll (s : State) (k : CoreId) (pa n : Nat) : List Nat :=
  (s.stores.filter (fun x => decide (clusterOf x.src = clusterOf k) && overlap x.pa x.bytes.length pa n)).map (·.id) ++
    (s.stale.filter (fun y => decide (clusterOf k ∉ y.cls) && overlap y.pa y.old.length pa n)).map (·.id)

/-- The identities of stores that an ordering state lists with their ages. -/
def idsOf (l : List (Nat × Nat)) : List Nat := l.map (·.1)

/-- The stores of others that a read of n bytes by a core observes (R249). -/
def State.observed (s : State) (k : CoreId) (pa n : Nat) : List Nat :=
  (s.observedAll k pa n).filter (fun i => decide (i ∉ idsOf (s.core k).ord.own))

/-- The value of a read of n bytes within a line by a core's party (R249, R255, R321). -/
def State.readGlobal (s : State) (k : CoreId) (x : Xlat) (n : Nat) : Except Cause Nat :=
  let v := s.view (clusterOf k)
  if x.psn || v.poisoned (x.pa / 64) then .error .poisonConsumed else .ok (v.plain x.label x.pa n)

/-- A cluster store gives up its stale copies of a line; no cluster named means every one (R249). -/
def State.dropCopies (s : State) (cl : Option Nat) (line : Nat) : State :=
  if s.stale.isEmpty then s
  else
    { s with stale := s.stale.filterMap (fun y =>
        if y.pa / 64 = line then
          let cls := match cl with | some c => y.cls.filter (fun x => decide (x ≠ c)) | none => []
          if cls.isEmpty then none else some { y with cls := cls }
        else some y) }

/-- Clusters whose cluster stores hold a copy of a store's line when its home orders it: those that hold a stale copy already, and
others, which no rule names (R249). -/
def State.copyHolders (s : State) (x : PStore) : List Nat :=
  (List.range 32).filter (fun c => decide (c ≠ clusterOf x.src) &&
    (s.stale.any (fun y => decide (y.pa / 64 = x.pa / 64 ∧ c ∈ y.cls)) || Config.holdsCopy x.id c))

/-- A store is not performed everywhere yet (R249). -/
def State.isPending (s : State) (i : Nat) : Bool := s.stores.any (fun x => decide (x.id = i)) || s.stale.any (fun y => decide (y.id = i))

/-! ### What a store carries (R236, R243 to R245) -/

/-- What of a carry lies outside n bytes. -/
def Carry.cut (e : Carry) (pa n : Nat) : List Carry :=
  if overlap e.pa e.n pa n then
    (if e.pa < pa then [{ e with n := pa - e.pa }] else []) ++
      (if pa + n < e.pa + e.n then [{ e with pa := pa + n, n := e.pa + e.n - (pa + n) }] else [])
  else [e]

/-- What of a carry lies within n bytes. -/
def Carry.part (e : Carry) (pa n : Nat) : List Carry :=
  if overlap e.pa e.n pa n then [{ e with pa := Nat.max e.pa pa, n := Nat.min (e.pa + e.n) (pa + n) - Nat.max e.pa pa }] else []

/-- What stands at the bytes of a list after a write of n of them (R243, R244): the write of another party ends the release sequence of what
it replaces, an RMW and the party's own write go on with it; what the write itself carries comes beside. -/
def carryOver (l : List Carry) (src : CoreId) (w : Writer) (pa n : Nat) (rmw : Bool) (ids : List (Scope × Nat)) : List Carry :=
  l.flatMap (fun e => if rmw || decide (e.writer = w) then [e] else e.cut pa n) ++ (if ids.isEmpty then [] else [⟨src, w, pa, n, ids⟩])

/-- What carries a store that is not performed everywhere. -/
def State.liveCarry (s : State) (l : List Carry) : List Carry := l.filter (fun e => e.ids.any (fun i => s.isPending i.2))

/-- A store acknowledged by its home: it is written there, and the copies of other clusters are stale until the home has invalidated
them (R249). It takes its place in the coherence order, and in the release sequences of its bytes (R243). A store to a fenced vat is lost
(R254). -/
def State.acknowledge (s : State) (x : PStore) : State :=
  let old := bytesOf x.bytes.length (s.plain x.label x.pa x.bytes.length)
  let psn := decide (x.pa / 64 ∈ s.poison)
  let cls := s.copyHolders x
  let part := s.carry.flatMap (fun e => e.part x.pa x.bytes.length)
  let s' := (s.takeStore x).dropCopies (some (clusterOf x.src)) (x.pa / 64)
  let s' :=
    { s' with
      stores := s'.stores.filter (fun y => decide (y.id ≠ x.id))
      stale := if cls.isEmpty || s.fenced x.pa then s'.stale else s'.stale ++ [⟨x.id, x.src, x.eng, x.pa, old, psn, x.label, cls, part⟩] }
  if s.fenced x.pa then s'
  else { s' with carry := s'.liveCarry (carryOver s.carry x.src x.writer x.pa x.bytes.length x.rmw x.carried) }

/-- The home invalidates one of the stale copies that a store has left; no rule says which is the next (R249). -/
def State.invalidateCopy (s : State) (n : Nat) : State :=
  match s.stale.find? (fun y => decide (y.id = n)) with
  | some y => s.dropCopies (some (y.cls.getD (Config.pickCopy s.freeCtr % y.cls.length) 0)) (y.pa / 64)
  | none => s

/-- Among stores, the latest first, those that must reach their home before a write to some ranges does: those that overlap one, and
earlier ones that overlap these (R242, R246). -/
def settleList : List (Nat × Nat) → List PStore → List PStore
  | _, [] => []
  | rs, x :: xs =>
    if rs.any (fun r => overlap x.pa x.bytes.length r.1 r.2) then x :: settleList ((x.pa, x.bytes.length) :: rs) xs
    else settleList rs xs

/-- Every pending store of a cluster that must precede a write of n bytes is acknowledged, in order. -/
def State.settle (s : State) (cl pa n : Nat) : State :=
  (settleList [(pa, n)] (s.stores.filter (fun x => decide (clusterOf x.src = cl))).reverse).reverse.foldl State.acknowledge s

/-- What makes a global store of a core: an L-slot access with the age of its bundle, the write-back of a window, or the engine of a
command. -/
inductive StoreBy where
  | access (age : Nat)
  | window
  | engine (seq : Nat)
  deriving DecidableEq, Repr

/-- The command whose engine makes a store. -/
def StoreBy.eng : StoreBy → Option Nat
  | .engine q => some q
  | _ => none

/-- A store of an age is lost: the earliest counts (R254). -/
def Ordering.lose (o : Ordering) (age : Nat) : Ordering :=
  { o with lost := some (match o.lost with | some b => Nat.min b age | .none => age) }

/-- A store of a core, or of the engine of its command, that is lost (R254). A write-back is no L-slot access, and no SYNC waits for it
(R106). -/
def Core.loseStore (c : Core) (by' : StoreBy) : Core :=
  match by' with
  | .access a => { c with ord := { c.ord.lose a with lostOwn := true } }
  | .window => { c with ord := c.ord.lose c.age }
  | .engine q => { c with cmds := c.cmds.map (fun m => if m.seq = q then { m with lost := true } else m) }

/-- The party that makes a store of a core (R235): on a compute core its task, wherever it stands. -/
def State.writer (s : State) (k : CoreId) (by' : StoreBy) : Writer :=
  match by', (s.core k).task with
  | .engine q, _ => .engine q
  | _, some t => .task t.ctx t.slot
  | _, none => .core k

/-- A task that has ended writes no more: a later task in its slot is another party (R235, R243). -/
def State.forgetWriter (s : State) (t : Task) : State :=
  let f (w : Writer) : Writer := if w = .task t.ctx t.slot then .unit else w
  let g (l : List Carry) : List Carry := l.map (fun e => { e with writer := f e.writer })
  { s with
    carry := g s.carry, stores := s.stores.map (fun x => { x with writer := f x.writer })
    stale := s.stale.map (fun y => { y with carry := g y.carry }) }

/-- The order and scope of an L-slot access (R78). -/
def osOf : Instr → Option OrdScope
  | .ldg _ _ _ os => some os | .stg _ _ _ os => some os | .atg _ _ _ _ os => some os | .casg _ _ _ _ os => some os
  | .ats _ _ _ _ os => some os | .cass _ _ _ _ os => some os
  | _ => none

/-- The order holds as a release: .rel, .ar or .sc (R243). -/
def Order.isRel : Order → Bool
  | .rel => true | .ar => true | .sc => true | _ => false

/-- The order holds as an acquire: .acq, .ar or .sc (R243). -/
def Order.isAcq : Order → Bool
  | .acq => true | .ar => true | .sc => true | _ => false

/-- An order of a writer at a scope reaches a party (R235, R236). -/
def scopeReaches (sc : Scope) (src k : CoreId) : Bool :=
  match sc with
  | .core => decide (src = k)
  | .clu => decide (clusterOf src = clusterOf k)
  | .vat => decide (clusterOf src / 2 = clusterOf k / 2)
  | _ => true

/-- Stores that an ordering state meets in the bundle of an age are counted from there on (R249). -/
def Ordering.observe (o : Ordering) (ids : List Nat) (age : Nat) : Ordering :=
  { o with
    seen := o.seen.map (fun e => if e.1 ∈ ids then (e.1, Nat.min e.2 age) else e) ++
      (ids.eraseDups.filter (fun i => decide (i ∉ idsOf o.seen))).map (fun i => (i, age)) }

/-- Adds pending stores of others, met in the bundle of an age, to those that a release of a core covers (R249). -/
def Core.observe (c : Core) (ids : List Nat) (age : Nat) : Core := { c with ord := c.ord.observe ids age }

/-- The stores that a release of a core covers (R245, R249). -/
def Ordering.covered (o : Ordering) : List Nat := idsOf o.own ++ idsOf o.seen

/-- An ordering state as an order before the bundle of an age meets it: what earlier bundles have left (R105, R190). -/
def Ordering.before (o : Ordering) (age : Nat) : Ordering :=
  { o with
    own := o.own.filter (fun e => decide (e.2 < age)), seen := o.seen.filter (fun e => decide (e.2 < age))
    lost := o.lost.filter (fun a => decide (a < age)) }

/-- What a write with an order carries, by a party in an ordering state, in the bundle of an age (R244, R245): as a release the stores that
it covers, and those of the release fences before it. -/
def State.writeCarries (s : State) (o : Ordering) (os : Option OrdScope) (age : Nat) : List (Scope × Nat) :=
  let own := match os with
    | some os => if Order.isRel os.ord then (o.before age).covered.map (fun i => (os.scope, i)) else []
    | none => []
  (own ++ o.rel).filter (fun e => s.isPending e.2)

/-- The carries as the cluster store of a cluster shows them (R243, R249): those of the homes and the scratchpads, of its stale copies, and
of its own pending stores in order. -/
def State.carriesSeen (s : State) (cl : Nat) : List Carry :=
  (s.stores.filter (fun x => decide (clusterOf x.src = cl))).foldl
    (fun l x => carryOver l x.src x.writer x.pa x.bytes.length x.rmw x.carried)
    ((s.stale.filter (fun y => decide (cl ∈ y.cls))).foldr (fun y l => l.flatMap (fun e => e.cut y.pa y.old.length) ++ y.carry) s.carry)

/-- The stores that n bytes carry to a core (R245). -/
def State.carriedTo (s : State) (k : CoreId) (pa n : Nat) : List Nat :=
  ((s.carriesSeen (clusterOf k)).filter (fun e => overlap e.pa e.n pa n)).flatMap (fun e =>
    (e.ids.filter (fun i => scopeReaches i.1 e.src k)).map (·.2))

/-- A core has read n bytes: what they carry waits for its acquire (R245). -/
def State.hear (s : State) (k : CoreId) (pa n : Nat) : State :=
  { s with heard := s.heard ++ ((s.carriedTo k pa n).filter s.isPending).map (fun i => (k, Hearing.store i)) }

/-- The scratchpad byte at an offset of a core, as what carries stores: no physical address (R237). -/
def scratchKey (k : CoreId) (off : Nat) : Nat := 2 ^ 60 + (clusterOf k * 64 + coreNumber k) * 2 ^ 22 + off

/-- A write of n bytes of a scratchpad by a core's party, in its place among the writes of these bytes (R243, R245). -/
def State.carryScratch (s : State) (k target : CoreId) (off n : Nat) (rmw : Bool) (ids : List (Scope × Nat)) : State :=
  { s with carry := s.liveCarry (carryOver s.carry k (s.writer k .window) (scratchKey target off) n rmw ids) }

/-- The stores that the scratchpad of a core carries to another: those written there with a release, and those of the owner's own release
fences (R245). -/
def State.scratchCarries (s : State) (k j : CoreId) : List Nat :=
  s.carriedTo k (scratchKey j 0) (2 ^ 22) ++ ((s.core j).ord.rel.filter (fun e => scopeReaches e.1 j k)).map (·.2)

/-- A core acquires in the bundle of an age (R244, R245): what it has read carries, and what its own scratchpad does, its later releases
cover. -/
def State.acquire (s : State) (k : CoreId) (age : Nat) : State :=
  let ids := s.scratchCarries k k ++ (s.heard.filter (fun e => decide (e.1 = k))).flatMap (fun e =>
    match e.2 with
    | .store i => [i]
    | .scratch j => s.scratchCarries k j)
  let s := { s with heard := s.heard.filter (fun e => decide (e.1 ≠ k)) }
  s.setCore ((s.core k).observe (ids.filter (fun i => s.isPending i && decide (i ∉ idsOf (s.core k).ord.own))) age)

/-- A core's own stores that are not performed everywhere, with a new one (R249). -/
def State.addOwn (s : State) (o : Ordering) (id age : Nat) : Ordering := { o with own := o.own.filter (fun e => s.isPending e.1) ++ [(id, age)] }

/-- A new store counts among those of its core (R249, R250): one of an access among its own, a write-back among those that its releases
cover besides. -/
def State.countStore (s : State) (c : Core) (by' : StoreBy) (vat : Nat) : Core :=
  match by' with
  | .access a => { c with ord := { s.addOwn c.ord s.ids a with marks := insertNew vat c.ord.marks } }
  | .window => ({ c with ord := { c.ord with marks := insertNew vat c.ord.marks } } : Core).observe [s.ids] c.age
  | .engine _ => c

/-- A store of bytes within a line by a core's party, or by the engine of its command, with what it carries: it becomes pending and is
counted on its routers (R249, R250). A store whose home is fenced is lost, and fails the releases that count it (R254). -/
def State.storeAs (s : State) (k : CoreId) (by' : StoreBy) (x : Xlat) (bs : List (BitVec 8)) (psn : Bool) (ids : List (Scope × Nat)) : State :=
  let c := s.core k
  if s.fenced x.pa then s.setCore (c.loseStore by')
  else
    let w := s.writer k by'
    let s := s.setCore (s.countStore c by' (homeOf x.pa))
    { s with stores := s.stores ++ [⟨s.ids, k, by'.eng, x.pa, bs, x.label, psn, w, false, ids⟩], ids := s.ids + 1 }

/-- A store of bytes within a line by a core, with an order, in the bundle of an age (R132, R249). -/
def State.storeGlobal (s : State) (k : CoreId) (x : Xlat) (bs : List (BitVec 8)) (os : Option OrdScope) (age : Nat) : State :=
  s.storeAs k (.access age) x bs false (s.writeCarries (s.core k).ord os age)

/-- The write of an atomic, which its home orders at once; it counts among the core's stores until it is performed everywhere (R238,
R249). -/
def State.storeAtomic (s : State) (k : CoreId) (x : Xlat) (bs : List (BitVec 8)) (os : Option OrdScope) (age : Nat) : State :=
  let c := s.core k
  let y : PStore := ⟨s.ids, k, none, x.pa, bs, x.label, false, s.writer k (.access age), true, s.writeCarries c.ord os age⟩
  let s := s.setCore { c with ord := s.addOwn c.ord s.ids age }
  State.acknowledge { s with ids := s.ids + 1 } y

/-- A store of bytes within a line by a party that its home orders at once and that leaves no stale copy, with what it carries: of the queue
unit, the distributor, the memory unit (R238, R243, R249). -/
def State.storeHomeBy (s : State) (src : CoreId) (w : Writer) (x : Xlat) (bs : List (BitVec 8)) (rmw : Bool) (ids : List (Scope × Nat)) : State :=
  let s := s.settle (clusterOf src) x.pa bs.length
  let s := { s with carry := s.liveCarry (carryOver s.carry src w x.pa bs.length rmw ids) }
  (s.writeLine x.label x.pa bs).dropCopies none (x.pa / 64)

/-- A store of a unit of the module at the home (R238, R249). -/
def State.storeHome (s : State) (src : CoreId) (x : Xlat) (bs : List (BitVec 8)) (rmw : Bool) : State := s.storeHomeBy src .unit x bs rmw []

/-- A read by the queue unit or the distributor: of the home (R249, R277). -/
def State.readHome (s : State) (x : Xlat) (n : Nat) : Except Cause Nat :=
  if x.psn || s.poisoned (x.pa / 64) then .error .poisonConsumed else .ok (s.plain x.label x.pa n)

/-- Reads n bytes within a line at a virtual address for a party that is no core. -/
def State.readVirtual (s : State) (p : Party) (va n : Nat) : Except Cause Nat := do
  let x ← s.translate p va Need.read
  s.readHome x n

/-- Writes n bytes within a line at a virtual address for a party that is no core. -/
def State.writeVirtual (s : State) (p : Party) (va n v : Nat) : Except Cause State := do
  let x ← s.translate p va Need.write
  pure (s.storeHome p.core x (bytesOf n v) false)

/-- Lines of a longer range at a virtual address, low bytes first: what is in each line. -/
def chunksOf (va n : Nat) : List (Nat × Nat) :=
  (linesOf va n).map (fun l => (Nat.max va (64 * l), Nat.min (va + n) (64 * l + 64) - Nat.max va (64 * l)))

/-- Reads n bytes at a virtual address for a party that is no core, line by line. -/
def State.readRange (s : State) (p : Party) (va n : Nat) : Except Cause Nat :=
  (chunksOf va n).foldlM (fun v c => do
    let y ← s.readVirtual p c.1 c.2
    pure (v + y * 256 ^ (c.1 - va))) 0

/-- Writes n bytes at a virtual address for a party that is no core, line by line. -/
def State.writeRange (s : State) (p : Party) (va n v : Nat) : Except Cause State :=
  (chunksOf va n).foldlM (fun s c => s.writeVirtual p c.1 c.2 (v / 256 ^ (c.1 - va))) s

/-! ### Host memory (R237): not translated here, reached by a requester's own address -/

/-- Reads n bytes of host memory. -/
def State.hostRead (s : State) (a n : Nat) : Nat := memRead s.host a n

/-- Writes n bytes of host memory. -/
def State.hostWrite (s : State) (a n v : Nat) : State := { s with host := memPut s.host a n v }

/-! ### The timebase and the black box -/

/-- The tick as observed now: the ticks since the last observation are not stated, so they are a free value, and later reads are not less
(R65, R297). -/
def State.observeTick (s : State) : State :=
  { s with tick := BitVec.ofNat 64 (Nat.min (s.tick.toNat + Config.elapsedTicks s.freeCtr) (2 ^ 64 - 1)), freeCtr := s.freeCtr + 1 }

/-- trapinfo of R141 for an address. The address that a local-offset form computes keeps its bits [55:49] as a register address does, the
model's choice (log 27). -/
def addrInfo (a : Nat) : Word := BitVec.ofNat 64 (a % 2 ^ 56)

/-- Lines of an access within a hinted range (R324). -/
def hintLines (h : Hint) (va n : Nat) : Nat :=
  ((linesOf va n).filter (fun l => decide (h.addr / 64 ≤ l ∧ 64 * l < h.addr + h.len))).length

/-- The counts of R324 for n bytes at an address; how many of the lines the cluster store did not serve is a free value. -/
def Core.countHints (c : Core) (va n : Nat) : Core :=
  if c.hints.isEmpty then c
  else
    { c with hints := c.hints.map (fun h =>
        let k := hintLines h va n
        { h with
          accesses := h.accesses + k
          misses := h.misses + Nat.min k (Config.missedLines (va * 2 ^ 64 + h.accesses)) }) }

end Sys2Proof.Machine
end

