-- ==== Sys2Proof/Machine/Pages.lean ====
section
/-! DEFINITION. The register pages that stand in the global address space: a partition's queue table page (R276) and context
table page (R306), where they are, who may map them, and what a load reads there. -/

namespace Sys2Proof.Machine

/-- Bytes of a queue table page: 4,096 entries of 64 (R276). -/
def queuePageBytes : Nat := 0x40000

/-- Bytes of a context table page: one page of 64 KiB holds its entries and registers (R306, R318, R319, R340, R355). -/
def contextPageBytes : Nat := 0x10000

/-- The register page that a physical address lies in, with the offset there (R276, R306). -/
def State.registerPage (s : State) (pa : Nat) : Option (Page × Nat) :=
  s.parts.findSome? (fun e =>
    match e.2.qpage, e.2.cpage with
    | some q, some c =>
      if q ≤ pa ∧ pa < q + queuePageBytes then some (.queueTable e.1, pa - q)
      else if c ≤ pa ∧ pa < c + contextPageBytes then some (.contextTable e.1, pa - c)
      else none
    | _, _ => none)

/-- Where the entry of a queue stands on its page (R276). -/
def State.entryAddr (s : State) (part qn : Nat) : Nat := (s.part part).qpage.getD 0 + 64 * qn

/-- A requester that may map a partition's queue table page: its partition core, the Umpire, the host (R276). Deep off, which leaves the
queue units dark, serves none (R392, log 43). -/
def State.mayMap (s : State) (by' : Requester) (part : Nat) : Bool :=
  !s.umpire.deepOff &&
    match by' with
    | .core (.partition cl) => decide (s.partOf cl = part)
    | .core .umpire => true
    | .core _ => false
    | _ => true

/-- A requester that may map a partition's context table page: its partition core and the host (R306). -/
def State.mayMapContexts (s : State) (by' : Requester) (part : Nat) : Bool := s.mayMap by' part && decide (by' ≠ .core .umpire)

/-- The 64 bytes of a queue-table entry. -/
def queueImage (q : Queue) : Nat :=
  q.base.toNat + q.lgn % 256 * 2 ^ 64 + q.kind.toNat * 2 ^ 72 + q.ctx.toNat * 2 ^ 80 + q.clu % 256 * 2 ^ 96 + q.ntag % 256 * 2 ^ 104 +
    q.slc % 2 ^ 32 * 2 ^ 128 + q.vfm % 2 ^ 32 * 2 ^ 160 + q.err.toNat * 2 ^ 192 + q.head % 2 ^ 32 * 2 ^ 256 + q.tail % 2 ^ 32 * 2 ^ 288

/-- The 64 bytes of a context-table entry (R306). -/
def ctxImage (x : Ctx) : Nat :=
  x.root.toNat + x.wld % 256 * 2 ^ 88 + x.v.toNat * 2 ^ 96 + x.kslot % 256 * 2 ^ 104 + x.supq % 2 ^ 16 * 2 ^ 112 + x.plq % 2 ^ 16 * 2 ^ 128 +
    x.hrep.toNat * 2 ^ 192

/-- The register of a context table page at an offset that is a multiple of 8 (R306, R318, R322, R340, R355); what is only written reads
as zero (R7). -/
def State.contextReg (s : State) (part off : Nat) : Nat :=
  let p := s.part part
  if off = 0x8008 then Nat.min 16 p.inval.length
  else if off = 0x8020 then p.stbase.toNat
  else if off = 0x8028 then p.stcfg.toNat
  else 0

/-- A read of the context table page: 64 bits from an offset on, none of them of the next entry or register. -/
def State.readCtxPage (s : State) (part off : Nat) : Nat :=
  if off < 0x8000 then
    let x := s.ctx (off / 64)
    if x.part = some part then ctxImage x / 256 ^ (off % 64) % 2 ^ 64 else 0
  else s.contextReg part (off / 8 * 8) / 256 ^ (off % 8)

/-- A read of the queue table page. -/
def State.readQueuePage (s : State) (part off : Nat) : Nat :=
  if off < queuePageBytes then queueImage (s.queue part (off / 64)) / 256 ^ (off % 64) % 2 ^ 64 else 0

/-- What a requester reads on a page in the global address space; one that may not map it reads zero (R276, R306). -/
def State.readTablePage (s : State) (by' : Requester) (page : Page) (off : Nat) : Nat :=
  match page with
  | .queueTable p => if s.mayMap by' p then s.readQueuePage p off else 0
  | .contextTable p => if s.mayMapContexts by' p then s.readCtxPage p off else 0
  | _ => 0

end Sys2Proof.Machine
end

