-- ==== Sys2Proof/Machine/Access.lean ====
section
/-! DEFINITION. The scratchpad with its windows, bank groups and poison (R21 to R24, R127, R225), and the accesses of the L
slot that are performed after issue: global and remote loads, stores and atomics, and the side log (R132 to R140, R317). -/

namespace Sys2Proof.Machine

/-! ### Scratchpad -/

/-- n bytes of a scratchpad (R5). -/
def Core.scratchRead (c : Core) (off n : Nat) : Nat := memRead c.scratch off n

/-- A line that n bytes touch is poisoned (R127). -/
def Core.scratchPoisoned (c : Core) (off n : Nat) : Bool := (linesOf off n).any (fun l => decide (l ∈ c.poison))

/-- The offset of a window's region (R200). -/
def Window.off (w : Window) : Nat := bits w.region.toNat 0 20
/-- The length of a window's region in pieces of 4 KiB (R200). -/
def Window.len (w : Window) : Nat := bits w.region.toNat 20 12

/-- The piece of a window that a line of the scratchpad lies in (R225). -/
def Window.pieceOf (w : Window) (off : Nat) : Option Nat :=
  if w.off ≤ off ∧ off < w.off + 4096 * w.len then some ((off - w.off) / 4096) else none

/-- The state of the piece that an offset lies in, if a window holds it. -/
def Core.pieceAt (c : Core) (off : Nat) : Option (Nat × Nat × Piece) :=
  (c.wins.zipIdx).findSome? (fun w =>
    match w.1.pieceOf off with
    | some i => some (w.2, i, w.1.pieces.getD i .clean)
    | none => none)

/-- Sets the state of a piece. -/
def Core.setPiece (c : Core) (win piece : Nat) (st : Piece) : Core :=
  match c.wins[win]? with
  | some w => { c with wins := setNth c.wins win { w with pieces := setNth w.pieces piece st } }
  | none => c

/-- Offsets that stand for the pieces n bytes touch. -/
def touched (off n : Nat) : List Nat := (linesOf off n).map (64 * ·)

/-- n bytes touch a piece that is not filled (R122, R225). -/
def Core.needsFill (c : Core) (off n : Nat) : Bool :=
  (touched off n).any (fun o =>
    match c.pieceAt o with
    | some (_, _, .unfilled) => true
    | some (_, _, .filling) => true
    | _ => false)

/-- A touch starts the fill of every unfilled piece (R225). -/
def Core.startFills (c : Core) (off n : Nat) : Core :=
  (touched off n).foldl (fun c o =>
    match c.pieceAt o with
    | some (w, i, .unfilled) => c.setPiece w i .filling
    | _ => c) c

/-- The fill of a piece that n bytes touch has failed (R225). -/
def Core.badFill (c : Core) (off n : Nat) : Option Trap :=
  ((touched off n).findSome? (fun o => c.badFills.find? (fun b => decide (b.1 = o / 4096 * 4096)))).map (·.2)

/-- A failed fill has been reported to what waited for n bytes: the next touch fills again. -/
def Core.clearBad (c : Core) (off n : Nat) : Core :=
  { c with badFills := c.badFills.filter (fun b => !overlap b.1 4096 off n) }

/-- A store marks the clean pieces it touches dirty (R225). -/
def Core.markDirty (c : Core) (off n : Nat) : Core :=
  if c.wins.isEmpty then c
  else (touched off n).foldl (fun c o =>
    match c.pieceAt o with
    | some (w, i, .clean) => c.setPiece w i .dirty
    | _ => c) c

/-- Writes bytes of a scratchpad: lines written whole lose their poison, and windows are marked (R127, R225). -/
def Core.scratchWrite (c : Core) (off : Nat) (bs : List (BitVec 8)) : Core :=
  let c := c.markDirty off bs.length
  { c with scratch := memWrite c.scratch off bs, poison := c.poison.filter (fun l => decide (l ∉ wholeLines off bs.length)) }

/-- Writes the n low bytes of a number. -/
def Core.scratchPut (c : Core) (off n v : Nat) : Core := c.scratchWrite off (bytesOf n v)

/-- The bank groups that n bytes touch (R21). -/
def groupsOf (off n : Nat) : List Nat := if n = 0 then [] else (List.range ((off + n - 1) / 2 ^ 18 - off / 2 ^ 18 + 1)).map (· + off / 2 ^ 18)

/-- Width in bytes of an element of a drain (R178). -/
def drainWidth : Ty → Nat
  | .bf16 => 2
  | .f16 => 2
  | .e4m3 => 1
  | .e5m2 => 1
  | _ => 4

/-- The bank groups that the array reserves (R24, R175, R177, R178). -/
def ArrayOp.groups (o : ArrayOp) : List Nat :=
  match o.instr with
  | .mmul _ _ _ b _ => if 3 ≤ b.val ∧ b.val ≤ 6 then [o.a / 2 ^ 18, b.val - 3] else [o.a / 2 ^ 18]
  | .mload _ _ => [o.a / 2 ^ 18]
  | .mdrain _ _ _ _ _ => [o.a / 2 ^ 18]
  | _ => []

/-- The bank group that the loader reserves (R174). -/
def LoaderOp.groups (o : LoaderOp) : List Nat := if o.fromScratch then [o.off / 2 ^ 18] else []

/-- The groups that M instructions of earlier bundles have reserved (R24): those of a bundle bind the bundles after it (R179). -/
def Core.reserved (c : Core) : List Nat :=
  (match c.array with | some o => if o.age < c.age then o.groups else [] | none => []) ++
    (match c.loader with | some o => if o.age < c.age then o.groups else [] | none => [])

/-- A group of n bytes is reserved (R24); partition cores have no groups (R120). -/
def Core.bankConflict (c : Core) (off n : Nat) : Bool :=
  isCompute c.id && (groupsOf off n).any (fun g => decide (g ∈ c.reserved))

/-! ### Cluster addresses -/

/-- The core field of a cluster address (R22). -/
def caCore (ca : Nat) : Nat := bits ca 20 6

/-- The core that a cluster address reaches (R22). -/
def caTarget (k : CoreId) (ca : Nat) : CoreId := .compute (clusterOf k) (caCore ca)

/-- A cluster address is assigned (R22, R130 item 1). -/
def caValid (ca : Nat) : Bool := decide (ca < 2 ^ 26) && decide (caCore ca < 48)

/-- The target's resident task has the same ctxid and compid as the accessing task (R23). -/
def State.sameTask (s : State) (k : CoreId) (target : CoreId) : Bool :=
  let c := s.core k
  let t := s.core target
  t.task.isSome && decide (c.cr crCtxid = t.cr crCtxid) && decide (c.cr crCompid = t.cr crCompid)

/-! ### Accesses after issue -/

/-- Bytes of a size code (R82). -/
def sizeBytes : Size → Nat
  | .b1 => 1 | .b2 => 2 | .b4 => 4 | .b8 => 8

/-- Bytes of an atomic's width (R138). -/
def wdBytes (w : Bool) : Nat := if w then 8 else 4

/-- Bytes that an access touches. -/
def Access.size (a : Access) : Nat :=
  match a.instr with
  | .ldg _ _ w _ => intTyBits w / 8
  | .stg _ _ w _ => sizeBytes w
  | .atg _ _ _ w _ => wdBytes w
  | .casg _ _ _ w _ => wdBytes w
  | .ats _ _ _ w _ => wdBytes w
  | .cass _ _ _ w _ => wdBytes w
  | _ => 8

/-- The scalar register an access writes: none where the result is discarded (R15, R138). -/
def Access.reg (a : Access) : Option Reg :=
  let r : Option Reg :=
    match a.instr with
    | .ldg d _ _ _ => some d
    | .atg d _ _ _ _ => some d
    | .casg d _ _ _ _ => some d
    | .ats d _ _ _ _ => some d
    | .cass d _ _ _ _ => some d
    | _ => none
  match r with
  | some 0 => none
  | x => x

/-- An atomic of the global forms (R138, R139). -/
def Access.isAtomic (a : Access) : Bool :=
  match a.instr with
  | .atg _ _ _ _ _ => true
  | .casg _ _ _ _ _ => true
  | _ => false

/-- A store, or an atomic whose result is discarded: what R136 lets retire into the side log. -/
def Access.isStore (a : Access) : Bool :=
  match a.instr with
  | .stg _ _ _ _ => true
  | .atg d _ _ _ _ => decide (d = 0)
  | .casg d _ _ _ _ => decide (d = 0)
  | _ => false

/-- A reduction: an ATG or ATS with d = 0 (R138). -/
def Access.isReduction (a : Access) : Bool :=
  match a.instr with
  | .atg d _ _ _ _ => decide (d = 0)
  | .ats d _ _ _ _ => decide (d = 0)
  | _ => false

/-- An atomic by cluster address (R138, R139). -/
def Access.isRemote (a : Access) : Bool :=
  match a.instr with
  | .ats _ _ _ _ _ => true
  | .cass _ _ _ _ _ => true
  | _ => false

/-- What the page must allow (R321). -/
def Access.need (a : Access) : Need :=
  match a.instr with
  | .ldg _ _ _ _ => Need.read
  | .stg _ _ _ _ => Need.write
  | _ => Need.rmw

/-- The value an atomic stores (R138). -/
def aopApply (op : Aop) (w : Nat) (old v : Nat) : Nat :=
  match op with
  | .add => (old + v) % 2 ^ w
  | .and => old &&& v
  | .or => old ||| v
  | .xor => old ^^^ v
  | .min => intMinMax true w false old v
  | .max => intMinMax true w true old v
  | .minn => intMinMax false w false old v
  | .maxn => intMinMax false w true old v
  | .xchg => v % 2 ^ w

/-- What an access writes, given the old value: none if it writes nothing (R138, R139). -/
def Access.newValue (a : Access) (old : Nat) : Option Nat :=
  let w := 8 * a.size
  match a.instr with
  | .stg _ _ _ _ => some (a.data.toNat % 2 ^ w)
  | .atg _ _ op _ _ => some (aopApply op w old (a.data.toNat % 2 ^ w))
  | .ats _ _ op _ _ => some (aopApply op w old (a.data.toNat % 2 ^ w))
  | .casg _ _ _ _ _ => if old = a.expect.toNat % 2 ^ w then some (a.data.toNat % 2 ^ w) else none
  | .cass _ _ _ _ _ => if old = a.expect.toNat % 2 ^ w then some (a.data.toNat % 2 ^ w) else none
  | _ => none

/-- The register value of what an access read: sign or zero extension (R123, R132, R138). -/
def Access.result (a : Access) (v : Nat) : Word :=
  match a.instr with
  | .ldg _ _ w _ => if intTySigned w then sext64 (intTyBits w) v else BitVec.ofNat 64 v
  | _ => sext64 (8 * a.size) v

/-- How an access ends when it is tried: performed, waiting, faulted (and held or logged), or refused for good because it
waits on an unreplayable entry (R135 to R137). -/
inductive Tried where
  | done (s : State) (value : Nat)
  | wait (s : State)
  | fault (c : Cause)
  | blocked
  deriving DecidableEq, Repr

/-- Entries of the side log whose bytes an access overlaps (R137): virtual addresses are compared, so another address of the same physical
bytes is no overlap, the model's choice (log 76). -/
def logOverlap (log : List LogEntry) (a : Access) : List LogEntry :=
  log.filter (fun e => overlap e.access.addr e.access.size a.addr a.size)

/-- A global read-modify-write at its home (R138, R139, R242): pending stores of the cluster to these bytes come first, and the
cluster has no older copy of the line afterwards. -/
def State.rmwGlobal (s : State) (k : CoreId) (x : Xlat) (a : Access) : Tried :=
  let s := (s.settle (clusterOf k) x.pa a.size).dropCopies (some (clusterOf k)) (x.pa / 64)
  let s := s.setCore ((s.core k).observe (s.observed k x.pa a.size) a.age)
  if x.psn || s.poisoned (x.pa / 64) then
    if a.isReduction then
      if s.fenced x.pa then .done (s.setCore ((s.core k).loseStore (.access a.age))) 0
      else .done s 0
    else .fault .poisonConsumed
  else
    let s := s.hear k x.pa a.size
    let old := s.plain x.label x.pa a.size
    match a.newValue old with
    | some v => .done (s.storeAtomic k x (bytesOf a.size v) (osOf a.instr) a.age) old
    | none => .done s old

/-- A load on a register page (R276): the register is read once the stores of the cluster to its bytes are performed. An atomic waits
for its arrival at the page, where it reads and writes in one step (R242). -/
def State.tryPage (s : State) (k : CoreId) (x : Xlat) (a : Access) (page : Page) (off : Nat) : Tried :=
  if a.isAtomic || s.stores.any (fun y => decide (clusterOf y.src = clusterOf k) && overlap y.pa y.bytes.length x.pa a.size) then .wait s
  else .done s (s.readTablePage (.core k) page off % 256 ^ a.size)

/-- A global access that is tried now (R132 to R139): translation, then the access itself. -/
def State.tryGlobal (s : State) (k : CoreId) (a : Access) : Tried :=
  let c := s.core k
  match s.translate c.party a.addr a.need with
  | .error e => .fault e
  | .ok x =>
    let s := s.remember c.party.ctx a.addr
    let s := s.setCore ((s.core k).countHints a.addr a.size)
    match a.instr, s.registerPage x.pa with
    | .stg _ _ _ os, _ => .done (s.storeGlobal k x (bytesOf a.size a.data.toNat) (some os) a.age) 0
    | _, some (page, off) => s.tryPage k x a page off
    | .ldg _ _ _ _, none =>
      match s.readGlobal k x a.size with
      | .error e => .fault e
      | .ok v => .done ((s.setCore ((s.core k).observe (s.observed k x.pa a.size) a.age)).hear k x.pa a.size) v
    | _, none => s.rmwGlobal k x a

/-- A scratchpad access by a cluster address at the core it reaches (R23, R140, R225). -/
def State.tryRemote (s : State) (k : CoreId) (a : Access) : Tried :=
  let target := caTarget k a.addr
  let t := s.core target
  let off := a.addr % 2 ^ 20
  if target ≠ k ∧ !s.sameTask k target then .fault .compartment
  else if t.freeze ≠ 0 then .wait s
  else if t.needsFill off a.size then
    match t.badFill off a.size with
    | some f => .fault f.cause
    | none => .wait (s.setCore (t.startFills off a.size))
  else if t.scratchPoisoned off a.size then
    if a.isReduction then .done s 0 else .fault .poisonConsumed
  else
    let old := t.scratchRead off a.size
    let s := { s with heard := s.heard ++ [(k, Hearing.scratch target)] }
    match a.newValue old with
    | some v =>
      let ids := s.writeCarries (s.core k).ord (osOf a.instr) a.age
      .done ((s.carryScratch k target off a.size true ids).setCore (t.scratchPut off a.size v)) old
    | none => .done s old

/-- A held access is performed again from its record: a store goes back to the side log's door, another access is outstanding
again (R135, R311, R318). -/
def Core.requeue (c : Core) : Core :=
  match c.held with
  | none => c
  | some (a, d) =>
    if a.isStore then { c with held := none, stq := a :: c.stq, redo := some a }
    else { c with held := none, ilk := ⟨.access a none, d, a.age⟩ :: c.ilk, redo := some a }

/-- The access that was held has not been performed again (R135, R316). -/
def Core.redoing (c : Core) : Bool :=
  match c.redo with
  | some a => decide (a ∈ c.stq) || c.ilk.any (fun o => match o.kind with | .access b none => decide (b = a) | _ => false)
  | none => false

/-- The fault of a remote access is told: a failed fill at its target may be tried again (R225). -/
def State.told (s : State) (k : CoreId) (a : Access) : State :=
  if a.isRemote then s.setCore ((s.core (caTarget k a.addr)).clearBad (a.addr % 2 ^ 20) a.size) else s

/-- Tries an access of a core (R135, R137, R140). -/
def State.tryAccess (s : State) (k : CoreId) (a : Access) : Tried :=
  if a.isRemote then s.tryRemote k a
  else
    let hits := logOverlap (s.core k).log a
    if hits.any (fun e => decide (e.state = 2)) then .blocked
    else if hits.isEmpty then s.tryGlobal k a
    else .wait s

/-- Two accesses touch a common byte: by their addresses, or where both translate, by physical address (R237). -/
def State.meets (s : State) (k : CoreId) (a b : Access) : Bool :=
  if a.isRemote || b.isRemote then a.isRemote && b.isRemote && overlap a.addr a.size b.addr b.size
  else
    overlap a.addr a.size b.addr b.size ||
      (match s.translate (s.core k).party a.addr a.need, s.translate (s.core k).party b.addr b.need with
       | .ok x, .ok y => overlap x.pa a.size y.pa b.size
       | _, _ => false)

/-- The held access stands before a store (R136, R246): a held store, or one that meets it. -/
def State.heldBefore (s : State) (k : CoreId) (a : Access) : Bool :=
  match (s.core k).held with
  | some (b, _) => b.isStore || s.meets k b a
  | none => false

/-- The fullest fence counter on a source's route to a vat: that of its own router, which forwards its stores to every home and counts those
that no home has acknowledged (R250). -/
def State.counted (s : State) (k : CoreId) (eng : Option Nat) (_vat : Nat) : Nat :=
  (s.stores.filter (fun x => decide (x.src = k ∧ x.eng = eng))).length

/-- A store of a core would take a fence counter above 65,535 (R250). -/
def State.counterFull (s : State) (k : CoreId) (a : Access) : Bool :=
  match a.instr with
  | .stg _ _ _ _ =>
    (match s.translate (s.core k).party a.addr a.need with
     | .ok x => decide (65535 ≤ s.counted k none (homeOf x.pa))
     | .error _ => false)
  | _ => false

/-- An outstanding access is not performed yet: an access that meets an earlier one of a list comes after it (R246), one behind a QDEQ
without an item after its acquire (R204, R239), and a store waits for room in its fence counter (R250). -/
def State.behind (s : State) (k : CoreId) (a : Access) (ops : List Ilk) : Bool :=
  s.counterFull k a ||
    ops.any (fun o => match o.kind with | .access b none => s.meets k b a | .qdeq _ _ none => true | _ => false)

/-! ### Ordering (R105, R249, R250) -/

/-- The store of an identity is performed at a scope for a release of a core (R236, R245, R249): pending it is performed at .core and
.clu alone; once its home has ordered it, at .vat when no cluster of the writer's vat or of the releaser's holds a stale copy, and wider
when none does. -/
def State.performedAt (s : State) (k : CoreId) (sc : Scope) (i : Nat) : Bool :=
  match sc with
  | .core => true
  | .clu => true
  | .vat =>
    s.stores.all (fun x => decide (x.id ≠ i)) &&
      s.stale.all (fun y => decide (y.id ≠ i) || y.cls.all (fun c => decide (c / 2 ≠ clusterOf y.src / 2 ∧ c / 2 ≠ clusterOf k / 2)))
  | _ => !s.isPending i

/-- No store holds a release of this core back at a scope: every route has acknowledged its marker, and its own stores and the
writes it has observed are performed there (R249, R250). -/
def State.storesDone (s : State) (c : Core) (sc : Scope) : Bool :=
  c.ord.marks.isEmpty && c.ord.covered.all (s.performedAt c.id sc)

/-- A scope at which a release sends markers (R250); the Umpire's .vat instance is its own (R235). -/
def wideScope (k : CoreId) (sc : Scope) : Bool :=
  match sc with
  | .core => false
  | .clu => false
  | .vat => decide (k ≠ .umpire)
  | _ => true

/-- Every load and atomic of a core has its value (R105). -/
def Core.loadsDone (c : Core) : Bool :=
  c.held.isNone && (match c.gather with | some g => !g.load | none => true) && c.ilk.all (fun i =>
    match i.kind with
    | .access a none => decide (a.isStore = true ∧ a.isAtomic = false)
    | _ => true)

/-- Every L-slot access of a core that has issued is performed (R105), and every QDEQ has acquired: what is po-after an acquire event
follows it (R204, R239, R245). -/
def Core.accessesDone (c : Core) : Bool :=
  c.ilk.all (fun i => match i.kind with | .access _ none => false | .qdeq _ _ _ => false | _ => true)

/-- A core as an order ahead of the bundle of an age meets it (R105, R190): what earlier bundles have left outstanding, and the markers of
routes that none but later stores use are no concern of it. -/
def State.coreBefore (s : State) (c : Core) (age : Nat) : Core :=
  let b := c.ord.before age
  let counted (v : Nat) : List PStore :=
    s.stores.filter (fun x => decide ((x.src = c.id ∧ x.eng = none ∨ x.id ∈ idsOf c.ord.own) ∧ homeOf x.pa = v))
  let earlier (x : PStore) : Bool := decide (x.id ∈ b.covered)
  { c with
    ilk := c.ilk.filter (fun o => decide (o.age < age)), stq := c.stq.filter (fun a => decide (a.age < age))
    log := c.log.filter (fun e => decide (e.access.age < age)), held := c.held.filter (fun h => decide (h.1.age < age))
    gather := c.gather.filter (fun g => decide (g.age < age))
    ord := { b with marks := b.marks.filter (fun v => (counted v).isEmpty || (counted v).any earlier) } }

/-- The release condition of a scope (R105, R236, R249, R254): at .core and .clu a store is performed once issued, and a lost store
fails the releases that send markers alone. -/
def State.releaseReady (s : State) (c : Core) (sc : Scope) : Bool :=
  c.loadsDone && c.accessesDone && c.stq.isEmpty && c.log.isEmpty && c.gather.isNone &&
    (!wideScope c.id sc || (c.ord.lost.isNone && s.storesDone c sc))

/-- A QDEQ of a list has no item yet: its acquire holds the accesses behind it (R204, R239). -/
def qdeqPending (ops : List Ilk) : Bool := ops.any (fun o => match o.kind with | .qdeq _ _ none => true | _ => false)

/-- Why a release at a scope can never be performed: an unreplayable entry, or a lost store (R105, R254). The spec does not state
trapinfo here. -/
def State.releaseFault (s : State) (c : Core) (sc : Scope) : Option Trap :=
  if c.log.any (fun e => decide (e.state = 2)) then some ⟨.releaseBlocked, Config.openWord s.freeCtr⟩
  else if wideScope c.id sc && c.ord.lost.isSome then some ⟨.fenceLost, Config.openWord s.freeCtr⟩
  else none

end Sys2Proof.Machine
end

