-- ==== Sys2Proof/Machine/Crypto.lean ====
section
/-! DEFINITION. The ciphers and digests the spec names: SHA-384, AES, GCM (R196, R212, R345, R346) and ECDSA over
brainpoolP384r1 with the deterministic nonce of RFC 6979 (R212). They follow the public standards of those names. -/

namespace Sys2Proof.Machine

/-! ### SHA-384 -/

/-- The 80 round constants of SHA-512, the first in the low 64 bits. -/
def shaK : Nat :=
  0x6c44198c4a4758175fcb6fab3ad6faec597f299cfc657e2a4cc5d4becb3e42b6431d67c49c100d4c3c9ebe0a15c9bebc32caab7b40c7249328db77f523047d841b710b35131c471b113f9804bef90dae0a637dc5a2c898a606f067aa72176fbaf57d4f7fee6ed178eada7dd6cde0eb1ed186b8c721c0c207ca273eceea26619cc67178f2e372532bbef9a3f7b2c67915a4506cebde82bde990befffa23631e288cc702081a6439ec84c87814a1f0ab7278a5636f43172f60748f82ee5defb2fc682e6ff3d6b2b8a35b9cca4f7763e3734ed8aa4ae3418acb391c0cb3c5c95a6334b0bcb5e19b48a82748774cdf8eeb991e376c085141ab5319a4c116b8d2d0c8106aa07032bbd1b8f40e35855771202ad69906245565a910d192e819d6ef5218c76c51a30654be30c24b8b70d0f89791a81a664bbc423001a2bfe8a14cf1036492722c851482353b81c2c92e47edaee6766a0abb3c77b2a8650a73548baf63de53380d139d95b3df4d2c6dfc5ac42aed2e1b21385c26c92627b70a8546d22ffc142929670a0e6e7006ca6351e003826fd5a79147930aa725c6e00bf33da88fc2bf597fc7beef0ee4b00327c898fb213fa831c66d2db43210983e5152ee66dfab76f988da831153b55cb0a9dcbd41fbd44a7484aa6ea6e4832de92c6f592b0275240ca1cc77ac9c650fc19dc68b8cd5b5efbe4786384f25e3e49b69c19ef14ad2c19bf174cf6926949bdc06a725c7123580deb1fe3b1696b172be5d74f27b896f550c7dc3d5ffb4e2243185be4ee4b28c12835b0145706fbed807aa98a3030242ab1c5ed5da6d8118923f82a4af194f9b59f111f1b605d0193956c25bf348b538e9b5dba58189dbbcb5c0fbcfec4d3b2f7137449123ef65cd428a2f98d728ae22

/-- The initial hash words of SHA-384, the first in the low 64 bits. -/
def shaH : Nat :=
  0x47b5481dbefa4fa4db0c2e0d64f98fa78eb44a876858151167332667ffc00b31152fecd8f70e59399159015a3070dd17629a292a367cd507cbbb9d5dc1059ed8

/-- Rotation to the right of a 64-bit word. -/
def ror64 (x n : Nat) : Nat := x / 2 ^ n + x % 2 ^ n * 2 ^ (64 - n)

/-- The message schedule: the last 16 words, oldest first, extended by n words. -/
def shaSchedule : Nat → List Nat → List Nat → List Nat
  | 0, _, acc => acc.reverse
  | n + 1, win, acc =>
    let w1 := win.getD 1 0
    let w14 := win.getD 14 0
    let s0 := ror64 w1 1 ^^^ ror64 w1 8 ^^^ w1 / 2 ^ 7
    let s1 := ror64 w14 19 ^^^ ror64 w14 61 ^^^ w14 / 2 ^ 6
    let w := (win.getD 0 0 + s0 + win.getD 9 0 + s1) % 2 ^ 64
    shaSchedule n (win.drop 1 ++ [w]) (w :: acc)

/-- The working variables of a round. -/
structure ShaVars where
  a : Nat
  b : Nat
  c : Nat
  d : Nat
  e : Nat
  f : Nat
  g : Nat
  h : Nat
  deriving DecidableEq, Repr

/-- One round of SHA-512. -/
def shaRound (v : ShaVars) (kw : Nat) : ShaVars :=
  let s1 := ror64 v.e 14 ^^^ ror64 v.e 18 ^^^ ror64 v.e 41
  let ch := (v.e &&& v.f) ^^^ ((2 ^ 64 - 1 - v.e) &&& v.g)
  let t1 := v.h + s1 + ch + kw
  let s0 := ror64 v.a 28 ^^^ ror64 v.a 34 ^^^ ror64 v.a 39
  let maj := (v.a &&& v.b) ^^^ (v.a &&& v.c) ^^^ (v.b &&& v.c)
  ⟨(t1 + s0 + maj) % 2 ^ 64, v.a, v.b, v.c, (v.d + t1) % 2 ^ 64, v.e, v.f, v.g⟩

/-- One block of 128 bytes; the hash is eight words, the first in the low bits. -/
def shaBlock (h : Nat) (blk : List (BitVec 8)) : Nat :=
  let w := (List.range 16).map (fun i => natOfBytesBE ((blk.drop (8 * i)).take 8))
  let ws := w ++ shaSchedule 64 w []
  let g (i : Nat) : Nat := bits h (64 * i) 64
  let v := (ws.zipIdx).foldl (fun v x => shaRound v (x.1 + bits shaK (64 * x.2) 64)) ⟨g 0, g 1, g 2, g 3, g 4, g 5, g 6, g 7⟩
  packLanes64 [g 0 + v.a, g 1 + v.b, g 2 + v.c, g 3 + v.d, g 4 + v.e, g 5 + v.f, g 6 + v.g, g 7 + v.h]
where
  /-- Words of 64 bits, the first lowest. -/
  packLanes64 : List Nat → Nat
    | [] => 0
    | x :: xs => x % 2 ^ 64 + 2 ^ 64 * packLanes64 xs

/-- Blocks of 128 bytes of a padded message. -/
def shaBlocks : Nat → Nat → List (BitVec 8) → Nat
  | 0, h, _ => h
  | n + 1, h, bs => shaBlocks n (shaBlock h (bs.take 128)) (bs.drop 128)

/-- SHA-384 of a message: 48 bytes. -/
def sha384 (msg : List (BitVec 8)) : List (BitVec 8) :=
  let pad := (239 - msg.length % 128) % 128
  let m := msg ++ 0x80 :: List.replicate pad 0 ++ bytesBE 16 (8 * msg.length)
  let h := shaBlocks (m.length / 128) shaH m
  (List.range 6).flatMap (fun i => bytesBE 8 (bits h (64 * i) 64))

/-- SHA-384 as a number, byte 0 in the low bits. -/
def sha384Nat (msg : List (BitVec 8)) : Nat := natOfBytes (sha384 msg)

/-- HMAC-SHA-384 (RFC 2104) with a key of at most 128 bytes. -/
def hmac384 (key msg : List (BitVec 8)) : List (BitVec 8) :=
  let k := key ++ List.replicate (128 - key.length) 0
  sha384 (k.map (· ^^^ 0x5C) ++ sha384 (k.map (· ^^^ 0x36) ++ msg))

/-! ### AES -/

/-- The S-box, entry 0 in the low byte. -/
def aesSbox : Nat :=
  0x16bb54b00f2d99416842e6bf0d89a18cdf2855cee9871e9b948ed9691198f8e19e1dc186b95735610ef6034866b53e708a8bbd4b1f74dde8c6b4a61c2e2578ba08ae7a65eaf4566ca94ed58d6d37c8e779e4959162acd3c25c2406490a3a32e0db0b5ede14b8ee4688902a22dc4f816073195d643d7ea7c41744975fec130ccdd2f3ff1021dab6bcf5389d928f40a351a89f3c507f02f94585334d43fbaaefd0cf584c4a39becb6a5bb1fc20ed00d153842fe329b3d63b52a05a6e1b1a2c830975b227ebe28012079a059618c323c7041531d871f1e5a534ccf73f362693fdb7c072a49cafa2d4adf04759fa7dc982ca76abd7fe2b670130c56f6bf27b777c63

/-- A byte through the S-box. -/
def aesSub (x : Nat) : Nat := bits aesSbox (8 * (x % 256)) 8

/-- Multiplication by x in GF(2^8). -/
def aesXtime (a : Nat) : Nat := if a < 128 then 2 * a else (2 * a - 256) ^^^ 0x1B

/-- A word of 4 bytes through the S-box. -/
def aesSubWord (w : List Nat) : List Nat := w.map aesSub

/-- Expanded key: words oldest first, `nk` of them in the key; i counts words made. -/
def aesExpand (nk : Nat) : Nat → Nat → Nat → List (List Nat) → List (List Nat)
  | 0, _, _, ws => ws
  | n + 1, i, rcon, ws =>
    let prev := ws.getLastD []
    let old := ws.getD (ws.length - nk) []
    let t :=
      if i % nk = 0 then
        match aesSubWord (prev.drop 1 ++ prev.take 1) with
        | x :: xs => (x ^^^ rcon) :: xs
        | [] => []
      else if nk = 8 ∧ i % 8 = 4 then aesSubWord prev
      else prev
    aesExpand nk n (i + 1) (if i % nk = 0 then aesXtime rcon else rcon) (ws ++ [List.zipWith (· ^^^ ·) old t])

/-- Words of 4 bytes. -/
def words4 : List Nat → List (List Nat)
  | a :: b :: c :: d :: t => [a, b, c, d] :: words4 t
  | _ => []

/-- ShiftRows on 16 bytes in column order. -/
def aesShift (b : List Nat) : List Nat := (List.range 16).map (fun i => b.getD ((i + 4 * (i % 4)) % 16) 0)

/-- MixColumns on one column. -/
def aesMix : List Nat → List Nat
  | [a, b, c, d] =>
    [aesXtime a ^^^ aesXtime b ^^^ b ^^^ c ^^^ d, a ^^^ aesXtime b ^^^ aesXtime c ^^^ c ^^^ d,
     a ^^^ b ^^^ aesXtime c ^^^ aesXtime d ^^^ d, aesXtime a ^^^ a ^^^ b ^^^ c ^^^ aesXtime d]
  | x => x

/-- The rounds after the first key addition. -/
def aesRounds : List (List Nat) → List Nat → List Nat
  | [], b => b
  | [k], b => List.zipWith (· ^^^ ·) (aesShift (b.map aesSub)) k
  | k :: ks, b => aesRounds ks (List.zipWith (· ^^^ ·) ((words4 (aesShift (b.map aesSub))).flatMap aesMix) k)

/-- Round keys of 16 bytes from expanded words. -/
def aesKeys : List (List Nat) → List (List Nat)
  | a :: b :: c :: d :: t => (a ++ b ++ c ++ d) :: aesKeys t
  | _ => []

/-- AES encryption of 16 bytes; a key of 16 or of 32 bytes. -/
def aesEncrypt (key blk : List Nat) : List Nat :=
  let nk := key.length / 4
  let ws := aesExpand nk (4 * (nk + 7) - nk) nk 1 (words4 key)
  match aesKeys ws with
  | k :: ks => aesRounds ks (List.zipWith (· ^^^ ·) blk k)
  | [] => blk

/-- Bytes of a number, the first in its low bits. -/
def natBytes (n v : Nat) : List Nat := (bytesOf n v).map (·.toNat)

/-- Bytes of a number, the first in its high bits. -/
def natBytesBE (n v : Nat) : List Nat := (bytesBE n v).map (·.toNat)

/-- A number of bytes, the first in the high bits. -/
def natOfBE (bs : List Nat) : Nat := bs.foldl (fun v b => v * 256 + b) 0

/-- A number of bytes, the first in the low bits. -/
def natOfLE (bs : List Nat) : Nat := bs.foldr (fun b v => b + 256 * v) 0

/-! ### GCM -/

/-- Product in GF(2^128) with the bit order of GCM, over the bits of y from the highest. -/
def gcmMul (x y : Nat) : Nat :=
  ((List.range 128).foldl (fun zv i =>
    let z := if y.testBit (127 - i) then zv.1 ^^^ zv.2 else zv.1
    let v := if zv.2 % 2 = 1 then zv.2 / 2 ^^^ 0xE1 * 2 ^ 120 else zv.2 / 2
    (z, v)) (0, x)).1

/-- Blocks of 16 bytes, the last padded with zeros. -/
def blocks16 : Nat → List Nat → List Nat
  | 0, _ => []
  | n + 1, bs => natOfBE (bs.take 16 ++ List.replicate (16 - (bs.take 16).length) 0) :: blocks16 n (bs.drop 16)

/-- GHASH of additional data and ciphertext. -/
def ghash (h : Nat) (aad ct : List Nat) : Nat :=
  (blocks16 (ceilDiv aad.length 16) aad ++ blocks16 (ceilDiv ct.length 16) ct ++ [8 * aad.length * 2 ^ 64 + 8 * ct.length]).foldl
    (fun y b => gcmMul (y ^^^ b) h) 0

/-- The key stream of counter mode from a counter block, n blocks, the counter in the low 32 bits. -/
def gcmStream (key : List Nat) : Nat → Nat → List Nat
  | 0, _ => []
  | n + 1, c => aesEncrypt key (natBytesBE 16 c) ++ gcmStream key n (c / 2 ^ 32 * 2 ^ 32 + (c % 2 ^ 32 + 1) % 2 ^ 32)

/-- GCM with an initial value of 12 bytes: the text through the key stream. -/
def gcmCrypt (key iv txt : List Nat) : List Nat :=
  List.zipWith (· ^^^ ·) txt (gcmStream key (ceilDiv txt.length 16) (natOfBE iv * 2 ^ 32 + 2))

/-- The tag of GCM over additional data and ciphertext: 16 bytes. -/
def gcmTag (key iv aad ct : List Nat) : List Nat :=
  let h := natOfBE (aesEncrypt key (List.replicate 16 0))
  natBytesBE 16 (ghash h aad ct ^^^ natOfBE (aesEncrypt key (natBytesBE 16 (natOfBE iv * 2 ^ 32 + 1))))

/-! ### ECDSA over brainpoolP384r1 -/

/-- The field prime. -/
def bpP : Nat := 0x8CB91E82A3386D280F5D6F7E50E641DF152F7109ED5456B412B1DA197FB71123ACD3A729901D1A71874700133107EC53
/-- Coefficient a. -/
def bpA : Nat := 0x7BC382C63D8C150C3C72080ACE05AFA0C2BEA28E4FB22787139165EFBA91F90F8AA5814A503AD4EB04A8C7DD22CE2826
/-- Coefficient b. -/
def bpB : Nat := 0x04A8C7DD22CE28268B39B55416F0447C2FB77DE107DCD2A62E880EA53EEB62D57CB4390295DBC9943AB78696FA504C11
/-- The base point. -/
def bpG : Nat × Nat :=
  (0x1D1C64F068CF45FFA2A63A81B7C13F6B8847A3E77EF14FE3DB7FCAFE0CBD10E8E826E03436D646AAEF87B2E247D4AF1E,
   0x8ABE1D7520F9C2A45CB1EB8E95CFD55262B70B29FEEC5864E19C054FF99129280E4646217791811142820341263C5315)
/-- The order of the base point. -/
def bpN : Nat := 0x8CB91E82A3386D280F5D6F7E50E641DF152F7109ED5456B31F166E6CAC0425A7CF3AB6AF6B7FC3103B883202E9046565

/-- Power modulo m, over the low n bits of the exponent. -/
def powMod (m b : Nat) : Nat → Nat → Nat
  | 0, _ => 1 % m
  | n + 1, e =>
    let h := powMod m b n (e / 2)
    let q := h * h % m
    if e % 2 = 1 then q * b % m else q

/-- Inverse modulo a prime. -/
def invMod (m x : Nat) : Nat := powMod m (x % m) 384 (m - 2)

/-- A point in Jacobian coordinates; z = 0 is the point at infinity. -/
structure EcPoint where
  x : Nat
  y : Nat
  z : Nat
  deriving DecidableEq, Repr

/-- Difference modulo the field prime. -/
def bpSub (a b : Nat) : Nat := (a + bpP - b % bpP) % bpP

/-- Doubling. -/
def ecDouble (p : EcPoint) : EcPoint :=
  if p.z = 0 ∨ p.y = 0 then ⟨1, 1, 0⟩
  else
    let yy := p.y * p.y % bpP
    let s := 4 * p.x * yy % bpP
    let zz := p.z * p.z % bpP
    let m := (3 * p.x * p.x + bpA * (zz * zz % bpP)) % bpP
    let x := bpSub (m * m % bpP) (2 * s)
    ⟨x, bpSub (m * bpSub s x % bpP) (8 * yy * yy), 2 * p.y * p.z % bpP⟩

/-- Addition. -/
def ecAdd (p q : EcPoint) : EcPoint :=
  if p.z = 0 then q
  else if q.z = 0 then p
  else
    let pz := p.z * p.z % bpP
    let qz := q.z * q.z % bpP
    let u1 := p.x * qz % bpP
    let u2 := q.x * pz % bpP
    let s1 := p.y * q.z % bpP * qz % bpP
    let s2 := q.y * p.z % bpP * pz % bpP
    if u1 = u2 then
      if s1 = s2 then ecDouble p else ⟨1, 1, 0⟩
    else
      let h := bpSub u2 u1
      let r := bpSub s2 s1
      let hh := h * h % bpP
      let hhh := h * hh % bpP
      let v := u1 * hh % bpP
      let x := bpSub (bpSub (r * r % bpP) hhh) (2 * v)
      ⟨x, bpSub (r * bpSub v x % bpP) (s1 * hhh), h * p.z % bpP * q.z % bpP⟩

/-- A multiple of a point, over the low n bits of the factor. -/
def ecMul (p : EcPoint) : Nat → Nat → EcPoint
  | 0, _ => ⟨1, 1, 0⟩
  | n + 1, k =>
    let h := ecDouble (ecMul p n (k / 2))
    if k % 2 = 1 then ecAdd h p else h

/-- Affine coordinates; none for the point at infinity. -/
def ecAffine (p : EcPoint) : Option (Nat × Nat) :=
  if p.z = 0 then none
  else
    let i := invMod bpP p.z
    let ii := i * i % bpP
    some (p.x * ii % bpP, p.y * ii % bpP * i % bpP)

/-- The base point. -/
def ecBase : EcPoint := ⟨bpG.1, bpG.2, 1⟩

/-- A pair of coordinates is a point of the curve. -/
def ecOn (q : Nat × Nat) : Bool :=
  decide (q.1 < bpP) && decide (q.2 < bpP) && decide (q.2 * q.2 % bpP = (q.1 * q.1 % bpP * q.1 + bpA * q.1 + bpB) % bpP)

/-- The public key of a private scalar: 96 bytes, x then y. -/
def ecPublic (d : Nat) : List (BitVec 8) :=
  match ecAffine (ecMul ecBase 384 d) with
  | some q => bytesBE 48 q.1 ++ bytesBE 48 q.2
  | none => List.replicate 96 0

/-- A signature from a nonce; none where the standard asks for another nonce. -/
def ecSignWith (d z k : Nat) : Option (Nat × Nat) :=
  match ecAffine (ecMul ecBase 384 k) with
  | none => none
  | some q =>
    let r := q.1 % bpN
    let t := invMod bpN k * (z + r * d) % bpN
    if r = 0 ∨ t = 0 then none else some (r, t)

/-- Nonces of RFC 6979 in order, tried until one gives a signature; the fuel is never used up in practice. -/
def ecSignLoop (d z : Nat) : Nat → List (BitVec 8) → List (BitVec 8) → Nat × Nat
  | 0, _, _ => (0, 0)
  | n + 1, key, v =>
    let v := hmac384 key v
    let k := natOfBytesBE v
    let next := ecSignLoop d z n (hmac384 key (v ++ [0])) (hmac384 (hmac384 key (v ++ [0])) v)
    if 1 ≤ k ∧ k < bpN then
      match ecSignWith d z k with
      | some s => s
      | none => next
    else next

/-- ECDSA of a digest of 48 bytes with the deterministic nonce of RFC 6979: 96 bytes, r then s. -/
def ecSign (d : Nat) (digest : List (BitVec 8)) : List (BitVec 8) :=
  let z := natOfBytesBE digest
  let seed := bytesBE 48 d ++ bytesBE 48 (z % bpN)
  let v0 : List (BitVec 8) := List.replicate 48 1
  let k1 := hmac384 (List.replicate 48 0) (v0 ++ 0 :: seed)
  let v1 := hmac384 k1 v0
  let k2 := hmac384 k1 (v1 ++ 1 :: seed)
  let v2 := hmac384 k2 v1
  let rs := ecSignLoop d z 64 k2 v2
  bytesBE 48 rs.1 ++ bytesBE 48 rs.2

/-- ECDSA verification of a digest under a public key of 96 bytes. -/
def ecVerify (pub digest sig : List (BitVec 8)) : Bool :=
  let q := (natOfBytesBE (pub.take 48), natOfBytesBE (pub.drop 48))
  let r := natOfBytesBE (sig.take 48)
  let t := natOfBytesBE (sig.drop 48)
  if !ecOn q ∨ r = 0 ∨ bpN ≤ r ∨ t = 0 ∨ bpN ≤ t then false
  else
    let w := invMod bpN t
    let z := natOfBytesBE digest
    match ecAffine (ecAdd (ecMul ecBase 384 (z * w % bpN)) (ecMul ⟨q.1, q.2, 1⟩ 384 (r * w % bpN))) with
    | some p => decide (p.1 % bpN = r)
    | none => false

end Sys2Proof.Machine
end

