-- ==== Sys2Proof/Machine/Engine.lean ====
section
/-! DEFINITION. What an engine does with a command that one moment can do whole: the security engine (R212), engine-fault
words (R193). -/

namespace Sys2Proof.Machine

/-- trapinfo of an engine fault (R193): tag, lowest faulting box, destination index, destination side, address. -/
def engInfo (tag box dix dsd a : Nat) : Word :=
  BitVec.ofNat 64 (2 ^ 62 + tag % 64 * 2 ^ 56 + box % 256 * 2 ^ 48 + dix % 16 * 2 ^ 44 + dsd % 2 * 2 ^ 43 + bits a 6 43)

/-- n bytes of the captured descriptor of a command (R188). -/
def Cmd.d (m : Cmd) (lo n : Nat) : Nat := field m.desc lo n

/-- The XC fields of a command. -/
def Cmd.xc (m : Cmd) : Option Xc :=
  match m.instr with
  | .xcp _ x => some x | .xcph _ _ x => some x | .xmc _ _ x => some x | .xga _ _ x => some x | .xsc _ _ x => some x
  | .xwb _ x => some x | .xinv _ x => some x | .xgate _ x => some x | .launch _ x => some x
  | .gsmpl _ _ x => some x | .gfork _ _ x => some x | .gtrunc _ _ x => some x | .gins _ _ x => some x | .gsnap _ x => some x
  | .wjw _ x => some x | .wjc _ x => some x | .wja _ x => some x | .wjd _ x => some x
  | .xhash _ x => some x | .xsign _ x => some x | .xvfy _ x => some x
  | _ => none

/-- Ranges of scratchpad that a security form reads (R212). -/
def Cmd.secReads (m : Cmd) : List (Nat × Nat) :=
  match m.instr with
  | .xhash _ _ => [(m.d 0 4, m.d 4 4)]
  | .xsign _ _ => [(m.d 0 4, 48)]
  | .xvfy _ _ => [(m.d 0 4, 48), (m.d 4 4, 96), (m.d 8 4, 96)]
  | _ => []

/-- The range that a security form writes (R212); the result word of XVFY is taken as 64 bits. -/
def Cmd.secOut (m : Cmd) : Nat × Nat :=
  match m.instr with
  | .xhash _ _ => (m.d 8 4, 48)
  | .xsign _ _ => (m.d 8 4, 96)
  | .xvfy _ _ => (m.d 12 4, 8)
  | _ => (0, 0)

/-- n bytes of scratchpad as a list. -/
def Core.scratchBytes (c : Core) (off n : Nat) : List (BitVec 8) := bytesOf n (c.scratchRead off n)

/-- The work of a security form (R212): the bytes it writes. -/
def Core.secResult (c : Core) (m : Cmd) : List (BitVec 8) :=
  match m.instr with
  | .xhash _ _ => sha384 (c.scratchBytes (m.d 0 4) (m.d 4 4))
  | .xsign _ _ => ecSign (Config.deviceKey (m.d 4 4)) (c.scratchBytes (m.d 0 4) 48)
  | .xvfy _ _ =>
    bytesOf 8 (ecVerify (c.scratchBytes (m.d 4 4) 96) (c.scratchBytes (m.d 0 4) 48) (c.scratchBytes (m.d 8 4) 96)).toNat
  | _ => []

/-- The work of a security form is done now, whole, or ends in an engine fault on a poisoned line (R191, R193, R212). -/
def Core.secDo (c : Core) (m : Cmd) : Core × Cmd :=
  match (m.secReads.flatMap (fun r => linesOf r.1 r.2)).find? (fun l => decide (l ∈ c.poison)) with
  | some l => (c, { m with fault := some ⟨.poisonConsumed, engInfo m.tag.val 0 0 0 (64 * l)⟩ })
  | none => (c.scratchWrite m.secOut.1 (c.secResult m), { m with done := true })

/-- A security form (R212). -/
def Cmd.isSecurity (m : Cmd) : Bool :=
  match m.instr with
  | .xhash _ _ => true | .xsign _ _ => true | .xvfy _ _ => true | _ => false

/-- The journal unit takes the bytes of a WJW from the scratchpad, or finds a poisoned line (R193, R210). -/
def Core.journalTake (c : Core) (m : Cmd) : Cmd :=
  match m.instr with
  | .wjw _ _ =>
    if m.list.isEmpty && m.fault.isNone then
      match (linesOf (m.d 16 4) (m.d 12 4)).find? (fun l => decide (l ∈ c.poison)) with
      | some l => { m with fault := some ⟨.poisonConsumed, engInfo m.tag.val 0 0 0 (64 * l)⟩ }
      | none => { m with list := (List.range (m.d 12 4 / 64)).map (fun i => c.scratchRead (m.d 16 4 + 64 * i) 64) }
    else m
  | _ => m

/-- Before a save, the security engine finishes its commands on the scratchpad, and the journal unit has taken its bytes (R191,
R314). -/
def Core.securityNow (c : Core) : Core :=
  c.cmds.foldl (fun c m =>
    let r := if m.isSecurity && !m.done && m.fault.isNone then c.secDo m else (c, c.journalTake m)
    { r.1 with cmds := r.1.cmds.map (fun x => if x.tag = m.tag then r.2 else x) }) c

end Sys2Proof.Machine
end

