-- ==== Sys2Proof/Machine/Context.lean ====
section
/-! DEFINITION. The register space and the context slot as bytes (R222, R308, R309, R312, R314, R317), saving and restoring
a task (R310, R311, R227, R428). Where R308 names a part but not the places of its fields, the order here is the model's. -/

namespace Sys2Proof.Machine

/-! ### Fields of a task record (R216) -/

/-- A field of n bytes of a record. -/
def recField (r : BitVec 512) (lo n : Nat) : Nat := field r.toNat lo n
/-- `tiles` -/
def recTiles (r : BitVec 512) : Nat := bits r.toNat 296 3
/-- `regs` -/
def recRegs (r : BitVec 512) : Nat := bits r.toNat 300 2
/-- `prio` -/
def recPrio (r : BitVec 512) : Nat := bits r.toNat 304 2
/-- `pin` and `core` -/
def recPin (r : BitVec 512) : Option Nat := if bitAt r.toNat 308 then some (bits r.toNat 312 6) else none
/-- `ntf` -/
def recNtf (r : BitVec 512) : Bool := bitAt r.toNat 309
/-- S of R217. -/
def recS (r : BitVec 512) : Nat := roundUp (recField r 32 4) 512 + 512 * recField r 36 1

/-- Tiles of the resident task; a core without a task has none to name. -/
def Core.tileCount (c : Core) : Nat := match c.task with | some t => recTiles t.record | none => 0

/-- Vector registers of the resident task (R222). -/
def Core.vregs (c : Core) : Nat :=
  match c.task with
  | some t => match recRegs t.record with | 0 => 0 | 1 => 8 | 2 => 16 | _ => 32
  | none => 0

/-! ### Words of accesses (R308, R317) -/

/-- The L-slot opcode of an access (R82). -/
def accessOp (i : Instr) : Nat :=
  match i with
  | .ldg _ _ _ _ => 0x09 | .stg _ _ _ _ => 0x0A | .atg _ _ _ _ _ => 0x0B | .casg _ _ _ _ _ => 0x0C
  | .ats _ _ _ _ _ => 0x0D | .cass _ _ _ _ _ => 0x0E | _ => 0

/-- Destination, size code, `os` and `aop` of an access (R308). -/
def accessFields (i : Instr) : Nat × Nat × Nat × Nat :=
  match i with
  | .ldg d _ w os => (d.val, w.code, os.code, 0)
  | .stg _ _ w os => (0, w.code, os.code, 0)
  | .atg d _ p w os => (d.val, w.toNat, os.code, p.code)
  | .casg d _ _ w os => (d.val, w.toNat, os.code, 0)
  | .ats d _ p w os => (d.val, w.toNat, os.code, p.code)
  | .cass d _ _ w os => (d.val, w.toNat, os.code, 0)
  | _ => (0, 0, 0, 0)

/-- The access of an opcode and its fields; its registers were read at issue. -/
def accessInstr (op d sz os aop : Nat) : Option Instr :=
  let rd : Reg := Fin.ofNat 32 d
  match OrdScope.ofCode? os, Aop.ofCode? aop with
  | some o, some p =>
    match op with
    | 0x09 => some (.ldg rd 0 (IntTy.ofCode (sz % 8)) o)
    | 0x0A => some (.stg 0 0 (Size.ofCode (sz % 4)) o)
    | 0x0B => some (.atg rd 0 p (decide (sz % 2 = 1)) o)
    | 0x0C => some (.casg rd 0 0 (decide (sz % 2 = 1)) o)
    | 0x0D => some (.ats rd 0 p (decide (sz % 2 = 1)) o)
    | 0x0E => some (.cass rd 0 0 (decide (sz % 2 = 1)) o)
    | _ => none
  | _, _ => none

/-- An access without the register numbers that were read at issue. -/
def accessNorm (i : Instr) : Instr :=
  let f := accessFields i
  (accessInstr (accessOp i) f.1 f.2.1 f.2.2.1 f.2.2.2).getD i

/-- The held access as 32 bytes at 0x0620 (R308); a compare-and-swap's expected value takes the last 8. -/
def heldImage : Option (Access × Option Dest) → Nat
  | none => 0
  | some (a, _) =>
    let f := accessFields a.instr
    a.addr + a.data.toNat * 2 ^ 64 +
      (accessOp a.instr + f.1 * 2 ^ 8 + f.2.1 * 2 ^ 13 + f.2.2.1 * 2 ^ 16 + f.2.2.2 * 2 ^ 21 + 2 ^ 31) * 2 ^ 128 +
      a.expect.toNat * 2 ^ 192

/-- The held access of its 32 bytes. -/
def heldOfImage (v : Nat) : Option (Access × Option Dest) :=
  if bitAt v 159 then
    match accessInstr (bits v 128 8) (bits v 136 5) (bits v 141 3) (bits v 144 5) (bits v 149 4) with
    | some i =>
      let a : Access := ⟨i, bits v 0 64, BitVec.ofNat 64 (bits v 64 64), BitVec.ofNat 64 (bits v 192 64), 0⟩
      some (a, a.reg.map .scalar)
    | none => none
  else none

/-- A side-log entry as 32 bytes (R317). -/
def logImage (e : LogEntry) : Nat :=
  let f := accessFields e.access.instr
  e.access.addr + e.access.data.toNat * 2 ^ 64 + (accessOp e.access.instr + f.2.1 * 2 ^ 8 + f.2.2.2 * 2 ^ 16 + e.state * 2 ^ 24) * 2 ^ 128

/-- The side-log entry of its 32 bytes, if an opcode stands there. -/
def logOfImage (v : Nat) : Option LogEntry :=
  (accessInstr (bits v 128 8) 0 (bits v 136 8) 0 (bits v 144 8)).map (fun i =>
    ⟨⟨i, bits v 0 64, BitVec.ofNat 64 (bits v 64 64), 0, 0⟩, bits v 152 8⟩)

/-! ### Shadow entries (R33, R309) -/

/-- Kind and index of a destination (R33). -/
def destCode : Dest → Nat × Nat
  | .scalar r => (0, r.val)
  | .vector r => (1, r.val)
  | .pred r => (2, r.val)
  | .fmt _ => (3, 0)
  | .latch i => (4, i.val)
  | .tstat t => (5, t.val)
  | .ctl _ => (6, 0)

/-- The destination of a kind and index; `whole` tells an MTC to fmt from FMT. -/
def destOf (kind index : Nat) (whole : Bool) : Option Dest :=
  match kind with
  | 0 => some (.scalar (Fin.ofNat 32 index))
  | 1 => some (.vector (Fin.ofNat 32 index))
  | 2 => some (.pred (Fin.ofNat 8 index))
  | 3 => some (.fmt whole)
  | 4 => some (.latch (Fin.ofNat 4 index))
  | 5 => some (.tstat (Fin.ofNat 4 index))
  | _ => none

/-- trapinfo of R33: kind in [10:8] and index in [4:0]. -/
def destInfo (d : Dest) : Word := BitVec.ofNat 64 ((destCode d).1 * 256 + (destCode d).2)

/-- A shadow header (R309); `now` is the age of the next bundle. -/
def headerImage (now : Nat) (e : Entry) : Nat :=
  let k := destCode e.dest
  2 ^ 63 + k.1 * 2 ^ 60 + k.2 * 2 ^ 55 + e.remaining % 16 * 2 ^ 51 + e.slot % 8 * 2 ^ 48 + (65535 - (now - e.age)) % 2 ^ 16 * 2 ^ 32

/-- The flags that land with an entry, and whether it is a whole write of fmt: one byte each from 0x0650 (the model's). -/
def entryFlagByte (e : Entry) : Nat := e.flags.toNat + (if e.dest = .fmt true then 128 else 0)

/-- A value as its destination holds it: reserved bits of a register are zero (R7). -/
def maskedValue (d : Dest) (v : Nat) : Nat :=
  match d with
  | .fmt _ => v &&& (crMask crFmt.val).toNat
  | .tstat t => v &&& (crMask (tstatReg t).val).toNat
  | _ => v

/-- The entries of a register space, from headers, flag bytes, values and pending latch images. -/
def entriesOf (headers flags values : Nat) (images : List Entry) : Nat → List Entry
  | 0 => []
  | n + 1 =>
    let h := bits headers (64 * n) 64
    let f := bits flags (8 * n) 8
    let rest := entriesOf headers flags values images n
    if bitAt h 63 then
      match destOf (bits h 60 3) (bits h 55 5) (bitAt f 7) with
      | some d =>
        let v := match images.find? (fun e => decide ((destCode e.dest).1 = 4 ∧ e.dest = d ∧ e.remaining = bits h 51 4)) with
          | some e => e.value
          | none => bits values (4096 * n) 4096
        rest ++ [⟨d, maskedValue d v, BitVec.ofNat 5 f, bits h 51 4, bits h 32 16, bits h 48 3⟩]
      | none => rest
    else rest

/-! ### Windows (R308) -/

/-- Code of a piece's state. -/
def Piece.code : Piece → Nat
  | .unfilled => 0 | .filling => 1 | .clean => 2 | .dirty => 3

/-- State of a code. -/
def Piece.ofCode : Nat → Piece
  | 1 => .filling | 2 => .clean | 3 => .dirty | _ => .unfilled

/-- A window entry as 96 bytes: region, global address, 2 bits per piece, the tag with a valid bit at [63]. -/
def windowImage (cs : List Cmd) (w : Window) : Nat :=
  w.region.toNat + w.ga * 2 ^ 64 + packLanes 2 (w.pieces.map Piece.code) * 2 ^ 128 +
    (match cs.find? (fun m => match m.instr with | .xwb _ _ => decide (m.opA = w.region) | .xinv _ _ => decide (m.opA = w.region) | _ => false) with
     | some m => (m.tag.val + 2 ^ 63) * 2 ^ 640
     | none => 0)

/-- The window of its 96 bytes; a length of 0 is no window. -/
def windowOfImage (v : Nat) : Option Window :=
  let n := bits v 20 12
  if n = 0 then none
  else some ⟨BitVec.ofNat 64 v, bits v 64 64, (lanesOf 2 n (v / 2 ^ 128)).map Piece.ofCode⟩

/-! ### Gather and streaming latches (R129, R164, R308) -/

/-- The gather latch as 2,048 bytes: word, base, predicate, index, data, accumulated vector. -/
def gatherImage : Option Gather → Nat
  | none => 0
  | some g => g.word + g.base.toNat * 2 ^ 64 + g.pred.toNat * 2 ^ 128 + g.idx.toNat * 2 ^ 640 + g.data.toNat * 2 ^ 4736 + g.acc.toNat * 2 ^ 8832

/-- The gather of its latch, at element `el`. -/
def gatherOfImage (v el : Nat) : Option Gather :=
  match decodeWord (v % 2 ^ 32) with
  | .ok (.ldvx d _ _ _ sz) => some ⟨v % 2 ^ 32, true, d, sz, BitVec.ofNat 64 (bits v 64 64), BitVec.ofNat 4096 (v / 2 ^ 640),
      BitVec.ofNat 512 (v / 2 ^ 128), BitVec.ofNat 4096 (v / 2 ^ 4736), BitVec.ofNat 4096 (v / 2 ^ 8832), el, 0⟩
  | .ok (.stvx d _ _ _ sz) => some ⟨v % 2 ^ 32, false, d, sz, BitVec.ofNat 64 (bits v 64 64), BitVec.ofNat 4096 (v / 2 ^ 640),
      BitVec.ofNat 512 (v / 2 ^ 128), BitVec.ofNat 4096 (v / 2 ^ 4736), BitVec.ofNat 4096 (v / 2 ^ 8832), el, 0⟩
  | _ => none

/-- Code of a rounding mode (R37). -/
def Rm.code : Rm → Nat
  | .rne => 0 | .rtz => 1 | .up => 2 | .down => 3

/-- The streaming latch as 576 bytes: accumulator, word, address, count, then rounding, saturation and flags so far. -/
def streamImage : Option Stream → Nat
  | none => 0
  | some t => t.acc.toNat + t.word * 2 ^ 4096 + t.addr * 2 ^ 4160 + t.count * 2 ^ 4224 +
      (t.rnd.rm.code + t.rnd.sat.toNat * 4 + t.flags.toNat * 8) * 2 ^ 4288

/-- The streaming reduction of its latch, at vector `n`. -/
def streamOfImage (v n : Nat) : Option Stream :=
  match decodeWord (bits v 4096 32) with
  | .ok (.vsred d _ _ r t) => some ⟨bits v 4096 32, d, r, t, bits v 4160 64, bits v 4224 64, BitVec.ofNat 4096 v, n,
      ⟨Rm.ofCode (bits v 4288 2), bitAt v 4290⟩, BitVec.ofNat 5 (v / 2 ^ 4291), 0⟩
  | _ => none

/-! ### The register space (R308) -/

/-- Bytes of the vector area (R222). -/
def vectorArea (r : BitVec 512) : Nat :=
  match recRegs r with | 0 => 0 | 1 => 0x1000 | 2 => 0x2000 | _ => 0x4000

/-- Bytes of the register space (R222). -/
def regSpaceSize (r : BitVec 512) : Nat :=
  0x4000 + vectorArea r + (if recTiles r = 0 then 0 else 0x33000) + 0x10000 * recTiles r

/-- The mask of held tags (R187, R308). -/
def heldMask (cs : List Cmd) : Word := cs.foldl (fun m c => m ||| (1 <<< c.tag.val)) 0

/-- prog of a save (R312): the fields of what is held. -/
def progOf (c : Core) : Word :=
  BitVec.ofNat 64
    ((match c.gather with | some g => 2 ^ 63 + g.elem % 128 * 2 ^ 56 | none => 0) +
     (match c.stream with | some t => 2 ^ 55 + t.done % 4096 * 2 ^ 40 | none => 0) +
     (match c.array with
      | some o => 2 ^ 39 + bits o.word 21 4 * 2 ^ 34 + (match o.instr with | .miter _ _ _ => o.phase % 8 | _ => 0) * 2 ^ 31 + o.iter % 2 ^ 16 * 2 ^ 15 + o.cyc % 512 * 2 ^ 6
      | none => 0) +
     (match c.loader with | some o => 2 ^ 38 + o.cyc % 64 | none => 0))

/-- prog without the fields of an instruction that has completed (R186, R312). -/
def Core.clearProg (c : Core) (lo n : Nat) : Core :=
  c.setCr crProg (BitVec.ofNat 64 (setBits (c.cr crProg).toNat lo n 0))

/-- A control register as the register space holds it: coreno and tick are read, the rest are stored. -/
def State.ctlImage (s : State) (c : Core) : Nat :=
  packLanes 64 ((List.range 96).map (fun n =>
    if n = crCoreno.val then (corenoOf s.umpire.standby c.id).toNat
    else if n = crTick.val then s.tick.toNat
    else (c.cr (Fin.ofNat 96 n)).toNat))

/-- The return queue as 8 entries of value and count (R308); the count of an entry that is absent is all ones (the model's). -/
def rqImage (q : List RqEntry) : Nat :=
  packLanes 128 ((List.range 8).map (fun i =>
    match q[i]? with
    | some e => e.value.toNat + e.remaining * 2 ^ 64
    | none => (2 ^ 64 - 1) * 2 ^ 64))

/-- The return queue of its image. -/
def rqOfImage (v : Nat) : List RqEntry :=
  (lanesOf 128 8 v).filterMap (fun e => if bits e 64 64 = 2 ^ 64 - 1 then none else some ⟨BitVec.ofNat 64 e, bits e 64 64⟩)

/-- The register space of a core with a task, as one number with byte 0 lowest (R308). -/
def State.regSpace (s : State) (c : Core) (r : BitVec 512) : Nat :=
  let at' (off v : Nat) := v * 256 ^ off
  let vb := 0x4000 + vectorArea r
  at' 0x0000 (packLanes 64 (c.s.toList.map (·.toNat)) / 2 ^ 64 * 2 ^ 64) +
  at' 0x0100 (packLanes 512 (c.p.toList.map (·.toNat))) +
  at' 0x0300 (s.ctlImage c) +
  at' 0x0600 c.pc.toNat +
  at' 0x0608 (c.wi.toNat + c.ri.toNat * 2 ^ 16) +
  at' 0x0610 (c.issued % 2 ^ 64) +
  at' 0x0618 (heldMask c.cmds ||| c.heldTags).toNat +
  at' 0x0620 (heldImage c.held) +
  at' 0x0640 (match c.qpop with | some d => d.val + 2 ^ 31 | none => 0) +
  at' 0x0648 c.tendDone.toNat +
  at' 0x0650 (packLanes 8 (c.shadow.map entryFlagByte)) +
  at' 0x0680 (rqImage c.rq) +
  at' 0x0800 (packLanes 64 (c.shadow.map (headerImage c.age))) +
  at' 0x0900 (packLanes 256 (c.log.map logImage)) +
  at' 0x0D00 (packLanes 768 (c.wins.map (windowImage c.cmds))) +
  at' 0x1300 (gatherImage c.gather) +
  at' 0x1B00 (streamImage c.stream) +
  at' 0x2000 (packLanes 4096 (c.shadow.map (fun e => if (destCode e.dest).1 = 4 then 0 else e.value))) +
  at' 0x4000 (packLanes 4096 ((c.v.toList.take (vectorArea r / 512)).map (·.toNat))) +
  (if recTiles r = 0 then 0
   else
    at' vb (c.wbuf[0].toNat + c.wbuf[1].toNat * 256 ^ 0x8000) +
    at' (vb + 0x10000) (c.sla.toNat + c.slb.toNat * 256 ^ 0x1000 + c.slq.toNat * 256 ^ 0x2000) +
    at' (vb + 0x13000) (Config.latchOpaque s.freeCtr % 256 ^ 0x20000) +
    at' (vb + 0x33000) (packLanes 524288 ((c.tiles.toList.take (recTiles r)).map (·.toNat))))

/-- A vector of n values cut from a number. -/
def vecOf (w n : Nat) (v : Nat) : Vector (BitVec w) n := Vector.ofFn (fun i => BitVec.ofNat w (v / 2 ^ (w * i.val)))

/-- The side log that stands in the bytes of a slot: an entry is the saved one of the same bytes, whatever its state is now (R317). -/
def Saved.logOf (v : Saved) (log : List LogEntry) : List LogEntry :=
  log.map (fun e =>
    match v.log.find? (fun x => decide (logImage { x with state := e.state } = logImage e)) with
    | some x => { x with state := e.state }
    | none => e)

/-- The ages of the bundles that the saved operations and orders are told apart by. -/
def Saved.ages (v : Saved) : List Nat :=
  v.ilk.map (·.age) ++ v.cmds.map (·.age) ++ v.stq.map (·.age) ++ v.log.map (·.access.age) ++ [v.heldAge, v.gatherAge] ++
    (v.ord.own ++ v.ord.seen).map (·.2) ++ v.ord.fence.map (·.2) ++ v.ord.lost.toList

/-- The age of the newest of them. -/
def Saved.newest (v : Saved) : Nat := v.ages.foldl Nat.max 0

/-- The age of a saved operation after the restore: in the order of the save, and older than every bundle to come. -/
def Saved.rebase (v : Saved) (n : Nat) : Nat := (v.ages.filter (fun a => decide (a < n))).length

/-- An ordering state with other ages. -/
def Ordering.mapAges (o : Ordering) (f : Nat → Nat) : Ordering :=
  { o with
    fence := o.fence.map (fun e => (e.1, f e.2)), own := o.own.map (fun e => (e.1, f e.2)), seen := o.seen.map (fun e => (e.1, f e.2))
    lost := o.lost.map f }

/-- An access with another age. -/
def Access.aged (f : Nat → Nat) (a : Access) : Access := { a with age := f a.age }

/-- An interlocked operation with another age. -/
def Ilk.aged (f : Nat → Nat) (o : Ilk) : Ilk :=
  { o with age := f o.age, kind := match o.kind with | .access a got => .access (a.aged f) got | x => x }

/-- A core whose register space is read back (R308, R311); what the bytes do not hold comes from the saved task. Every operation that
was outstanding at the save is older than the bundles to come. -/
def Core.ofRegSpace (c : Core) (r : BitVec 512) (v : Nat) (sv : Saved) : Core :=
  let vb := 0x4000 + vectorArea r
  let prog := field v 0x310 8
  { c with
    s := vecOf 64 32 v
    p := (vecOf 512 8 (field v 0x100 512)).set 0 (BitVec.allOnes 512)
    ctl := Vector.ofFn (fun n => BitVec.ofNat 64 (field v (0x300 + 8 * n.val) 8) &&& crMask n.val)
    pc := BitVec.ofNat 49 (field v 0x600 8)
    wi := BitVec.ofNat 16 (field v 0x608 2)
    ri := BitVec.ofNat 16 (field v 0x60A 2)
    held := (heldOfImage (field v 0x620 32)).map (fun h => ({ h.1 with age := sv.rebase sv.heldAge }, h.2))
    qpop := if bitAt (field v 0x640 8) 31 then some (Fin.ofNat 32 (field v 0x640 8)) else none
    tendDone := bitAt (field v 0x648 8) 0
    rq := rqOfImage (field v 0x680 128)
    heldTags := BitVec.ofNat 64 (field v 0x618 8) &&& ~~~heldMask sv.cmds
    shadow := entriesOf (field v 0x800 128) (field v 0x650 16) (field v 0x2000 8192) sv.images 16
    age := Nat.max 65536 (sv.ages.length + 1)
    log := (sv.logOf (((List.range 32).map (fun i => field v (0x900 + 32 * i) 32)).filterMap logOfImage)).map (fun e =>
      { e with access := e.access.aged sv.rebase })
    wins := ((List.range 16).map (fun i => field v (0xD00 + 96 * i) 96)).filterMap windowOfImage
    gather := if bitAt prog 63 then (gatherOfImage (field v 0x1300 2048) (bits prog 56 7)).map (fun g => { g with age := sv.rebase sv.gatherAge }) else none
    stream := if bitAt prog 55 then streamOfImage (field v 0x1B00 576) (bits prog 40 12) else none
    v := vecOf 4096 32 (field v 0x4000 (vectorArea r))
    wbuf := if recTiles r = 0 then Vector.replicate 2 0 else vecOf 262144 2 (field v vb 0x10000)
    sla := if recTiles r = 0 then 0 else BitVec.ofNat 32768 (field v (vb + 0x10000) 0x1000)
    slb := if recTiles r = 0 then 0 else BitVec.ofNat 32768 (field v (vb + 0x11000) 0x1000)
    slq := if recTiles r = 0 then 0 else BitVec.ofNat 4096 (field v (vb + 0x12000) 0x200)
    tiles := if recTiles r = 0 then Vector.replicate 4 0 else vecOf 524288 4 (field v (vb + 0x33000) (0x10000 * recTiles r))
    ilk := sv.ilk.map (Ilk.aged sv.rebase)
    stq := sv.stq.map (Access.aged sv.rebase)
    array := if bitAt prog 39 then sv.array.map (fun o => { o with age := 0 }) else none
    loader := if bitAt prog 38 then sv.loader.map (fun o => { o with age := 0 }) else none
    cmds := sv.cmds
    tflags := sv.tflags
    arrived := sv.arrived
    due := sv.due
    pending := sv.pending
    ord := sv.ord.mapAges sv.rebase
    hints := sv.hints }

/-- What a supervisor must not change in a register space: prog, the held access, the held QPOP and the latches (R312). -/
def heldBytes (r : BitVec 512) (v : Nat) : List Nat :=
  [field v 0x310 8, field v 0x620 32, field v 0x640 8, field v 0x1300 2048, field v 0x1B00 576] ++
    (if recTiles r = 0 then [] else [field v (0x17000 + vectorArea r) 0x20000])

/-- n 64-bit places of undefined contents, from place `base` on (R312). -/
def undefinedBits (k base n : Nat) : Nat := packLanes 64 ((List.range n).map (fun i => (Config.undefinedResult k (base + i)).toNat))

/-- A restored task whose held state a supervisor changed: the registers that held instructions write are undefined, and nothing is
held any more (R312). -/
def Core.undefinedResults (c : Core) (k : Nat) : Core :=
  { c with
    s := Vector.ofFn (fun i => BitVec.ofNat 64 (undefinedBits k i.val 1))
    v := Vector.ofFn (fun i => BitVec.ofNat 4096 (undefinedBits k (32 + 64 * i.val) 64))
    p := Vector.ofFn (fun i => BitVec.ofNat 512 (undefinedBits k (0x1000 + 8 * i.val) 8))
    tiles := Vector.ofFn (fun i => BitVec.ofNat 524288 (undefinedBits k (0x10000 + 0x2000 * i.val) 0x2000))
    wbuf := Vector.ofFn (fun i => BitVec.ofNat 262144 (undefinedBits k (0x20000 + 0x1000 * i.val) 0x1000))
    gather := none
    stream := none
    array := none
    loader := none
    held := none
    qpop := none }

/-! ### Access to the slot (R307, R428) -/

/-- Translation of an address of a context slot, under the context's `kslot` (R307, R428); nothing writes under a code slot (R346). -/
def State.slotXlat (s : State) (ctx va : Nat) (need : Need) : Except Cause Xlat :=
  if 2 ^ 49 ≤ va then .error .translation else
  match s.entryOf ctx va with
  | .error c => .error c
  | .ok (e, w) =>
    let slot := (s.ctx ctx).kslot
    if (s.key slot).wld ≠ (s.ctx ctx).wld ∨ (s.key slot).st ≠ 1 then .error .permission
    else if need.w && (decide ((s.key slot).kind = 5) || decide ((s.key (bits e 56 7)).kind = 5)) then .error .permission
    else if entryAllows e need then
      if bitAt e 54 && need.r then .error .poisonConsumed
      else .ok ⟨bits e 16 32 * 2 ^ 16 + va % 2 ^ w, s.keyLabel slot, bitAt e 54, slot⟩
    else .error .permission

/-- Blocks of 4 KiB written at virtual addresses of a slot: every translation first, then the bytes. -/
def State.slotWrite (s : State) (ctx : Nat) (bs : List (Nat × Nat)) : Except Cause State := do
  let xs ← bs.mapM (fun b => do let x ← s.slotXlat ctx b.1 Need.write; pure (x, b.2))
  pure (xs.foldl (fun s x => s.writeBlock x.1.label x.1.pa x.2) s)

/-- A block of 4 KiB read at a virtual address of a slot. -/
def State.slotRead (s : State) (ctx va : Nat) : Except Cause Nat := do
  let x ← s.slotXlat ctx va Need.read
  if (List.range 64).any (fun i => s.poisoned (x.pa / 64 + i)) then .error .poisonConsumed
  else pure (s.readBlock x.label x.pa)

/-- n blocks of 4 KiB of a slot as one number. -/
def State.slotReadAll (s : State) (ctx va n : Nat) : Except Cause Nat := do
  let xs ← (List.range n).mapM (fun i => s.slotRead ctx (va + 4096 * i))
  pure (packLanes 32768 xs)

/-- n bytes within one block of a slot. -/
def State.slotField (s : State) (ctx va off n : Nat) : Except Cause Nat := do
  let b ← s.slotRead ctx (va + off / 4096 * 4096)
  pure (field b (off % 4096) n)

/-- Replaces n bytes within one block of a slot. -/
def State.slotSet (s : State) (ctx va off n v : Nat) : Except Cause State := do
  let b ← s.slotRead ctx (va + off / 4096 * 4096)
  s.slotWrite ctx [(va + off / 4096 * 4096, setBits b (8 * (off % 4096)) (8 * n) v)]

/-- The scalar operands of a command in 12 bytes (R314): the initial vector of an XCPH, else sa or the number it names in 4 bytes and
sb in 8 (the model's). -/
def Cmd.operands (c : Cmd) : Nat :=
  match c.instr with
  | .xcph _ _ _ => c.opB.toNat + bits c.opB1.toNat 0 32 * 2 ^ 64
  | _ => c.opA.toNat % 2 ^ 32 + c.opB.toNat * 2 ^ 32

/-- A command record of 128 bytes (R314). -/
def cmdImage (c : Cmd) : Nat :=
  c.desc + (c.word % 2 ^ 32 + c.operands * 2 ^ 32) * 2 ^ 512 + c.bitmap.toNat * 2 ^ 640 +
    (c.fault.isSome.toNat + c.cancelled.toNat * 2 + c.done.toNat * 4) * 2 ^ 896

/-- Boxes of a saved command that are in flight: started and not complete (R307, R314). -/
def Cmd.inFlight (c : Cmd) : Nat := ((List.range 256).filter (fun b => c.started.getLsbD b && !c.bitmap.getLsbD b)).length

/-! ### Saving (R310) -/

/-- The live regions of livemap (R16). -/
def liveRegions (lm : Word) : List Nat := (List.range 64).filter (fun n => lm.getLsbD n)

/-- The blocks of a live save area, and the poison bits of its lines (R307). -/
def Core.liveBlocks (c : Core) (slot : Nat) : List (Nat × Nat) :=
  (liveRegions (c.cr crLivemap)).flatMap (fun n => (List.range 4).map (fun j =>
    (slot + 0x80000 + 16384 * n + 4096 * j, c.scratchRead (16384 * n + 4096 * j) 4096)))

/-- The poison bitmap of the live regions (R307). -/
def Core.livePoison (c : Core) : Nat :=
  (c.poison.filter (fun l => (c.cr crLivemap).getLsbD (l / 256))).foldl (fun v l => v ||| 2 ^ l) 0

/-- The slot header block (R307): `busy`, the fault word kept, the record, the poison bitmap. -/
def headerBlock (old : Nat) (busy : Nat) (r : BitVec 512) (poison : Nat) : Nat :=
  busy + field old 8 32 * 2 ^ 64 + r.toNat * 2 ^ 512 + poison * 2 ^ 16384

/-- The command area (R314): 64 records of 128 bytes in two blocks. -/
def cmdBlocks (slot : Nat) (cs : List Cmd) : List (Nat × Nat) :=
  let area := cs.foldl (fun v c => v + cmdImage c * 2 ^ (1024 * c.tag.val)) 0
  [(slot + 0x7C000, area % 2 ^ 32768), (slot + 0x7D000, area / 2 ^ 32768)]

/-- Writes back a dirty piece of a window line by line (R201, R226), for the core or for the engine of an XWB: every line or, at the
first fault, none of the rest. -/
def State.writePieceAs (s : State) (c : Core) (by' : StoreBy) (w : Window) (i : Nat) : Except Trap State :=
  (List.range 64).foldlM (fun s j =>
    let off := w.off + 4096 * i + 64 * j
    let va := w.ga + 4096 * i + 64 * j
    match s.translate c.party va Need.write with
    | .error e => .error ⟨e, addrInfo va⟩
    | .ok x =>
      .ok (s.storeAs c.id by' x (bytesOf 64 (c.scratchRead off 64)) (decide (off / 64 ∈ c.poison)) [])) s

/-- The write-back of a piece by the core itself (R226, R227). -/
def State.writePiece (s : State) (c : Core) (w : Window) (i : Nat) : Except Trap State := s.writePieceAs c .window w i

/-- A piece lies in a region that livemap marks (R227). -/
def Core.pieceLive (c : Core) (w : Window) (i : Nat) : Bool := (c.cr crLivemap).getLsbD ((w.off + 4096 * i) / 16384)

/-- The write-backs of the dirty pieces outside livemap, which count for the hints (R324); one that faults loses its piece, and its
cause is reported with the save (R227). -/
def State.writeBackLost (s : State) (c : Core) : State × List Cause :=
  c.wins.foldl (fun r w => (w.pieces.zipIdx).foldl (fun r p =>
    if p.1 = .dirty ∧ !c.pieceLive w p.2 then
      match r.1.writePiece c w p.2 with
      | .ok s' => (s'.setCore ((s'.core c.id).countHints (w.ga + 4096 * p.2) 4096), r.2)
      | .error t => (r.1, r.2 ++ [t.cause])
    else r) r) (s, [])

/-- Windows after a save (R227): every piece outside livemap becomes unfilled; a fill under way is abandoned (R225). -/
def Core.windowsSaved (c : Core) : List Window :=
  c.wins.map (fun w =>
    { w with pieces := (w.pieces.zipIdx).map (fun p =>
        if p.1 = .filling then .unfilled else if c.pieceLive w p.2 then p.1 else .unfilled) })

/-- A core that no task holds: clocked down, its scratchpad as it stands (R221, R390). -/
def Core.freed (c : Core) (last : Option (Nat × Nat)) : Core :=
  { Core.dark c.id with
    power := .idle, scratch := c.scratch, poison := c.poison, lastCtx := last, halted := c.halted, off := c.off, enabled := c.enabled,
    freeze := c.freeze, corrected := c.corrected, freezeTicks := c.freezeTicks, ws := c.ws }

/-- The item of R313. -/
def supItem (cause : Nat) (sl : Bool) (k : CoreId) (slot : Nat) : Word :=
  BitVec.ofNat 64 (cause * 2 ^ 56 + sl.toNat * 2 ^ 55 + coreNumber k % 64 * 2 ^ 33 + clusterOf k % 32 * 2 ^ 28 + slot / 2 ^ 21 % 2 ^ 28)

/-- Code of a cause (R305). -/
def Cause.code : Cause → Nat
  | .illegal => 0x01 | .notStart => 0x02 | .slotAbsent => 0x03 | .stallShort => 0x04 | .bankConflict => 0x05
  | .scratchRange => 0x06 | .misaligned => 0x07 | .privilege => 0x08 | .compartment => 0x09 | .translation => 0x0A
  | .permission => 0x0B | .sideLogFull => 0x0C | .poisonConsumed => 0x0D | .divergence => 0x0E | .iterCap => 0x0F
  | .queueError => 0x10 | .launchTooLarge => 0x11 | .maskLate => 0x12 | .lateFrame => 0x13 | .releaseBlocked => 0x14
  | .fenceLost => 0x15 | .integrity => 0x16 | .wearOut => 0x17 | .powerLoss => 0x18 | .trapInsn => 0x19
  | .preempted => 0x1A | .streamState => 0x1B

/-- The cluster scheduler takes an item for the context's supervisor queue (R313), behind a release of some stores and of a task's
side log. -/
def State.postItem (s : State) (k : CoreId) (t : Task) (item : Word) (waits : List Nat) (log : Option (Nat × Nat)) : State :=
  let cl := s.cluster (clusterOf k)
  s.setCluster (clusterOf k) { cl with items := cl.items ++ [⟨t.part, (s.ctx t.ctx).supq, item, waits, log⟩] }

/-- An item that no release precedes (R227, R317, R428). -/
def State.postSup (s : State) (k : CoreId) (t : Task) (item : Word) : State := s.postItem k t item [] none

/-- A cause for which a store retires into the side log (R136). -/
def Cause.repairable : Cause → Bool
  | .translation => true
  | .permission => true
  | .compartment => true
  | _ => false

/-- The first entry that faults on a page posts an item, and is copied to the side-log fault word of the slot at 0x7B008; a page
is 64 KiB, and a further fault on a page that has an entry awaiting translation posts nothing (R307, R317). -/
def State.postSide (s : State) (k : CoreId) (log : List LogEntry) (e : LogEntry) (cause : Cause) : State :=
  match (s.core k).task with
  | none => s
  | some t =>
    if log.any (fun x => decide (x.state = 0 ∧ x.access.addr / 65536 = e.access.addr / 65536)) then s
    else
      let s := s.postSup k t (supItem cause.code true k t.slot)
      match s.slotSet t.ctx t.slot 0x7B008 32 (logImage e) with
      | .ok s => s
      | .error _ => s

/-- A store is held with its trap due; while another access is held it waits in front of the queue, for the register space has one held
access (R135, R136, R308). -/
def State.holdStore (s : State) (k : CoreId) (a : Access) (f : Cause) : State :=
  let c := s.core k
  if c.held.isSome then s.setCore { c with stq := a :: c.stq }
  else s.setCore { c with held := some (a, none), due := c.due ++ [⟨f, addrInfo a.addr⟩] }

/-- The state in which a store enters the side log: one that waits on an entry there is replayed with it, so it takes the state of the last
entry that it overlaps, the model's choice (log 76); one that has faulted itself awaits its translation (R317). -/
def entryState (log : List LogEntry) (a : Access) (why : Option Cause) : Nat :=
  match why, (logOverlap log a).getLast? with
  | none, some e => e.state
  | _, _ => 0

/-- A store that the side log takes, or that finds it full and is held (R136). `why` is its own fault, if it has one. -/
def State.enterLog (s : State) (k : CoreId) (a : Access) (why : Option Cause) : State :=
  let c := s.core k
  if 32 ≤ c.log.length then s.holdStore k a .sideLogFull
  else
    let e : LogEntry := ⟨{ a with instr := accessNorm a.instr }, entryState c.log a why⟩
    let s := match why with
      | some f => s.postSide k c.log e f
      | none => s
    s.setCore { s.core k with log := (s.core k).log ++ [e] }

/-- A store or reduction after issue (R136, R137): performed, taken by the side log, held, or refused because it meets an
unreplayable entry. -/
def State.retireStore (s : State) (k : CoreId) (a : Access) : State :=
  let c := s.core k
  let hits := logOverlap c.log a
  if hits.any (fun e => decide (e.state = 2)) then
    s.setCore { c with due := c.due ++ [⟨.releaseBlocked, addrInfo a.addr⟩] }
  else if !hits.isEmpty then s.enterLog k a none
  else
    match s.tryGlobal k a with
    | .done s' _ => s'
    | .fault f =>
      if f.repairable then s.enterLog k a (some f)
      else s.holdStore k a f
    | .wait s' => s'.setCore { s'.core k with stq := a :: (s'.core k).stq }
    | .blocked => s

/-- The save under way parks the task (R219). -/
def Core.parking (c : Core) : Bool := match c.saving with | some (.parked _) => true | _ => false

/-- Results that a save awaits (R28, R310): each is tried; one that faults is the held access of the register space, and a further one
stays with the saved task; one that waits on an unreplayable entry is due its trap (R137). The item of a QDEQ stays with a task that is
parking, which it makes eligible (R280). -/
def State.awaitResults (s : State) (k : CoreId) : State :=
  (s.core k).ilk.foldl (fun s op =>
    let keep (s : State) : State := s.setCore { s.core k with ilk := (s.core k).ilk ++ [op] }
    let give (s : State) (v : Nat) : State :=
      match op.dest with
      | some d => s.setCore ((s.core k).writeDest d v)
      | none => s
    match op.kind with
    | .value v => give s v
    | .tick => let s := s.observeTick; give s s.tick.toNat
    | .access _ (some v) => give s v
    | .access a none =>
      if s.behind k a (s.core k).ilk then keep s else
      match s.tryAccess k a with
      | .done s v => give s (a.result v).toNat
      | .wait s => keep s
      | .fault f =>
        if a.isStore && f.repairable && decide ((s.core k).log.length < 32) then s.retireStore k a
        else if (s.core k).held.isNone then
          let s := s.told k a
          s.setCore { s.core k with held := some (a, op.dest) }
        else keep s
      | .blocked => s.setCore { s.core k with due := (s.core k).due ++ [⟨.releaseBlocked, addrInfo a.addr⟩] }
    | .qdeq _ _ (some v) => if (s.core k).parking then keep s else (give s v.toNat).acquire k op.age
    | _ => keep s) (s.setCore { s.core k with ilk := [] })

/-- A queued store can only be held, and another access is (R136, R308). -/
def State.storeStuck (s : State) (k : CoreId) (a : Access) : Bool :=
  (s.core k).held.isSome && decide (32 ≤ (s.core k).log.length) &&
    (!(logOverlap (s.core k).log a).isEmpty || (match s.tryGlobal k a with | .fault _ => true | _ => false))

/-- The release ahead of an append waits for no record of the register space and for no pending QDEQ before it (R204, R251, R310). -/
def Core.releaseMoves (c : Core) (before : List Ilk) : Bool := c.held.isNone && c.gather.isNone && c.log.isEmpty && !qdeqPending before

/-- A save still awaits a result or a store (R251, R310): a pending QDEQ stays registered; a fault behind the one that is held, an append
whose release waits for a record of the register space, and what waits on them or on the QDEQ, stay recorded. -/
def State.saveWaits (s : State) (k : CoreId) : Bool :=
  let c := s.core k
  (match c.stq with | a :: _ => !s.heldBefore k a && !s.storeStuck k a | [] => false) ||
    (c.ilk.zipIdx).any (fun o =>
      match o.1.kind with
      | .qdeq _ _ none => false
      | .qdeq _ _ (some _) => !c.parking
      | .enq _ _ _ => c.releaseMoves (c.ilk.take o.2)
      | .push _ _ _ _ => c.releaseMoves (c.ilk.take o.2)
      | .evt _ _ _ => c.releaseMoves (c.ilk.take o.2)
      | .access a none =>
        !(s.behind k a (c.ilk.take o.2)) &&
          !(c.held.isSome && (match s.tryAccess k a with | .fault _ => true | _ => false))
      | _ => true)

/-- Appends a black-box entry (R421): its code, coreno, context, world, payload and detail, with the tick at the event. The ring keeps
4,096 entries, and the link of the one it drops. -/
def State.logEntry (s : State) (code : Nat) (coreno : Word) (ctx wld pay ext : Nat) : State :=
  let s := s.observeTick
  let last := (s.boxLog.getLast?.getD 0).toNat
  let bseq := if s.boxLog.isEmpty then 1 else (field last 0 8 + 1) % 2 ^ 64
  let body := bseq + s.tick.toNat * 2 ^ 64 + coreno.toNat % 2 ^ 16 * 2 ^ 128 + ctx % 2 ^ 9 * 2 ^ 144 + code % 256 * 2 ^ 160 +
    wld % 256 * 2 ^ 168 + 2 ^ 176 + pay % 2 ^ 64 * 2 ^ 192 + ext % 2 ^ 128 * 2 ^ 256
  let lnk := natOfBytes ((sha384 (bytesOf 16 (field last 48 16) ++ bytesOf 48 body)).take 16)
  let log := s.boxLog ++ [BitVec.ofNat 512 (body + lnk * 2 ^ 384)]
  let dropped := (log.take (log.length - 4096)).getLast?
  { s with
    boxLog := log.drop (log.length - 4096)
    umpire := match dropped with | some e => { s.umpire with boxLink := field e.toNat 48 16 } | none => s.umpire }

/-- A black-box entry of the Umpire about a core (R399, R421). -/
def State.logEvent (s : State) (code : Nat) (k : CoreId) (pay : Nat) : State :=
  let ctx := bits ((s.core k).cr crCtxid).toNat 0 9
  s.logEntry code (corenoOf s.umpire.standby k) ctx (s.ctx ctx).wld pay 0

/-- A pending QDEQ stays registered as its task moves (R280). -/
def State.moveWaiters (s : State) (a b : Waiter) : State :=
  if s.queues.all (fun e => decide (a ∉ e.2.waiters)) then s
  else { s with queues := s.queues.map (fun e => (e.1, { e.2 with waiters := e.2.waiters.map (fun w => if w = a then b else w) })) }

/-- The registrations of a task that is gone end. -/
def State.dropWaiters (s : State) (a : Waiter) : State :=
  { s with queues := s.queues.map (fun e => (e.1, { e.2 with waiters := e.2.waiters.filter (fun w => decide (w ≠ a)) })) }

/-- The end of a task: it is no reader of the weight sets it has read any more (R252), and a later task in its slot is another party
(R235). -/
def State.endOfTask (s : State) (t : Task) : State :=
  { s.forgetWriter t with wsets := s.wsets.map (fun e => if e.1 ∈ t.sets then (e.1, { e.2 with readers := e.2.readers - 1 }) else e) }

/-- A command of a task that is gone: boxes that have not started never do (R192, R428). -/
def Cmd.windDown (m : Cmd) : Cmd := { m with bitmap := m.bitmap ||| ~~~m.started }

/-- The commands of a task that is gone run on without a tag (R428): they stay with an entry that no slot names, since its address lies
outside the address space. -/
def State.keepRunning (s : State) (k : CoreId) (t : Task) (ms : List Cmd) : State :=
  let run := (ms.filter (fun m => m.fault.isNone)).map Cmd.windDown
  if run.isEmpty then s
  else
    let sv : Saved := { Saved.bare { t with slot := 2 ^ 49 + s.ids } (clusterOf k) .gone s.ids with cmds := run }
    { s with tasks := s.tasks ++ [sv], ids := s.ids + 1 }

/-- What a core has read stays with the task that leaves it; it counts as acquired from there on (R245, R251). -/
def State.ordOf (s : State) (k : CoreId) : Ordering :=
  (s.core k).ord.observe (((s.heard.filter (fun e => decide (e.1 = k))).flatMap (fun e =>
    match e.2 with
    | .store i => [i]
    | .scratch j => s.scratchCarries k j)).filter s.isPending) (s.core k).age

/-- A core whose task has left it has read nothing. -/
def State.unheard (s : State) (k : CoreId) : State := { s with heard := s.heard.filter (fun e => decide (e.1 ≠ k)) }

/-- A task whose slot cannot be reached ends without completion (R428); its commands run on. -/
def State.slotLost (s : State) (k : CoreId) (t : Task) (cause : Cause) (ms : List Cmd) : State :=
  let s := (s.endOfTask t).dropWaiters (.core k)
  let s := s.keepRunning k t ms
  let c := s.core k
  let s := s.postSup k t (supItem cause.code false k t.slot)
  let s := s.logEvent 0x5B k t.slot
  (s.unheard k).setCore { (c.freed none) with scratch := [], poison := [] }

/-- The save of the task on a core whose results have been awaited (R310): the bytes of its slot, and the rest as a saved task in a given
state. The core is freed. The cause is that of an access to the slot that faults (R428). -/
def State.trySave (s : State) (k : CoreId) (t : Task) (st : TaskState) : Except Cause State :=
  let s := s.setCore (s.core k).securityNow
  let wb := s.writeBackLost (s.core k)
  let s := wb.2.foldl (fun s f => s.postSup k t (supItem f.code true k t.slot)) wb.1
  let c := s.core k
  let c := { c with wins := c.windowsSaved, ctl := c.ctl.set crProg (progOf c) }
  let img := s.regSpace c t.record
  let regs := (List.range (regSpaceSize t.record / 4096)).map (fun i => (t.slot + 4096 * i, img / 2 ^ (32768 * i) % 2 ^ 32768))
  let busy := (c.cmds.map Cmd.inFlight).sum
  match s.slotRead t.ctx (t.slot + 0x7B000) with
  | .error e => .error e
  | .ok old =>
    match s.slotWrite t.ctx
      (regs ++ (t.slot + 0x7B000, headerBlock old busy t.record c.livePoison) :: cmdBlocks t.slot c.cmds ++ c.liveBlocks t.slot) with
    | .error e => .error e
    | .ok s =>
      let sv : Saved :=
        { task := t, cl := clusterOf k, pin := recPin t.record, state := st, cmds := c.cmds, ilk := c.ilk, stq := c.stq, log := c.log
          heldAge := (c.held.map (·.1.age)).getD 0, gatherAge := (c.gather.map (·.age)).getD 0, array := c.array
          loader := c.loader, ord := s.ordOf k, due := c.due, pending := c.pending, hints := c.hints, tflags := c.tflags, arrived := c.arrived
          images := c.shadow.filter (fun e => decide ((destCode e.dest).1 = 4)), order := s.ids
          kept := heldBytes t.record img }
      let s := s.unheard k
      .ok ({ s with tasks := s.tasks ++ [sv], ids := s.ids + 1, freeCtr := s.freeCtr + 1 }.setCore (c.freed (some (t.ctx, recField t.record 40 1))) |>.moveWaiters (.core k) (.slot t.ctx t.slot))

/-- The stores that a release of a core covers and that are not performed everywhere (R249, R250). -/
def State.openStores (s : State) (c : Core) : List Nat := c.ord.covered.filter s.isPending

/-- A save under way goes on (R310): results are awaited, a frozen core waits (R36), then the task is saved; a trapped task's supervisor
gets its item behind a release at .mod (R313). A slot that cannot be reached ends the task (R428). -/
def State.saveStep (s : State) (k : CoreId) : State :=
  match (s.core k).task, (s.core k).saving with
  | some t, some st =>
    if (s.core k).freeze ≠ 0 then s
    else
      let s := s.awaitResults k
      if s.saveWaits k then s
      else
        let c := s.core k
        match s.trySave k t st with
        | .ok s' =>
          (match st with
           | .trapped _ => s'.postItem k t (supItem (c.cr crTrapcause).toNat false k t.slot) (s.openStores c) (some (t.ctx, t.slot))
           | _ => s')
        | .error e => s.slotLost k t e c.cmds
  | _, _ => s

/-- The save of a task begins (R310); one that is under way goes on as it began. -/
def State.saveTask (s : State) (k : CoreId) (_t : Task) (st : TaskState) : State :=
  if (s.core k).saving.isSome then s else (s.setCore { s.core k with saving := some st }).saveStep k

/-! ### Restoring (R311) -/

/-- Commands of a saved task, with the bitmap and marks of their records (R314). A supervisor may have marked one cancelled. -/
def cmdsOf (area : Nat) (cs : List Cmd) : List Cmd :=
  (cs.map (fun c =>
    let v := bits area (1024 * c.tag.val) 1024
    { c with
      desc := bits v 0 512, bitmap := BitVec.ofNat 256 (v / 2 ^ 640), cancelled := bitAt v 897
      fault := if bitAt v 896 then c.fault else none, told := c.told && bitAt v 896 })).filter (fun c => !c.cancelled)

/-- The restore of a saved task onto a core (R311, R314). `slc` is the slice of its queue (R293). After a trap the bundle at trappc is no
branch's target any more (log 71). -/
def State.restoreTask (s : State) (k : CoreId) (sv : Saved) (slc : Nat) : State :=
  let t := sv.task
  let s := s.moveWaiters (.slot t.ctx t.slot) (.core k)
  let c := s.core k
  let res : Except Cause Core := do
    let img ← s.slotReadAll t.ctx t.slot (regSpaceSize t.record / 4096)
    let hdr ← s.slotRead t.ctx (t.slot + 0x7B000)
    let area ← s.slotReadAll t.ctx (t.slot + 0x7C000) 2
    let live := liveRegions (BitVec.ofNat 64 (field img (0x300 + 8 * 0x50) 8))
    let data ← live.mapM (fun n => do
      let v ← s.slotReadAll t.ctx (t.slot + 0x80000 + 16384 * n) 4
      pure (16384 * n, v))
    let same := decide (c.lastCtx = some (t.ctx, recField t.record 40 1))
    let base : Mem := if same then c.scratch else []
    let pbase := if same then c.poison else []
    let scratch := data.foldl (fun m d => memPow m d.1 14 d.2) base
    let poison := pbase.filter (fun l => decide (l / 256 ∉ live)) ++
      live.flatMap (fun n => ((List.range 256).map (· + 256 * n)).filter (fun l => bitAt hdr (16384 + l)))
    let c' := ({ c with scratch := scratch, poison := poison } : Core).ofRegSpace t.record img sv
    let c' := if heldBytes t.record img = sv.kept then c' else c'.undefinedResults s.freeCtr
    pure { c' with
      pc := (match sv.state with | .trapped _ => BitVec.ofNat 49 (c'.cr crTrappc).toNat | _ => c'.pc)
      arrived := (match sv.state with | .trapped _ => none | _ => c'.arrived)
      task := some t, power := .run, lastCtx := some (t.ctx, recField t.record 40 1), issued := 0
      cmds := (cmdsOf area sv.cmds).map (fun c => { c with started := c.started ||| c.bitmap, age := sv.rebase c.age })
      ctl := (c'.ctl.set crSlice (BitVec.ofNat 64 slc)).set crCoreno 0 }
  match res with
  | .error e => s.slotLost k t e sv.cmds
  | .ok c => { s with freeCtr := s.freeCtr + 1 }.setCore c.requeue

end Sys2Proof.Machine
end

