-- ==== Sys2Proof/Machine/Ops.lean ====
section
/-! DEFINITION. Taking a trap and returning from one (R304, R310, R313, R316), and what every slot word passes through at
issue: the registers it names, holds, the checking scoreboard, and the checks of the kind of core (R28 to R35, R105, R120,
R129, R164, R167, R189, R222). -/

namespace Sys2Proof.Machine

/-! ### Worlds, the standby, and halts that a trap can cause -/

/-- The cores of the module that the state lists. -/
def State.cores (s : State) : List CoreId := s.c.id :: (s.others.map (·.1)).filter (fun k => decide (k ≠ s.c.id))

/-- Every resident task of a tenant world is saved and stays suspended (R354). -/
def State.suspendWorlds (s : State) : State :=
  let s := s.cores.foldl (fun s k =>
    match (s.core k).task with
    | some t => if (s.ctx t.ctx).wld ≠ 0 then s.saveTask k t .suspended else s
    | none => s) s
  { s with suspended := List.range' 1 255 }

/-- Erases every SPDM session (R354, R427): compartments are left to be claimed (R337). -/
def State.eraseSessions (s : State) : State :=
  { s with sessions := [], conns := [], comps := s.comps.map (fun e => (e.1, { e.2 with owner := none })) }

/-- Every TDI is back in CONFIG_UNLOCKED, bound to no session (R354). -/
def State.unlockTdis (s : State) : State := { s with vfs := s.vfs.map (fun e => (e.1, { e.2 with tdi := .unlocked, session := none })) }

/-- The standby Umpire takes over, and suspends the tenant worlds as a hot reset does: none resumes without a new session, LOCK and START
(R354, R427); when the standby itself has failed the module stops serving. -/
def State.takeover (s : State) : State :=
  if s.umpire.standby || s.umpire.failed then { s with umpire := { s.umpire with stopped := true } }
  else
    let u := Core.dark .umpire
    let s := { s with umpire := { s.umpire with standby := true, lapses := 0 } }
    let s := s.setCore { u with power := .run, pc := BitVec.ofNat 49 s.umpire.handler }
    let s := s.logEvent 0x54 .umpire 0
    s.eraseSessions.unlockTdis.suspendWorlds

/-- A partition core stops for good, and with it its partition's schedulers (R316, R413). -/
def State.haltPartition (s : State) (k : CoreId) : State :=
  let p := s.partOf (clusterOf k)
  let s := s.setCore { s.core k with halted := true }
  let s := if p < 32 then s.setPart p { s.part p with halted := true } else s
  s.logEvent 0x55 k (clusterOf k)

/-! ### Traps -/

/-- A core that has written its trap registers (R16, R313, R316). -/
def Core.setTrap (c : Core) (t : Trap) (pc : BitVec 49) : Core :=
  ((c.setCr crTrapcause (BitVec.ofNat 64 t.cause.code)).setCr crTrapinfo t.info).setCr crTrappc (pc.zeroExtend 64)

/-- Entering the handler (R316): the pending entries, the QPOP, the held access and the wait are frozen, and the faults that were due beside
the one taken stay pending until the handler ends (R304). Frozen entries are no pending entries of the handler, for its limit (R32) and for
the checking scoreboard (R35): the model's choice (log 74). -/
def Core.enterHandler (c : Core) (entry : BitVec 49) : Core :=
  { c with
    frozen := some ⟨c.shadow, c.qpop, c.held.map (·.1), c.ord.wait⟩, shadow := [], qpop := none, held := none, flow := Flow.none
    due := c.due.filter (fun t => decide (t.cause = .preempted))
    pending := { c.pending with
      due := c.due.filter (fun t => decide (t.cause ≠ .preempted))
      tags := (c.cmds.filter (fun m => m.fault.isSome && !m.told)).map (·.tag) }
    arrived := none, badFills := [], redo := none, ord := { c.ord with wait := none }, pc := entry }

/-- Taking a trap on the core that steps (R304, R313, R316), with the address that trappc holds; an arrival by a branch is not kept past it
(log 71), and entries that it freezes are outside the checking scoreboard of the handler (R35, log 74). On a compute core the task is
saved as Trapped and its supervisor gets an item; on a partition core or the Umpire the handler is entered, with the wait of the
interrupted code set aside, and a trap in handler state halts the one and hands over from the other. -/
def State.takeTrap (s : State) (t : Trap) (pc : BitVec 49) : State :=
  let c := (s.c.setTrap t pc)
  match c.id with
  | .compute _ _ =>
    match c.task with
    | none => { s with c := c }
    | some tk =>
      State.saveTask { s with c := { c with flow := Flow.none, arrived := none, badFills := [], redo := none } } c.id tk (.trapped true)
  | .partition _ =>
    if c.frozen.isSome then { s with c := c }.haltPartition c.id
    else
      { s with c := c.enterHandler (BitVec.ofNat 49 s.umpire.phandler) }
  | .umpire =>
    if c.frozen.isSome then { s with c := c }.takeover
    else
      { s with c := c.enterHandler (BitVec.ofNat 49 s.umpire.handler) }

/-- The trap of a wait that has failed, the C slot's first (R74, R105). -/
def Wait.fault : Wait → Option Trap
  | .failed t => some t
  | .both x y => x.fault.orElse (fun _ => y.fault)
  | _ => none

/-- What is left of a wait once its trap is taken. -/
def Wait.without (t : Trap) : Wait → Option Wait
  | .failed u => if u = t then none else some (.failed u)
  | .both x y =>
    match x.without t, y.without t with
    | some a, some b => some (.both a b)
    | some a, none => some a
    | none, b => b
  | w => some w

/-- The trap of a wait that has failed is taken: it waits for that no more. -/
def Core.waitTaken (c : Core) (t : Trap) : Core := { c with ord := { c.ord with wait := c.ord.wait.bind (Wait.without t) } }

/-- A command whose delivered fault the handler has dealt with starts again with its incomplete boxes (R193, log 58). -/
def Cmd.resumed (m : Cmd) : Cmd := if m.told then { m with fault := none, told := false } else m

/-- Leaving handler state (R316): the frozen entries count on, the wait set aside is in force again, the faults that stayed pending are due,
faulted commands that were not cancelled resume, and a held access is performed again unless the handler has written 0 to trapcause.
The handler's own limit of 16 entries (R32) counts no frozen one, so the joined list may be longer: the model's choice (log 74). -/
def Core.leaveHandler (c : Core) : Core :=
  match c.frozen with
  | none => c
  | some f =>
    let again := match f.held with
      | some a => if c.cr crTrapcause = 0 then none else some (a, if a.isStore then none else a.reg.map .scalar)
      | none => none
    { c with
      frozen := none, shadow := f.shadow ++ c.shadow, qpop := f.qpop, held := again, cmds := c.cmds.map Cmd.resumed
      due := c.pending.due ++ c.due, pending := { c.pending with due := [], tags := [] }
      ord := { c.ord with wait := f.wait } }.requeue

/-- A trap found at issue: trappc holds the bundle's address (R304). -/
def State.trapNow (s : State) (t : Trap) : State := { s.takeTrap t s.c.pc with verdict := .trapped t }

/-- trapinfo of R73. -/
def encInfo (reason word slot : Nat) : Word := BitVec.ofNat 64 (word % 2 ^ 32 * 2 ^ 32 + reason * 2 ^ 24 + slot * 2 ^ 16)

/-- ILLEGAL with reason 0x05 for the word in issue (R73). -/
def State.illegal5 (s : State) : Trap := ⟨.illegal, encInfo 5 s.word (bits s.word 28 3)⟩

/-- A cause whose trapinfo no rule states, such as PRIVILEGE. -/
def State.openTrap (s : State) (c : Cause) : Trap := ⟨c, Config.openWord s.freeCtr⟩

/-! ### Registers that a word names -/

/-- Scalar sources. -/
def ss (rs : List Reg) : List Dest := rs.map .scalar
/-- Vector sources. -/
def vs (rs : List Reg) : List Dest := rs.map .vector

/-- Vector, vector, predicate: the sources of a VR form. -/
def vr (a b : Reg) (p : PReg) : List Dest := [.vector a, .vector b, .pred p]

/-- Registers a word reads (R29). -/
def srcs : Instr → List Dest
  | .brScalar _ a _ => ss [a]
  | .brPredicate _ p _ => [.pred p]
  | .jr a => ss [a] | .callr a => ss [a] | .ret => ss [31]
  | .loops _ a _ => ss [a]
  | .wtall a => ss [a] | .wtany a => ss [a] | .tffr _ a => ss [a] | .tclr a => ss [a] | .cbar a _ => ss [a]
  | .mfc _ n => if 0x14 ≤ n.toNat ∧ n.toNat < 0x18 then [.tstat (Fin.ofNat 4 n.toNat)] else []
  | .mtc a _ => ss [a]
  | .add _ _ a b => ss [a, b] | .sub _ _ a b => ss [a, b] | .addi _ _ a _ => ss [a]
  | .movhi _ d _ => ss [d]
  | .mul _ _ a b => ss [a, b] | .mulhi _ _ a b => ss [a, b] | .mulhn _ _ a b => ss [a, b]
  | .div _ _ a b => ss [a, b] | .divn _ _ a b => ss [a, b] | .rem _ _ a b => ss [a, b] | .remn _ _ a b => ss [a, b]
  | .and _ _ a b => ss [a, b] | .or _ _ a b => ss [a, b] | .xor _ _ a b => ss [a, b] | .andn _ _ a b => ss [a, b]
  | .andi _ _ a _ => ss [a] | .ori _ _ a _ => ss [a] | .xori _ _ a _ => ss [a]
  | .shl _ _ a b => ss [a, b] | .shrl _ _ a b => ss [a, b] | .shra _ _ a b => ss [a, b]
  | .shli _ _ a _ => ss [a] | .shrli _ _ a _ => ss [a] | .shrai _ _ a _ => ss [a]
  | .clz _ _ a => ss [a] | .ctz _ _ a => ss [a] | .popc _ _ a => ss [a]
  | .min _ _ a b => ss [a, b] | .max _ _ a b => ss [a, b] | .minn _ _ a b => ss [a, b] | .maxn _ _ a b => ss [a, b]
  | .sel _ _ a b p => ss [a, b] ++ [.pred p]
  | .cmp _ _ a b _ => ss [a, b] | .cmpi _ _ a _ _ => ss [a]
  | .plog _ _ a b _ => [.pred a, .pred b]
  | .pmov _ dir x p => if dir then [.pred p] else ss [x]
  | .addsc _ _ a b _ => ss [a, b] | .ext _ _ a _ _ => ss [a]
  | .fadd _ _ a b _ => ss [a, b] | .fsub _ _ a b _ => ss [a, b] | .fmul _ _ a b _ => ss [a, b]
  | .ffma _ _ a b c _ => ss [a, b, c]
  | .fcmp _ _ a b _ _ => ss [a, b] | .fcvt _ _ a _ _ => ss [a] | .fmnx _ _ a b _ _ => ss [a, b]
  | .lds _ a _ _ => ss [a] | .sts b a _ _ => ss [b, a]
  | .ldv d a p _ => [.scalar a, .vector d, .pred p] | .stv b a p _ => [.scalar a, .vector b, .pred p]
  | .ldvb _ a _ _ => ss [a]
  | .ldvx d a b p _ => [.scalar b, .vector a, .vector d, .pred p]
  | .stvx c a b p _ => [.scalar b, .vector a, .vector c, .pred p]
  | .ldpm _ a _ => ss [a] | .stpm b a _ => [.scalar a, .pred b]
  | .ldg _ a _ _ => ss [a] | .stg b a _ _ => ss [b, a]
  | .atg d a _ _ _ => ss [d, a] | .casg d a b _ _ => ss [d, a, b]
  | .ats d a _ _ _ => ss [d, a] | .cass d a b _ _ => ss [d, a, b]
  | .vadd _ a b p _ => vr a b p | .vsub _ a b p _ => vr a b p | .vmul _ a b p _ => vr a b p
  | .vmulhi _ a b p _ => vr a b p | .vmad d a b p _ => .vector d :: vr a b p
  | .vand _ a b p _ => vr a b p | .vor _ a b p _ => vr a b p | .vxor _ a b p _ => vr a b p
  | .vshl _ a b p _ => vr a b p | .vshrl _ a b p _ => vr a b p | .vshra _ a b p _ => vr a b p
  | .vmin _ a b p _ => vr a b p | .vmax _ a b p _ => vr a b p
  | .vabs _ a p _ => [.vector a, .pred p] | .vneg _ a p _ => [.vector a, .pred p]
  | .vsel _ a b p _ => vr a b p
  | .vcmp _ _ a b _ => vs [a, b]
  | .vfadd _ a b p _ => vr a b p | .vfsub _ a b p _ => vr a b p | .vfmul _ a b p _ => vr a b p
  | .vffma d a b p _ => .vector d :: vr a b p
  | .vfdiv _ a b p _ => vr a b p
  | .vfsqrt _ a p _ => [.vector a, .pred p] | .vfrcp _ a p _ => [.vector a, .pred p]
  | .vfrsq _ a p _ => [.vector a, .pred p] | .vfexp2 _ a p _ => [.vector a, .pred p]
  | .vflog2 _ a p _ => [.vector a, .pred p]
  | .vfmin _ a b p _ => vr a b p | .vfmax _ a b p _ => vr a b p
  | .vfcmp _ _ a b _ => vs [a, b]
  | .vcvt _ a _ _ p => [.vector a, .pred p] | .vqnt d a _ _ p => [.vector d, .vector a, .pred p]
  | .vdqnt _ a _ _ p => [.vector a, .pred p]
  | .vred _ a _ p _ => [.vector a, .pred p] | .vscan _ a _ p _ _ => [.vector a, .pred p]
  | .vperm _ a b p _ => vr a b p | .vbcst _ a p _ => [.scalar a, .pred p] | .viota _ a p _ => [.scalar a, .pred p]
  | .vcmpr _ a p _ => [.vector a, .pred p]
  | .vmovs _ a b dir _ => if dir then ss [a, b] else [.vector a, .scalar b]
  | .vdefer a b c p n =>
    .pred p :: (if 1 ≤ n.val then vs [a] else []) ++ (if 2 ≤ n.val then vs [b] else []) ++ (if n.val = 3 then vs [c] else [])
  | .vdrain _ _ _ _ _ => []
  | .vtoq a b _ => [.vector a, .scalar b]
  | .vsred _ a b _ _ => ss [a, b]
  | .mldw _ _ a => ss [a]
  | .mmul _ a _ b c => if b.val ≤ 1 then ss [a] else ss [a, c]
  | .mload _ a => ss [a] | .mdrain _ a _ p _ => [.scalar a, .pred p]
  | .mscl _ _ r => ss [r]
  | .fmts a => ss [a] | .sla a => ss [a] | .slb a => ss [a] | .slq a => ss [a]
  | .xcp a _ => ss [a] | .xcph a b _ => ss [a, b, b + 1] | .xmc a b _ => ss [a, b] | .xga a b _ => ss [a, b]
  | .xsc a b _ => ss [a, b] | .xwin a b drop => if drop then ss [a] else ss [a, b]
  | .xwb a _ => ss [a] | .xinv a _ => ss [a] | .xgate a _ => ss [a] | .xcan a => ss [a]
  | .qenq _ a b => ss [a, b] | .qdeq _ a => ss [a] | .tqpush _ a b => ss [a, b]
  | .launch a _ => ss [a]
  | .gsmpl a b _ => ss [a, b] | .gfork a b _ => ss [a, b] | .gtrunc a b _ => ss [a, b] | .gcur a b => ss [a, b]
  | .gins a b _ => ss [a, b] | .gsnap a _ => ss [a]
  | .wjw a _ => ss [a] | .wjc a _ => ss [a] | .wja a _ => ss [a] | .wjd a _ => ss [a] | .wwear _ a => ss [a]
  | .xhash a _ => ss [a] | .xsign a _ => ss [a] | .xvfy a _ => ss [a]
  | .xhint a b => ss [a, b] | .xpwr a => ss [a] | .xevt a _ => ss [a]
  | _ => []

/-- Occupancy of the whey queue in entries (R160). -/
def Core.wheyOcc (c : Core) : Nat :=
  let len := bits (c.cr crWheylen).toNat 0 17
  if len = 0 then 0 else (c.wi.toNat + len - c.ri.toNat % len) % len / 16

/-- Entries that a VDRAIN takes (R162). -/
def Core.drainCount (c : Core) (close : Bool) : Nat :=
  if close then Nat.min 128 c.wheyOcc else if c.wheyOcc < 128 then 0 else 128

/-- Registers a word writes, with the latency of R27; 0 for an interlocked result (R28). -/
def dsts (c : Core) : Instr → List (Dest × Nat)
  | .call _ => [(.scalar 31, 1)] | .callr _ => [(.scalar 31, 1)]
  | .tffr d _ => [(.scalar d, 1)]
  | .mfc d n => if n = 0x38 ∨ n = 0x39 ∨ n = 0x32 then [(.scalar d, 0)] else [(.scalar d, 1)]
  | .mtc _ n => if n = 1 then [(.fmt true, 5)] else []
  | .qpop d => [(.scalar d, 0)]
  | .add _ d _ _ => [(.scalar d, 1)] | .sub _ d _ _ => [(.scalar d, 1)] | .addi _ d _ _ => [(.scalar d, 1)]
  | .movi _ d _ => [(.scalar d, 1)] | .movhi _ d _ => [(.scalar d, 1)]
  | .mul _ d _ _ => [(.scalar d, 3)] | .mulhi _ d _ _ => [(.scalar d, 3)] | .mulhn _ d _ _ => [(.scalar d, 3)]
  | .div _ d _ _ => [(.scalar d, 0)] | .divn _ d _ _ => [(.scalar d, 0)]
  | .rem _ d _ _ => [(.scalar d, 0)] | .remn _ d _ _ => [(.scalar d, 0)]
  | .and _ d _ _ => [(.scalar d, 1)] | .or _ d _ _ => [(.scalar d, 1)] | .xor _ d _ _ => [(.scalar d, 1)]
  | .andn _ d _ _ => [(.scalar d, 1)] | .andi _ d _ _ => [(.scalar d, 1)] | .ori _ d _ _ => [(.scalar d, 1)]
  | .xori _ d _ _ => [(.scalar d, 1)] | .shl _ d _ _ => [(.scalar d, 1)] | .shrl _ d _ _ => [(.scalar d, 1)]
  | .shra _ d _ _ => [(.scalar d, 1)] | .shli _ d _ _ => [(.scalar d, 1)] | .shrli _ d _ _ => [(.scalar d, 1)]
  | .shrai _ d _ _ => [(.scalar d, 1)] | .clz _ d _ => [(.scalar d, 1)] | .ctz _ d _ => [(.scalar d, 1)]
  | .popc _ d _ => [(.scalar d, 1)] | .min _ d _ _ => [(.scalar d, 1)] | .max _ d _ _ => [(.scalar d, 1)]
  | .minn _ d _ _ => [(.scalar d, 1)] | .maxn _ d _ _ => [(.scalar d, 1)] | .sel _ d _ _ _ => [(.scalar d, 1)]
  | .cmp _ d _ _ _ => [(.scalar d, 1)] | .cmpi _ d _ _ _ => [(.scalar d, 1)] | .plog _ d _ _ _ => [(.pred d, 1)]
  | .pmov _ dir x p => if dir then [(.scalar x, 1)] else [(.pred p, 1)]
  | .addsc _ d _ _ _ => [(.scalar d, 1)] | .ext _ d _ _ _ => [(.scalar d, 1)]
  | .fadd _ d _ _ _ => [(.scalar d, 4)] | .fsub _ d _ _ _ => [(.scalar d, 4)] | .fmul _ d _ _ _ => [(.scalar d, 4)]
  | .ffma _ d _ _ _ _ => [(.scalar d, 4)] | .fcmp _ d _ _ _ _ => [(.scalar d, 4)] | .fcvt _ d _ _ _ => [(.scalar d, 4)]
  | .fmnx _ d _ _ _ _ => [(.scalar d, 4)]
  | .lds d _ _ _ => [(.scalar d, 6)] | .ldv d _ _ _ => [(.vector d, 6)] | .ldvb d _ _ _ => [(.vector d, 6)]
  | .ldvx d _ _ _ _ => [(.vector d, 0)] | .ldpm d _ _ => [(.pred d, 6)]
  | .ldg d _ _ _ => [(.scalar d, 0)] | .atg d _ _ _ _ => [(.scalar d, 0)] | .casg d _ _ _ _ => [(.scalar d, 0)]
  | .ats d _ _ _ _ => [(.scalar d, 0)] | .cass d _ _ _ _ => [(.scalar d, 0)]
  | .vadd d _ _ _ _ => [(.vector d, 2)] | .vsub d _ _ _ _ => [(.vector d, 2)] | .vmul d _ _ _ _ => [(.vector d, 2)]
  | .vmulhi d _ _ _ _ => [(.vector d, 2)] | .vmad d _ _ _ _ => [(.vector d, 2)] | .vand d _ _ _ _ => [(.vector d, 2)]
  | .vor d _ _ _ _ => [(.vector d, 2)] | .vxor d _ _ _ _ => [(.vector d, 2)] | .vshl d _ _ _ _ => [(.vector d, 2)]
  | .vshrl d _ _ _ _ => [(.vector d, 2)] | .vshra d _ _ _ _ => [(.vector d, 2)] | .vmin d _ _ _ _ => [(.vector d, 2)]
  | .vmax d _ _ _ _ => [(.vector d, 2)] | .vabs d _ _ _ => [(.vector d, 2)] | .vneg d _ _ _ => [(.vector d, 2)]
  | .vsel d _ _ _ _ => [(.vector d, 2)] | .vcmp d _ _ _ _ => [(.pred d, 2)]
  | .vfadd d _ _ _ _ => [(.vector d, 4)] | .vfsub d _ _ _ _ => [(.vector d, 4)] | .vfmul d _ _ _ _ => [(.vector d, 4)]
  | .vffma d _ _ _ _ => [(.vector d, 4)] | .vfdiv d _ _ _ _ => [(.vector d, 12)] | .vfsqrt d _ _ _ => [(.vector d, 12)]
  | .vfrcp d _ _ _ => [(.vector d, 8)] | .vfrsq d _ _ _ => [(.vector d, 8)] | .vfexp2 d _ _ _ => [(.vector d, 8)]
  | .vflog2 d _ _ _ => [(.vector d, 8)] | .vfmin d _ _ _ _ => [(.vector d, 4)] | .vfmax d _ _ _ _ => [(.vector d, 4)]
  | .vfcmp d _ _ _ _ => [(.pred d, 4)] | .vcvt d _ _ _ _ => [(.vector d, 4)] | .vqnt d _ _ _ _ => [(.vector d, 4)]
  | .vdqnt d _ _ _ _ => [(.vector d, 4)] | .vred d _ _ _ _ => [(.scalar d, 6)] | .vscan d _ _ _ _ _ => [(.vector d, 6)]
  | .vperm d _ _ _ _ => [(.vector d, 2)] | .vbcst d _ _ _ => [(.vector d, 2)] | .viota d _ _ _ => [(.vector d, 2)]
  | .vcmpr d _ _ _ => [(.vector d, 2)]
  | .vmovs d _ _ dir _ => if dir then [(.vector d, 2)] else [(.scalar d, 2)]
  | .vdrain d sc p l n =>
    (.scalar sc, 6) :: (.pred p, 6) ::
      (if c.drainCount l = 0 then [] else (List.range (n.val + 1)).map (fun k => (.vector (Fin.ofNat 32 (d.val + k)), 6)))
  | .vsred d _ _ _ _ => [(.vector d, 0)]
  | .mdrain t _ _ _ _ => [(.tstat t, 6)]
  | .mnorm d _ => [(.scalar d, 0)]
  | .fmt _ => [(.fmt false, 5)] | .fmts _ => [(.fmt false, 5)]
  | .sla _ => [(.latch 0, 3)] | .slb _ => [(.latch 1, 3)] | .slq _ => [(.latch 2, 3)] | .slz => [(.latch 3, 3)]
  | .qenq p _ _ => [(.pred p, 0)] | .qdeq d _ => [(.scalar d, 0)] | .tqpush p _ _ => [(.pred p, 0)]
  | .wwear d _ => [(.scalar d, 0)]
  | _ => []

/-- A destination that keeps nothing: s0 and p0 (R15). -/
def discards : Dest → Bool
  | .scalar r => decide (r = 0)
  | .pred p => decide (p = 0)
  | _ => false

/-- Two destinations are the same register, or latches written together (R30, R33). -/
def clash (x y : Dest) : Bool :=
  decide (x = y) ||
    (match x, y with
     | .latch i, .latch j => decide (i = 3 ∨ j = 3)
     | .fmt _, .fmt _ => true
     | _, _ => false)

/-! ### Kinds of word -/

/-- V-, M-, F- and X-slot words that read or write scratchpad (R129). -/
def usesScratch : Instr → Bool
  | .vdefer _ _ _ _ _ => true | .vdrain _ _ _ _ _ => true | .vsred _ _ _ _ _ => true
  | .mldw _ f _ => f | .mmul _ _ _ _ _ => true | .mload _ _ => true | .mdrain _ _ _ _ _ => true
  | .sla _ => true | .slb _ => true | .slq _ => true
  | .xcp _ _ => true | .xcph _ _ _ => true | .xmc _ _ _ => true | .xga _ _ _ => true | .xsc _ _ _ => true
  | .xwb _ _ => true | .xgate _ _ => true | .tqpush _ _ _ => true | .launch _ _ => true
  | .wjw _ _ => true | .wjc _ _ => true | .wja _ _ => true | .wjd _ _ => true
  | .xhash _ _ => true | .xsign _ _ => true | .xvfy _ _ => true | .xhint _ _ => true
  | _ => false

/-- L-, M- and X-slot words that write scratchpad (R164). -/
def writesScratch : Instr → Bool
  | .sts _ _ _ _ => true | .stv _ _ _ _ => true | .stvx _ _ _ _ _ => true | .stpm _ _ _ => true
  | .ats _ _ _ _ _ => true | .cass _ _ _ _ _ => true
  | .mdrain _ _ _ _ _ => true
  | .xcp _ _ => true | .xcph _ _ _ => true | .xmc _ _ _ => true | .xga _ _ _ => true | .xsc _ _ _ => true
  | .xhash _ _ => true | .xsign _ _ => true | .xvfy _ _ => true
  | _ => false

/-- A word that performs a release (R167 case 6, R204). TQPUSH, which case 6 does not list, is one; XEVT, whose entry alone waits (R215),
is none: the model's choice (log 77). -/
def performsRelease : Instr → Bool
  | .fence os => Order.isRel os.ord
  | .cbar _ _ => true
  | .qenq _ _ _ => true | .tqpush _ _ _ => true
  | .xcp _ x => x.rel | .xcph _ _ x => x.rel | .xmc _ _ x => x.rel | .xga _ _ x => x.rel | .xsc _ _ x => x.rel
  | .xwb _ x => x.rel | .xinv _ x => x.rel | .xgate _ x => x.rel | .launch _ x => x.rel
  | .gsmpl _ _ x => x.rel | .gfork _ _ x => x.rel | .gtrunc _ _ x => x.rel | .gins _ _ x => x.rel | .gsnap _ x => x.rel
  | .wjw _ x => x.rel | .wjc _ x => x.rel | .wja _ x => x.rel | .wjd _ x => x.rel
  | .xhash _ x => x.rel | .xsign _ x => x.rel | .xvfy _ x => x.rel
  | i => match osOf i with | some os => Order.isRel os.ord | none => false

/-- A load of the L slot, which a .ar fence holds for its acquire part alone (R105). -/
def isLoad : Instr → Bool
  | .lds _ _ _ _ => true | .ldv _ _ _ _ => true | .ldvb _ _ _ _ => true | .ldvx _ _ _ _ _ => true
  | .ldpm _ _ _ => true | .ldg _ _ _ _ => true
  | _ => false

/-- A store, an atomic or an X-slot word: what a .rel fence holds; .acq and .sc hold loads as well (R105). -/
def fenceHolds (o : Order) (slot : Nat) (i : Instr) : Bool :=
  if slot = 7 then true
  else if slot = 3 then
    match o with
    | .rel => !isLoad i
    | _ => true
  else false

/-- The condition that releases a fence, of what is earlier than the bundles that it holds (R105). -/
def State.fenceReady (s : State) (c : Core) (f : OrdScope × Nat) : Bool :=
  if Order.isRel f.1.ord then s.releaseReady (s.coreBefore c f.2) f.1.scope else (s.coreBefore c f.2).loadsDone

/-- The kinds of core that lack a form (R14, R100, R101, R107, R109, R120, R189). -/
def kindTrap (s : State) (i : Instr) : Option Trap :=
  let bad := some s.illegal5
  let priv := some (s.openTrap .privilege)
  match s.c.id with
  | .compute _ _ =>
    match i with
    | .launch _ _ => priv | .gsmpl _ _ _ => priv | .gfork _ _ _ => priv | .gtrunc _ _ _ => priv | .gcur _ _ => priv
    | .gins _ _ _ => priv | .gsnap _ _ => priv | .xsign _ _ => priv
    | _ => none
  | k =>
    match i.slot with
    | some 4 => some ⟨.illegal, encInfo 3 s.word 4⟩
    | some 5 => some ⟨.illegal, encInfo 3 s.word 5⟩
    | some 6 => some ⟨.illegal, encInfo 3 s.word 6⟩
    | _ =>
      match i with
      | .tend => bad | .tyield => bad | .cbar _ _ => bad | .qpop _ => bad
      | .ldv _ _ _ _ => bad | .stv _ _ _ _ => bad | .ldvb _ _ _ _ => bad | .ldvx _ _ _ _ _ => bad | .stvx _ _ _ _ _ => bad
      | .ats _ _ _ _ _ => bad | .cass _ _ _ _ _ => bad
      | .xwin _ _ _ => bad | .xwb _ _ => bad | .xinv _ _ => bad
      | .wjw _ _ => bad | .wjc _ _ => bad | .wja _ _ => bad | .wjd _ _ => bad | .wwear _ _ => bad
      | .xsign _ _ => if k = .umpire then none else priv
      | .gsmpl _ _ _ => if k = .umpire then bad else none
      | .gfork _ _ _ => if k = .umpire then bad else none
      | .gtrunc _ _ _ => if k = .umpire then bad else none
      | .gcur _ _ => if k = .umpire then bad else none
      | .gins _ _ _ => if k = .umpire then bad else none
      | .gsnap _ _ => if k = .umpire then bad else none
      | .xhint _ _ => if k = .umpire then bad else none
      | _ => none

/-- Tiles a word names or works in (R169, R182). -/
def tilesOf : Instr → List Nat
  | .mmul t _ _ _ _ => [t.val] | .mzero t => [t.val] | .mload t _ => [t.val] | .mdrain t _ _ _ _ => [t.val]
  | .mtt t a b => [t.val, a.val, b.val] | .maddt t a b => [t.val, a.val, b.val] | .mscl t a _ => [t.val, a.val]
  | .mtrn t a => [t.val, a.val] | .mnorm _ a => [a.val] | .mpoly t a _ => [t.val, a.val]
  | .miter t a m =>
    let free := (List.range 4).filter (fun n => decide (n ≠ t.val ∧ n ≠ a.val))
    t.val :: a.val :: free.take (if m then 1 else 2)
  | _ => []

/-- A word that needs the tiles, buffers and latches of a task with tiles (R222). -/
def needsTiles (slot : Nat) (i : Instr) : Bool :=
  decide (slot = 5) ||
    (match i with | .sla _ => true | .slb _ => true | .slq _ => true | .slz => true | _ => false)

/-- The register-space class of the task: vector registers and tiles outside it are ILLEGAL (R169, R222). -/
def classTrap (s : State) (slot : Nat) (i : Instr) : Option Trap :=
  if !isCompute s.c.id then none
  else
    let refs := srcs i ++ (match i with
      | .vdrain d _ _ _ n => (List.range (n.val + 1)).map (fun k => .vector (Fin.ofNat 32 (d.val + k)))
      | _ => (dsts s.c i).map (·.1))
    if refs.any (fun d => match d with | .vector r => decide (s.c.vregs ≤ r.val) | _ => false) then some s.illegal5
    else if needsTiles slot i && decide (s.c.tileCount = 0) then some s.illegal5
    else if (tilesOf i).any (fun t => decide (s.c.tileCount ≤ t)) then some s.illegal5
    else none

/-- The scalar register whose result a word of the C, A or B slot computes at issue and delivers interlocked: a division, or a read of slice
or decoupst (R28). -/
def fixedResult : Instr → Option Reg
  | .div _ d _ _ => some d | .divn _ d _ _ => some d | .rem _ d _ _ => some d | .remn _ d _ _ => some d
  | .mfc d n => if n = 0x38 ∨ n = 0x32 then some d else none
  | _ => none

/-- A word of the C, A or B slot and an earlier word of its bundle write one register, one of the two results interlocked and fixed at
issue: R110 has R30 decide (log 23). -/
def Core.twinWrite (c : Core) (i : Instr) (d : Dest) : Bool :=
  decide (i.slot.getD 7 ≤ 2) &&
    (c.ilk.any (fun o => (match o.kind with | .value _ => true | _ => false) && decide (o.dest = some d ∧ o.age = c.age)) ||
      ((fixedResult i).isSome && c.shadow.any (fun e => decide (e.dest = d ∧ e.age = c.age ∧ e.slot ≤ 2))))

/-- The checking scoreboard (R30, R35): a write that lands in the cycle of another of the same register, then a read or a
write of a register with a pending entry of an earlier bundle. -/
def scoreTrap (s : State) (i : Instr) : Option Trap :=
  if !s.c.chk then none
  else
    let ws := (dsts s.c i).filter (fun w => !discards w.1)
    let hit := ws.find? (fun w => decide (w.2 ≠ 0) && s.c.shadow.any (fun e => clash e.dest w.1 && decide (e.remaining = w.2)))
    let twin := ws.find? (fun w => (decide (w.2 = 0) && s.c.ilk.any (fun o => decide (o.dest = some w.1 ∧ o.age = s.c.age))) || s.c.twinWrite i w.1)
    match hit.orElse (fun _ => twin) with
    | some w => some ⟨.illegal, destInfo w.1⟩
    | none =>
      let pending (d : Dest) : Bool :=
        (match d with | .fmt _ => false | .latch _ => false | .ctl _ => false | _ => true) &&
        !discards d && s.c.shadow.any (fun e => decide (e.dest = d ∧ e.age < s.c.age))
      match ((srcs i) ++ ws.map (·.1)).find? pending with
      | some d => some ⟨.stallShort, destInfo d⟩
      | none => none

/-! ### Holds before issue -/

/-- What a word meets before it issues. -/
inductive Pre where
  | go
  | hold (counts : Bool)
  | trap (t : Trap)
  deriving DecidableEq, Repr

/-- The first of two that is not `go`. -/
def Pre.orElse' : Pre → Pre → Pre
  | .go, y => y
  | x, _ => x

/-- A register is the destination of an outstanding interlocked operation of an earlier bundle (R28), or of the access that is held
(R135). -/
def Core.interlocked (c : Core) (d : Dest) : Bool :=
  c.ilk.any (fun o => decide (o.dest = some d ∧ o.age < c.age)) ||
  (match c.held with | some (_, some x) => decide (x = d) | _ => false) ||
  (match c.gather with | some g => g.load && decide (d = .vector g.dest ∧ g.age < c.age) | none => false) ||
  (match c.stream with | some t => decide (d = .vector t.dest ∧ t.age < c.age) | none => false)

/-- A word touches the register of the pending QPOP, or stands in the C slot (R109). -/
def Core.qpopHolds (c : Core) (slot : Nat) (refs : List Dest) : Bool :=
  match c.qpop with
  | some d => decide (slot = 0) || refs.any (fun r => decide (r = .scalar d))
  | none => false

/-- A VTOQ push has issued and not landed (R109): the push that the bundle's own V slot has just made is none, while the bundle is held. -/
def Core.pushOut (c : Core) (slot : Nat) : Bool := c.rq.any (fun e => decide (slot ≤ 4 ∨ e.remaining ≠ 2))

/-- Occupied buffers: those an array instruction reads, and the one the loader fills (R167 case 2). -/
def ArrayOp.buffer (o : ArrayOp) : Option (Fin 2) :=
  match o.instr with
  | .mmul _ _ _ b _ => if b.val = 0 then some 0 else if b.val = 1 then some 1 else none
  | _ => none

/-- A streaming MMUL, which holds the loader as well (R167 case 1). -/
def ArrayOp.streaming (o : ArrayOp) : Bool :=
  match o.instr with
  | .mmul _ _ _ b _ => decide (b.val = 2)
  | _ => false

/-- Bank groups an M word names (R167 case 3), which the model takes from bits [19:18] of its offsets (log 60). -/
def wordGroups (c : Core) (i : Instr) : List Nat :=
  match i with
  | .mldw _ true a => [bits (c.rs a).toNat 18 2]
  | .mload _ a => [bits (c.rs a).toNat 18 2]
  | .mdrain _ a _ _ _ => [bits (c.rs a).toNat 18 2]
  | .mmul _ a _ b r => bits (c.rs a).toNat 18 2 :: (if 3 ≤ b.val then [bits (c.rs r).toNat 18 2] else [])
  | _ => []

/-- The array wait of R167. An instruction of the word's own bundle is not outstanding yet. -/
def Core.arrayWait (c : Core) (slot : Nat) (i : Instr) : Bool :=
  let arr := c.array.filter (fun o => decide (o.age < c.age))
  let ldr := c.loader.filter (fun o => decide (o.age < c.age))
  let busyA := arr.isSome
  let busyL := ldr.isSome
  let unit :=
    decide (slot = 5) &&
      (match i with
       | .mldw w _ _ =>
         busyL || (match arr with | some o => o.streaming || decide (o.buffer = some w) | none => false) ||
           (match arr with | some o => (wordGroups c i).any (fun g => decide (g ∈ o.groups)) | none => false)
       | .mmul _ _ _ b _ =>
         busyA || (decide (b.val = 2) && busyL) ||
           (match ldr with | some o => decide (o.buf.val = b.val) || (wordGroups c i).any (fun g => decide (g ∈ o.groups)) | none => false)
       | _ => busyA || (match ldr with | some o => (wordGroups c i).any (fun g => decide (g ∈ o.groups)) | none => false))
  let status :=
    match i with
    | .mfc _ n =>
      (match arr with
       | some o =>
         (match o.instr with
          | .mzero t => decide (n.toNat = 0x14 + t.val)
          | .mload t _ => decide (n.toNat = 0x14 + t.val)
          | .miter t _ _ => decide (n.toNat = 0x14 + t.val)
          | _ => false)
       | none => false)
    | _ => false
  let norm :=
    match arr with
    | some o =>
      (match o.instr with
       | .mnorm d _ => !(decide (d = 0)) && (srcs i ++ (dsts c i).map (·.1)).any (fun r => decide (r = .scalar d))
       | _ => false)
    | none => false
  let drains := match arr with | some o => (match o.instr with | .mdrain _ _ _ _ _ => true | _ => false) | none => false
  let fills := match ldr with | some o => o.fromScratch | none => false
  let rel := performsRelease i && (drains || fills)
  let ends := (match i with | .tend => true | .tyield => true | _ => false) && (busyA || busyL)
  unit || status || norm || rel || ends

/-- A release of what a core has outstanding, before a word, or a fault that ends the wait for it (R105, R134, R140). -/
def State.releaseWait (s : State) (c : Core) (sc : Scope) : Pre :=
  if s.releaseReady c sc then .go
  else match s.releaseFault c sc with
    | some t => .trap t
    | none => .hold false

/-- One fence in force and a word (R105): it waits for what is earlier than the fence. -/
def State.fenceWait1 (s : State) (slot : Nat) (i : Instr) (f : OrdScope × Nat) : Pre :=
  let c := s.coreBefore s.c f.2
  if !fenceHolds f.1.ord slot i then .go
  else if decide (slot = 3) && isLoad i && decide (f.1.ord = .ar) then (if c.loadsDone then .go else .hold false)
  else if Order.isRel f.1.ord then s.releaseWait c f.1.scope
  else if c.loadsDone then .go
  else .hold false

/-- The fences in force (R105). -/
def State.fenceWait (s : State) (slot : Nat) (i : Instr) : Pre :=
  s.c.ord.fence.foldl (fun p f => p.orElse' (s.fenceWait1 slot i f)) .go

/-- A release that has failed already when a word issues whose append follows it (R105, R204, R205, R215). -/
def State.failedRelease (s : State) : Pre :=
  match s.releaseFault s.c .mod with
  | some t => .trap t
  | none => .go

/-- The release that a word's own order asks for before it (R134, R140). The release of QENQ, TQPUSH and XEVT, which never block, stands
before their append; that of CBAR before its arrival (R107, R204, R205, R215). -/
def State.orderWait (s : State) (i : Instr) : Pre :=
  match i with
  | .qenq _ _ _ => s.failedRelease
  | .tqpush _ _ _ => s.failedRelease
  | .xevt _ _ => s.failedRelease
  | _ =>
    match osOf i with
    | some os => if Order.isRel os.ord then s.releaseWait s.c os.scope else .go
    | none => .go

/-- The tag waits of R104. -/
def State.tagWait (s : State) (i : Instr) : Pre :=
  let tags := s.c.cr crTagbits
  match i with
  | .wtall a => if tags &&& s.c.rs a = s.c.rs a then .go else .hold false
  | .wtany a => if s.c.rs a = 0 then .trap s.illegal5 else if tags &&& s.c.rs a ≠ 0 then .go else .hold false
  | _ => .go

/-- Everything that holds a word before issue (R28, R104, R105, R109, R129, R164, R167). A gather or scatter holds the words of later
bundles here; those of its own bundle that access the scratchpad come behind its elements (`State.execBehind`, `Core.gatherFirst`, log 61). -/
def State.preIssue (s : State) (slot : Nat) (i : Instr) : Pre :=
  let named := srcs i ++ (dsts s.c i).map (·.1)
  let refs := named.filter (fun d => !discards d)
  if s.c.qpopHolds slot named then .hold (s.c.pushOut slot)
  else if refs.any s.c.interlocked then .hold false
  else if (match s.c.gather with | some g => decide (g.age < s.c.age) | none => false) && (decide (slot = 3) || usesScratch i) then .hold false
  else if (match s.c.stream with | some t => decide (t.age < s.c.age) | none => false) && (decide (slot = 4) || writesScratch i) then .hold false
  else if s.c.arrayWait slot i then .hold true
  else ((s.tagWait i).orElse' (s.fenceWait slot i)).orElse' (s.orderWait i)

/-- How a word's own work ends. -/
inductive Issue where
  | ok (s : State)
  | hold (s : State)
  | trap (t : Trap)
  deriving DecidableEq, Repr

/-- The checks that every word passes before its own: kind of core, class, scoreboard (R14, R35, R74, R189, R222). -/
def State.commonTrap (s : State) (slot : Nat) (i : Instr) : Option Trap :=
  match kindTrap s i with
  | some t => some t
  | none =>
    match classTrap s slot i with
    | some t => some t
    | none => scoreTrap s i

/-- One slot word in its issue cycle: held, trapped with no effect of its bundle, or issued (R28 to R35, R74). -/
def slotExec (slot : Nat) (i : Instr) (body : State → Issue) (s : State) : Host.Outcome State Fault Refusal :=
  match s.preIssue slot i with
  | .hold counts => .next { s with verdict := .held counts }
  | .trap t => .next (s.trapNow t)
  | .go =>
    match s.commonTrap slot i with
    | some t => .next (s.trapNow t)
    | none =>
      match body s with
      | .ok s' => .next { s' with verdict := .issued }
      | .hold s' => .next { s' with verdict := .held false }
      | .trap t => .next (s.trapNow t)

/-- A body that only changes the core. -/
def onCore (f : Core → Core) (s : State) : Issue := .ok { s with c := f s.c }

end Sys2Proof.Machine
end

