-- ==== Sys2Proof/Machine/Flags.lean ====
section
/-! DEFINITION. Conditions and flags: the integer conditions of R79, results of compares (R113, R117), the extension of a
typed result (R118, R155), and lanes with flags (R143). -/

namespace Sys2Proof.Machine

/-- An integer condition on two values of w bits (R79): eq and ne, lt and le signed, ltn and len unsigned. -/
def ccHolds (w : Nat) (cc : Cc) (x y : Nat) : Bool :=
  match cc with
  | .eq => decide (x = y)
  | .ne => decide (x ≠ y)
  | .lt => decide (intValue true w x < intValue true w y)
  | .le => decide (intValue true w x ≤ intValue true w y)
  | .ltn => decide (x < y)
  | .len => decide (x ≤ y)

/-- 1 or 0, with flags (R117). -/
def boolResult (r : Bool × Flags) : Nat × Flags := (r.1.toNat, r.2)

/-- A typed result in a scalar register: sign-extended for .i, zero-extended otherwise (R118). -/
def extendTy (t : Ty) (v : Nat) : Nat :=
  match t with
  | .i8 => (sext64 8 v).toNat
  | .i16 => (sext64 16 v).toNat
  | .i32 => (sext64 32 v).toNat
  | _ => v

/-- An integer element in a scalar register (R155, R158, R159). -/
def extendInt (t : IntTy) (v : Nat) : Word := if intTySigned t then sext64 (intTyBits t) v else BitVec.ofNat 64 v

/-- The flags of the enabled elements (R143). -/
def laneFlags (g : List Bool) (rs : List (Nat × Flags)) : Flags :=
  (List.zipWith (fun b r => if b then r.2 else 0) g rs).foldl (· ||| ·) 0

end Sys2Proof.Machine
end

