-- ==== Sys2Proof/Machine/Control.lean ====
section
/-! DEFINITION. The C slot (R92 to R109): what each form asks of the end of its bundle, tags, fences, control registers, and
the steps of R32, R36, R100, R104 and R159 that the core takes by itself. -/

namespace Sys2Proof.Machine

/-- Changes what the bundle asks for at its end. -/
def Core.withFlow (c : Core) (f : Flow → Flow) : Core := { c with flow := f c.flow }

/-- Address of a word offset from the bundle (R80, R95); addresses have 49 bits (R15). -/
def Core.relative (c : Core) (off : Int) : Nat := (((c.pc.toNat : Int) + 4 * off) % (2 ^ 49 : Nat)).toNat

/-- A taken branch (R93, R95). -/
def Core.branchTo (c : Core) (call : Bool) (x : Nat) : Core := c.withFlow (fun f => { f with branch := some x, isCall := call })

/-- The checks of a register target (R72, R95). -/
def targetTrap (x : Word) : Option Trap :=
  if x.toNat % 4 ≠ 0 then some ⟨.misaligned, addrInfo x.toNat⟩
  else if 2 ^ 49 ≤ x.toNat then some ⟨.translation, x⟩
  else none

/-- A branch to a register target (R95). -/
def branchReg (call : Bool) (x : Word) (f : Core → Core) (s : State) : Issue :=
  match targetTrap x with
  | some t => .trap t
  | none => .ok { s with c := (f s.c).branchTo call x.toNat }

/-- The return address goes to s31 with latency 1 (R95). -/
def Core.link (c : Core) : Core := c.enterS 0 1 31 (BitVec.ofNat 64 c.flow.succ)

/-- NOP (R94). -/
def execNop (s : State) : Host.Outcome State Fault Refusal := slotExec 0 .nop .ok s

/-- STALL: the bundle occupies n issue cycles (R25, R94). -/
def execStall (n : BitVec 12) (s : State) : Host.Outcome State Fault Refusal :=
  slotExec 0 (.stall n) (onCore (fun c => c.withFlow (fun f => { f with cycles := n.toNat + 1 }))) s

/-- BR on a scalar (R95). -/
def execBrScalar (nz : Bool) (a : Reg) (o : BitVec 14) (s : State) : Host.Outcome State Fault Refusal :=
  slotExec 0 (.brScalar nz a o)
    (onCore (fun c => if decide (c.rs a = 0) ≠ nz then c.branchTo false (c.relative o.toInt) else c)) s

/-- BR on a predicate: pany, or with `neg` pnone (R95). -/
def execBrPredicate (neg : Bool) (p : PReg) (o : BitVec 14) (s : State) : Host.Outcome State Fault Refusal :=
  slotExec 0 (.brPredicate neg p o)
    (onCore (fun c => if decide (c.rp p = 0) = neg then c.branchTo false (c.relative o.toInt) else c)) s

/-- J (R95). -/
def execJ (o : BitVec 21) (s : State) : Host.Outcome State Fault Refusal :=
  slotExec 0 (.j o) (onCore (fun c => c.branchTo false (c.relative o.toInt))) s

/-- JR (R95). -/
def execJr (a : Reg) (s : State) : Host.Outcome State Fault Refusal :=
  slotExec 0 (.jr a) (branchReg false (s.c.rs a) id) s

/-- CALL (R95). -/
def execCall (o : BitVec 21) (s : State) : Host.Outcome State Fault Refusal :=
  slotExec 0 (.call o) (onCore (fun c => c.link.branchTo true (c.relative o.toInt))) s

/-- CALLR (R95). -/
def execCallr (a : Reg) (s : State) : Host.Outcome State Fault Refusal :=
  slotExec 0 (.callr a) (branchReg true (s.c.rs a) Core.link) s

/-- RET (R95). -/
def execRet (s : State) : Host.Outcome State Fault Refusal :=
  slotExec 0 .ret (branchReg true (s.c.rs 31) id) s

/-- The count of a loop level (R96). -/
def Core.lcnt (c : Core) (l : Fin 2) : Word := c.cr (loopReg crLcnt l)

/-- Arming a loop level with a count, or skipping its body (R96). -/
def armLoop (l : Fin 2) (cnt : Nat) (endoff : Nat) (s : State) : Issue :=
  let e := s.c.relative endoff
  if s.c.pc.toNat + 4 * endoff < s.c.flow.succ then .trap s.illegal5
  else if 0 < (s.c.lcnt l).toNat ∧ s.c.cr (loopReg crLend l) = s.c.pc.zeroExtend 64 then .trap s.illegal5
  else if cnt = 0 then .ok { s with c := s.c.withFlow (fun f => { f with skipTo := some (l, e) }) }
  else .ok { s with c := s.c.withFlow (fun f => { f with arm := some (l, cnt, e) }) }

/-- LOOP (R96). -/
def execLoop (l : Fin 2) (cnt e : BitVec 10) (s : State) : Host.Outcome State Fault Refusal :=
  slotExec 0 (.loop l cnt e) (armLoop l cnt.toNat e.toNat) s

/-- LOOPS (R96). -/
def execLoops (l : Fin 2) (a : Reg) (e : BitVec 10) (s : State) : Host.Outcome State Fault Refusal :=
  slotExec 0 (.loops l a e) (armLoop l (s.c.rs a).toNat e.toNat) s

/-- LBRK (R99). -/
def execLbrk (l : Fin 2) (s : State) : Host.Outcome State Fault Refusal :=
  slotExec 0 (.lbrk l) (onCore (fun c => c.withFlow (fun f => { f with lbrk := l :: f.lbrk }))) s

/-- TEND (R100): the wait and the completion follow at the end of the bundle. -/
def execTend (s : State) : Host.Outcome State Fault Refusal :=
  slotExec 0 .tend (onCore (fun c => c.withFlow (fun f => { f with tend := true }))) s

/-- TYIELD (R101). -/
def execTyield (s : State) : Host.Outcome State Fault Refusal :=
  slotExec 0 .tyield (onCore (fun c => c.withFlow (fun f => { f with tyield := true }))) s

/-- TRAP (R102): the bundle completes, and the trap is taken at its end. -/
def execTrap (code : BitVec 8) (s : State) : Host.Outcome State Fault Refusal :=
  slotExec 0 (.trap code) (onCore (fun c => c.withFlow (fun f => { f with trapDone := some (code.zeroExtend 64) }))) s

/-- TRET (R103, R316). -/
def tretBody (s : State) : Issue :=
  if isCompute s.c.id then .trap (s.openTrap .privilege)
  else if s.c.frozen.isNone then .trap s.illegal5
  else
    match targetTrap (s.c.cr crTrappc) with
    | some t => .trap t
    | none => .ok { s with c := (s.c.branchTo true (s.c.cr crTrappc).toNat).withFlow (fun f => { f with tret := true }) }

/-- TRET (R103). -/
def execTret (s : State) : Host.Outcome State Fault Refusal := slotExec 0 .tret tretBody s

/-- WTALL (R104): its wait is before issue. -/
def execWtall (a : Reg) (s : State) : Host.Outcome State Fault Refusal := slotExec 0 (.wtall a) .ok s

/-- WTANY (R104): its wait is before issue. -/
def execWtany (a : Reg) (s : State) : Host.Outcome State Fault Refusal := slotExec 0 (.wtany a) .ok s

/-- Index of the lowest 1 bit below n, or n (R104). -/
def lowestBit (x : Word) : Nat → Nat → Nat
  | 0, i => i
  | n + 1, i => if x.getLsbD i then i else lowestBit x n (i + 1)

/-- TFFR (R104). -/
def execTffr (d a : Reg) (s : State) : Host.Outcome State Fault Refusal :=
  slotExec 0 (.tffr d a)
    (onCore (fun c => c.enterS 0 1 d (BitVec.ofNat 64 (lowestBit (c.cr crTagbits &&& c.rs a) 64 0)))) s

/-- Tags cleared for the next bundle (R104, R187). -/
def Core.clearTags (c : Core) (m : Word) : Core := c.withFlow (fun f => { f with clear := f.clear ||| m })

/-- TCLR (R104). -/
def execTclr (a : Reg) (s : State) : Host.Outcome State Fault Refusal :=
  slotExec 0 (.tclr a) (onCore (fun c => c.clearTags (c.rs a))) s

/-- A cluster's barrier; Open where nothing is listed (R107). -/
def Cluster.barrier (cl : Cluster) (b : Fin 16) : Barrier := look ⟨(0, 0), 0, 0, 0⟩ cl.barriers b.val

/-- The owner that a core's arrival records (R107). -/
def Core.owner (c : Core) : Nat × Nat := (bits (c.cr crCtxid).toNat 0 9, bits (c.cr crCompid).toNat 0 8)

/-- An arrival is refused: another owner, or another count (R107). -/
def State.barrierTrap (s : State) (b : Fin 16) (n : Nat) : Option Trap :=
  let bar := (s.cluster (clusterOf s.c.id)).barrier b
  if bar.arrived = 0 then none
  else if bar.owner ≠ s.c.owner then some (s.openTrap .compartment)
  else if bar.count ≠ n then some s.illegal5
  else none

/-- CBAR (R107): the checks at issue; the arrival is counted at the end of the bundle. -/
def cbarBody (a : Reg) (b : Fin 16) (s : State) : Issue :=
  let n := (s.c.rs a).toNat
  if n = 0 ∨ 48 < n then .trap s.illegal5
  else
    match s.barrierTrap b n with
    | some t => .trap t
    | none => .ok { s with c := s.c.withFlow (fun f => { f with cbar := some (b, n) }) }

/-- CBAR (R107). -/
def execCbar (a : Reg) (b : Fin 16) (s : State) : Host.Outcome State Fault Refusal := slotExec 0 (.cbar a b) (cbarBody a b) s

/-- A fence comes into force beside the others: it holds the bundles of an age and later ones (R105). -/
def Core.setFence (c : Core) (os : OrdScope) (age : Nat) : Core :=
  { c with ord := { c.ord with fence := insertNew (os, age) c.ord.fence } }

/-- FENCE (R105): in force from its own bundle's L and X slots on. -/
def execFence (os : OrdScope) (s : State) : Host.Outcome State Fault Refusal :=
  slotExec 0 (.fence os) (onCore (fun c => c.setFence os c.age)) s

/-! ### Control registers (R16, R17, R108) -/

/-- The registers of R16 by number: whether every core has it, and whether MTC may write it. -/
def crKind (n : Nat) : Option (Bool × Bool) :=
  if n = 0 then some (true, true)
  else if n = 1 then some (false, true)
  else if n = 2 then some (false, false)
  else if n = 4 ∨ n = 5 ∨ n = 6 ∨ n = 8 ∨ n = 9 ∨ n = 10 ∨ n = 0x10 then some (true, true)
  else if n = 0x11 then some (true, false)
  else if 0x14 ≤ n ∧ n ≤ 0x17 then some (false, false)
  else if 0x20 ≤ n ∧ n ≤ 0x2A then some (false, true)
  else if 0x30 ≤ n ∧ n ≤ 0x32 then some (false, true)
  else if n = 0x38 ∨ n = 0x39 ∨ (0x40 ≤ n ∧ n ≤ 0x42) ∨ n = 0x48 ∨ n = 0x49 then some (true, false)
  else if n = 0x4A ∨ n = 0x4C ∨ n = 0x4D then some (false, false)
  else if n = 0x50 then some (false, true)
  else none

/-- Registers that are RW on a partition core and on the Umpire (R16). -/
def ownTrapState (n : Nat) : Bool := decide (0x40 ≤ n ∧ n ≤ 0x42) || decide (n = 0x38)

/-- A register exists on the executing core (R17). -/
def crExists (compute : Bool) (n : Nat) : Bool :=
  match crKind n with
  | some (all, _) => all || compute
  | none => false

/-- MTC may write a register on the executing core (R16). -/
def crWritable (compute : Bool) (n : Nat) : Bool :=
  match crKind n with
  | some (_, w) => w || (!compute && ownTrapState n)
  | none => false

/-- What MFC reads: coreno is the core's own, the rest as stored (R16, R19). -/
def State.readCr (s : State) (n : Nat) : Word :=
  if n = 0x11 then corenoOf s.umpire.standby s.c.id else s.c.cr (Fin.ofNat 96 n)

/-- MFC (R17, R108): slice and decoupst are interlocked with the value at issue, tick is sampled when it arrives. -/
def mfcBody (d : Reg) (n : BitVec 12) (s : State) : Issue :=
  let k := n.toNat
  let dest : Option Dest := if d = 0 then none else some (.scalar d)
  if !crExists (isCompute s.c.id) k then .trap s.illegal5
  else if k = 0x39 then .ok { s with c := { s.c with ilk := s.c.ilk ++ [⟨.tick, dest, s.c.age⟩] } }
  else if k = 0x38 ∨ k = 0x32 then
    .ok { s with c := { s.c with ilk := s.c.ilk ++ [⟨.value (s.readCr k).toNat, dest, s.c.age⟩] } }
  else .ok { s with c := s.c.enterS 0 1 d (s.readCr k) }

/-- MFC (R108). -/
def execMfc (d : Reg) (n : BitVec 12) (s : State) : Host.Outcome State Fault Refusal := slotExec 0 (.mfc d n) (mfcBody d n) s

/-- A value that fmt may not take: a reserved bit set, or a reserved code (R37). -/
def fmtBad (x : Word) : Bool :=
  decide (x &&& 0x1F03FF ≠ x) || decide (bits x.toNat 3 3 = 7) || decide (6 ≤ bits x.toNat 0 3)

/-- MTC (R17, R18, R37, R104, R108, R160). -/
def mtcBody (a : Reg) (n : BitVec 12) (s : State) : Issue :=
  let k := n.toNat
  let x := s.c.rs a
  let cr : Fin 96 := Fin.ofNat 96 k
  if !crExists (isCompute s.c.id) k then .trap s.illegal5
  else if !crWritable (isCompute s.c.id) k then .trap (s.openTrap .privilege)
  else if k = 0 then .ok { s with c := s.c.clearTags x }
  else if k = 1 then
    if fmtBad x then .trap s.illegal5 else .ok { s with c := s.c.enter 0 5 (.fmt true) x.toNat 0 }
  else if k = 0x10 then
    if x &&& 3 ≠ x then .trap s.illegal5 else .ok { s with c := s.c.enterCr 0 cr x }
  else .ok { s with c := s.c.enterCr 0 cr (x &&& crMask k) }

/-- MTC (R108). -/
def execMtc (a : Reg) (n : BitVec 12) (s : State) : Host.Outcome State Fault Refusal := slotExec 0 (.mtc a n) (mtcBody a n) s

/-- QPOP (R109): pending from the end of its bundle. -/
def execQpop (d : Reg) (s : State) : Host.Outcome State Fault Refusal :=
  slotExec 0 (.qpop d) (onCore (fun c => c.withFlow (fun f => { f with qpop := some d }))) s

/-- SYNC (R106): the successor waits. -/
def execSync (s : State) : Host.Outcome State Fault Refusal :=
  slotExec 0 .sync (onCore (fun c => c.withFlow (fun f => { f with wait := some .sync }))) s

/-! ### What the core does by itself -/

/-- SHADOW_WRITE_LANDS (R32): entries whose count is spent land, in order; their flags are joined after every write (R38). -/
def execShadowWriteLands (k : CoreId) (s : State) : Host.Outcome State Fault Refusal :=
  .next (s.setCore (s.core k).landDue)

/-- VTOQ_PUSH_LANDS (R159): a landed push is taken by the pending QPOP; its register is written (R109). -/
def Core.qpopTake (c : Core) : Core :=
  match c.qpop, c.rq with
  | some d, e :: rest => if e.remaining = 0 then { c.writeS d e.value with qpop := none, rq := rest } else c
  | _, _ => c

/-- VTOQ_PUSH_LANDS (R109, R159). -/
def execVtoqPushLands (k : CoreId) (s : State) : Host.Outcome State Fault Refusal :=
  .next (s.setCore (s.core k).qpopTake)

/-- Ticks of freezes that fall in the window of R426. -/
def recentFreezes (now : Nat) (ts : List Nat) : List Nat := ts.filter (fun t => decide (now < t + 2 ^ 30))

/-- CORRECTABLE_ERROR_FREEZE (R36): the core stops for 24 cycles; the corrected-error count grows and saturates at 32 bits;
16 freezes within 2^30 ticks log event 0x58 and flag the core (R426). An error that extends a freeze counts as one more: the model's
choice (log 75). -/
def execCorrectableErrorFreeze (k : CoreId) (s : State) : Host.Outcome State Fault Refusal :=
  let s := s.observeTick
  let c := s.core k
  let ticks := recentFreezes s.tick.toNat c.freezeTicks ++ [s.tick.toNat]
  let s := s.setCore { c with freeze := 24, corrected := Nat.min (c.corrected + 1) (2 ^ 32 - 1), freezeTicks := ticks }
  .next (
    if 16 ≤ ticks.length then
      { s.logEvent 0x58 k (s.core k).corrected with umpire := { s.umpire with flagged := insertNew k s.umpire.flagged } }
    else s)

/-- FREEZE_END (R36): the frozen core goes on. -/
def execFreezeEnd (k : CoreId) (s : State) : Host.Outcome State Fault Refusal :=
  .next (s.setCore { s.core k with freeze := 0 })

end Sys2Proof.Machine
end

