-- ==== Sys2Proof/Machine/LoadStore.lean ====
section
/-! DEFINITION. The L slot (R119 to R141): scratchpad forms, gather and scatter, global accesses and atomics, and the events by
which accesses are performed after issue (R28, R128, R135 to R137, R140, R249, R250, R317). -/

namespace Sys2Proof.Machine

/-! ### Local offsets (R121 to R127) -/

/-- The effective address of a local-offset form (R121). -/
def Core.localAddr (c : Core) (a : Reg) (off : BitVec 8) (unit : Nat) : Nat :=
  (c.rs a + BitVec.ofInt 64 (off.toInt * (unit : Int))).toNat

/-- The checks of R121 in their order, for n aligned bytes. -/
def Core.localTrap (c : Core) (ea n : Nat) : Option Trap :=
  if ea % n ≠ 0 then some ⟨.misaligned, addrInfo ea⟩
  else if c.scratchSize < ea + n then some ⟨.scratchRange, addrInfo ea⟩
  else if c.bankConflict ea n then some ⟨.bankConflict, addrInfo ea⟩
  else none

/-- A local-offset access (R121, R122, R127): the checks, the fill of a window, the poison of what it reads, then its effect. Whichever
of its lines is poisoned, trapinfo is the access's own offset: the model's choice (log 27). -/
def localAccess (ea n : Nat) (poisoned : Core → Bool) (f : Core → Core) (s : State) : Issue :=
  match s.c.localTrap ea n with
  | some t => .trap t
  | none =>
    if s.c.needsFill ea n then .hold { s with c := s.c.startFills ea n }
    else if poisoned s.c then .trap ⟨.poisonConsumed, addrInfo ea⟩
    else .ok { s with c := f s.c }

/-- The value LDS delivers (R123). -/
def loadedInt (w : IntTy) (x : Nat) : Word := if intTySigned w then sext64 (intTyBits w) x else BitVec.ofNat 64 x

/-- LDS (R123). -/
def execLds (d a : Reg) (w : IntTy) (o : BitVec 8) (s : State) : Host.Outcome State Fault Refusal :=
  let n := intTyBits w / 8
  let ea := s.c.localAddr a o n
  slotExec 3 (.lds d a w o)
    (localAccess ea n (fun c => c.scratchPoisoned ea n) (fun c => c.enterS 3 6 d (loadedInt w (c.scratchRead ea n)))) s

/-- STS (R123). -/
def execSts (b a : Reg) (w : Size) (o : BitVec 8) (s : State) : Host.Outcome State Fault Refusal :=
  let n := sizeBytes w
  let ea := s.c.localAddr a o n
  slotExec 3 (.sts b a w o)
    (localAccess ea n (fun _ => false) (fun c => c.scratchPut ea n (c.rs b).toNat)) s

/-- A byte of line j of a 512-byte access is enabled (R127). -/
def lineEnabled (p : Pred) (j : Nat) : Bool := decide (bits p.toNat (64 * j) 64 ≠ 0)

/-- Line j of a 512-byte access is enabled whole (R127). -/
def lineWhole (p : Pred) (j : Nat) : Bool := decide (bits p.toNat (64 * j) 64 = 2 ^ 64 - 1)

/-- LDV (R124). -/
def execLdv (d a : Reg) (p : PReg) (o : BitVec 8) (s : State) : Host.Outcome State Fault Refusal :=
  let ea := s.c.localAddr a o 512
  slotExec 3 (.ldv d a p o)
    (localAccess ea 512
      (fun c => (List.range 8).any (fun j => lineEnabled (c.rp p) j && decide (ea / 64 + j ∈ c.poison)))
      (fun c => c.enterV 3 6 d (mergeBytes (c.rp p) (c.rv d) (BitVec.ofNat 4096 (c.scratchRead ea 512))))) s

/-- Writes the enabled bytes of 512 (R124, R127, R225). -/
def Core.scratchMasked (c : Core) (off : Nat) (p : Pred) (v : Vec) : Core :=
  if p = 0 then c
  else
    let c := c.markDirty off 512
    let old := BitVec.ofNat 4096 (c.scratchRead off 512)
    { c with
      scratch := memPow c.scratch off 9 (mergeBytes p old v).toNat
      poison := c.poison.filter (fun l => !(decide (off / 64 ≤ l ∧ l < off / 64 + 8) && lineWhole p (l - off / 64))) }

/-- STV (R124). -/
def execStv (b a : Reg) (p : PReg) (o : BitVec 8) (s : State) : Host.Outcome State Fault Refusal :=
  let ea := s.c.localAddr a o 512
  slotExec 3 (.stv b a p o)
    (localAccess ea 512 (fun _ => false) (fun c => c.scratchMasked ea (c.rp p) (c.rv b))) s

/-- LDVB (R125). -/
def execLdvb (d a : Reg) (z : Size) (o : BitVec 8) (s : State) : Host.Outcome State Fault Refusal :=
  let n := sizeBytes z
  let ea := s.c.localAddr a o n
  slotExec 3 (.ldvb d a z o)
    (localAccess ea n (fun c => c.scratchPoisoned ea n)
      (fun c => c.enterV 3 6 d (BitVec.ofNat 4096 (packLanes (8 * n) (List.replicate (512 / n) (c.scratchRead ea n)))))) s

/-- LDPM (R126). -/
def execLdpm (d : PReg) (a : Reg) (o : BitVec 8) (s : State) : Host.Outcome State Fault Refusal :=
  let ea := s.c.localAddr a o 64
  slotExec 3 (.ldpm d a o)
    (localAccess ea 64 (fun c => c.scratchPoisoned ea 64) (fun c => c.enterP 3 6 d (BitVec.ofNat 512 (c.scratchRead ea 64)))) s

/-- STPM (R126). -/
def execStpm (b : PReg) (a : Reg) (o : BitVec 8) (s : State) : Host.Outcome State Fault Refusal :=
  let ea := s.c.localAddr a o 64
  slotExec 3 (.stpm b a o)
    (localAccess ea 64 (fun _ => false) (fun c => c.scratchPut ea 64 (c.rp b).toNat)) s

/-! ### Gather and scatter (R128 to R131) -/

/-- LDVX: its operands go to the gather latch (R128, R129). -/
def execLdvx (d a b : Reg) (p : PReg) (z : Size) (s : State) : Host.Outcome State Fault Refusal :=
  slotExec 3 (.ldvx d a b p z)
    (fun s => .ok { s with c := { s.c with
      gather := some ⟨s.word, true, d, z, s.c.rs b, s.c.rv a, s.c.rp p, 0, s.c.rv d, 0, s.c.age⟩ } }) s

/-- STVX: its operands and its data go to the gather latch (R128, R129). -/
def execStvx (e a b : Reg) (p : PReg) (z : Size) (s : State) : Host.Outcome State Fault Refusal :=
  slotExec 3 (.stvx e a b p z)
    (fun s => .ok { s with c := { s.c with
      gather := some ⟨s.word, false, e, z, s.c.rs b, s.c.rv a, s.c.rp p, s.c.rv e, 0, 0, s.c.age⟩ } }) s

/-- Elements of a gather (R128). -/
def Gather.count (g : Gather) : Nat := match g.size with | .b8 => 64 | _ => 128

/-- Width in bits of an index lane (R128). -/
def Gather.idxBits (g : Gather) : Nat := match g.size with | .b8 => 64 | _ => 32

/-- Element i is enabled: the bit of the lowest byte of its index lane (R128). -/
def Gather.enabled (g : Gather) (i : Nat) : Bool := g.pred.getLsbD (i * (g.idxBits / 8))

/-- The cluster address of element i (R128). -/
def Gather.addr (g : Gather) (i : Nat) : Nat := (g.base.toNat + lane g.idxBits g.idx i * sizeBytes g.size) % 2 ^ 64

/-- The first enabled element from i on, among n (R128). -/
def Gather.skip (g : Gather) : Nat → Nat → Nat
  | 0, i => i
  | n + 1, i => if g.enabled i then i else g.skip n (i + 1)

/-- The next element to perform. -/
def Gather.next (g : Gather) : Nat := g.skip (g.count - g.elem) g.elem

/-- trapinfo of an element (R141). -/
def elemInfo (el a : Nat) : Word := BitVec.ofNat 64 (2 ^ 63 + el % 128 * 2 ^ 56 + a % 2 ^ 56)

/-- The checks of R130 in their order. -/
def State.elemCause (s : State) (k : CoreId) (g : Gather) (ca : Nat) : Option Cause :=
  let n := sizeBytes g.size
  let target := caTarget k ca
  if !caValid ca then some .scratchRange
  else if ca % n ≠ 0 then some .misaligned
  else if target = k ∧ (s.core k).bankConflict (ca % 2 ^ 20) n then some .bankConflict
  else if target ≠ k ∧ !s.sameTask k target then some .compartment
  else if g.load && !(s.core target).needsFill (ca % 2 ^ 20) n && (s.core target).scratchPoisoned (ca % 2 ^ 20) n then some .poisonConsumed
  else none

/-- A gather that has done its last element: LDVX makes its one write (R128). -/
def Core.gatherEnd (c : Core) (g : Gather) : Core :=
  if g.next = g.count then
    let c := if g.load then c.writeV g.dest g.acc else c
    ({ c with gather := none } : Core).clearProg 56 8
  else { c with gather := some g }

/-- Replaces element i of width w bits of a vector. -/
def setLane (w : Nat) (x : Vec) (i v : Nat) : Vec := BitVec.ofNat 4096 (setBits x.toNat (w * i) w v)

/-- Performs the next element (R128, R130, R131): it waits for a fill, a freeze of its target, and an earlier remote atomic on its
bytes. What it reads carries, and what it writes carries what the core's release fences cover (R244, R245). -/
def State.gatherStep (s : State) (k : CoreId) (g : Gather) : State :=
  let i := g.next
  if g.count ≤ i then s.setCore ((s.core k).gatherEnd { g with elem := i })
  else
    let ca := g.addr i
    let n := sizeBytes g.size
    let off := ca % 2 ^ 20
    match s.elemCause k g ca with
    | some f => s.setCore { s.core k with gather := some { g with elem := i }, due := (s.core k).due ++ [⟨f, elemInfo i ca⟩] }
    | none =>
      let t := s.core (caTarget k ca)
      let waits := (s.core k).ilk.any (fun o =>
        match o.kind with | .access a none => a.isRemote && overlap a.addr a.size ca n | _ => false)
      if t.freeze ≠ 0 ∨ waits then s
      else if t.needsFill off n then
        match t.badFill off n with
        | some f =>
          let s := s.setCore (t.clearBad off n)
          s.setCore { s.core k with gather := some { g with elem := i }, due := (s.core k).due ++ [⟨f.cause, elemInfo i (f.info.toNat % 2 ^ 49)⟩] }
        | none => s.setCore (t.startFills off n)
      else if g.load then
        let s : State := { s with heard := insertNew (k, Hearing.scratch (caTarget k ca)) s.heard }
        s.setCore ((s.core k).gatherEnd { g with acc := setLane (8 * n) g.acc i (t.scratchRead off n), elem := i + 1 })
      else
        let s := s.carryScratch k (caTarget k ca) off n false (s.writeCarries (s.core k).ord none g.age)
        let s := s.setCore (t.scratchPut off n (lane (8 * n) g.data i))
        s.setCore ((s.core k).gatherEnd { g with elem := i + 1 })

/-- GATHER_SCATTER_ELEMENT (R128, R130): nothing moves while a fault of an element waits for its boundary, nor once a save has stopped the
gather or scatter (R131). -/
def execGatherScatterElement (k : CoreId) (s : State) : Host.Outcome State Fault Refusal :=
  .next (match (s.core k).gather with
    | some g => if (s.core k).due.isEmpty && (s.core k).saving.isNone then s.gatherStep k g else s
    | none => s)

/-! ### Global accesses and atomics (R132 to R140) -/

/-- The checks of a global address at issue (R119, R132, R140). -/
def globalTrap (x : Word) (n : Nat) : Option Trap :=
  if 2 ^ 49 ≤ x.toNat then some ⟨.translation, addrInfo x.toNat⟩
  else if x.toNat % n ≠ 0 then some ⟨.misaligned, addrInfo x.toNat⟩
  else none

/-- An acquiring access is followed by FENCE.acq at its scope, for the bundles after its own (R134, R140). -/
def Core.acquireAfter (c : Core) (os : OrdScope) : Core :=
  if Order.isAcq os.ord then { c with flow := { c.flow with fence := some ⟨.acq, os.scope⟩ } } else c

/-- An access becomes outstanding (R28). -/
def Core.outstanding (c : Core) (a : Access) (got : Option Nat) : Core :=
  { c with ilk := c.ilk ++ [⟨.access a got, a.reg.map .scalar, c.age⟩] }

/-- A global load or atomic at issue (R132, R138, R139). -/
def globalIssue (a : Access) (os : OrdScope) (s : State) : Issue :=
  match globalTrap (BitVec.ofNat 64 a.addr) a.size with
  | some t => .trap t
  | none => .ok { s with c := (s.c.outstanding a none).acquireAfter os }

/-- LDG (R132, R134). -/
def execLdg (d a : Reg) (w : IntTy) (os : OrdScope) (s : State) : Host.Outcome State Fault Refusal :=
  slotExec 3 (.ldg d a w os) (globalIssue ⟨.ldg d a w os, (s.c.rs a).toNat, 0, 0, s.c.age⟩ os) s

/-- ATG: its operand is read from d, as 0 in a reduction (R138). -/
def execAtg (d a : Reg) (op : Aop) (w : Bool) (os : OrdScope) (s : State) : Host.Outcome State Fault Refusal :=
  slotExec 3 (.atg d a op w os) (globalIssue ⟨.atg d a op w os, (s.c.rs a).toNat, s.c.rs d, 0, s.c.age⟩ os) s

/-- CASG: it compares with d and stores b (R139). -/
def execCasg (d a b : Reg) (w : Bool) (os : OrdScope) (s : State) : Host.Outcome State Fault Refusal :=
  slotExec 3 (.casg d a b w os) (globalIssue ⟨.casg d a b w os, (s.c.rs a).toNat, s.c.rs b, s.c.rs d, s.c.age⟩ os) s

/-- Earlier accesses of a core that meet a store are performed before it, in order (R246); one that cannot be holds the store. -/
def State.earlierDone (s : State) (k : CoreId) (a : Access) : List Ilk → List Ilk → Option State
  | done, [] => some (s.setCore { s.core k with ilk := done })
  | done, o :: rest =>
    match o.kind with
    | .access b none =>
      if s.meets k b a then
        if s.behind k b done then none
        else
          match s.tryAccess k b with
          | .done s' v => s'.earlierDone k a (done ++ [{ o with kind := .access b (some (b.result v).toNat) }]) rest
          | _ => none
      else s.earlierDone k a (done ++ [o]) rest
    | _ => s.earlierDone k a (done ++ [o]) rest

/-- STG after its checks (R132, R136, R137, R250): performed in its cluster store, or left to the side log. Behind a QDEQ without an item
it issues and is performed after the item is taken (R204, R239). -/
def stgBody (a : Access) (s : State) : Issue :=
  match globalTrap (BitVec.ofNat 64 a.addr) a.size with
  | some t => .trap t
  | none =>
    if s.counterFull s.c.id a then .hold s
    else if qdeqPending s.c.ilk then .ok { s with c := s.c.outstanding a none }
    else
      match s.earlierDone s.c.id a [] s.c.ilk with
      | none => .hold s
      | some s =>
        let later : Issue := .ok { s with c := { s.c with stq := s.c.stq ++ [a] } }
        if !(logOverlap s.c.log a).isEmpty || !s.c.stq.isEmpty then later
        else
          match s.tryGlobal s.c.id a with
          | .done s' _ => .ok s'
          | _ => later

/-- STG (R132, R134). -/
def execStg (b a : Reg) (w : Size) (os : OrdScope) (s : State) : Host.Outcome State Fault Refusal :=
  slotExec 3 (.stg b a w os) (stgBody ⟨.stg b a w os, (s.c.rs a).toNat, s.c.rs b, 0, s.c.age⟩) s

/-- A cluster-address atomic at issue (R130, R140): a local one is performed now, a remote one when it arrives. -/
def clusterIssue (a : Access) (os : OrdScope) (s : State) : Issue :=
  let off := a.addr % 2 ^ 20
  let info := addrInfo a.addr
  let isLocal := decide (caTarget s.c.id a.addr = s.c.id)
  if !caValid a.addr then .trap ⟨.scratchRange, info⟩
  else if a.addr % a.size ≠ 0 then .trap ⟨.misaligned, info⟩
  else if isLocal && s.c.bankConflict off a.size then .trap ⟨.bankConflict, info⟩
  else if !isLocal then .ok { s with c := (s.c.outstanding a none).acquireAfter os }
  else if s.c.needsFill off a.size then .hold { s with c := s.c.startFills off a.size }
  else
    match s.tryRemote s.c.id a with
    | .done s' v => .ok { s' with c := (s'.c.outstanding a (some (a.result v).toNat)).acquireAfter os }
    | .fault f => .trap ⟨f, info⟩
    | .wait s' => .hold s'
    | .blocked => .hold s

/-- ATS (R138, R140). -/
def execAts (d a : Reg) (op : Aop) (w : Bool) (os : OrdScope) (s : State) : Host.Outcome State Fault Refusal :=
  slotExec 3 (.ats d a op w os) (clusterIssue ⟨.ats d a op w os, (s.c.rs a).toNat, s.c.rs d, 0, s.c.age⟩ os) s

/-- CASS (R139, R140). -/
def execCass (d a b : Reg) (w : Bool) (os : OrdScope) (s : State) : Host.Outcome State Fault Refusal :=
  slotExec 3 (.cass d a b w os) (clusterIssue ⟨.cass d a b w os, (s.c.rs a).toNat, s.c.rs b, s.c.rs d, s.c.age⟩ os) s

/-! ### After issue -/

/-- The result of an interlocked operation is written, and the operation ends (R28). -/
def State.deliver (s : State) (k : CoreId) (n : Nat) (dest : Option Dest) (v : Nat) : State :=
  let c := { s.core k with ilk := dropNth (s.core k).ilk n }
  s.setCore (match dest with | some d => c.writeDest d v | none => c)

/-- A global access whose result arrives: it is performed in program order with those it meets (R28, R135 to R137). -/
def State.globalArrives (s : State) (k : CoreId) (n : Nat) (o : Ilk) (a : Access) : State :=
  if a.isRemote || s.behind k a ((s.core k).ilk.take n) then s
  else
    match s.tryAccess k a with
    | .done s' v => s'.deliver k n o.dest (a.result v).toNat
    | .wait s' => s'
    | .fault f =>
      if a.isStore && f.repairable then
        let c := s.core k
        s.setCore { c with ilk := dropNth c.ilk n, stq := c.stq ++ [a] }
      else s
    | .blocked =>
      let c := s.core k
      s.setCore { c with ilk := dropNth c.ilk n, due := c.due ++ [⟨.releaseBlocked, addrInfo a.addr⟩] }

/-- REMOTE_ACCESS_ARRIVES (R23, R140): a remote atomic is performed at the core it reaches, after those before it on its bytes. -/
def execRemoteAccessArrives (k : CoreId) (n : Nat) (s : State) : Host.Outcome State Fault Refusal :=
  .next (match (s.core k).ilk[n]? with
    | some ⟨.access a none, dest, age⟩ =>
      if !a.isRemote || s.behind k a ((s.core k).ilk.take n) then s
      else
        match s.tryRemote k a with
        | .done s' v =>
          s'.setCore { s'.core k with ilk := setNth (s'.core k).ilk n ⟨.access a (some (a.result v).toNat), dest, age⟩ }
        | .wait s' => s'
        | _ => s
    | _ => s)

/-- The first outstanding access that faults in the way of R135, with its number and cause. -/
def State.faulting (s : State) (k : CoreId) : List Ilk → Nat → Option (Nat × Ilk × Access × Cause)
  | [], _ => none
  | o :: rest, n =>
    match o.kind with
    | .access a none =>
      if s.behind k a ((s.core k).ilk.take n) then s.faulting k rest (n + 1)
      else
        match s.tryAccess k a with
        | .fault f => if a.isStore && f.repairable then s.faulting k rest (n + 1) else some (n, o, a, f)
        | _ => s.faulting k rest (n + 1)
    | _ => s.faulting k rest (n + 1)

/-- HELD_ACCESS_FAULT (R135): the access is held, and its trap is taken at the next bundle boundary. -/
def execHeldAccessFault (k : CoreId) (s : State) : Host.Outcome State Fault Refusal :=
  .next (
    let c := s.core k
    if c.held.isSome then s
    else
      match s.faulting k c.ilk 0 with
      | some (n, o, a, f) =>
        (s.setCore { c with ilk := dropNth c.ilk n, held := some (a, o.dest), due := c.due ++ [⟨f, addrInfo a.addr⟩] }).told k a
      | none => s)

/-! ### The side log (R317, R318) -/

/-- An entry may be replayed: in state 1, or in state 0 on a core that has no supervisor, and behind no entry it meets. -/
def replayable (anyState : Bool) (log : List LogEntry) (n : Nat) (e : LogEntry) : Bool :=
  (decide (e.state = 1) || (anyState && decide (e.state = 0))) && (logOverlap (log.take n) e.access).isEmpty

/-- Entries behind those of a list, which await translation again: what meets one of them does so too (R137, R317). -/
def demoted (bad : List Access) : List LogEntry → List LogEntry
  | [] => []
  | e :: es =>
    if e.state = 1 ∧ (bad.any (fun a => overlap a.addr a.size e.access.addr e.access.size)) = true then
      { e with state := 0 } :: demoted (e.access :: bad) es
    else e :: demoted bad es

/-- The n-th entry of a side log faults again: it awaits translation, and so do the entries that wait on it (R317). -/
def faultedAgain (log : List LogEntry) (n : Nat) (e : LogEntry) : List LogEntry :=
  log.take n ++ { e with state := 0 } :: demoted [e.access] (log.drop (n + 1))

/-- The party of a task (R235). -/
def Task.party (t : Task) (cl : Nat) : Party := ⟨.task, t.ctx, recField t.record 40 1, .compute cl 0⟩

/-- The side log of a saved task, as its slot holds it (R308, R317). -/
def logsOf (block : Nat) : List LogEntry :=
  ((List.range 32).map (fun i => field block (0x900 + 32 * i) 32)).filterMap logOfImage

/-- An access of its side log that the memory unit performs for a saved task, at its home, with what its order carries, and whether it is
lost there (R245, R253, R254, R317). -/
def State.replayHome (s : State) (sv : Saved) (a : Access) : Except Cause (State × Bool) := do
  let p := sv.task.party sv.cl
  let w : Writer := .task sv.task.ctx sv.task.slot
  let ids := s.writeCarries sv.ord (osOf a.instr) a.age
  let x ← s.translate p a.addr a.need
  match a.instr with
  | .stg _ _ _ _ => pure (s.storeHomeBy p.core w x (bytesOf a.size a.data.toNat) false ids, s.fenced x.pa)
  | _ =>
    if x.psn || s.poisoned (x.pa / 64) then
      if a.isReduction then pure (s, s.fenced x.pa) else .error .poisonConsumed
    else
      let s := s.settle (clusterOf p.core) x.pa a.size
      match a.newValue (s.plain x.label x.pa a.size) with
      | some v => pure (s.storeHomeBy p.core w x (bytesOf a.size v) true ids, false)
      | none => pure (s, false)

/-- The saved task at a slot. -/
def State.saved? (s : State) (ctx addr : Nat) : Option Saved :=
  s.tasks.find? (fun v => decide (v.task.ctx = ctx ∧ v.task.slot = addr))

/-- Replaces the entry of a saved task. -/
def State.setSaved (s : State) (ctx addr : Nat) (f : Saved → Saved) : State :=
  { s with tasks := s.tasks.map (fun v => if v.task.ctx = ctx ∧ v.task.slot = addr then f v else v) }

/-- Writes a side log back into a slot (R308). -/
def State.putLogs (s : State) (ctx addr block : Nat) (log : List LogEntry) : State :=
  match s.slotWrite ctx [(addr, setBits block (8 * 0x900) (8 * 0x400) (packLanes 256 (log.map logImage)))] with
  | .ok s' => s'
  | .error _ => s

/-- The replay of an entry of a saved task (R317). -/
def State.replaySlot (s : State) (ctx addr n : Nat) : State :=
  match s.saved? ctx addr, s.slotRead ctx addr with
  | some sv, .ok block =>
    let log := sv.logOf (logsOf block)
    match log[n]? with
    | none => s
    | some e =>
      if !replayable false log n e then s
      else
        match s.replayHome sv e.access with
        | .ok (s', lost) =>
          (s'.setSaved ctx addr (fun v => if lost then { v with ord := { v.ord.lose e.access.age with lostOwn := true } } else v)).putLogs
            ctx addr block (dropNth log n)
        | .error f =>
          let rest := dropNth log n
          let s := if rest.any (fun x => decide (x.state = 0 ∧ x.access.addr / 65536 = e.access.addr / 65536)) then s
            else
              let s := s.postSup (.compute sv.cl 0) sv.task (supItem f.code true (.compute sv.cl 0) addr)
              match s.slotSet ctx addr 0x7B008 32 (logImage e) with
              | .ok s => s
              | .error _ => s
          s.putLogs ctx addr block (faultedAgain log n e)
  | _, _ => s

/-! ### Acknowledgement (R249, R250) -/

/-- FENCE_MARKER_ACK (R250): a vat's routers have no store of the core left to acknowledge. -/
def execFenceMarkerAck (k : CoreId) (v : Nat) (s : State) : Host.Outcome State Fault Refusal :=
  .next (
    if s.stores.any (fun x => decide ((x.src = k ∧ x.eng = none ∨ x.id ∈ idsOf (s.core k).ord.own) ∧ homeOf x.pa = v)) then s
    else
      let c := s.core k
      s.setCore { c with ord := { c.ord with marks := c.ord.marks.filter (fun m => decide (m ≠ v)) } })

end Sys2Proof.Machine
end

