-- ==== Sys2Proof/Machine/Vector.lean ====
section
/-! DEFINITION. The V slot (R142 to R165): lane-wise forms, conversions and packing, reductions and scans, moves, the return
queue, the whey queue and the streaming reduction. -/

namespace Sys2Proof.Machine

/-! ### Lanes -/

/-- A result by elements with the merging predication of R142 and the flags of R143. -/
def Core.enterLanes (c : Core) (lat : Nat) (d : Reg) (p : PReg) (w : Nat) (rs : List (Nat × Flags)) : Core :=
  c.enter 4 lat (.vector d) (mergeLanes w (c.rp p) (vlanes w (c.rv d)) (rs.map (·.1))).toNat (laneFlags (governs w (c.rp p)) rs)

/-- Values without flags. -/
def plainLanes (xs : List Nat) : List (Nat × Flags) := xs.map (fun x => (x, 0))

/-- An integer form of two operands (R145). -/
def Core.lanes2 (c : Core) (t : IntTy) (d a b : Reg) (p : PReg) (f : Nat → Nat → Nat) : Core :=
  let w := intTyBits t
  c.enterLanes 2 d p w (plainLanes (List.zipWith (fun x y => f x y % 2 ^ w) (vlanes w (c.rv a)) (vlanes w (c.rv b))))

/-- An integer form of one operand (R145). -/
def Core.lanes1 (c : Core) (t : IntTy) (d a : Reg) (p : PReg) (f : Nat → Nat) : Core :=
  let w := intTyBits t
  c.enterLanes 2 d p w (plainLanes ((vlanes w (c.rv a)).map (fun x => f x % 2 ^ w)))

/-- A floating-point form of two operands (R148). -/
def Core.flanes2 (c : Core) (lat : Nat) (t : FpTy) (d a b : Reg) (p : PReg) (f : Fmt → RndCtl → Nat → Nat → Nat × Flags) : Core :=
  let w := (fpFmt t).width
  c.enterLanes lat d p w (List.zipWith (f (fpFmt t) c.rnd) (vlanes w (c.rv a)) (vlanes w (c.rv b)))

/-- A floating-point form of one operand (R148). -/
def Core.flanes1 (c : Core) (lat : Nat) (t : FpTy) (d a : Reg) (p : PReg) (f : Fmt → RndCtl → Nat → Nat × Flags) : Core :=
  let w := (fpFmt t).width
  c.enterLanes lat d p w ((vlanes w (c.rv a)).map (f (fpFmt t) c.rnd))

/-! ### Integer forms (R145) -/

/-- VADD (R145). -/
def execVadd (d a b : Reg) (p : PReg) (t : IntTy) (s : State) : Host.Outcome State Fault Refusal :=
  slotExec 4 (.vadd d a b p t) (onCore (fun c => c.lanes2 t d a b p (fun x y => x + y))) s

/-- VSUB (R145). -/
def execVsub (d a b : Reg) (p : PReg) (t : IntTy) (s : State) : Host.Outcome State Fault Refusal :=
  slotExec 4 (.vsub d a b p t) (onCore (fun c => c.lanes2 t d a b p (fun x y => x + 2 ^ intTyBits t - y))) s

/-- VMUL (R145). -/
def execVmul (d a b : Reg) (p : PReg) (t : IntTy) (s : State) : Host.Outcome State Fault Refusal :=
  slotExec 4 (.vmul d a b p t) (onCore (fun c => c.lanes2 t d a b p (fun x y => x * y))) s

/-- The high half of a product (R145). -/
def mulHigh (signed : Bool) (w x y : Nat) : Nat := intBits w (intValue signed w x * intValue signed w y / ((2 ^ w : Nat) : Int))

/-- VMULHI (R145). -/
def execVmulhi (d a b : Reg) (p : PReg) (t : IntTy) (s : State) : Host.Outcome State Fault Refusal :=
  slotExec 4 (.vmulhi d a b p t) (onCore (fun c => c.lanes2 t d a b p (mulHigh (intTySigned t) (intTyBits t)))) s

/-- VMAD: the addend is the destination as read at issue (R145). -/
def execVmad (d a b : Reg) (p : PReg) (t : IntTy) (s : State) : Host.Outcome State Fault Refusal :=
  slotExec 4 (.vmad d a b p t)
    (onCore (fun c =>
      let w := intTyBits t
      c.enterLanes 2 d p w (plainLanes (List.zipWith (fun z xy => (z + xy.1 * xy.2) % 2 ^ w)
        (vlanes w (c.rv d)) ((vlanes w (c.rv a)).zip (vlanes w (c.rv b))))))) s

/-- VAND (R145). -/
def execVand (d a b : Reg) (p : PReg) (t : IntTy) (s : State) : Host.Outcome State Fault Refusal :=
  slotExec 4 (.vand d a b p t) (onCore (fun c => c.lanes2 t d a b p (fun x y => x &&& y))) s

/-- VOR (R145). -/
def execVor (d a b : Reg) (p : PReg) (t : IntTy) (s : State) : Host.Outcome State Fault Refusal :=
  slotExec 4 (.vor d a b p t) (onCore (fun c => c.lanes2 t d a b p (fun x y => x ||| y))) s

/-- VXOR (R145). -/
def execVxor (d a b : Reg) (p : PReg) (t : IntTy) (s : State) : Host.Outcome State Fault Refusal :=
  slotExec 4 (.vxor d a b p t) (onCore (fun c => c.lanes2 t d a b p (fun x y => x ^^^ y))) s

/-- VSHL (R145). -/
def execVshl (d a b : Reg) (p : PReg) (t : IntTy) (s : State) : Host.Outcome State Fault Refusal :=
  slotExec 4 (.vshl d a b p t) (onCore (fun c => c.lanes2 t d a b p (fun x y => x * 2 ^ (y % intTyBits t)))) s

/-- VSHRL (R145). -/
def execVshrl (d a b : Reg) (p : PReg) (t : IntTy) (s : State) : Host.Outcome State Fault Refusal :=
  slotExec 4 (.vshrl d a b p t) (onCore (fun c => c.lanes2 t d a b p (fun x y => x / 2 ^ (y % intTyBits t)))) s

/-- VSHRA (R145). -/
def execVshra (d a b : Reg) (p : PReg) (t : IntTy) (s : State) : Host.Outcome State Fault Refusal :=
  slotExec 4 (.vshra d a b p t) (onCore (fun c => c.lanes2 t d a b p (fun x y => intBits (intTyBits t) (intValue true (intTyBits t) x / ((2 ^ (y % intTyBits t) : Nat) : Int))))) s

/-- VMIN (R145). -/
def execVmin (d a b : Reg) (p : PReg) (t : IntTy) (s : State) : Host.Outcome State Fault Refusal :=
  slotExec 4 (.vmin d a b p t) (onCore (fun c => c.lanes2 t d a b p (intMinMax (intTySigned t) (intTyBits t) false))) s

/-- VMAX (R145). -/
def execVmax (d a b : Reg) (p : PReg) (t : IntTy) (s : State) : Host.Outcome State Fault Refusal :=
  slotExec 4 (.vmax d a b p t) (onCore (fun c => c.lanes2 t d a b p (intMinMax (intTySigned t) (intTyBits t) true))) s

/-- VABS (R145). -/
def execVabs (d a : Reg) (p : PReg) (t : IntTy) (s : State) : Host.Outcome State Fault Refusal :=
  slotExec 4 (.vabs d a p t) (onCore (fun c => c.lanes1 t d a p (fun x => (intValue true (intTyBits t) x).natAbs))) s

/-- VNEG (R145). -/
def execVneg (d a : Reg) (p : PReg) (t : IntTy) (s : State) : Host.Outcome State Fault Refusal :=
  slotExec 4 (.vneg d a p t) (onCore (fun c => c.lanes1 t d a p (fun x => 2 ^ intTyBits t - x))) s

/-! ### Select and compare (R146, R147) -/

/-- VSEL: the predicate selects, and every element is written (R146). -/
def execVsel (d a b : Reg) (p : PReg) (t : IntTy) (s : State) : Host.Outcome State Fault Refusal :=
  slotExec 4 (.vsel d a b p t)
    (onCore (fun c =>
      let w := intTyBits t
      c.enterV 4 2 d (mergeLanes w (c.rp p) (vlanes w (c.rv b)) (vlanes w (c.rv a))))) s

/-- VCMP (R147). -/
def execVcmp (d : PReg) (cc : Cc) (a b : Reg) (t : IntTy) (s : State) : Host.Outcome State Fault Refusal :=
  slotExec 4 (.vcmp d cc a b t)
    (onCore (fun c =>
      let w := intTyBits t
      c.enterP 4 2 d (spreadBits w (List.zipWith (ccHolds w cc) (vlanes w (c.rv a)) (vlanes w (c.rv b)))))) s

/-- VFCMP (R147). -/
def execVfcmp (d : PReg) (cc : Fcc) (a b : Reg) (t : FpTy) (s : State) : Host.Outcome State Fault Refusal :=
  slotExec 4 (.vfcmp d cc a b t)
    (onCore (fun c =>
      let w := (fpFmt t).width
      let rs := List.zipWith (fpCompare (fpFmt t) cc) (vlanes w (c.rv a)) (vlanes w (c.rv b))
      c.enter 4 4 (.pred d) (spreadBits w (rs.map (·.1))).toNat (rs.foldl (fun f r => f ||| r.2) 0))) s

/-! ### Floating-point forms (R148) -/

/-- VFADD (R148). -/
def execVfadd (d a b : Reg) (p : PReg) (t : FpTy) (s : State) : Host.Outcome State Fault Refusal :=
  slotExec 4 (.vfadd d a b p t) (onCore (fun c => c.flanes2 4 t d a b p fpAdd)) s

/-- VFSUB (R148). -/
def execVfsub (d a b : Reg) (p : PReg) (t : FpTy) (s : State) : Host.Outcome State Fault Refusal :=
  slotExec 4 (.vfsub d a b p t) (onCore (fun c => c.flanes2 4 t d a b p fpSub)) s

/-- VFMUL (R148). -/
def execVfmul (d a b : Reg) (p : PReg) (t : FpTy) (s : State) : Host.Outcome State Fault Refusal :=
  slotExec 4 (.vfmul d a b p t) (onCore (fun c => c.flanes2 4 t d a b p fpMul)) s

/-- VFFMA: the addend is the destination as read at issue (R148). -/
def execVffma (d a b : Reg) (p : PReg) (t : FpTy) (s : State) : Host.Outcome State Fault Refusal :=
  slotExec 4 (.vffma d a b p t)
    (onCore (fun c =>
      let w := (fpFmt t).width
      c.enterLanes 4 d p w (List.zipWith (fun z xy => fpFma (fpFmt t) c.rnd xy.1 xy.2 z)
        (vlanes w (c.rv d)) ((vlanes w (c.rv a)).zip (vlanes w (c.rv b)))))) s

/-- VFDIV (R148). -/
def execVfdiv (d a b : Reg) (p : PReg) (t : FpTy) (s : State) : Host.Outcome State Fault Refusal :=
  slotExec 4 (.vfdiv d a b p t) (onCore (fun c => c.flanes2 12 t d a b p fpDiv)) s

/-- VFSQRT (R148). -/
def execVfsqrt (d a : Reg) (p : PReg) (t : FpTy) (s : State) : Host.Outcome State Fault Refusal :=
  slotExec 4 (.vfsqrt d a p t) (onCore (fun c => c.flanes1 12 t d a p fpSqrt)) s

/-- VFRCP (R148). -/
def execVfrcp (d a : Reg) (p : PReg) (t : FpTy) (s : State) : Host.Outcome State Fault Refusal :=
  slotExec 4 (.vfrcp d a p t) (onCore (fun c => c.flanes1 8 t d a p fpRcp)) s

/-- VFRSQ (R148). -/
def execVfrsq (d a : Reg) (p : PReg) (t : FpTy) (s : State) : Host.Outcome State Fault Refusal :=
  slotExec 4 (.vfrsq d a p t) (onCore (fun c => c.flanes1 8 t d a p fpRsq)) s

/-- VFEXP2 (R148). -/
def execVfexp2 (d a : Reg) (p : PReg) (t : FpTy) (s : State) : Host.Outcome State Fault Refusal :=
  slotExec 4 (.vfexp2 d a p t) (onCore (fun c => c.flanes1 8 t d a p fpExp2)) s

/-- VFLOG2 (R148). -/
def execVflog2 (d a : Reg) (p : PReg) (t : FpTy) (s : State) : Host.Outcome State Fault Refusal :=
  slotExec 4 (.vflog2 d a p t) (onCore (fun c => c.flanes1 8 t d a p fpLog2)) s

/-- VFMIN (R148). -/
def execVfmin (d a b : Reg) (p : PReg) (t : FpTy) (s : State) : Host.Outcome State Fault Refusal :=
  slotExec 4 (.vfmin d a b p t) (onCore (fun c => c.flanes2 4 t d a b p (fun f r => fpMinMax f r false))) s

/-- VFMAX (R148). -/
def execVfmax (d a b : Reg) (p : PReg) (t : FpTy) (s : State) : Host.Outcome State Fault Refusal :=
  slotExec 4 (.vfmax d a b p t) (onCore (fun c => c.flanes2 4 t d a b p (fun f r => fpMinMax f r true))) s

/-! ### Conversions and packing (R149 to R154) -/

/-- VCVT: the elements beyond the conversion are written 0 (R149). -/
def execVcvt (d a : Reg) (t f : Ty) (p : PReg) (s : State) : Host.Outcome State Fault Refusal :=
  slotExec 4 (.vcvt d a t f p)
    (onCore (fun c =>
      let wt := (tyKind t).bits
      let wf := (tyKind f).bits
      let m := Nat.max wt wf
      let g := governs m (c.rp p)
      let rs := (lanesOf wf (laneCount m) (c.rv a).toNat).map (convert c.rnd t f)
      let old := lanesOf wt (laneCount m) (c.rv d).toNat
      let out := List.zipWith (fun gr o => if gr.1 then gr.2.1 else o) (g.zip rs) old
      c.enter 4 4 (.vector d) (packLanes wt out) (laneFlags g rs))) s

/-- VQNT to an FP8 format: element i goes to byte i, with saturation (R150, R151). -/
def quantBytes (c : RndCtl) (t f : Ty) (p : Pred) (old src : Vec) : Nat × Flags :=
  let w := (tyKind f).bits
  let rs := (vlanes w src).map (convert ⟨c.rm, true⟩ t f)
  let g := governs w p
  (packLanes 8 (List.zipWith (fun gr o => if gr.1 then gr.2.1 else o) (g.zip rs) (lanesOf 8 (laneCount w) old.toNat)), laneFlags g rs)

/-- The magnitude of an element, an infinity counting as the largest finite value of its format (R152, R153). -/
def magnitude (f : Fmt) (x : Ext) : Ext :=
  match x with
  | .fin _ m e st => .fin false m e st
  | .inf _ => f.value f.maxFinite
  | .nan sg => .nan sg

/-- The larger of two magnitudes. -/
def largerExt (x y : Ext) : Ext := if cmpExt x y < 0 then y else x

/-- The largest magnitude of a block. -/
def blockMax (f : Fmt) (xs : List Ext) : Ext := xs.foldl (fun a x => largerExt a (magnitude f x)) Ext.zero

/-- The shared exponent code of a .mx4 block (R152). -/
def mx4Scale (amax : Ext) : Nat :=
  match amax with
  | .fin _ m e _ => if m = 0 then 0 else Nat.min 254 (((bitLen m : Int) - 1 + e) - 2 + 127).toNat
  | _ => 0

/-- An element divided by 2^k, exactly. -/
def scaleExt (k : Int) : Ext → Ext
  | .fin neg m e st => .fin neg m (e - k) st
  | x => x

/-- A .mx4 block: its scale byte, its codes and its flags (R152). -/
def quantMx4 (rm : Rm) (f : Fmt) (xs : List Ext) : Nat × List Nat × Flags :=
  if xs.any Ext.isNaN then (255, xs.map (fun _ => 0), flagI)
  else
    let ex := mx4Scale (blockMax f xs)
    let rs := xs.map (fun x => deliver e2m1 ⟨rm, true⟩ (scaleExt ((ex : Int) - 127) x))
    (ex, rs.map (·.1), rs.foldl (fun fl r => fl ||| r.2) 0)

/-- The codebook of R45 in units of 1/128. -/
def sq4Units : List Int := [-240, -168, -128, -100, -74, -52, -30, -10, 10, 30, 52, 74, 100, 128, 168, 240]

/-- The code nearest to a value: x and the weights of the codes in one unit; ties go to the even code (R153). -/
def nearestCode (x : Int) (ws : List Int) : Nat :=
  ((ws.zipIdx).foldl (fun best w =>
    let d := (w.1 - x).natAbs
    if d < best.1 ∨ (d = best.1 ∧ w.2 % 2 = 0) then (d, w.2) else best) ((ws.headD 0 - x).natAbs, 0)).2

/-- The code of an element with an effective scale (R153). Where the scale rounds to 0, all codes are as near as each other and
the rule names none of the even ones: the choice among them is open. -/
def sq4Code (f : Fmt) (e : Ext) (x : Ext) : Nat × Flags :=
  match x, e with
  | .inf neg, .fin sneg _ _ _ => (if neg = sneg then 15 else 0, flagX)
  | .fin _ _ ex _, .fin sneg m ee _ =>
    if m = 0 then (2 * (Config.tiedCode (x.scaled (f.qmin)).natAbs % 8), flagIf (!x.isZero) flagX)
    else
      let q := min ex (ee - 7)
      let one : Int := (Ext.fin sneg m (ee - 7) false).scaled q
      let ws := sq4Units.map (· * one)
      let v := x.scaled q
      let code := nearestCode v ws
      (code, flagIf (decide (ws.getD code 0 ≠ v)) flagX)
  | _, _ => (0, 0)

/-- ceil(255 amax / (1.875 |S|)), up to 256: 256 stands for a quotient above 255 (R153). -/
def sq4Quant (amax : Ext) (sup : Ext) : Nat :=
  match amax, sup with
  | .fin _ ma ea _, .fin _ ms es _ =>
    let n := 255 * 8 * ma * 2 ^ (ea - es).toNat
    let d := 15 * ms * 2 ^ (es - ea).toNat
    Nat.min 256 (ceilDiv n d)
  | _, _ => 0

/-- A .sq4 block: its q, its codes and its flags (R153). -/
def quantSq4 (sup : Nat) (f : Fmt) (xs : List Ext) : Nat × List Nat × Flags :=
  let sv := fp32.value sup
  let zeros := xs.map (fun _ => 0)
  if sv.isZero || sv.isNaN || sv.isInf || xs.any Ext.isNaN then (0, zeros, flagI)
  else
    let amax := blockMax f xs
    if amax.isZero then (0, zeros, 0)
    else
      let r := sq4Quant amax sv
      let q := Nat.min 255 r
      let e := fp32.value (sq4Scale sup q).1
      let rs := xs.map (sq4Code f e)
      (q, rs.map (·.1), rs.foldl (fun fl c => fl ||| c.2) (flagIf (decide (255 < r)) flagO))

/-- Splits a list into blocks of n. -/
def blocksOf {α : Type} (n : Nat) : Nat → List α → List (List α)
  | 0, _ => []
  | k + 1, xs => xs.take n :: blocksOf n k (xs.drop n)

/-- The packed layout of R150: codes by nibbles, one byte per block, and a last word. -/
def packBlocks (n : Nat) (bs : List (Nat × List Nat × Flags)) (last : Nat) : Nat × Flags :=
  (packLanes 4 (bs.flatMap (fun b => b.2.1)) + packLanes 8 (bs.map (·.1)) * 2 ^ (4 * n) + last * 2 ^ (8 * 508),
    bs.foldl (fun fl b => fl ||| b.2.2) 0)

/-- VQNT by target (R150 to R153). -/
def quantise (c : RndCtl) (t f : Ty) (p : Pred) (old src : Vec) : Nat × Flags :=
  match tyKind f with
  | .fp ff =>
    let n := laneCount ff.width
    let xs := (vlanes ff.width src).map ff.value
    (match t with
     | .mx4 => packBlocks n ((blocksOf 32 (n / 32) xs).map (quantMx4 c.rm ff)) 0
     | .sq4 =>
       let sup := bits old.toNat (8 * 508) 32
       packBlocks n ((blocksOf 64 (n / 64) xs).map (quantSq4 sup ff)) sup
     | _ => quantBytes c t f p old src)
  | .int _ _ => (0, 0)

/-- VQNT (R150). -/
def execVqnt (d a : Reg) (t f : Ty) (p : PReg) (s : State) : Host.Outcome State Fault Refusal :=
  slotExec 4 (.vqnt d a t f p)
    (onCore (fun c => let r := quantise c.rnd t f (c.rp p) (c.rv d) (c.rv a); c.enter 4 4 (.vector d) r.1 r.2)) s

/-- The exact value of packed element i of n, with the flags of its scale (R154). -/
def unpackExt (f : Ty) (n : Nat) (src : Nat) (i : Nat) : Ext × Flags :=
  let code := bits src (4 * i) 4
  match f with
  | .mx4 =>
    let sc := bits src (4 * n + 8 * (i / 32)) 8
    (match e8m0 sc with
     | .nan sg => (.nan sg, 0)
     | _ => (scaleExt (127 - (sc : Int)) (e2m1.value code), 0))
  | _ =>
    let e := sq4Scale (bits src (8 * 508) 32) (bits src (4 * n + 8 * (i / 64)) 8)
    let r := mulExt (sq4Value code) (fp32.value e.1)
    (r.1, r.2 ||| e.2)

/-- VDQNT (R150, R154). -/
def execVdqnt (d a : Reg) (t f : Ty) (p : PReg) (s : State) : Host.Outcome State Fault Refusal :=
  slotExec 4 (.vdqnt d a t f p)
    (onCore (fun c =>
      let w := (tyKind t).bits
      let n := laneCount w
      match tyKind t with
      | .fp ft =>
        let src := (c.rv a).toNat
        let rs := (List.range n).map (fun i =>
          if f.isBlock then finishOp ft c.rnd (unpackExt f n src i) else convert c.rnd t f (bits src (8 * i) 8))
        c.enterLanes 4 d p w rs
      | .int _ _ => c)) s

/-! ### Reductions and scans (R155, R156) -/

/-- Elements as reduction inputs: a masked one is excluded (R59). -/
def redInputs (g : List Bool) (xs : List Nat) : List RedVal := List.zipWith (fun b x => if b then some (x, 0) else none) g xs

/-- A reduced value in a scalar register (R155). -/
def redScalar (t : RedTy) (v : Nat) : Word := match t with | .int i => extendInt i v | .fp _ => BitVec.ofNat 64 v

/-- VRED (R155). -/
def execVred (d a : Reg) (r : Rop) (p : PReg) (t : RedTy) (s : State) : Host.Outcome State Fault Refusal :=
  slotExec 4 (.vred d a r p t)
    (onCore (fun c =>
      let w := redTyBits t
      let x := (redTree (redOp c.rnd r t) (Nat.log2 (laneCount w)) (redInputs (governs w (c.rp p)) (vlanes w (c.rv a)))).getD (redIdentity r t, 0)
      c.enter 4 6 (.scalar d) (redScalar t x.1).toNat x.2)) s

/-- VSCAN (R156). -/
def execVscan (d a : Reg) (r : Rop) (p : PReg) (t : RedTy) (e : Bool) (s : State) : Host.Outcome State Fault Refusal :=
  slotExec 4 (.vscan d a r p t e)
    (onCore (fun c =>
      let w := redTyBits t
      let incl := scanIncl (redOp c.rnd r t) [] (redInputs (governs w (c.rp p)) (vlanes w (c.rv a)))
      let vals := (if e then none :: incl.dropLast else incl).map (fun x => x.getD (redIdentity r t, 0))
      c.enterLanes 6 d p w vals)) s

/-! ### Lanes and scalars (R157, R158) -/

/-- VPERM (R157). -/
def execVperm (d a b : Reg) (p : PReg) (t : IntTy) (s : State) : Host.Outcome State Fault Refusal :=
  slotExec 4 (.vperm d a b p t)
    (onCore (fun c =>
      let w := intTyBits t
      c.enterLanes 2 d p w (plainLanes ((vlanes w (c.rv b)).map (fun i => lane w (c.rv a) (i % laneCount w)))))) s

/-- VBCST (R157). -/
def execVbcst (d a : Reg) (p : PReg) (t : IntTy) (s : State) : Host.Outcome State Fault Refusal :=
  slotExec 4 (.vbcst d a p t)
    (onCore (fun c =>
      let w := intTyBits t
      c.enterLanes 2 d p w (plainLanes (List.replicate (laneCount w) ((c.rs a).toNat % 2 ^ w))))) s

/-- VIOTA (R157). -/
def execViota (d a : Reg) (p : PReg) (t : IntTy) (s : State) : Host.Outcome State Fault Refusal :=
  slotExec 4 (.viota d a p t)
    (onCore (fun c =>
      let w := intTyBits t
      c.enterLanes 2 d p w (plainLanes ((List.range (laneCount w)).map (fun i => ((c.rs a).toNat + i) % 2 ^ w))))) s

/-- VCMPR (R157). -/
def execVcmpr (d a : Reg) (p : PReg) (t : IntTy) (s : State) : Host.Outcome State Fault Refusal :=
  slotExec 4 (.vcmpr d a p t)
    (onCore (fun c =>
      let w := intTyBits t
      let kept := ((governs w (c.rp p)).zip (vlanes w (c.rv a))).filterMap (fun e => if e.1 then some e.2 else none)
      c.enterV 4 2 d (BitVec.ofNat 4096 (packLanes w kept)))) s

/-- VMOVS (R158). -/
def execVmovs (d a b : Reg) (dir : Bool) (t : IntTy) (s : State) : Host.Outcome State Fault Refusal :=
  slotExec 4 (.vmovs d a b dir t)
    (onCore (fun c =>
      let w := intTyBits t
      let i := (c.rs b).toNat % laneCount w
      if dir then c.enterV 4 2 d (setLane w (c.rv d) i (c.rs a).toNat)
      else c.enterS 4 2 d (extendInt t (lane w (c.rv a) i)))) s

/-! ### The return queue and the whey queue (R159 to R162, R165) -/

/-- trapinfo of QUEUE_ERROR in the V slot (R165). -/
def wheyInfo (why need occ cap : Nat) : Word :=
  BitVec.ofNat 64 (why * 2 ^ 56 + need % 2 ^ 16 * 2 ^ 32 + occ % 2 ^ 16 * 2 ^ 16 + cap % 2 ^ 16)

/-- VTOQ: the push lands 2 issue cycles later (R159). -/
def execVtoq (a b : Reg) (t : IntTy) (s : State) : Host.Outcome State Fault Refusal :=
  slotExec 4 (.vtoq a b t)
    (fun s =>
      let c := s.c
      let w := intTyBits t
      if 8 ≤ c.rq.length then .trap ⟨.queueError, wheyInfo 3 1 c.rq.length 8⟩
      else .ok { s with c := { c with rq := c.rq ++ [⟨extendInt t (lane w (c.rv a) ((c.rs b).toNat % laneCount w)), 2⟩] } }) s

/-- wheybase (R160). -/
def Core.wheyBase (c : Core) : Nat := bits (c.cr crWheybase).toNat 0 20
/-- wheylen (R160). -/
def Core.wheyLen (c : Core) : Nat := bits (c.cr crWheylen).toNat 0 17
/-- Capacity in entries (R160). -/
def Core.wheyCap (c : Core) : Nat := c.wheyLen / 16 - 1

/-- A field of trapinfo whose formula has a value, or, where it has none, a free value (R165, log 57). -/
def statedOr (stated : Bool) (v k : Nat) : Nat := if stated then v else (Config.openWord k).toNat % 2 ^ 16

/-- The checks of the queue at each VDEFER and VDRAIN (R160, R165). `k` names the free values of an occupancy modulo 0 and of a capacity
below 0. -/
def Core.wheyTrap (c : Core) (need k : Nat) : Option Trap :=
  if c.wheyBase % 512 ≠ 0 ∨ c.wheyLen % 512 ≠ 0 ∨ c.wheyLen < 512 ∨ 65536 < c.wheyLen then
    some ⟨.queueError, wheyInfo 2 need (statedOr (decide (c.wheyLen ≠ 0)) c.wheyOcc k) (statedOr (decide (16 ≤ c.wheyLen)) c.wheyCap k)⟩
  else if 0x100000 < c.wheyBase + c.wheyLen then some ⟨.scratchRange, addrInfo c.wheyBase⟩
  else none

/-- Offsets of n entries from an index on (R160). -/
def Core.wheyOffs (c : Core) (i n : Nat) : List Nat := (List.range n).map (fun j => c.wheyBase + (i + 16 * j) % c.wheyLen)

/-- Accesses of 16 bytes at offsets: the first bank conflict, then fills, then the first poisoned line if they are read (R144,
R161, R162); the first in ring order is reported (log 57). -/
def wheyAccess (offs : List Nat) (reads : Bool) (f : Core → Core) (s : State) : Issue :=
  match offs.find? (fun o => s.c.bankConflict o 16) with
  | some o => .trap ⟨.bankConflict, addrInfo o⟩
  | none =>
    if offs.any (fun o => s.c.needsFill o 16) then .hold { s with c := offs.foldl (fun c o => c.startFills o 16) s.c }
    else
      match offs.find? (fun o => reads && s.c.scratchPoisoned o 16) with
      | some o => .trap ⟨.poisonConsumed, addrInfo o⟩
      | none => .ok { s with c := f s.c }

/-- An entry of the whey queue (R160, R161). -/
def wheyEntry (i n : Nat) (x y z : Vec) : Nat :=
  i + (if 1 ≤ n then lane 32 x i * 2 ^ 32 else 0) + (if 2 ≤ n then lane 32 y i * 2 ^ 64 else 0) +
    (if 3 ≤ n then lane 32 z i * 2 ^ 96 else 0)

/-- VDEFER after its common checks (R161); a line that its entries write whole loses its poison (R127). -/
def vdeferBody (a b e : Reg) (p : PReg) (n : Fin 4) (s : State) : Issue :=
  let c := s.c
  let on := (List.range 128).filter (fun i => (c.rp p).getLsbD (4 * i))
  let k := on.length
  match c.wheyTrap k s.freeCtr with
  | some t => .trap t
  | none =>
    if c.wheyCap < c.wheyOcc + k then .trap ⟨.queueError, wheyInfo 1 k c.wheyOcc c.wheyCap⟩
    else
      let offs := c.wheyOffs c.wi.toNat k
      wheyAccess offs false (fun c =>
        let c' := (offs.zip on).foldl (fun c oi => c.scratchPut oi.1 16 (wheyEntry oi.2 n.val (c.rv a) (c.rv b) (c.rv e))) c
        { c' with
          wi := BitVec.ofNat 16 ((c.wi.toNat + 16 * k) % c.wheyLen)
          poison := c'.poison.filter (fun l => !(List.range 4).all (fun j => decide (64 * l + 16 * j ∈ offs))) }) s

/-- VDEFER (R161). -/
def execVdefer (a b e : Reg) (p : PReg) (n : Fin 4) (s : State) : Host.Outcome State Fault Refusal :=
  slotExec 4 (.vdefer a b e p n) (vdeferBody a b e p n) s

/-- The writes of a VDRAIN of m entries (R162). -/
def Core.drainEnter (c : Core) (d sc : Reg) (p : PReg) (n m : Nat) (es : List Nat) : Core :=
  let c := c.enterS 4 6 sc (BitVec.ofNat 64 m)
  let c := c.enterP 4 6 p (BitVec.ofNat 512 (2 ^ (4 * m) - 1))
  if m = 0 then c
  else
    (List.range (n + 1)).foldl (fun c k =>
      c.enterV 4 6 (Fin.ofNat 32 (d.val + k)) (BitVec.ofNat 4096 (packLanes 32 (es.map (fun e => bits e (32 * k) 32))))) c

/-- VDRAIN after its common checks (R162). -/
def vdrainBody (d sc : Reg) (p : PReg) (l : Bool) (n : Fin 4) (s : State) : Issue :=
  let c := s.c
  match c.wheyTrap 0 s.freeCtr with
  | some t => .trap t
  | none =>
    let m := c.drainCount l
    let offs := c.wheyOffs c.ri.toNat m
    wheyAccess offs true (fun c =>
      let es := offs.map (fun o => c.scratchRead o 16)
      { c.drainEnter d sc p n.val m es with ri := BitVec.ofNat 16 ((c.ri.toNat + 16 * m) % c.wheyLen) }) s

/-- VDRAIN (R162). -/
def execVdrain (d sc : Reg) (p : PReg) (l : Bool) (n : Fin 4) (s : State) : Host.Outcome State Fault Refusal :=
  slotExec 4 (.vdrain d sc p l n) (vdrainBody d sc p l n) s

/-! ### The streaming reduction (R163, R164) -/

/-- The identity in every lane (R59, R163). -/
def identityVec (r : Rop) (t : RedTy) : Vec :=
  BitVec.ofNat 4096 (packLanes (redTyBits t) (List.replicate (laneCount (redTyBits t)) (redIdentity r t)))

/-- VSRED at issue (R163). -/
def vsredBody (d a b : Reg) (r : Rop) (t : RedTy) (s : State) : Issue :=
  let c := s.c
  let off := (c.rs a).toNat
  let n := (c.rs b).toNat
  if off % 512 ≠ 0 then .trap ⟨.misaligned, addrInfo off⟩
  else if 0x100000 < off + 512 * n then .trap ⟨.scratchRange, addrInfo off⟩
  else .ok { s with c := { c with stream := some ⟨s.word, d, r, t, off, n, identityVec r t, 0, c.rnd, 0, c.age⟩ } }

/-- VSRED (R163). -/
def execVsred (d a b : Reg) (r : Rop) (t : RedTy) (s : State) : Host.Outcome State Fault Refusal :=
  slotExec 4 (.vsred d a b r t) (vsredBody d a b r t) s

/-- A VSRED that has read its last vector delivers its result (R163). -/
def Core.streamEnd (c : Core) (t : Stream) : Core :=
  if t.done < t.count then { c with stream := some t }
  else
    let w := redTyBits t.ty
    let x := (redTree (redOp t.rnd t.rop t.ty) (Nat.log2 (laneCount w)) ((vlanes w t.acc).map (fun v => some (v, 0)))).getD (0, 0)
    ((({ c with stream := none } : Core).clearProg 40 16).writeV t.dest (BitVec.ofNat 4096 x.1)).setFlags (t.flags ||| x.2)

/-- The next vector of a streaming reduction (R163, R164). POISON_CONSUMED reports the offset of the vector, whichever of its lines is
poisoned, the model's choice (log 27). -/
def Core.streamStep (c : Core) (t : Stream) : Core :=
  let off := t.addr + 512 * t.done
  if t.count ≤ t.done then c.streamEnd t
  else if c.bankConflict off 512 then c.addFault 4 ⟨.bankConflict, addrInfo off⟩
  else if c.needsFill off 512 then
    match c.badFill off 512 with
    | some f => (c.clearBad off 512).addFault 4 f
    | none => c.startFills off 512
  else if c.scratchPoisoned off 512 then c.addFault 4 ⟨.poisonConsumed, addrInfo off⟩
  else
    let w := redTyBits t.ty
    let rs := List.zipWith (redOp t.rnd t.rop t.ty) (vlanes w t.acc) (lanesOf w (laneCount w) (c.scratchRead off 512))
    c.streamEnd { t with
      acc := BitVec.ofNat 4096 (packLanes w (rs.map (·.1))), flags := rs.foldl (fun f r => f ||| r.2) t.flags, done := t.done + 1 }

/-- The scatter or gather of the same bundle or an earlier one is performed before a vector is read (R144). -/
def Core.gatherFirst (c : Core) (t : Stream) : Bool := match c.gather with | some g => decide (g.age ≤ t.age) | none => false

/-- VSRED_VECTOR_READ (R144, R163): nothing is read while a fault waits for its boundary, nor once a save has stopped it (R164). -/
def execVsredVectorRead (k : CoreId) (s : State) : Host.Outcome State Fault Refusal :=
  .next (match (s.core k).stream with
    | some t =>
      if (s.core k).due.isEmpty && (s.core k).saving.isNone && decide ((s.core k).freeze = 0) && !(s.core k).gatherFirst t then
        s.setCore ((s.core k).streamStep t)
      else s
    | none => s)

end Sys2Proof.Machine
end

