-- ==== Sys2Proof/Machine/Weights.lean ====
section
/-! DEFINITION. Reads of the weight store: units and their remapping (R379, R380, R382), decryption at the port (R345), who may
read a segment (R347) and the readers of a weight set (R252). -/

namespace Sys2Proof.Machine

/-- A unit that nothing has written (R380). -/
def WUnit.fresh : WUnit := ⟨0, 0, false⟩

/-- A segment that belongs to no world (R345). -/
def Seg.fresh : Seg := ⟨0, 0, 0, 0, false, 0⟩

/-- A weight set without grants or readers (R252, R347). -/
def WSet.fresh : WSet := ⟨0, [], 0⟩

/-- A segment's entry. -/
def WStore.seg (w : WStore) (n : Nat) : Seg := look Seg.fresh w.segs n

/-- Where spare i lies: a dedicated area, or after a conversion a unit of the segment that has the role spare (R379). -/
def WStore.spareUnit (w : WStore) (i : Nat) : Nat :=
  if i < 1024 then 2 ^ 21 + i
  else match w.segs.find? (fun e => decide (e.2.role = 2)) with
    | some e => 1024 * e.1 + (i - 1024)
    | none => 2 ^ 21 + i

/-- A remap entry as (state, unit): read from its first copy, or from the second where that one is in error (R382). -/
def WStore.entry (w : WStore) (i : Nat) : Nat × Nat :=
  look (if i < 1024 ∨ w.converted then (0, 0) else (3, 0)) (if (i, 0) ∈ w.badCopies then w.mirror else w.remap) i

/-- The spare that serves a unit, if one does (R382). -/
def WStore.serving (w : WStore) (u : Nat) : Option Nat :=
  ((w.remap ++ w.mirror).find? (fun e => decide (w.entry e.1 = (1, u)))).map (·.1)

/-- Where a unit is served from (R380, R382). -/
def WStore.place (w : WStore) (u : Nat) : Nat :=
  match w.serving u with
  | some i => w.spareUnit i
  | none => u

/-- A unit as the medium holds it. -/
def WStore.unit (w : WStore) (u : Nat) : WUnit := look WUnit.fresh w.units (w.place u)

/-- The keystream of a unit: AES-256 over the counter blocks of R345, high byte first. -/
def unitStream (key : BitVec 256) (cl core u : Nat) (seq : Word) : Nat :=
  natOfLE ((List.range 4).flatMap (fun j =>
    aesEncrypt (natBytes 32 key.toNat)
      (natBytesBE 16 (seq.toNat * 2 ^ 64 + cl % 32 * 2 ^ 59 + core % 64 * 2 ^ 53 + (4 * u + j) % 2 ^ 22 * 2 ^ 31))))

/-- The 64 plain bytes of a weight unit (R345). -/
def State.wsPlain (s : State) (k : CoreId) (u : Nat) : Nat :=
  let w := (s.core k).ws
  let x := w.unit u
  x.data.toNat ^^^ unitStream (s.key (w.seg (u / 1024)).slot).key (clusterOf k) (coreNumber k) u x.seq

/-- n bytes of the weight store at an offset, both multiples of 64, as lists of 64-byte units. -/
def State.wsRead (s : State) (k : CoreId) (off n : Nat) : List Nat := (List.range (n / 64)).map (fun i => s.wsPlain k (off / 64 + i))

/-- A task may read a segment: role weights, its world, its measurement granted, its slot an Active one of that world (R342, R347, R379). -/
def State.segReadable (s : State) (t : Task) (g : Seg) : Bool :=
  decide (g.role = 0) && decide (g.wld = (s.ctx t.ctx).wld) &&
    decide ((s.key g.slot).st = 1 ∧ (s.key g.slot).kind = 3 ∧ (s.key g.slot).wld = (s.ctx t.ctx).wld) &&
    (match t.meas with
     | some m => decide (m ∈ (look WSet.fresh s.wsets g.wset).grants)
     | none => false)

/-- Segments that n bytes touch. -/
def segsOf (off n : Nat) : List Nat := (List.range ((off + n - 1) / 65536 - off / 65536 + 1)).map (· + off / 65536)

/-- The checks of a weight-store read of n bytes at issue (R174, R347). -/
def State.wsTrap (s : State) (off n : Nat) : Option Trap :=
  if off % 512 ≠ 0 then some ⟨.misaligned, addrInfo off⟩
  else if 0x4000000 < off + n then some ⟨.scratchRange, addrInfo off⟩
  else
    match s.c.task with
    | none => some ⟨.compartment, addrInfo off⟩
    | some t =>
      match (segsOf off n).find? (fun g => !s.segReadable t (s.c.ws.seg g)) with
      | some g => some ⟨.compartment, addrInfo (Nat.max off (65536 * g))⟩
      | none => none

/-- The journal unit is in the middle of a form (R386). -/
def WStore.running (w : WStore) : Bool := decide (w.pos ≠ 0 ∨ w.tries ≠ 0)

/-- Reads of a set wait on this store: an apply is in progress, or one has ended short of its publication (R252, R387). -/
def WStore.holds (w : WStore) (wset : Nat) : Bool := decide (w.applying = some wset) || (w.worn && decide (w.jnl.wset = wset))

/-- An apply in progress on this core, or one that ended there with WEAR_OUT, holds reads of its set (R252, R387). A WJA's apply that runs
on any core holds the read by which a task would become a reader of the set, since none publishes while a task is one (R252); the
roll-forward of a worn store does not, as the set's other cores go on serving what they have published (R388). -/
def State.wsHeld (s : State) (off n : Nat) : Bool :=
  let sets := match s.c.task with | some t => t.sets | none => []
  (segsOf off n).any (fun g =>
    let w := (s.c.ws.seg g).wset
    s.c.ws.holds w ||
      (decide (w ∉ sets) && s.others.any (fun e => e.2.ws.running && !e.2.ws.worn && decide (e.2.ws.applying = some w))))

/-- A task becomes a reader of the sets it reads (R252). -/
def State.wsRegister (s : State) (off n : Nat) : State :=
  (segsOf off n).foldl (fun s g =>
    match s.c.task with
    | none => s
    | some t =>
      let w := (s.c.ws.seg g).wset
      if w ∈ t.sets then s
      else
        let e := look WSet.fresh s.wsets w
        { s with
          c := { s.c with task := some { t with sets := w :: t.sets } }
          wsets := put s.wsets w { e with readers := e.readers + 1 } }) s

/-- The first unit of n bytes that is uncorrectable (R380). -/
def Core.wsBad (c : Core) (off n : Nat) : Option Nat :=
  ((List.range (ceilDiv n 64)).find? (fun i => (c.ws.unit (off / 64 + i)).bad)).map (fun i => 64 * (off / 64 + i))

end Sys2Proof.Machine
end

