-- ==== Sys2Proof/Machine/Matrix.lean ====
section
/-! DEFINITION. The M and F slots (R166 to R186): checks and capture at issue, the steps of the two units in issue cycles, the
sums of R53 to R58, and what each form writes when it completes. -/

namespace Sys2Proof.Machine

/-! ### Tiles as rows (R169) -/

/-- The rows of a tile, 128 elements each. -/
def tileRows (t : TileBits) : List (List Nat) := (lanesOf 4096 128 t.toNat).map (lanesOf 32 128)

/-- A tile from its rows. -/
def tileOfRows (rows : List (List Nat)) : TileBits := BitVec.ofNat 524288 (packLanes 4096 (rows.map (packLanes 32)))

/-- Columns of a square of rows. -/
def columns (rows : List (List Nat)) : List (List Nat) := (List.range 128).map (fun j => rows.map (fun r => r.getD j 0))

/-- The flags of a list. -/
def joinFlags (fs : List Flags) : Flags := fs.foldl (· ||| ·) 0

/-- Elements with the flags of the steps that made them, as rows and one flag set. -/
def splitRows (rows : List (List (Nat × Flags))) : List (List Nat) × Flags :=
  (rows.map (fun r => r.map (·.1)), joinFlags (rows.map (fun r => joinFlags (r.map (·.2)))))

/-! ### Sums (R53 to R58) -/

/-- One term enters the accumulator with one rounding (R53, R55). -/
def accumulate (acc : Nat × Flags) (term : Ext × Flags) : Nat × Flags :=
  let r := finishOp fp32 rneOff (sumExt .rne [fp32.value acc.1, term.1])
  (r.1, acc.2 ||| term.2 ||| r.2)

/-- The exact sum of a group of products (R53). -/
def groupSum (ps : List (Ext × Flags)) : Ext × Flags :=
  let r := sumExt .rne (ps.map (·.1))
  (r.1, r.2 ||| joinFlags (ps.map (·.2)))

/-- Products in groups of 16 (R53). -/
def sum16 (acc : Nat × Flags) (as bs : List Ext) : Nat × Flags :=
  ((blocksOf 16 (as.length / 16) (List.zipWith mulExt as bs)).map groupSum).foldl accumulate acc

/-- The operand format of a code of fmt (R37). -/
def operandFmt : Nat → Fmt
  | 0 => bf16
  | 1 => fp16
  | 2 => e4m3
  | 3 => e5m2
  | _ => e2m1

/-- Elements of one row or column of 256 bytes in a format. -/
def rowExts (f : Fmt) (v : Nat) : List Ext := (lanesOf f.width (2048 / f.width) v).map f.value

/-- An INT8 dot product added modulo 2^32 (R54). -/
def int8Dot (acc a b : Nat) : Nat :=
  intBits 32 ((List.zipWith (fun x y => intValue true 8 x * intValue true 8 y) (lanesOf 8 256 a) (lanesOf 8 256 b)).foldl (· + ·) acc)

/-- A block's sum under its two E8M0 scales (R43, R55). -/
def mxTerm (x : Ext × Flags) (sa sb : Nat) : Ext × Flags :=
  if sa = 255 ∨ sb = 255 then (.nan false, x.2) else (scaleExt (254 - (sa : Int) - sb) x.1, x.2)

/-- An MXFP4 element: blocks of 32 with the scales of its row and column (R55, R171). -/
def mxDot (acc a b : Nat) (sa sb : Nat → Nat) : Nat × Flags :=
  let ps := List.zipWith mulExt (rowExts e2m1 a) (rowExts e2m1 b)
  ((blocksOf 32 16 ps).zipIdx.map (fun g => mxTerm (groupSum g.1) (sa g.2) (sb g.2))).foldl accumulate (acc, 0)

/-- A block's sum under its effective scale (R44, R55); a zero block contributes +0 (R44, R173). -/
def sqTerm (x : Ext × Flags) (sup q : Nat) : Ext × Flags :=
  let e := sq4Scale sup q
  let y := mulExt x.1 (fp32.value e.1)
  (if q = 0 ∧ y.1.isZero then .zero else y.1, x.2 ||| y.2 ||| e.2)

/-- An SQ4 element: two blocks of 64 with the effective scales of its column (R44, R55). -/
def sqDot (acc a b sup : Nat) (q : Nat → Nat) : Nat × Flags :=
  let ps := List.zipWith mulExt (rowExts bf16 a) ((lanesOf 4 128 b).map sq4Value)
  ((blocksOf 64 2 ps).zipIdx.map (fun g => sqTerm (groupSum g.1) sup (q g.2))).foldl accumulate (acc, 0)

/-- A pass of A x B (R176). `h` is the half of the latches in use. -/
def passRows (cap : MCapture) (h : Nat) (acc : List (List Nat)) (as bs : List Nat) : List (List (Nat × Flags)) :=
  let af := bits cap.fmt.toNat 0 3
  let bf := bits cap.fmt.toNat 3 3
  let sup := bits cap.slq.toNat (8 * 256) 32
  (acc.zip as).zipIdx.map (fun r => (r.1.1.zip bs).zipIdx.map (fun e =>
    let i := r.2
    let j := e.2
    let a := r.1.2
    let b := e.1.2
    if af = 4 then (int8Dot e.1.1 a b, 0)
    else if af = 5 then
      mxDot e.1.1 a b (fun k => bits cap.sla.toNat (8 * (2048 * h + 16 * i + k)) 8) (fun k => bits cap.slb.toNat (8 * (2048 * h + 16 * j + k)) 8)
    else if bf = 6 then sqDot e.1.1 a b sup (fun k => bits cap.slq.toNat (8 * (2 * j + k)) 8)
    else sum16 (e.1.1, 0) (rowExts (operandFmt af) a) (rowExts (operandFmt bf) b)))

/-- The parts of a feedback operand (R57, R58). An operand that does not come from a tile is taken whole (R180). -/
structure Parts where
  h : Ext
  m : Ext
  l : Ext
  deriving DecidableEq, Repr

/-- A value rounded to BF16, without flags. -/
def toBf16 (x : Ext) : Ext := bf16.value (deliver bf16 rneOff x).1

/-- The form of a feedback operand under `fb` (R57, R58). -/
def feedParts (fb : Bool) (v : Nat) : Parts :=
  let x := fp32.value v
  let h := toBf16 x
  if !fb || x.isNaN || x.isInf then ⟨h, .zero, .zero⟩
  else
    let h := if h.isInf then bf16.value (bf16.signed x.isNeg bf16.maxFinite) else h
    let r := (sumExt .rne [x, h.negate]).1
    let m := toBf16 r
    ⟨h, m, toBf16 (sumExt .rne [r, m.negate]).1⟩

/-- An operand that does not come from a tile (R180). -/
def wholeParts (v : Nat) : Parts := ⟨fp32.value v, .zero, .zero⟩

/-- The products of one k in a pass: pass 0 is h x h, 1 the middle terms, 2 the smallest (R58). -/
def feedTerms (pass : Nat) (x y : Parts) : List (Ext × Flags) :=
  if pass = 2 then [mulExt x.h y.l, mulExt x.l y.h, mulExt x.m y.m]
  else if pass = 1 then [mulExt x.h y.m, mulExt x.m y.h]
  else [mulExt x.h y.h]

/-- An element of a product on the feedback path (R57, R58, R180). -/
def feedDot (fb : Bool) (acc : Nat) (xs ys : List Parts) : Nat × Flags :=
  (if fb then [2, 1, 0] else [0]).foldl (fun a pass =>
    ((blocksOf 16 8 (xs.zip ys)).map (fun g => groupSum (g.flatMap (fun p => feedTerms pass p.1 p.2)))).foldl accumulate a) (acc, 0)

/-- A product of tiles added to an accumulator (R180). -/
def feedRows (fb : Bool) (acc : List (List Nat)) (xs ys : List (List Parts)) : List (List (Nat × Flags)) :=
  List.zipWith (fun row x => List.zipWith (fun a y => feedDot fb a x y) row ys) acc xs

/-- Rows of a tile of one value on the diagonal and +0 elsewhere (R181). -/
def diagRows (v : Nat) : List (List Nat) := (List.range 128).map (fun i => (List.range 128).map (fun j => if i = j then v else 0))

/-- Rows of +0. -/
def zeroRows : List (List Nat) := List.replicate 128 (List.replicate 128 0)

/-- A sum by the tree of R59, rounding by RNE (R62). -/
def sumTree (xs : List (Nat × Flags)) : Nat × Flags := (redTree (fun x y => fpAdd fp32 rneOff x y) 7 (xs.map some)).getD (0, 0)

/-- The Frobenius norm (R62). -/
def frobenius (rows : List (List Nat)) : Nat × Flags :=
  let s := sumTree (rows.map (fun r => sumTree (r.map (fun x => fpMul fp32 rneOff x x))))
  let q := fpSqrt fp32 rneOff s.1
  (q.1, s.2 ||| q.2)

/-- Elementwise values of rows with the element's place on the diagonal, one rounding each (R183). -/
def eachRounded (rows : List (List Nat)) (f : Bool → Nat → List (Ext × Flags)) : List (List (Nat × Flags)) :=
  rows.zipIdx.map (fun r => r.1.zipIdx.map (fun e =>
    let ts := f (decide (r.2 = e.2)) e.1
    let x := finishOp fp32 rneOff (sumExt .rne (ts.map (·.1)))
    (x.1, x.2 ||| joinFlags (ts.map (·.2)))))

/-! ### At issue (R168, R174, R175) -/

/-- What an M-slot word captures (R168). -/
def Core.capture (c : Core) : MCapture :=
  { fmt := BitVec.ofNat 10 (c.cr crFmt).toNat
    sla := c.sla
    slb := c.slb
    slq := c.slq
    icaptrap := (c.cr crCorecfg).getLsbD 1
    mco := Vector.ofFn (fun i => c.cr (Fin.ofNat 96 (crMco.val + i.val)))
    mcap := c.cr crMcap
    mtol := c.cr crMtol
    mdiv := c.cr crMdiv }

/-- Operand formats of a capture (R37). -/
def MCapture.afmt (m : MCapture) : Nat := bits m.fmt.toNat 0 3
/-- `bfmt` -/
def MCapture.bfmt (m : MCapture) : Nat := bits m.fmt.toNat 3 3
/-- `fb` -/
def MCapture.fb (m : MCapture) : Bool := m.fmt.getLsbD 9
/-- The INT8 pair (R39). -/
def MCapture.int8 (m : MCapture) : Bool := decide (m.afmt = 4) && decide (m.bfmt = 4)

/-- Issue cycles of a product (R166). -/
def MCapture.productTime (m : MCapture) : Nat := if m.fb then 384 else 128

/-- A scratchpad region of an M or F word: alignment, range, one group (R173 to R175, R178). -/
def regionTrap (off n : Nat) : Option Trap :=
  if off % 512 ≠ 0 then some ⟨.misaligned, addrInfo off⟩
  else if 0x100000 < off + n then some ⟨.scratchRange, addrInfo off⟩
  else if off / 2 ^ 18 ≠ (off + n - 1) / 2 ^ 18 then some ⟨.bankConflict, addrInfo off⟩
  else none

/-- A region that must lie in a given group (R175). -/
def groupTrap (off n g : Nat) : Option Trap :=
  match regionTrap off n with
  | some t => some t
  | none => if off / 2 ^ 18 = g then none else some ⟨.bankConflict, addrInfo off⟩

/-- An instruction enters the array (R166). -/
def State.startArray (s : State) (i : Instr) (a b : Nat) (p : Pred) (total : Nat) (bRows : List Nat) : State :=
  { s with c := { s.c with array := some ⟨s.word, i, a, b, p, s.c.capture, 0, 0, 0, total, [], bRows, 0, s.c.age, s.c.tiles⟩ } }

/-- Regions within windows are filled before the bundle issues (R122, R225). -/
def withFill (rs : List (Nat × Nat)) (f : State → Issue) (s : State) : Issue :=
  if rs.any (fun r => s.c.needsFill r.1 r.2) then
    .hold { s with c := rs.foldl (fun c r => c.startFills r.1 r.2) s.c }
  else f s

/-- An M word without scratchpad operands. -/
def plainArray (i : Instr) (b : Nat) (total : Nat) (s : State) : Issue := .ok (s.startArray i 0 b 0 total [])

/-- MZERO (R177). -/
def execMzero (t : TileNo) (s : State) : Host.Outcome State Fault Refusal := slotExec 5 (.mzero t) (plainArray (.mzero t) 0 1) s

/-- MLOAD at issue (R177). -/
def mloadBody (t : TileNo) (a : Reg) (s : State) : Issue :=
  let off := (s.c.rs a).toNat
  match regionTrap off 65536 with
  | some x => .trap x
  | none => withFill [(off, 65536)] (fun s => .ok (s.startArray (.mload t a) off 0 0 128 [])) s

/-- MLOAD (R177). -/
def execMload (t : TileNo) (a : Reg) (s : State) : Host.Outcome State Fault Refusal := slotExec 5 (.mload t a) (mloadBody t a) s

/-- Bytes of an MLDW or of a B operand: an SQ4 pass is a quarter as long (R170, R174). -/
def passBytes (sq4 : Bool) : Nat := if sq4 then 8192 else 32768

/-- MLDW at issue (R174). -/
def mldwBody (w : Fin 2) (f : Bool) (a : Reg) (s : State) : Issue :=
  let off := (s.c.rs a).toNat
  let sq := decide (s.c.capture.bfmt = 6)
  let n := passBytes sq
  if f then
    match regionTrap off n with
    | some x => .trap x
    | none => withFill [(off, n)] (fun s =>
        .ok { s with c := { s.c with loader := some ⟨s.word, w, true, off, sq, 0, [], s.c.age⟩ } }) s
  else
    match s.wsTrap off n with
    | some x => .trap x
    | none =>
      if s.wsHeld off n then .hold s
      else
        let rows := s.wsRead s.c.id off n
        let s := s.wsRegister off n
        .ok { s with c := { s.c with loader := some ⟨s.word, w, false, off, sq, 0, rows, s.c.age⟩ } }

/-- MLDW (R174). -/
def execMldw (w : Fin 2) (f : Bool) (a : Reg) (s : State) : Host.Outcome State Fault Refusal :=
  slotExec 5 (.mldw w f a) (mldwBody w f a) s

/-- The operand pairs of R39. -/
def pairOk (a b : Nat) : Bool :=
  (decide (a = 0) && (decide (b = 0) || decide (b = 6))) || (decide (a = 1) && decide (b = 1)) ||
    ((decide (a = 2) || decide (a = 3)) && (decide (b = 2) || decide (b = 3))) ||
    (decide (a = 4) && decide (b = 4)) || (decide (a = 5) && decide (b = 5))

/-- MMUL at issue: the checks of R175 in their order. -/
def mmulBody (i : Instr) (a : Reg) (g : Fin 4) (b : Fin 8) (r : Reg) (s : State) : Issue :=
  let cap := s.c.capture
  let off := (s.c.rs a).toNat
  let boff := (s.c.rs r).toNat
  let n := passBytes (decide (cap.bfmt = 6))
  if !pairOk cap.afmt cap.bfmt ∨ (b.val = 2 ∧ cap.bfmt ≠ 6 ∧ cap.bfmt ≠ 5) then .trap s.illegal5
  else
    match groupTrap off 32768 g.val with
    | some x => .trap x
    | none =>
      if b.val ≤ 1 then withFill [(off, 32768)] (fun s => .ok (s.startArray i off 0 0 128 [])) s
      else if b.val = 2 then
        match s.wsTrap boff n with
        | some x => .trap x
        | none =>
          if s.wsHeld boff n then .hold s
          else withFill [(off, 32768)] (fun s =>
            let rows := (blocksOf (n / 8192) 128 (s.wsRead s.c.id boff n)).map (packLanes 512)
            .ok ((s.wsRegister boff n).startArray i off boff 0 128 rows)) s
      else
        match groupTrap boff n (b.val - 3) with
        | some x => .trap x
        | none =>
          if b.val - 3 = g.val then .trap ⟨.bankConflict, addrInfo boff⟩
          else withFill [(off, 32768), (boff, n)] (fun s => .ok (s.startArray i off boff 0 128 [])) s

/-- MMUL (R175). -/
def execMmul (t : TileNo) (a : Reg) (g : Fin 4) (b : Fin 8) (r : Reg) (s : State) : Host.Outcome State Fault Refusal :=
  slotExec 5 (.mmul t a g b r) (mmulBody (.mmul t a g b r) a g b r) s

/-- An element of a drain: copied, or converted with RNE and the captured `sat` (R178). -/
def drainElem (cap : MCapture) (ty : Ty) (x : Nat) : Nat × Flags :=
  let src : Ty := if cap.int8 then .i32 else .f32
  if ty = src then (x, 0) else convert ⟨.rne, cap.fmt.getLsbD 8⟩ ty src x

/-- Rows that a predicate enables in a drain (R178). -/
def drainRow (p : Pred) (i : Nat) : Bool := p.getLsbD (4 * i)

/-- What MDRAIN reports in tstat (R178, R179). -/
def drainStatus (cap : MCapture) (ty : Ty) (p : Pred) (t : TileBits) (f : Flags) : Nat :=
  let rows := tileRows t
  let nanr := if cap.int8 then 0 else (rows.filter (fun r => r.any (fun x => (fp32.value x).isNaN))).length
  let fl := joinFlags ((rows.zipIdx.filter (fun r => drainRow p r.2)).map (fun r => joinFlags (r.1.map (fun x => (drainElem cap ty x).2))))
  nanr * 256 + (f ||| fl).toNat

/-- Issue cycles of a drain (R166). -/
def drainTime (ty : Ty) : Nat := 32 * drainWidth ty

/-- MDRAIN at issue (R178). -/
def mdrainBody (t : TileNo) (a : Reg) (ty : Ty) (p : PReg) (clr : Bool) (s : State) : Issue :=
  let off := (s.c.rs a).toNat
  let n := 16384 * drainWidth ty
  match regionTrap off n with
  | some x => .trap x
  | none => withFill [(off, n)] (fun s =>
      let st := drainStatus s.c.capture ty (s.c.rp p) s.c.tiles[t] s.c.tflags[t]
      let s := s.startArray (.mdrain t a ty p clr) off 0 (s.c.rp p) (drainTime ty) []
      .ok { s with c := s.c.enter 5 6 (.tstat t) st 0 }) s

/-- MDRAIN (R178). -/
def execMdrain (t : TileNo) (a : Reg) (ty : Ty) (p : PReg) (clr : Bool) (s : State) : Host.Outcome State Fault Refusal :=
  slotExec 5 (.mdrain t a ty p clr) (mdrainBody t a ty p clr) s

/-- MTT (R180). -/
def execMtt (t a b : TileNo) (s : State) : Host.Outcome State Fault Refusal :=
  slotExec 5 (.mtt t a b) (plainArray (.mtt t a b) 0 s.c.capture.productTime) s

/-- MADDT (R180). -/
def execMaddt (t a b : TileNo) (s : State) : Host.Outcome State Fault Refusal :=
  slotExec 5 (.maddt t a b) (plainArray (.maddt t a b) 0 s.c.capture.productTime) s

/-- MSCL (R180). -/
def execMscl (t a : TileNo) (r : Reg) (s : State) : Host.Outcome State Fault Refusal :=
  slotExec 5 (.mscl t a r) (plainArray (.mscl t a r) (bits (s.c.rs r).toNat 0 32) 32) s

/-- MTRN (R180). -/
def execMtrn (t a : TileNo) (s : State) : Host.Outcome State Fault Refusal := slotExec 5 (.mtrn t a) (plainArray (.mtrn t a) 0 32) s

/-- MNORM (R180). -/
def execMnorm (d : Reg) (a : TileNo) (s : State) : Host.Outcome State Fault Refusal :=
  slotExec 5 (.mnorm d a) (plainArray (.mnorm d a) 0 32) s

/-- MPOLY (R181): its first step takes one issue cycle. -/
def execMpoly (t a : TileNo) (g : Fin 8) (s : State) : Host.Outcome State Fault Refusal :=
  slotExec 5 (.mpoly t a g) (fun s => if t = a then .trap s.illegal5 else plainArray (.mpoly t a g) 0 1 s) s

/-- MITER (R182): ISQRT needs two tiles; POLAR names one twice. -/
def execMiter (t a : TileNo) (m : Bool) (s : State) : Host.Outcome State Fault Refusal :=
  slotExec 5 (.miter t a m)
    (fun s => if decide (t = a) = m then .trap s.illegal5 else plainArray (.miter t a m) 0 s.c.capture.productTime s) s

/-! ### The F slot (R172, R173) -/

/-- A value that fmt may not take (R37). -/
def formatBad (v : Nat) : Bool := decide (6 ≤ bits v 0 3) || decide (bits v 3 3 = 7)

/-- FMT and FMTS: the format shadow (R172). -/
def fmtBody (v : Nat) (s : State) : Issue :=
  if formatBad v then .trap s.illegal5 else .ok { s with c := s.c.enter 6 5 (.fmt false) (bits v 0 10) 0 }

/-- FMT (R172). -/
def execFmt (f : BitVec 10) (s : State) : Host.Outcome State Fault Refusal := slotExec 6 (.fmt f) (fmtBody f.toNat) s

/-- FMTS (R172). -/
def execFmts (a : Reg) (s : State) : Host.Outcome State Fault Refusal := slotExec 6 (.fmts a) (fmtBody (s.c.rs a).toNat) s

/-- A latch image: the checks of R173 in their order, then its entry. POISON_CONSUMED reports the region's own offset, whichever of its
lines is poisoned, the model's choice (log 27). -/
def latchBody (i : Fin 4) (n : Nat) (a : Reg) (s : State) : Issue :=
  let off := (s.c.rs a).toNat
  if off % 512 ≠ 0 then .trap ⟨.misaligned, addrInfo off⟩
  else if 0x100000 < off + n then .trap ⟨.scratchRange, addrInfo off⟩
  else if s.c.bankConflict off n then .trap ⟨.bankConflict, addrInfo off⟩
  else
    withFill [(off, n)] (fun s =>
      if s.c.scratchPoisoned off n then .trap ⟨.poisonConsumed, addrInfo off⟩
      else .ok { s with c := s.c.enter 6 3 (.latch i) (s.c.scratchRead off n) 0 }) s

/-- SLA (R173). -/
def execSla (a : Reg) (s : State) : Host.Outcome State Fault Refusal := slotExec 6 (.sla a) (latchBody 0 4096 a) s

/-- SLB (R173). -/
def execSlb (a : Reg) (s : State) : Host.Outcome State Fault Refusal := slotExec 6 (.slb a) (latchBody 1 4096 a) s

/-- SLQ (R173). -/
def execSlq (a : Reg) (s : State) : Host.Outcome State Fault Refusal := slotExec 6 (.slq a) (latchBody 2 512 a) s

/-- SLZ (R173). -/
def execSlz (s : State) : Host.Outcome State Fault Refusal := slotExec 6 .slz (onCore (fun c => c.enter 6 3 (.latch 3) 0 0)) s

/-! ### Steps of the units (R166, R185) -/

/-- Writes a tile and joins flags to its flag set. -/
def Core.putTile (c : Core) (t : TileNo) (r : List (List Nat) × Flags) : Core :=
  { c with tiles := c.tiles.set t (tileOfRows r.1), tflags := c.tflags.set t (c.tflags[t] ||| r.2) }

/-- Joins flags to a tile's flag set (R176). -/
def Core.joinTflags (c : Core) (t : TileNo) (f : Flags) : Core := { c with tflags := c.tflags.set t (c.tflags[t] ||| f) }

/-- Rows of a tile of a core. -/
def Core.rowsOf (c : Core) (t : TileNo) : List (List Nat) := tileRows c.tiles[t]

/-- Rows of a tile operand, as the tile stood when the instruction started (R168). -/
def ArrayOp.rowsOf (o : ArrayOp) (t : TileNo) : List (List Nat) := tileRows o.tiles[t]

/-- Clears the fields of prog that describe a held array instruction, those of a held MLDW left as they are (R186, R312). -/
def Core.clearArrayProg (c : Core) : Core := (c.clearProg 6 32).clearProg 39 1

/-- Scratchpad bytes that the array reads in its current cycle: offset and length (R185). -/
def ArrayOp.reads (o : ArrayOp) : List (Nat × Nat) :=
  match o.instr with
  | .mload _ _ => [(o.a + 512 * o.cyc, 512)]
  | .mmul _ _ _ b _ =>
    let n := if o.cap.bfmt = 6 then 64 else 256
    (o.a + 256 * o.cyc, 256) :: (if 3 ≤ b.val then [(o.b + n * o.cyc, n)] else [])
  | _ => []

/-- Weight-store bytes that the array reads in its current cycle (R185). -/
def ArrayOp.wsReads (o : ArrayOp) : Option (Nat × Nat) :=
  if o.streaming then
    let n := if o.cap.bfmt = 6 then 64 else 256
    some (o.b + n * o.cyc, n)
  else none

/-- The first poisoned line among n bytes, as its offset. -/
def Core.poisonAt (c : Core) (off n : Nat) : Option Nat := ((linesOf off n).find? (fun l => decide (l ∈ c.poison))).map (64 * ·)

/-- The line whose poison the array meets in its current cycle (R185); where both operands meet one, that of A (log 59). -/
def Core.arrayPoison (c : Core) (o : ArrayOp) : Option Nat :=
  match (o.reads.filterMap (fun r => c.poisonAt r.1 r.2)).head? with
  | some x => some x
  | none => match o.wsReads with | some r => c.wsBad r.1 r.2 | none => none

/-- The line whose poison the loader meets in its current cycle (R185). -/
def Core.loaderPoison (c : Core) (o : LoaderOp) : Option Nat :=
  if o.fromScratch then c.poisonAt (o.off + 512 * o.cyc) 512 else c.wsBad (o.off + 512 * o.cyc) 512

/-- ARRAY_POISON_DETECTED (R185): the unit that meets a poisoned line in this cycle stops, and its instruction ends unwritten. -/
def Core.unitPoison (c : Core) (u : MUnit) : Core :=
  match u with
  | .array =>
    match c.array with
    | some o =>
      match c.arrayPoison o with
      | some x => (({ c with array := none } : Core).addFault 5 ⟨.poisonConsumed, addrInfo x⟩).clearArrayProg
      | none => c
    | none => c
  | .loader =>
    match c.loader with
    | some o =>
      match c.loaderPoison o with
      | some x => ((({ c with loader := none } : Core).addFault 5 ⟨.poisonConsumed, addrInfo x⟩).clearProg 38 1).clearProg 0 6
      | none => c
    | none => c

/-- ARRAY_POISON_DETECTED (R185). -/
def execArrayPoisonDetected (k : CoreId) (u : MUnit) (s : State) : Host.Outcome State Fault Refusal :=
  .next (s.setCore ((s.core k).unitPoison u))

/-- A row of a drain: 128 elements at its place (R178). -/
def Core.drainRowOut (c : Core) (o : ArrayOp) (t : TileNo) (ty : Ty) (i : Nat) : Core :=
  if drainRow o.pred i then
    let z := drainWidth ty
    c.scratchPut (o.a + 128 * z * i) (128 * z) (packLanes (8 * z) (((o.rowsOf t).getD i []).map (fun x => (drainElem o.cap ty x).1)))
  else c

/-- The product of the next step of MPOLY (R181): P comes from the coefficient at first, then from the tile. -/
def Core.polyStep (c : Core) (o : ArrayOp) (t a : TileNo) (deg : Nat) : List (List (Nat × Flags)) :=
  let k := deg - 1 - o.iter
  let coef (n : Nat) : Nat := bits ((o.cap.mco.toList.getD n 0).toNat) 0 32
  let p : List (List Parts) :=
    if o.iter = 0 then (diagRows (coef deg)).map (·.map wholeParts) else (c.rowsOf t).map (·.map (feedParts o.cap.fb))
  feedRows o.cap.fb (diagRows (coef k)) p ((columns (o.rowsOf a)).map (·.map (feedParts o.cap.fb)))

/-- One issue cycle of the array (R166): what it reads or writes in that cycle. -/
def Core.arrayCycle (c : Core) (o : ArrayOp) : Core :=
  let next : ArrayOp := { o with cyc := o.cyc + 1 }
  match o.instr with
  | .mload _ _ => { c with array := some { next with aRows := o.aRows ++ [c.scratchRead (o.a + 512 * o.cyc) 512] } }
  | .mmul _ _ _ b _ =>
    let n := if o.cap.bfmt = 6 then 64 else 256
    { c with array := some { next with
        aRows := o.aRows ++ [c.scratchRead (o.a + 256 * o.cyc) 256]
        bRows := if 3 ≤ b.val then o.bRows ++ [c.scratchRead (o.b + n * o.cyc) n] else o.bRows } }
  | .mdrain t _ ty _ _ =>
    let per := 4 / drainWidth ty
    let c := (List.range per).foldl (fun c j => c.drainRowOut o t ty (per * o.cyc + j)) c
    { c with array := some next }
  | .mpoly t a g =>
    if o.cyc + 1 < o.total ∨ o.iter + o.phase = g.val then { c with array := some next }
    else if o.phase = 0 then { c with array := some { o with phase := 1, cyc := 0, total := o.cap.productTime } }
    else { c.putTile t (splitRows (c.polyStep o t a g.val)) with array := some { o with iter := o.iter + 1, cyc := 0 } }
  | _ => { c with array := some next }

/-- One issue cycle of the loader (R166). -/
def Core.loaderCycle (c : Core) (o : LoaderOp) : Core :=
  { c with loader := some { o with
      cyc := o.cyc + 1, rows := if o.fromScratch then o.rows ++ [c.scratchRead (o.off + 512 * o.cyc) 512] else o.rows } }

/-- One issue cycle of both units (R166). -/
def Core.unitCycle (c : Core) : Core :=
  let c := match c.array with | some o => c.arrayCycle o | none => c
  match c.loader with | some o => c.loaderCycle o | none => c

/-! ### Completion (R174 to R184) -/

/-- The columns of B that an MMUL uses, and the half of the scale latches (R170, R171). -/
def Core.passB (c : Core) (o : ArrayOp) (b : Fin 8) : List Nat × Nat :=
  let w := if o.cap.bfmt = 6 then 512 else 2048
  if b.val = 0 then (lanesOf w 128 c.wbuf[0].toNat, 0)
  else if b.val = 1 then (lanesOf w 128 c.wbuf[1].toNat, 1)
  else (o.bRows, 0)

/-- Clears a tile with its flag set (R177, R178). -/
def Core.clearTile (c : Core) (t : TileNo) (v : TileBits) : Core := { c with tiles := c.tiles.set t v, tflags := c.tflags.set t 0 }

/-- The product of two tiles on the feedback path (R180). -/
def tileProduct (fb : Bool) (acc : List (List Nat)) (x y : List (List Nat)) : List (List Nat) × Flags :=
  splitRows (feedRows fb acc (x.map (·.map (feedParts fb))) ((columns y).map (·.map (feedParts fb))))

/-- What an array instruction writes when it completes. -/
def Core.arrayWrite (c : Core) (o : ArrayOp) : Core :=
  let fb := o.cap.fb
  match o.instr with
  | .mzero t => (c.clearTile t 0).setCr (tstatReg t) 0
  | .mload t _ => (c.clearTile t (BitVec.ofNat 524288 (packLanes 4096 o.aRows))).setCr (tstatReg t) 0
  | .mmul t _ _ b _ => let y := c.passB o b; c.putTile t (splitRows (passRows o.cap y.2 (o.rowsOf t) o.aRows y.1))
  | .mdrain t _ _ _ clr => if clr then c.clearTile t 0 else c
  | .mtt t a b => c.putTile t (tileProduct fb zeroRows (o.rowsOf a) (o.rowsOf b))
  | .maddt t a b => c.putTile t (tileProduct fb (o.rowsOf t) (o.rowsOf a) (o.rowsOf b))
  | .mscl t a _ => c.putTile t (splitRows ((o.rowsOf a).map (·.map (fun x => fpMul fp32 rneOff x o.b))))
  | .mtrn t a => c.putTile t (columns (o.rowsOf a), 0)
  | .mnorm d a => let r := frobenius (o.rowsOf a); (c.writeS d (BitVec.ofNat 64 r.1)).joinTflags a r.2
  | .mpoly t a g =>
    if g.val = 0 then c.putTile t (diagRows (bits ((o.cap.mco.toList.getD 0 0).toNat) 0 32), 0)
    else c.putTile t (splitRows (c.polyStep o t a g.val))
  | _ => c

/-- An instruction whose phases end otherwise than by its last cycle (R184). -/
def ArrayOp.isMiter (o : ArrayOp) : Bool := match o.instr with | .miter _ _ _ => true | _ => false

/-- The array's instruction completes in its last issue cycle (R166, R186). -/
def Core.arrayEnd (c : Core) : Core :=
  match c.array with
  | some o => if o.isMiter || decide (o.cyc < o.total) then c else ({ c.arrayWrite o with array := none } : Core).clearArrayProg
  | none => c

/-- The loader's instruction completes: the buffer takes its bytes, and after an SQ4 pass the rest is 0 (R174). -/
def Core.loaderEnd (c : Core) : Core :=
  match c.loader with
  | some o =>
    if o.cyc < (if o.sq4 then 16 else 64) then c
    else
      let v := packLanes (if o.fromScratch then 4096 else 512) o.rows
      (({ c with wbuf := c.wbuf.set o.buf (BitVec.ofNat 262144 v), loader := none } : Core).clearProg 38 1).clearProg 0 6
  | none => c

/-- M_UNIT_COMPLETES (R166): a unit whose last issue cycle has passed writes its results. -/
def execMUnitCompletes (k : CoreId) (u : MUnit) (s : State) : Host.Outcome State Fault Refusal :=
  .next (s.setCore (match u with | .array => (s.core k).arrayEnd | .loader => (s.core k).loaderEnd))

/-! ### MITER (R182 to R184) -/

/-- The work tiles (R182): the lowest-numbered tiles other than those named. -/
def workTile (t a : TileNo) (n : Nat) : TileNo :=
  Fin.ofNat 4 (((List.range 4).filter (fun i => decide (i ≠ t.val ∧ i ≠ a.val))).getD n 0)

/-- trapinfo of DIVERGENCE and ITER_CAP (R184). -/
def miterInfo (it resid phase t : Nat) : Word :=
  BitVec.ofNat 64 (it % 2 ^ 16 * 2 ^ 48 + resid % 2 ^ 32 * 2 ^ 16 + phase % 8 * 2 ^ 8 + t)

/-- A tile holds a NaN or an infinity. -/
def hasSpecial (rows : List (List Nat)) : Bool := rows.any (fun r => r.any (fun x => (fp32.value x).isNaN || (fp32.value x).isInf))

/-- The end of a phase that writes a tile: DIVERGENCE if it wrote a NaN or an infinity, else the next phase (R184). -/
def Core.miterWrite (c : Core) (o : ArrayOp) (t : TileNo) (dst : TileNo) (r : List (List Nat) × Flags) (next : ArrayOp) : Core :=
  let c := c.putTile dst r
  if hasSpecial r.1 then
    (({ c with array := none } : Core).addFault 5 ⟨.divergence, miterInfo o.iter o.resid o.phase t.val⟩).clearArrayProg
  else { c with array := some next }

/-- The stop of a MITER: its status lands, and ITER_CAP follows where it was asked for (R184). -/
def Core.miterStop (c : Core) (o : ArrayOp) (t : TileNo) (r : Nat) (capped : Bool) : Core :=
  let old := (c.cr (tstatReg t)).toNat
  let st := bits old 0 7 + capped.toNat * 2 ^ 7 + bits old 8 8 * 2 ^ 8 + r % 2 ^ 32 * 2 ^ 16 + o.iter % 2 ^ 16 * 2 ^ 48
  let c := (({ c with array := none } : Core).clearArrayProg).setCr (tstatReg t) (BitVec.ofNat 64 st)
  if capped && o.cap.icaptrap then c.addFault 5 ⟨.iterCap, miterInfo o.iter r 1 t.val⟩ else c

/-- The residual test (R184): its roundings go to tile t's flag set. -/
def Core.miterTest (c : Core) (o : ArrayOp) (t w : TileNo) (next : Nat → ArrayOp) : Core :=
  let one := fp32.value 0x3F800000
  let d := splitRows (eachRounded (c.rowsOf w) (fun dg x => [(fp32.value x, sigFlag (fp32.value x)), (if dg then one.negate else Ext.zero.negate, 0)]))
  let n := frobenius d.1
  let c := c.joinTflags t (d.2 ||| n.2)
  let r := n.1
  let low (m : Word) : Nat := bits m.toNat 0 32
  if (fp32.value r).isNaN || (fpCompare fp32 .lt (low o.cap.mdiv) r).1 then
    (({ c with array := none } : Core).addFault 5 ⟨.divergence, miterInfo o.iter r 1 t.val⟩).clearArrayProg
  else if (fpCompare fp32 .le r (low o.cap.mtol)).1 then c.miterStop o t r false
  else if o.iter = bits o.cap.mcap.toNat 0 16 then c.miterStop o t r true
  else { c with array := some (next r) }

/-- The end of a phase (R183, R184). A phase reads its tiles as they stand, with what a supervisor has written to them in the slot of a saved
task (R308): the model's choice (log 78). -/
def Core.miterEnd (c : Core) (o : ArrayOp) (t a : TileNo) (isqrt : Bool) : Core :=
  let fb := o.cap.fb
  let w1 := workTile t a 0
  let w2 := workTile t a 1
  let P := o.cap.productTime
  let go (phase total : Nat) : ArrayOp := { o with phase := phase, cyc := 0, total := total }
  let again : ArrayOp := { o with phase := 0, cyc := 0, total := P, iter := o.iter + 1 }
  let coef (n : Nat) : Ext := fp32.value (bits ((o.cap.mco.toList.getD n 0).toNat) 0 32)
  let one := fp32.value 0x3F800000
  match o.phase with
  | 0 =>
    let r := if isqrt then tileProduct fb zeroRows (c.rowsOf a) (c.rowsOf t) else tileProduct fb zeroRows (columns (c.rowsOf t)) (c.rowsOf t)
    c.miterWrite o t w1 r (go 1 32)
  | 1 => c.miterTest o t w1 (fun r => { go 2 (if isqrt then 32 else P) with resid := r })
  | 2 =>
    if isqrt then
      let r := splitRows (eachRounded (c.rowsOf w1) (fun dg x =>
        [mulExt (fp32.value 0x3FC00000) (if dg then one else .zero), mulExt (fp32.value 0xBF000000) (fp32.value x)]))
      c.miterWrite o t w1 r (go 3 P)
    else c.miterWrite o t w2 (tileProduct fb zeroRows (c.rowsOf w1) (c.rowsOf w1)) (go 3 32)
  | 3 =>
    if isqrt then c.miterWrite o t t (tileProduct fb zeroRows (c.rowsOf t) (c.rowsOf w1)) (go 4 P)
    else
      let sq := c.rowsOf w2
      let r := splitRows ((c.rowsOf w1).zipIdx.map (fun row => row.1.zipIdx.map (fun e =>
        let ts := [mulExt (coef 0) (if row.2 = e.2 then one else .zero), mulExt (coef 1) (fp32.value e.1),
          mulExt (coef 2) (fp32.value ((sq.getD row.2 []).getD e.2 0))]
        let x := finishOp fp32 rneOff (sumExt .rne (ts.map (·.1)))
        (x.1, x.2 ||| joinFlags (ts.map (·.2))))))
      c.miterWrite o t w1 r (go 4 P)
  | _ =>
    if isqrt then c.miterWrite o t a (tileProduct fb zeroRows (c.rowsOf w1) (c.rowsOf a)) again
    else c.miterWrite o t t (tileProduct fb zeroRows (c.rowsOf t) (c.rowsOf w1)) again

/-- MITER_PHASE_END (R184): nothing before the last issue cycle of the phase. Before a first residual the residual field of
trapinfo is not stated. -/
def execMiterPhaseEnd (k : CoreId) (s : State) : Host.Outcome State Fault Refusal :=
  .next (
    let c := s.core k
    match c.array with
    | some o =>
      (match o.instr with
       | .miter t a m =>
         if o.cyc < o.total then s
         else
           let first := decide (o.phase = 0) && decide (o.iter = 0)
           s.setCore (c.miterEnd (if first then { o with resid := (Config.openWord s.freeCtr).toNat } else o) t a m)
       | _ => s)
    | none => s)

end Sys2Proof.Machine
end

