-- ==== Sys2Proof/Machine/Async.lean ====
section
/-! DEFINITION. Commands (R187 to R202, R210, R212 to R215): their checks at issue, their boxes, engine faults, windows and their
fills, cancellation, hints and black-box events. The work of the stream and journal forms stands in Stream and Journal. -/

namespace Sys2Proof.Machine

/-! ### Commands of a task, resident or saved (R224, R229, R314) -/

/-- The commands of the owner of a register space. -/
def State.cmdsAt (s : State) (r : TaskRef) : List Cmd :=
  match r with
  | .core k => (s.core k).cmds
  | .slot ctx addr => match s.saved? ctx addr with | some v => v.cmds | none => []

/-- The command that holds a tag. -/
def State.cmdAt (s : State) (r : TaskRef) (tag : Fin 64) : Option Cmd := (s.cmdsAt r).find? (fun m => decide (m.tag = tag))

/-- Writes a field of a slot; what a slot that cannot be reached does not take is lost with it (R428). -/
def State.slotPoke (s : State) (ctx addr off n v : Nat) : State :=
  match s.slotSet ctx addr off n v with
  | .ok s' => s'
  | .error _ => s

/-- Replaces the commands of the owner of a register space; a slot keeps the count of boxes in flight (R307), and a task that is gone is
listed no longer once its commands have ended (R428). -/
def State.setCmds (s : State) (r : TaskRef) (ms : List Cmd) : State :=
  match r with
  | .core k => s.setCore { s.core k with cmds := ms }
  | .slot ctx addr =>
    let s := (s.setSaved ctx addr (fun v => { v with cmds := ms })).slotPoke ctx addr 0x7B000 8 (ms.map Cmd.inFlight).sum
    if ms.isEmpty then { s with tasks := s.tasks.filter (fun v => decide (v.state ≠ .gone ∨ v.task.ctx ≠ ctx ∨ v.task.slot ≠ addr)) } else s

/-- Replaces one command; the record of a saved one is written as well (R314). -/
def State.putCmd (s : State) (r : TaskRef) (m : Cmd) : State :=
  let s := s.setCmds r ((s.cmdsAt r).map (fun x => if x.tag = m.tag then m else x))
  match r with
  | .core _ => s
  | .slot ctx addr => s.slotPoke ctx addr (0x7C000 + 128 * m.tag.val) 128 (cmdImage m)

/-- Changes one command. -/
def State.setCmd (s : State) (r : TaskRef) (tag : Fin 64) (f : Cmd → Cmd) : State :=
  match s.cmdAt r tag with
  | some m => s.putCmd r (f m)
  | none => s

/-- The held-tag mask of a slot loses a tag whose command has ended (R187, R228, R308). -/
def State.freeTag (s : State) (r : TaskRef) (tag : Fin 64) : State :=
  match r with
  | .core _ => s
  | .slot ctx addr =>
    match s.slotField ctx addr 0x618 8 with
    | .ok v => s.slotPoke ctx addr 0x618 8 (BitVec.ofNat 64 v &&& ~~~((1 : Word) <<< tag.val)).toNat
    | .error _ => s

/-- Removes one command: its tag is free (R228). -/
def State.dropCmd (s : State) (r : TaskRef) (tag : Fin 64) : State :=
  (s.setCmds r ((s.cmdsAt r).filter (fun x => decide (x.tag ≠ tag)))).freeTag r tag

/-- tag_set: the bit of a tag, in tagbits or in the saved tagbits (R9, R229). -/
def State.tagSet (s : State) (r : TaskRef) (tag : Fin 64) : State :=
  match r with
  | .core k => s.setCore ((s.core k).setCr crTagbits ((s.core k).cr crTagbits ||| 1 <<< tag.val))
  | .slot ctx addr =>
    match s.slotField ctx addr 0x300 8 with
    | .ok v => s.slotPoke ctx addr 0x300 8 (v ||| 2 ^ tag.val)
    | .error _ => s

/-- The stores of a command's engine, and those it has observed, that are not performed everywhere (R248, R249). -/
def State.engineStores (s : State) (m : Cmd) : List Nat :=
  (s.stores.filter (fun x => decide (x.eng = some m.seq))).map (·.id) ++ (s.stale.filter (fun y => decide (y.eng = some m.seq))).map (·.id) ++
    m.seen.filter s.isPending

/-- What a command's engine has written and read counts for the later releases of its issuer (R190, R248). -/
def State.inherit (s : State) (r : TaskRef) (ids : List Nat) : State :=
  if ids.isEmpty then s
  else
    match r with
    | .core k => s.setCore ((s.core k).observe ids ((s.core k).age - 1))
    | .slot ctx addr => s.setSaved ctx addr (fun v => { v with ord := v.ord.observe ids v.newest })

/-- A command has completed: its tag is free and its bit set (R187, R228); a saved record is marked complete (R314). -/
def State.finishCmd (s : State) (r : TaskRef) (m : Cmd) : State :=
  let s := s.inherit r (s.engineStores m)
  let s := match r with
    | .core _ => s
    | .slot ctx addr => s.slotPoke ctx addr (0x7C000 + 128 * m.tag.val) 128 (cmdImage { m with done := true })
  (s.dropCmd r m.tag).tagSet r m.tag

/-- Where the owner's parties stand: the core where it is resident, or one of the cluster of a saved task (R235). -/
def State.partyAt (s : State) (r : TaskRef) : Party :=
  match r with
  | .core k => (s.core k).party
  | .slot ctx addr =>
    match s.saved? ctx addr with
    | some v => v.task.party v.cl
    | none => ⟨.task, ctx, 0, .compute 0 0⟩

/-- Accesses of a list that a command follows and that are not performed: those of its own bundle and of earlier ones (R190). -/
def Cmd.behindAccess (m : Cmd) (ops : List Ilk) : Bool :=
  ops.any (fun o => match o.kind with | .access _ none => decide (o.age ≤ m.age) | _ => false)

/-- Every store that a command's release covers is performed at a scope: those before its issue, what the accesses before it have left in
an ordering state since, its engine's, and those its engine has observed (R190, R249, R250, R253). -/
def State.cmdStoresDone (s : State) (m : Cmd) (o : Ordering) (k : CoreId) (sc : Scope) : Bool :=
  !wideScope k sc || (m.covers ++ (o.before (m.age + 1)).covered ++ s.engineStores m).all (s.performedAt k sc)

/-- A store that a command's release counts has been lost (R254): as the command knows, or as its core's ordering state does of the accesses
before it. -/
def Cmd.loses (m : Cmd) (o : Ordering) : Bool := m.lost || (o.before (m.age + 1)).lost.isSome

/-- The release of a command on behalf of its core (R187, R190, R250), or why it can never be performed. A saved task's side log and held
access are in its slot; the accesses and the side-log entries of later bundles have no part in it. -/
def State.cmdRelease (s : State) (r : TaskRef) (m : Cmd) (sc : Scope) : Except Cause Bool :=
  match r with
  | .core k =>
    let c := s.coreBefore (s.core k) (m.age + 1)
    if c.log.any (fun e => decide (e.state = 2)) then .error .releaseBlocked
    else if wideScope k sc && m.loses c.ord then .error .fenceLost
    else .ok (c.held.isNone && !m.behindAccess c.ilk && c.stq.isEmpty && c.log.isEmpty && c.gather.isNone && s.cmdStoresDone m c.ord k sc)
  | .slot ctx addr =>
    match s.saved? ctx addr, s.slotRead ctx addr with
    | some v, .ok b =>
      let log := (v.logOf (logsOf b)).filter (fun e => decide (e.access.age ≤ m.age))
      if log.any (fun e => decide (e.state = 2)) then .error .releaseBlocked
      else if wideScope m.core sc && m.loses v.ord then .error .fenceLost
      else
        .ok (log.isEmpty && !(bitAt (field b 0x620 32) 159 && decide (v.heldAge ≤ m.age)) && !m.behindAccess v.ilk &&
          v.stq.all (fun a => decide (m.age < a.age)) && !(bitAt (field b 0x310 8) 63 && decide (v.gatherAge ≤ m.age)) &&
          s.cmdStoresDone m v.ord m.core sc)
    | _, _ => .ok (s.cmdStoresDone m Ordering.none m.core sc)

/-! ### Issue (R187, R188) -/

/-- What preparing an X word gives: a state with its effects, a hold for a fill, or a trap. -/
abbrev Prep := State → Issue

/-- A local operand of n bytes at an aligned offset (R188): misaligned, out of range, a reserved group, a fill, poison; then what
follows with its bytes. -/
def localOperand (off n align : Nat) (k : Nat → Prep) : Prep := fun s =>
  if off % align ≠ 0 then .trap ⟨.misaligned, addrInfo off⟩
  else if s.c.scratchSize < off + n then .trap ⟨.scratchRange, addrInfo off⟩
  else if s.c.bankConflict off n then .trap ⟨.bankConflict, addrInfo off⟩
  else if s.c.needsFill off n then .hold { s with c := s.c.startFills off n }
  else if s.c.scratchPoisoned off n then .trap ⟨.poisonConsumed, addrInfo off⟩
  else k (s.c.scratchRead off n) s

/-- A condition that raises ILLEGAL with reason 0x05 when it fails. -/
def require (b : Bool) (k : Prep) : Prep := fun s => if b then k s else .trap s.illegal5

/-- A global address in a descriptor (R188 item 6). -/
def globalOperand (a : Nat) (k : Prep) : Prep := fun s => if 2 ^ 49 ≤ a then .trap ⟨.translation, addrInfo a⟩ else k s

/-- The first two steps of a command (R187): its order fields, and its tag. -/
def cmdStart (x : Xc) (k : Prep) : Prep := fun s =>
  if (x.sc ≠ 0 && !x.acq && !x.rel) || decide (4 < x.sc.val) || (s.c.cmds.any (fun m => decide (m.tag = x.tag))) ||
      s.c.heldTags.getLsbD x.tag.val then .trap s.illegal5
  else k s

/-- A command as it becomes outstanding: its place among the commands, the age of its bundle, and the stores before it that its release
covers (R190, R250). -/
def State.outstanding (s : State) (m : Cmd) : Cmd :=
  { m with seq := s.ids, age := s.c.age, covers := s.openStores s.c, lost := s.c.ord.lost.isSome }

/-- A command becomes outstanding; its tag bit is cleared for the next bundle (R187). -/
def addCmd (m : Cmd) : Prep := fun s =>
  .ok { s with c := ({ s.c with cmds := s.c.cmds ++ [s.outstanding m] } : Core).clearTags (1 <<< m.tag.val), ids := s.ids + 1 }

/-- A command as captured at issue, without boxes. -/
def State.cmd0 (s : State) (i : Instr) (x : Xc) (desc : Nat) : Cmd :=
  { tag := x.tag, instr := i, word := s.word, desc := desc, opA := 0, opB := 0, opB1 := 0, list := [], boxes := 0, bitmap := 0
    started := 0, fault := none, cancelled := false, done := false, seq := 0, fetched := [], told := false, core := s.c.id
    ctx := s.c.party.ctx, age := s.c.age, covers := [], seen := [], lost := false }

/-! ### Copies (R194 to R198, R202) -/

/-- A copy-like command as rows in two spaces (R192, R194). -/
structure Copy where
  src : Nat
  dst : Nat
  len : Nat
  rows : Nat
  sstr : Nat
  dstr : Nat
  sspc : Nat
  dspc : Nat
  deriving DecidableEq, Repr

/-- The copy of a descriptor (R194). -/
def copyOf (d : Nat) : Copy :=
  ⟨field d 0 8, field d 8 8, field d 16 4, field d 20 4, field d 24 8, field d 32 8, bits d 320 4, bits d 324 4⟩

/-- The copy that a command performs; XGATE moves one row between global ranges (R202). -/
def Cmd.copy (m : Cmd) : Copy :=
  match m.instr with
  | .xgate _ _ => ⟨m.d 8 8, m.d 16 8, m.d 24 4, 1, 0, 0, 2, 2⟩
  | _ => copyOf m.desc

/-- Bytes of the stream (R192). -/
def Copy.total (c : Copy) : Nat := c.len * c.rows

/-- Address of source row i; XGA takes it by index (R194, R198). -/
def Cmd.srcRow (m : Cmd) (i : Nat) : Nat :=
  let c := m.copy
  let j := match m.instr with | .xga _ _ _ => m.list.getD i 0 | _ => i
  (c.src + j * c.sstr) % 2 ^ 64

/-- Address of destination row i from a base; XSC takes it by index (R194, R197, R198). -/
def Cmd.dstRow (m : Cmd) (base i : Nat) : Nat :=
  let c := m.copy
  let j := match m.instr with | .xsc _ _ _ => m.list.getD i 0 | _ => i
  (base + j * c.dstr) % 2 ^ 64

/-- Destinations: one, or the list of XMC (R197). -/
def Cmd.dests (m : Cmd) : List Nat :=
  match m.instr with
  | .xmc _ _ _ => m.list
  | _ => [m.copy.dst]

/-- The common limits of a copy descriptor (R194): lengths, spaces, reserved bytes. -/
def copyFieldsOk (d : Nat) : Bool :=
  let c := copyOf d
  decide (1 ≤ c.len ∧ c.len ≤ 1048576 ∧ 1 ≤ c.rows ∧ c.rows ≤ 65536 ∧ c.total ≤ 1048576 ∧ c.sspc ≤ 3 ∧ c.dspc ≤ 3) &&
    decide (field d 46 2 = 0 ∧ field d 56 8 = 0)

/-- Fields that only XCPH uses are 0 (R194). -/
def noHostFields (d : Nat) : Bool := decide (field d 41 1 = 0 ∧ field d 44 2 = 0 ∧ field d 48 8 = 0)

/-- Fields that only XMC uses are 0 (R194). -/
def noMultiFields (d : Nat) : Bool := decide (field d 42 1 = 0 ∧ field d 43 1 = 0)

/-- Bytes of an element of a reduction (R197). -/
def ropBytes (rop : Nat) : Nat := if rop = 2 then 2 else 4

/-- Rows by local offset are checked against the scratchpad, and touch its windows (R194, R225). -/
def localRows (rows : List Nat) (len : Nat) (k : Prep) : Prep := fun s =>
  match rows.find? (fun a => decide (s.c.scratchSize < a + len)) with
  | some a => .trap ⟨.scratchRange, addrInfo a⟩
  | none =>
    if rows.any (fun a => s.c.needsFill a len) then .hold { s with c := rows.foldl (fun c a => c.startFills a len) s.c }
    else k s

/-- The rows of a space that is local. -/
def rowsIf (b : Bool) (n : Nat) (row : Nat → Nat) : List Nat := if b then (List.range n).map row else []

/-- The last checks of a copy, and its issue with its boxes (R188, R192, R194). -/
def copyIssue (m : Cmd) : Prep :=
  let c := m.copy
  let m := { m with boxes := ceilDiv c.total 4096 }
  let globals := (if c.sspc = 2 then [c.src] else []) ++ (if c.dspc = 2 then m.dests else [])
  fun s =>
    match globals.find? (fun a => decide (2 ^ 49 ≤ a)) with
    | some a => .trap ⟨.translation, addrInfo a⟩
    | none =>
      localRows (rowsIf (decide (c.sspc = 0)) c.rows m.srcRow ++ rowsIf (decide (c.dspc = 0)) c.rows (m.dstRow c.dst)) c.len (addCmd m) s

/-- XCP (R195). -/
def execXcp (a : Reg) (x : Xc) (s : State) : Host.Outcome State Fault Refusal :=
  slotExec 7 (.xcp a x)
    (cmdStart x (localOperand (s.c.rs a).toNat 64 64 (fun d =>
      require (copyFieldsOk d && noHostFields d && noMultiFields d && decide ((copyOf d).sspc ≠ 3 ∧ (copyOf d).dspc ≠ 3))
        (copyIssue (s.cmd0 (.xcp a x) x d))))) s

/-- The register after a scalar (R196). -/
def nextReg (r : Reg) : Reg := r + 1

/-- The check of a host-link handle for a party (R196, R339). -/
def State.linkCause (s : State) (p : Party) (kh : Nat) : Option Cause :=
  let k := s.key kh
  if k.kind ≠ 4 ∨ k.st ≠ 1 ∨ k.wld ≠ (s.ctx p.ctx).wld then some .permission
  else if k.comp ≠ p.comp then some .compartment
  else none

/-- The check of a host-link handle at issue (R196, R339). -/
def linkTrap (s : State) (kh : Nat) : Option Cause := s.linkCause s.c.party kh

/-- XCPH (R196). -/
def execXcph (a b : Reg) (x : Xc) (s : State) : Host.Outcome State Fault Refusal :=
  slotExec 7 (.xcph a b x)
    (cmdStart x (localOperand (s.c.rs a).toNat 64 64 (fun d =>
      let c := copyOf d
      let m := { s.cmd0 (.xcph a b x) x d with opB := s.c.rs b, opB1 := s.c.rs (nextReg b) }
      require (decide (b.val % 2 = 0 ∧ b.val ≤ 30) && copyFieldsOk d && noMultiFields d && !bitAt d 335 &&
          ((decide (c.sspc = 3) && (decide (c.dspc = 0) || decide (c.dspc = 2))) ||
            (decide (c.dspc = 3) && (decide (c.sspc = 0) || decide (c.sspc = 2)))) &&
          decide ((s.vf (field d 44 2)).part = some (s.partOf (clusterOf s.c.id))))
        (fun s =>
          match linkTrap s (field d 41 1) with
          | some f => .trap ⟨f, Config.openWord s.freeCtr⟩
          | none => copyIssue m s)))) s

/-- The alignment that a reduction asks of a multicast (R197). -/
def ropAligned (d : Nat) (dests : List Nat) : Bool :=
  let c := copyOf d
  let e := ropBytes (field d 42 1)
  decide (field d 42 1 = 0) ||
    (decide (c.len % e = 0 ∧ c.sstr % e = 0 ∧ c.dstr % e = 0 ∧ c.src % e = 0) && dests.all (fun x => decide (x % e = 0)))

/-- XMC (R197). -/
def execXmc (a b : Reg) (x : Xc) (s : State) : Host.Outcome State Fault Refusal :=
  slotExec 7 (.xmc a b x)
    (cmdStart x (localOperand (s.c.rs a).toNat 64 64 (fun d =>
      let c := copyOf d
      require (copyFieldsOk d && noHostFields d &&
          decide (c.dst = 0 ∧ c.dspc = 2 ∧ c.sspc ≠ 3 ∧ field d 42 1 ≤ 5 ∧ 1 ≤ field d 43 1 ∧ field d 43 1 ≤ 16))
        (localOperand (s.c.rs b).toNat (8 * field d 43 1) 64 (fun l =>
          let dests := (List.range (field d 43 1)).map (fun i => field l (8 * i) 8)
          require (ropAligned d dests) (copyIssue { s.cmd0 (.xmc a b x) x d with opB := s.c.rs b, list := dests })))))) s

/-- The rows of a gather or scatter of rows (R198). -/
def rowIndexIssue (i : Instr) (a b : Reg) (x : Xc) (s : State) : Prep :=
  cmdStart x (localOperand (s.c.rs a).toNat 64 64 (fun d =>
    let c := copyOf d
    require (copyFieldsOk d && noHostFields d && noMultiFields d && decide (c.sspc ≠ 3 ∧ c.dspc ≠ 3))
      (localOperand (s.c.rs b).toNat (4 * c.rows) 64 (fun l =>
        copyIssue { s.cmd0 i x d with opB := s.c.rs b, list := lanesOf 32 c.rows l }))))

/-- XGA (R198). -/
def execXga (a b : Reg) (x : Xc) (s : State) : Host.Outcome State Fault Refusal :=
  slotExec 7 (.xga a b x) (rowIndexIssue (.xga a b x) a b x s) s

/-- XSC (R198). -/
def execXsc (a b : Reg) (x : Xc) (s : State) : Host.Outcome State Fault Refusal :=
  slotExec 7 (.xsc a b x) (rowIndexIssue (.xsc a b x) a b x s) s

/-- A gate that nothing has declared (R348). -/
def Gate.off : Gate := ⟨0, 0, 0, 0, 0, 0, false, false, 0⟩

/-- A gate is On: both owners have declared it (R348). -/
def Gate.on (g : Gate) : Bool := g.bySrc && g.byDst && decide (g.slen ≠ 0)

/-- A gate of a world. -/
def State.gate (s : State) (wld n : Nat) : Gate := look Gate.off s.gates (wld, n)

/-- The checks of XGATE at issue (R202, R349). -/
def State.gateOk (s : State) (p : Party) (d : Nat) : Bool :=
  let g := s.gate (s.ctx p.ctx).wld (field d 0 1)
  let n := field d 24 4
  decide (field d 0 1 < 16) && g.on && decide (p.comp = g.src) &&
    decide (g.sva ≤ field d 8 8 ∧ field d 8 8 + n ≤ g.sva + g.slen ∧ g.dva ≤ field d 16 8 ∧ field d 16 8 + n ≤ g.dva + g.dlen)

/-- XGATE (R202). -/
def execXgate (a : Reg) (x : Xc) (s : State) : Host.Outcome State Fault Refusal :=
  slotExec 7 (.xgate a x)
    (cmdStart x (localOperand (s.c.rs a).toNat 64 64 (fun d =>
      require (decide (field d 1 7 = 0 ∧ field d 28 36 = 0 ∧ 1 ≤ field d 24 4 ∧ field d 24 4 ≤ 1048576))
        (globalOperand (field d 8 8) (globalOperand (field d 16 8) (fun s =>
          if s.gateOk s.c.party d then copyIssue { s.cmd0 (.xgate a x) x d with list := [(s.gate (s.ctx s.c.party.ctx).wld (field d 0 1)).epoch] } s
          else .trap (s.openTrap .compartment))))))) s

/-! ### Places of a stream (R192, R194) -/

/-- Where bytes of one line lie: a scratchpad, global memory, or a VF's host address space. -/
inductive Loc where
  | scr (k : CoreId) (off : Nat)
  | mem (x : Xlat)
  | host (a : Nat)
  deriving DecidableEq, Repr

/-- Host memory of a VF's requester (R196, R286). -/
def hostKey (vf a : Nat) : Nat := vf * 2 ^ 64 + a

/-- The party that a command acts for: its core's, in the context that the core had when it issued; a context chosen since governs later
bundles alone (R340). -/
def State.issuer (s : State) (k : CoreId) (m : Cmd) : Party := { (s.core k).party with ctx := m.ctx }

/-- The party that reads or writes for a command: XGATE reads as the source compartment and writes as the destination's (R349). -/
def State.cmdParty (s : State) (k : CoreId) (m : Cmd) (w : Bool) : Party :=
  let p := s.issuer k m
  match m.instr with
  | .xgate _ _ =>
    let g := s.gate (s.ctx p.ctx).wld (m.d 0 1)
    { p with kind := .task, comp := if w then g.dst else g.src }
  | _ => p

/-- A multicast that reduces: it reads and writes its destinations as an ATG does (R197). -/
def Cmd.reduces (m : Cmd) : Bool := match m.instr with | .xmc _ _ _ => decide (m.d 42 1 ≠ 0) | _ => false

/-- The place of an address of a command on its core (R130, R133, R194). -/
def State.place (s : State) (k : CoreId) (m : Cmd) (spc a : Nat) (w : Bool) : Except Cause Loc :=
  match spc with
  | 0 => .ok (.scr k a)
  | 1 =>
    let t := caTarget k a
    if !caValid a then .error .scratchRange
    else if t ≠ k ∧ !s.sameTask k t then .error .compartment
    else .ok (.scr t (a % 2 ^ 20))
  | 2 => (s.translate (s.cmdParty k m w) a (if !w then Need.read else if m.reduces then Need.rmw else Need.write)).map .mem
  | _ => .ok (.host (hostKey (m.d 44 2) a))

/-- n bytes at a place, and whether its line is poisoned. -/
def State.locRead (s : State) (k : CoreId) (l : Loc) (n : Nat) : Nat × Bool :=
  match l with
  | .scr t off => ((s.core t).scratchRead off n, (s.core t).scratchPoisoned off n)
  | .mem x =>
    let v := s.view (clusterOf k)
    (v.plain x.label x.pa n, x.psn || v.poisoned (x.pa / 64))
  | .host a => (s.hostRead a n, false)

/-- Poisons the line of a place, behind the stores of the cluster that are pending on it. -/
def State.locPoison (s : State) (k : CoreId) (l : Loc) : State :=
  match l with
  | .scr t off => s.setCore { s.core t with poison := insertNew (off / 64) (s.core t).poison }
  | .mem x => (s.settle (clusterOf k) (x.pa / 64 * 64) 64).poisonLine (x.pa / 64)
  | .host _ => s

/-- The engine of a command writes n bytes at a place, with the poison they carry (R191, R192). A global store is counted for the engine; to
a fenced home it is lost (R250, R254). -/
def State.locWrite (s : State) (k : CoreId) (m : Cmd) (l : Loc) (n v : Nat) (psn : Bool) : State :=
  match l with
  | .scr t off =>
    let s := s.setCore ((s.core t).scratchPut off n v)
    if psn then s.locPoison k l else s
  | .mem x => s.storeAs k (.engine m.seq) x (bytesOf n v) psn []
  | .host a => s.hostWrite a n v

/-- The line of a place and the offset in it. -/
def Loc.line (l : Loc) : Loc × Nat :=
  match l with
  | .scr t off => (.scr t (off / 64), off % 64)
  | .mem x => (.mem ⟨x.pa / 64, (0, 0), false, 0⟩, x.pa % 64)
  | .host a => (.host (a / 64), a % 64)

/-- Pieces of a stream range within one row and one line: place in the stream, address, bytes. -/
def streamParts (row : Nat → Nat) (len hi : Nat) : Nat → Nat → List (Nat × Nat × Nat)
  | 0, _ => []
  | f + 1, pos =>
    if hi ≤ pos then []
    else
      let a := (row (pos / len) + pos % len) % 2 ^ 64
      let n := Nat.min (hi - pos) (Nat.min (len - pos % len) (64 - a % 64))
      (pos, a, n) :: streamParts row len hi f (pos + n)

/-- The stream range of box b (R192). -/
def Cmd.boxRange (m : Cmd) (b : Nat) : Nat × Nat := (4096 * b, Nat.min (4096 * b + 4096) m.copy.total)

/-- The source pieces of a box. -/
def Cmd.srcParts (m : Cmd) (b : Nat) : List (Nat × Nat × Nat) :=
  streamParts m.srcRow m.copy.len (m.boxRange b).2 4096 (m.boxRange b).1

/-- The pieces of a box at a destination. -/
def Cmd.dstParts (m : Cmd) (b base : Nat) : List (Nat × Nat × Nat) :=
  streamParts (m.dstRow base) m.copy.len (m.boxRange b).2 4096 (m.boxRange b).1

/-- The engine fault of a box (R193). -/
def Cmd.boxTrap (m : Cmd) (b dix dsd a : Nat) (f : Cause) : Trap := ⟨f, engInfo m.tag.val b dix dsd a⟩

/-- Places of pieces, or the first that fails. -/
def State.places (s : State) (k : CoreId) (m : Cmd) (b dix : Nat) (w : Bool) (ps : List (Nat × Nat × Nat)) :
    Except Trap (List (Nat × Nat × Loc)) :=
  ps.mapM (fun p =>
    match s.place k m (if w then m.copy.dspc else m.copy.sspc) p.2.1 w with
    | .ok l => .ok (p.1, p.2.2, l)
    | .error f => .error (m.boxTrap b dix w.toNat p.2.1 f))

/-- A scratchpad place belongs to a core that is frozen, or to a piece that is not filled: the box waits (R36, R225). -/
def State.placesFill (s : State) (ls : List (Nat × Nat × Loc)) : Option State :=
  let bad := ls.filter (fun l => match l.2.2 with | .scr t off => (s.core t).needsFill off l.2.1 | _ => false)
  let frozen := ls.any (fun l => match l.2.2 with | .scr t _ => decide ((s.core t).freeze ≠ 0) | _ => false)
  if frozen then some s
  else if bad.isEmpty then none
  else
    some (bad.foldl (fun s l =>
      match l.2.2 with
      | .scr t off => s.setCore ((s.core t).startFills off l.2.1)
      | _ => s) s)

/-- A piece that a box waits for whose fill has failed: the fault is the engine's (R193, R225). -/
def State.placesBad (s : State) (m : Cmd) (b dsd : Nat) (ls : List (Nat × Nat × Loc)) : Option (State × Trap) :=
  ls.findSome? (fun l =>
    match l.2.2 with
    | .scr t off =>
      if (s.core t).needsFill off l.2.1 then
        ((s.core t).badFill off l.2.1).map (fun f =>
          (s.setCore ((s.core t).clearBad off l.2.1), m.boxTrap b 0 dsd (f.info.toNat % 2 ^ 49) f.cause))
      else none
    | _ => none)

/-- The bytes of a box from its source, with the stream ranges that are poisoned (R192). -/
def State.gatherBox (s : State) (k : CoreId) (lo : Nat) (ls : List (Nat × Nat × Loc)) : Nat × List (Nat × Nat) :=
  ls.foldl (fun acc l =>
    let r := s.locRead k l.2.2 l.2.1
    (acc.1 + r.1 * 256 ^ (l.1 - lo), if r.2 then (l.1, l.2.1) :: acc.2 else acc.2)) (0, [])

/-- Mask of bytes of a line. -/
def byteMask (off n : Nat) : Nat := (2 ^ n - 1) * 2 ^ off

/-- Writes a box at a destination line by line (R191): a line that the box covers whole is written whole; a line that takes
bytes of a poisoned source line is poisoned (R192). -/
def State.scatterBox (s : State) (k : CoreId) (m : Cmd) (lo v : Nat) (bad : List (Nat × Nat)) (ls : List (Nat × Nat × Loc)) : State :=
  let keys := ls.foldl (fun ks l => insertNew l.2.2.line.1 ks) []
  keys.foldl (fun s key =>
    let here := ls.filter (fun l => decide (l.2.2.line.1 = key))
    let val (l : Nat × Nat × Loc) : Nat := bits v (8 * (l.1 - lo)) (8 * l.2.1)
    let mask := here.foldl (fun m l => m ||| byteMask l.2.2.line.2 l.2.1) 0
    let psn := here.any (fun l => bad.any (fun r => overlap r.1 r.2 l.1 l.2.1))
    if mask = 2 ^ 64 - 1 then
      let x := here.foldl (fun x l => setBits x (8 * l.2.2.line.2) (8 * l.2.1) (val l)) 0
      match here.head? with
      | some ⟨_, _, .scr t off⟩ => s.locWrite k m (.scr t (off / 64 * 64)) 64 x psn
      | some ⟨_, _, .mem p⟩ => s.locWrite k m (.mem { p with pa := p.pa / 64 * 64 }) 64 x psn
      | some ⟨_, _, .host a⟩ => s.locWrite k m (.host (a / 64 * 64)) 64 x psn
      | none => s
    else here.foldl (fun s l => s.locWrite k m l.2.2 l.2.1 (val l) psn) s) s

/-- The combination of a reduction (R197): RNE, without saturation. -/
def ropApply (rop x y : Nat) : Nat :=
  match rop with
  | 1 => (fpAdd fp32 rneOff x y).1
  | 2 => (fpAdd bf16 rneOff x y).1
  | 3 => (x + y) % 2 ^ 32
  | 4 => (fpMinMax fp32 rneOff true x y).1
  | 5 => (fpMinMax fp32 rneOff false x y).1
  | _ => y

/-- Reduces a box into a destination, element by element (R197); a poisoned line stays as it is (R136). -/
def State.reduceBox (s : State) (k : CoreId) (m : Cmd) (rop lo v : Nat) (bad : List (Nat × Nat)) (ls : List (Nat × Nat × Loc)) : State :=
  let e := ropBytes rop
  ls.foldl (fun s l =>
    match l.2.2 with
    | .mem x =>
      let s := (List.range (l.2.1 / e)).foldl (fun s i =>
        let y := { x with pa := x.pa + e * i }
        let s := s.settle (clusterOf k) y.pa e
        if s.fenced y.pa then s.setCore ((s.core k).loseStore (.engine m.seq))
        else if y.psn || s.poisoned (y.pa / 64) then s
        else
          let w := bytesOf e (ropApply rop (s.plain y.label y.pa e) (bits v (8 * (l.1 - lo + e * i)) (8 * e)))
          State.acknowledge { s with ids := s.ids + 1 } ⟨s.ids, k, some m.seq, y.pa, w, y.label, false, .engine m.seq, true, []⟩) s
      if bad.any (fun r => overlap r.1 r.2 l.1 l.2.1) then s.locPoison k l.2.2 else s
    | _ => s) s

/-- The initial vector of a box (R196). -/
def Cmd.iv (m : Cmd) (b : Nat) : List Nat := natBytes 12 ((m.opB.toNat + bits m.opB1.toNat 0 32 * 2 ^ 64 + b) % 2 ^ 96)

/-- How starting a box ends: its lines have moved and its engine has observed some pending stores, it waits, or it faults. -/
inductive Moved where
  | done (s : State) (seen : List Nat)
  | wait (s : State)
  | fault (s : State) (t : Trap)
  deriving DecidableEq, Repr

/-- The stores that reading a box observes (R249): the issuing core's own pending stores are stores of another source (R250). -/
def State.boxSeen (s : State) (k : CoreId) (ls : List (Nat × Nat × Loc)) : List Nat :=
  ls.flatMap (fun l => match l.2.2 with | .mem x => s.observedAll k x.pa l.2.1 | _ => [])

/-- A box of XCPH between its places (R196). An INTEGRITY fault names the destination (dsd 1) and the box's first destination address: the
model's choice (log 80). -/
def State.hostBox (s : State) (k : CoreId) (m : Cmd) (b : Nat) (sl dl : List (Nat × Nat × Loc)) : Moved :=
  let lo := (m.boxRange b).1
  let n := (m.boxRange b).2 - lo
  let key := natBytes 32 (s.key (m.d 41 1)).key.toNat
  let src := s.gatherBox k lo sl
  let aad := natBytes 8 b
  let seen := s.boxSeen k sl
  let tagAt := hostKey (m.d 44 2) ((m.d 48 8 + 16 * b) % 2 ^ 64)
  if m.copy.sspc = 3 then
    let ct := natBytes n src.1
    if gcmTag key (m.iv b) aad ct = natBytes 16 (s.hostRead tagAt 16) then
      .done (s.scatterBox k m lo (natOfLE (gcmCrypt key (m.iv b) ct)) [] dl) seen
    else
      .fault (dl.foldl (fun s l => s.locPoison k l.2.2) s)
        (m.boxTrap b 0 1 ((m.dstParts b m.copy.dst).headD (0, 0, 0)).2.1 .integrity)
  else
    match src.2.getLast? with
    | some r => .fault s (m.boxTrap b 0 0 ((m.srcRow (r.1 / m.copy.len) + r.1 % m.copy.len) % 2 ^ 64) .poisonConsumed)
    | none =>
      let ct := gcmCrypt key (m.iv b) (natBytes n src.1)
      .done ((s.scatterBox k m lo (natOfLE ct) [] dl).hostWrite tagAt 16 (natOfLE (gcmTag key (m.iv b) aad ct))) seen

/-- The places of every destination of a box, checked before any is written (R197). -/
def State.destPlaces (s : State) (k : CoreId) (m : Cmd) (b : Nat) : Except Trap (List (List (Nat × Nat × Loc))) :=
  (m.dests.zipIdx).mapM (fun d => s.places k m b d.2 true (m.dstParts b d.1))

/-- What must still hold when a box starts: the gate has been On since the command issued (R349); the host-link slot is Active and the
compartment's (R339, R342, R354). -/
def State.boxGuard (s : State) (k : CoreId) (m : Cmd) (b : Nat) : Option Trap :=
  match m.instr with
  | .xgate _ _ =>
    let g := s.gate (s.ctx m.ctx).wld (m.d 0 1)
    if g.on && decide (m.list = [g.epoch]) then none else some (m.boxTrap b 0 0 (m.srcRow 0) .compartment)
  | .xcph _ _ _ => (s.linkCause (s.issuer k m) (m.d 41 1)).map (m.boxTrap b 0 (if m.copy.dspc = 3 then 1 else 0) 0)
  | _ => none

/-- A copy counts in the hint ranges of its task (R324). -/
def State.hintParts (s : State) (k : CoreId) (g : Bool) (ps : List (Nat × Nat × Nat)) : State :=
  if g then ps.foldl (fun s p => s.setCore ((s.core k).countHints p.2.1 p.2.2)) s else s

/-- A box of a copy-like command: checked at every place, then moved whole (R192 to R198, R202). -/
def State.moveBox (s : State) (k : CoreId) (m : Cmd) (b : Nat) : Moved :=
  match s.boxGuard k m b with
  | some t => .fault s t
  | none =>
    match s.places k m b 0 false (m.srcParts b) with
    | .error t => .fault s t
    | .ok sl =>
      match s.destPlaces k m b with
      | .error t => .fault s t
      | .ok dls =>
        match (s.placesBad m b 0 sl).orElse (fun _ => s.placesBad m b 1 dls.flatten), s.placesFill (sl ++ dls.flatten) with
        | some (s', t), _ => .fault s' t
        | none, some s' => .wait s'
        | none, none =>
          let lo := (m.boxRange b).1
          let s := s.hintParts k (decide (m.copy.sspc = 2)) (m.srcParts b)
          let s := m.dests.foldl (fun s d => s.hintParts k (decide (m.copy.dspc = 2)) (m.dstParts b d)) s
          match m.instr with
          | .xcph _ _ _ => s.hostBox k m b sl dls.flatten
          | .xmc _ _ _ =>
            let v := s.gatherBox k lo sl
            let rop := m.d 42 1
            .done (dls.foldl (fun s dl => if rop = 0 then s.scatterBox k m lo v.1 v.2 dl else s.reduceBox k m rop lo v.1 v.2 dl) s) (s.boxSeen k sl)
          | _ =>
            let v := s.gatherBox k lo sl
            .done (s.scatterBox k m lo v.1 v.2 dls.flatten) (s.boxSeen k sl)

/-- A captured piece of XWB is written back (R201); its address is that of the first line that fails. -/
def State.writeBackBox (s : State) (k : CoreId) (m : Cmd) (b : Nat) : Moved :=
  let c := s.core k
  match c.wins.find? (fun w => decide (w.region = m.opA)) with
  | none => .done s []
  | some w =>
    match s.writePieceAs c (.engine m.seq) w b with
    | .ok s' => .done (s'.setCore ((s'.core k).countHints (w.ga + 4096 * b) 4096)) []
    | .error t => .fault s (m.boxTrap b 0 1 t.info.toNat t.cause)

/-- A command that moves in boxes: the copy-like ones, and XWB with its captured pieces (R192, R314). -/
def Cmd.hasBoxes (m : Cmd) : Bool :=
  match m.instr with
  | .xcp _ _ => true | .xcph _ _ _ => true | .xmc _ _ _ => true | .xga _ _ _ => true | .xsc _ _ _ => true
  | .xgate _ _ => true | .xwb _ _ => true
  | _ => false

/-- The next box that has not started, among n from b on. -/
def Cmd.nextBox (m : Cmd) : Nat → Nat → Option Nat
  | 0, _ => none
  | n + 1, b => if m.started.getLsbD b || m.bitmap.getLsbD b then m.nextBox n (b + 1) else some b

/-- A fence counter of a command's engine has no room for the stores of a box (R250). -/
def State.engineFull (s : State) (m : Cmd) : Bool :=
  decide (65535 < (s.stores.filter (fun x => decide (x.eng = some m.seq))).length + 4096)

/-- What a command's reads must see is performed: the stores and atomics of its own bundle and of earlier ones, and scatters (R190); an
earlier QDEQ has its item (R204, R239). -/
def Core.earlierSeen (c : Core) (m : Cmd) : Bool :=
  c.stq.all (fun a => decide (m.age < a.age)) && (match c.gather with | some g => g.load || decide (m.age < g.age) | none => true) &&
    c.ilk.all (fun o =>
      match o.kind with
      | .access a none => decide (m.age < o.age) || a.need.w = false
      | .qdeq _ _ none => decide (m.age < o.age)
      | _ => true)

/-- Starts a box: its lines move at its start (R191); at most 8 are in flight, and none starts after a fault (R192, R193). -/
def State.startBox (s : State) (k : CoreId) (tag : Fin 64) : State :=
  match s.cmdAt (.core k) tag with
  | none => s
  | some m =>
    if !m.hasBoxes || m.fault.isSome || 8 ≤ m.inFlight || !(s.core k).earlierSeen m || s.engineFull m then s
    else
      match m.nextBox m.boxes 0 with
      | none => s
      | some b =>
        match (match m.instr with | .xwb _ _ => s.writeBackBox k m b | _ => s.moveBox k m b) with
        | .done s' seen =>
          s'.setCmd (.core k) m.tag (fun m => { m with started := m.started ||| 1 <<< b, seen := m.seen ++ seen.filter (fun i => decide (i ∉ m.seen)) })
        | .wait s' => s'
        | .fault s' t => s'.setCmd (.core k) m.tag (fun m => { m with fault := some t })

/-- Starts boxes until 8 are in flight. -/
def State.startBoxes (s : State) (k : CoreId) (tag : Fin 64) : Nat → State
  | 0 => s
  | n + 1 => (s.startBox k tag).startBoxes k tag n

/-- COPY_BOX_COMPLETE (R192): while its task is resident and no save is under way, boxes of the command start; a box that has started
completes, wherever its task is, and its bit is set (R314). -/
def execCopyBoxComplete (r : TaskRef) (tag : Fin 64) (box : Nat) (s : State) : Host.Outcome State Fault Refusal :=
  let s := match r with
    | .core k => if (s.core k).saving.isNone then s.startBoxes k tag 8 else s
    | .slot _ _ => s
  .next (match s.cmdAt r tag with
    | some m =>
      if m.started.getLsbD box && !m.bitmap.getLsbD box then s.putCmd r { m with bitmap := m.bitmap ||| 1 <<< box } else s
    | none => s)

/-- Every box of a command is complete (R192). -/
def Cmd.boxesDone (m : Cmd) : Bool := (List.range m.boxes).all (fun b => m.bitmap.getLsbD b)

/-! ### Delivery of engine faults (R193) -/

/-- The faulted command with the lowest tag that has not been told, with no box in flight (R193, R304); those that were due as a handler was
entered stay pending until it ends. -/
def Core.engineFault (c : Core) : Option Cmd :=
  (c.cmds.filter (fun m => m.fault.isSome && !m.told && decide (m.inFlight = 0 ∧ m.tag ∉ c.pending.tags))).foldl
    (fun best m => match best with | some b => if b.tag.val ≤ m.tag.val then some b else some m | none => some m) none

/-- Where trappc points when a core traps between bundles: the TEND bundle while it waits there (R100, R304). The program counter
stands there already. -/
def State.engineTrap (s : State) : State :=
  match s.c.engineFault with
  | some m =>
    match m.fault with
    | some t => (s.putCmd (.core s.c.id) { m with told := true }).takeTrap t s.c.pc
    | none => s
  | none => s

/-- Makes a core the one that steps. -/
def State.switch (s : State) (k : CoreId) : State :=
  if s.c.id = k then s else { s with c := s.core k, others := del (put s.others s.c.id s.c) k }

/-- ENGINE_FAULT_DELIVERY (R193): at a bundle boundary of the resident task. -/
def execEngineFaultDelivery (k : CoreId) (s : State) : Host.Outcome State Fault Refusal :=
  .next ((s.switch k).engineTrap.switch s.c.id)

/-! ### Windows (R200, R201, R225, R226) -/

/-- Two regions share a byte. -/
def regionsMeet (x y : Word) : Bool := overlap (bits x.toNat 0 20) (4096 * bits x.toNat 20 12) (bits y.toNat 0 20) (4096 * bits y.toNat 20 12)

/-- The limits of a region word (R200). The rule names no fault for a word outside them; the model takes ILLEGAL with reason 0x05 (log 79). -/
def regionOk (r : Word) : Bool :=
  let n := bits r.toNat 20 12
  decide (r.toNat < 2 ^ 32 ∧ bits r.toNat 0 20 % 4096 = 0 ∧ 1 ≤ n ∧ n ≤ 256 ∧ bits r.toNat 0 20 + 4096 * n ≤ 0x100000)

/-- The command outstanding on a window (R200). -/
def Core.windowBusy (c : Core) (r : Word) : Bool :=
  c.cmds.any (fun m => match m.instr with | .xwb _ _ => decide (m.opA = r) | .xinv _ _ => decide (m.opA = r) | _ => false)

/-- A window change takes effect for the next bundle; the X word is the last of its own (R90, R200). A malformed region word or address is
ILLEGAL with reason 0x05, the model's choice (log 79). -/
def xwinBody (r ga : Word) (drop : Bool) : Prep := fun s =>
  if drop then
    if !s.c.wins.any (fun w => decide (w.region = r)) then .trap s.illegal5
    else if s.c.windowBusy r then .hold s
    else .ok { s with c := { s.c with wins := s.c.wins.filter (fun w => decide (w.region ≠ r)) } }
  else if !regionOk r || decide (ga.toNat % 4096 ≠ 0 ∨ 2 ^ 49 ≤ ga.toNat) || decide (16 ≤ s.c.wins.length) ||
      s.c.wins.any (fun w => regionsMeet w.region r) then .trap s.illegal5
  else .ok { s with c := { s.c with wins := s.c.wins ++ [⟨r, ga.toNat, List.replicate (bits r.toNat 20 12) .unfilled⟩] } }

/-- XWIN (R200). -/
def execXwin (a b : Reg) (drop : Bool) (s : State) : Host.Outcome State Fault Refusal :=
  slotExec 7 (.xwin a b drop) (xwinBody (s.c.rs a) (s.c.rs b) drop) s

/-- Changes the pieces and the command of the window of a region. -/
def Core.onWindow (c : Core) (r : Word) (f : Window → Window) : Core :=
  { c with wins := c.wins.map (fun w => if w.region = r then f w else w) }

/-- Mask of the pieces of a state, from bit i on. -/
def pieceMask (st : Piece) : Nat → List Piece → Nat
  | _, [] => 0
  | i, p :: ps => (if p = st then 2 ^ i else 0) + pieceMask st (i + 1) ps

/-- XWB: the dirty pieces are captured as its boxes and become clean (R201, R314). -/
def xwbBody (i : Instr) (r : Word) (x : Xc) : Prep :=
  cmdStart x (fun s =>
    match s.c.wins.find? (fun w => decide (w.region = r)) with
    | none => .trap s.illegal5
    | some w =>
      let mask := pieceMask .dirty 0 w.pieces
      let c := s.c.onWindow r (fun w => { w with pieces := w.pieces.map (fun p => if p = .dirty then .clean else p) })
      addCmd { s.cmd0 i x 0 with opA := r, boxes := w.pieces.length, bitmap := BitVec.ofNat 256 (2 ^ 256 - 1 - mask) } { s with c := c })

/-- XWB (R201). -/
def execXwb (a : Reg) (x : Xc) (s : State) : Host.Outcome State Fault Refusal :=
  slotExec 7 (.xwb a x) (xwbBody (.xwb a x) (s.c.rs a) x) s

/-- XINV: every piece of the window becomes unfilled (R201); a fill under way goes on (R225). -/
def xinvBody (i : Instr) (r : Word) (x : Xc) : Prep :=
  cmdStart x (fun s =>
    if !s.c.wins.any (fun w => decide (w.region = r)) then .trap s.illegal5
    else
      let c := s.c.onWindow r (fun w => { w with pieces := w.pieces.map (fun p => if p = .filling then .filling else .unfilled) })
      addCmd { s.cmd0 i x 0 with opA := r } { s with c := c })

/-- XINV (R201). -/
def execXinv (a : Reg) (x : Xc) (s : State) : Host.Outcome State Fault Refusal :=
  slotExec 7 (.xinv a x) (xinvBody (.xinv a x) (s.c.rs a) x) s

/-- The fill of a piece (R225): its lines are copied with their poison, or the first that fails is reported. -/
def State.fillPiece (s : State) (k : CoreId) (w : Window) (i : Nat) : Except Trap State :=
  let c := s.core k
  (List.range 64).foldlM (fun (s : State) j =>
    let va := w.ga + 4096 * i + 64 * j
    let off := w.off + 4096 * i + 64 * j
    match s.translate c.party va Need.read with
    | .error f => .error ⟨f, addrInfo va⟩
    | .ok x =>
      let cs := s.view (clusterOf k)
      let v := cs.plain x.label x.pa 64
      let bad := x.psn || cs.poisoned (x.pa / 64)
      let d := (s.core k).observe (s.observed k x.pa 64) ((s.core k).age - 1)
      .ok (s.setCore { d with
        scratch := memPow d.scratch off 6 v
        poison := if bad then insertNew (off / 64) d.poison else d.poison.filter (fun l => decide (l ≠ off / 64)) })) s

/-- The first piece of a core that is filling. -/
def Core.fillingPiece (c : Core) : Option (Nat × Window × Nat) :=
  (c.wins.zipIdx).findSome? (fun w =>
    match w.1.pieces.findIdx? (fun p => decide (p = .filling)) with
    | some i => some (w.2, w.1, i)
    | none => none)

/-- WINDOW_FILL_COMPLETES (R225): the piece becomes clean; a fill that faults leaves it unfilled, and what waits for the piece takes
the trap. -/
def execWindowFillCompletes (k : CoreId) (s : State) : Host.Outcome State Fault Refusal :=
  .next (match (s.core k).fillingPiece with
    | none => s
    | some (n, w, i) =>
      match s.fillPiece k w i with
      | .ok s' => s'.setCore (((s'.core k).setPiece n i .clean).countHints (w.ga + 4096 * i) 4096)
      | .error t => s.setCore { ((s.core k).setPiece n i .unfilled) with badFills := (s.core k).badFills ++ [(w.off + 4096 * i, t)] })

/-- BACKGROUND_WRITEBACK (R226): a dirty piece is written and becomes clean; one that faults stays dirty. -/
def execBackgroundWriteback (k : CoreId) (win piece : Nat) (s : State) : Host.Outcome State Fault Refusal :=
  .next (
    let c := s.core k
    match c.wins[win]? with
    | none => s
    | some w =>
      if w.pieces.getD piece .clean ≠ .dirty then s
      else
        match s.writePiece c w piece with
        | .ok s' => s'.setCore (((s'.core k).setPiece win piece .clean).countHints (w.ga + 4096 * piece) 4096)
        | .error _ => s)

/-! ### Cancellation (R199) -/

/-- XCAN takes effect at the end of its bundle's checks: cancellable and faulted commands end without their tags; the successor
waits for the others that the mask names, and for boxes in flight. A faulted journal form takes the later ones of its core with it,
whichever task holds them now (R210). -/
def xcanBody (mask : Word) : Prep := fun s =>
  let named := s.c.cmds.filter (fun m => mask.getLsbD m.tag.val)
  let gone := named.filter (fun m => m.hasBoxes || m.fault.isSome)
  let journal (m : Cmd) : Bool := match m.instr with | .wjw _ _ => true | .wjc _ _ => true | .wja _ _ => true | .wjd _ _ => true | _ => false
  let lost (m : Cmd) : Bool := journal m && gone.any (fun g => journal g && decide (g.core = m.core ∧ g.seq < m.seq))
  let out (m : Cmd) : Bool := gone.any (fun g => decide (g.seq = m.seq)) || lost m
  let waits := (named.filter (fun m => !(m.hasBoxes || m.fault.isSome) && !lost m)).map (·.tag)
  let keep := s.c.cmds.filter (fun m => !out m)
  let s := s.tasks.foldl (fun s v => (v.cmds.filter lost).foldl (fun s m => s.dropCmd (.slot v.task.ctx v.task.slot) m.tag) s) s
  .ok { s with
    others := s.others.map (fun e => (e.1, { e.2 with cmds := e.2.cmds.filter (fun m => !lost m) }))
    launches := s.launches.filter (fun l => !(decide (l.issuer = s.c.id) && gone.any (fun g => decide (g.seq = l.seq))))
    c := ({ s.c with cmds := keep } : Core).withFlow (fun f => { f with wait := if waits.isEmpty then f.wait else some (.xcan waits) }) }

/-- XCAN (R199). -/
def execXcan (a : Reg) (s : State) : Host.Outcome State Fault Refusal :=
  slotExec 7 (.xcan a) (xcanBody (s.c.rs a)) s

/-! ### Security, hints and events (R212 to R215) -/

/-- Offsets and lengths of a security descriptor (R188, R212). -/
def secIssue (m : Cmd) (ok : Bool) : Prep :=
  require (ok && (m.secReads.map (·.1)).all (fun o => decide (o % 64 = 0)) && decide (m.secOut.1 % 64 = 0)) (fun s =>
    let rs := m.secReads ++ [m.secOut]
    match rs.find? (fun r => decide (s.c.scratchSize < r.1 + r.2)) with
    | some r => .trap ⟨.scratchRange, addrInfo r.1⟩
    | none =>
      if rs.any (fun r => s.c.needsFill r.1 r.2) then .hold { s with c := rs.foldl (fun c r => c.startFills r.1 r.2) s.c }
      else addCmd m s)

/-- XHASH (R212). -/
def execXhash (a : Reg) (x : Xc) (s : State) : Host.Outcome State Fault Refusal :=
  slotExec 7 (.xhash a x)
    (cmdStart x (localOperand (s.c.rs a).toNat 64 64 (fun d =>
      secIssue (s.cmd0 (.xhash a x) x d) (decide (field d 12 52 = 0 ∧ field d 4 4 ≤ s.c.scratchSize))))) s

/-- XSIGN (R212): a kid that holds no key is refused; kid 1 is the attestation key (R424). -/
def execXsign (a : Reg) (x : Xc) (s : State) : Host.Outcome State Fault Refusal :=
  slotExec 7 (.xsign a x)
    (cmdStart x (localOperand (s.c.rs a).toNat 64 64 (fun d =>
      secIssue (s.cmd0 (.xsign a x) x d) (decide (field d 12 52 = 0 ∧ field d 4 4 < 16 ∧ (field d 4 4 = 1 ∨ Config.deviceKey (field d 4 4) ≠ 0)))))) s

/-- XVFY (R212). -/
def execXvfy (a : Reg) (x : Xc) (s : State) : Host.Outcome State Fault Refusal :=
  slotExec 7 (.xvfy a x)
    (cmdStart x (localOperand (s.c.rs a).toNat 64 64 (fun d => secIssue (s.cmd0 (.xvfy a x) x d) (decide (field d 16 48 = 0))))) s

/-- An entry of a hint list (R213). -/
def hintOf (v : Nat) : Hint := ⟨field v 0 8, field v 8 4, field v 12 1, 0, 0⟩

/-- A hint entry is well formed (R213). -/
def hintOk (v : Nat) : Bool := decide (field v 0 8 < 2 ^ 49 ∧ field v 12 1 ≤ 3 ∧ field v 13 3 = 0)

/-- A range is contradicted (R324). -/
def Hint.contradicted (h : Hint) : Bool :=
  decide (4096 ≤ h.accesses) &&
    (match h.cls with
     | 1 => decide (4 * h.misses < 3 * h.accesses)
     | 2 => decide (4 * h.misses < h.accesses)
     | 3 => decide (h.accesses < 2 * h.misses)
     | _ => false)

/-- The report of a contradicted range (R325): an RMW of the count, then the entry; a report area that cannot be reached takes
nothing. -/
def State.reportHint (s : State) (p : Party) (taskid : Nat) (h : Hint) : State :=
  let area := (s.ctx p.ctx).hrep.toNat
  if area = 0 then s
  else
    let body := h.addr + h.len * 2 ^ 64 + h.cls * 2 ^ 96 + taskid * 2 ^ 128 + Nat.min h.accesses (2 ^ 32 - 1) * 2 ^ 192 +
      Nat.min h.misses (2 ^ 32 - 1) * 2 ^ 224
    match s.readVirtual p area 8 with
    | .error _ => s
    | .ok n =>
      match s.writeVirtual p area 8 (n + 1) with
      | .error _ => s
      | .ok s =>
        match s.writeRange p (area + 64 + 32 * (n % 64)) 32 body with
        | .ok s => s
        | .error _ => s

/-- The evaluation of the hints of a core (R324), at XHINT and at TEND. -/
def State.evalHints (s : State) (c : Core) : State :=
  (c.hints.filter Hint.contradicted).foldl (fun s h => s.reportHint c.party (c.cr crTaskid).toNat h) s

/-- XHINT (R213, R324). -/
def execXhint (a b : Reg) (s : State) : Host.Outcome State Fault Refusal :=
  let n := (s.c.rs b).toNat
  slotExec 7 (.xhint a b)
    (require (decide (1 ≤ n ∧ n ≤ 64))
      (localOperand (s.c.rs a).toNat (16 * n) 16 (fun v =>
        let es := (List.range n).map (fun i => field v (16 * i) 16)
        require (es.all hintOk) (fun s =>
          let s := s.evalHints s.c
          .ok { s with c := { s.c with hints := es.map hintOf } })))) s

/-- XPWR (R214). -/
def execXpwr (a : Reg) (s : State) : Host.Outcome State Fault Refusal :=
  slotExec 7 (.xpwr a) (require (decide ((s.c.rs a).toNat < 4)) .ok) s

/-- XEVT (R215): its entry is appended behind a release of the earlier accesses. -/
def execXevt (a : Reg) (code : BitVec 8) (s : State) : Host.Outcome State Fault Refusal :=
  slotExec 7 (.xevt a code)
    (fun s =>
      if code.toNat < 0x80 ∧ s.c.id ≠ .umpire then .trap (s.openTrap .privilege)
      else .ok { s with c := { s.c with
        ilk := s.c.ilk ++ [⟨.evt code.toNat (bits (s.c.cr crCtxid).toNat 0 9) (s.c.rs a), none, s.c.age⟩] } }) s

end Sys2Proof.Machine
end

