-- ==== Sys2Proof/Machine/Queue.lean ====
section
/-! DEFINITION. Hardware queues (R203 to R205, R276 to R280), the checks of a task record (R217), supervisor items (R313) and
completion signals (R218). -/

namespace Sys2Proof.Machine

/-! ### The queue table (R276) -/

/-- `kind` names a valid queue (R276). -/
def kindValid (k : BitVec 8) : Bool := decide (bits k.toNat 1 2 ≠ 3 ∧ bits k.toNat 4 4 = 0)

/-- `st`: the queue is stopped (R276). -/
def Queue.stopped (q : Queue) : Bool := q.kind.getLsbD 3

/-- `kind` and class: those in force while the queue runs, else those of the next start (R276). -/
def Queue.kindNow (q : Queue) : BitVec 8 := if q.stopped then q.kind &&& 0xF7 else q.rkind

/-- A task queue: the kind in force while it runs (R276). -/
def Queue.isTask (q : Queue) : Bool := q.kindNow.getLsbD 0

/-- The context of a queue. -/
def Queue.ctxOf (q : Queue) : Nat := if q.stopped then bits q.ctx.toNat 0 9 else q.rctx

/-- Slots of a queue. -/
def Queue.size (q : Queue) : Nat := 2 ^ q.rlgn

/-- Bytes of a slot (R277). -/
def Queue.slotBytes (q : Queue) : Nat := if q.rkind.getLsbD 0 then 64 else 8

/-- Address of the slot of a sequence number (R277). -/
def Queue.slotAddr (q : Queue) (seq : Nat) : Nat := q.rbase + q.slotBytes * (seq % q.size)

/-- Entries between head and tail. -/
def Queue.used (q : Queue) : Nat := (q.tail + 2 ^ 32 - q.head) % 2 ^ 32

/-- Clusters of a partition, in order. -/
def Part.clusterList (p : Part) : List Nat := (List.range 32).filter (fun n => p.clusters.getLsbD n)

/-- The partition core that a queue notifies: that of a task queue's cluster, else that of the partition's first cluster; where that one
has halted, that of the partition's first cluster that runs on (R415). -/
def State.notifyCore (s : State) (part : Nat) (q : Queue) : CoreId :=
  let cls := (s.part part).clusterList
  let cl := if q.isTask then q.rclu else cls.headD 0
  .partition (if (s.cluster cl).halted then (cls.find? (fun n => !(s.cluster n).halted)).getD cl else cl)

/-- Sets the notify tag of a queue on the partition core (R276, R279). -/
def State.notify (s : State) (part qn : Nat) : State :=
  let q := s.queue part qn
  s.tagSet (.core (s.notifyCore part q)) (Fin.ofNat 64 q.ntag)

/-- The error word of a queue (R276). -/
def errWord (code a : Nat) : Word := BitVec.ofNat 64 (code * 2 ^ 56 + a % 2 ^ 49)

/-- Writes the error word of a queue and notifies, without stopping it (R205, R218). -/
def State.queueErr (s : State) (part qn code a : Nat) : State :=
  (s.setQueue part qn { s.queue part qn with err := errWord code a }).notify part qn

/-- A queue stops with an error (R279). -/
def State.stopQueue (s : State) (part qn code a : Nat) : State :=
  let s := s.setQueue part qn { s.queue part qn with kind := (s.queue part qn).kind ||| 8 }
  s.queueErr part qn code a

/-- The queue unit as a party: it acts in the queue's context, in the partition's own compartment (R339). -/
def queueParty (q : Queue) : Party := ⟨.partition, q.rctx, 0, .partition q.rclu⟩

/-- A start is valid (R276): the ring, the kind, the context and the cluster. That the context must be the partition's own is the model's
reading (log 73). -/
def State.startOk (s : State) (part : Nat) (q : Queue) : Bool :=
  let task := q.kind.getLsbD 0
  kindValid q.kind && decide (q.base.toNat % 4096 = 0 ∧ q.base.toNat < 2 ^ 49 ∧ 4 ≤ q.lgn ∧ q.lgn ≤ 16 ∧ q.ctx.toNat < 512) &&
    decide ((s.ctx q.ctx.toNat).part = some part) && (if task then decide (q.clu < 32) && (s.part part).clusters.getLsbD q.clu else decide (q.clu = 0))

/-- QUEUE_START (R276): `st` changes from 1 to 0; the fields come into force, and head and tail are 0. -/
def State.startQueue (s : State) (part qn : Nat) : State :=
  let q := s.queue part qn
  if !q.stopped then s
  else if s.startOk part q then
    s.setQueue part qn { q with
      kind := q.kind &&& 0xF7, head := 0, tail := 0, rbase := q.base.toNat, rlgn := q.lgn, rkind := q.kind &&& 7
      rctx := q.ctx.toNat, rclu := q.clu, holes := [] }
  else s.setQueue part qn { q with err := errWord 1 (s.entryAddr part qn) }

/-- QUEUE_START (R276). -/
def execQueueStart (part qn : Nat) (s : State) : Host.Outcome State Fault Refusal :=
  .next (if part < 32 ∧ qn < 4096 then s.startQueue part qn else s)

/-- trapinfo of QUEUE_ERROR for a handle (R203). -/
def handleInfo (why : Nat) : Word := BitVec.ofNat 64 (why * 2 ^ 56)

/-- The check of a queue handle (R203, R276). -/
def State.handleTrap (s : State) (h : Word) (task : Bool) : Option Trap :=
  let qn := h.toNat
  let part := s.partOf (clusterOf s.c.id)
  let q := s.queue part qn
  if 4096 ≤ qn ∨ 32 ≤ part ∨ !kindValid q.kindNow ∨ (isCompute s.c.id ∧ q.ctxOf ≠ s.c.party.ctx) then some ⟨.queueError, handleInfo 0x10⟩
  else if q.isTask ≠ task then some ⟨.queueError, handleInfo 0x11⟩
  else if q.stopped then some ⟨.queueError, handleInfo 0x12⟩
  else none

/-! ### Appending and removing (R277 to R280) -/

/-- The end of a trapped task by its supervisor, which returns its slot to the pool with QENQ (R219, R315). -/
def State.endTrapped (s : State) (part qn addr : Nat) : State :=
  match s.tasks.find? (fun v => decide (v.task.part = part ∧ v.task.slot = addr ∧ (s.ctx v.task.ctx).plq = qn) &&
      (match v.state with | .trapped _ => true | _ => false)) with
  | some v => { (s.endOfTask v.task).dropWaiters (.slot v.task.ctx addr) with
      tasks := s.tasks.filter (fun x => decide (x.task.ctx ≠ v.task.ctx ∨ x.task.slot ≠ addr)) }
  | none => s

/-- A queue takes no append now: it is stopped, or full (R277, R279). -/
def Queue.shut (q : Queue) : Bool := q.stopped || decide (q.used = q.size)

/-- An append (R277, R279): false if the queue is full or stopped, or its ring faults. -/
def State.append (s : State) (part qn v : Nat) : State × Bool :=
  let q := s.queue part qn
  if q.shut then (s, false)
  else
    match s.writeRange (queueParty q) (q.slotAddr q.tail) q.slotBytes v with
    | .error f => (s.stopQueue part qn f.code (q.slotAddr q.tail), false)
    | .ok s =>
      let s := s.setQueue part qn { s.queue part qn with tail := (q.tail + 1) % 2 ^ 32 }
      (if q.rkind.getLsbD 0 then s else s.endTrapped part qn v, true)

/-- Removes the oldest item (R278, R279). -/
def State.takeItem (s : State) (part qn : Nat) : State × Option Word :=
  let q := s.queue part qn
  if q.stopped ∨ q.used = 0 then (s, none)
  else
    match s.readRange (queueParty q) (q.slotAddr q.head) 8 with
    | .error f => (s.stopQueue part qn f.code (q.slotAddr q.head), none)
    | .ok v => (s.setQueue part qn { q with head := (q.head + 1) % 2 ^ 32 }, some (BitVec.ofNat 64 v))

/-- Head advances past every leading hole (R278). -/
def Queue.advance (q : Queue) : Nat → Queue
  | 0 => q
  | n + 1 =>
    if q.head ∈ q.holes then
      { q with head := (q.head + 1) % 2 ^ 32, holes := q.holes.filter (fun h => decide (h ≠ q.head)) }.advance n
    else q

/-- A record of a task queue is consumed: its slot becomes a hole (R278). -/
def State.consume (s : State) (part qn seq : Nat) : State :=
  let q := s.queue part qn
  s.setQueue part qn ({ q with holes := insertNew seq q.holes }.advance (q.holes.length + 1))

/-- An operation that follows a release becomes outstanding: it is performed once every earlier access is (R204, R205, R215). -/
def Core.afterRelease (c : Core) (kind : IlkKind) (dest : Option Dest) : Core := { c with ilk := c.ilk ++ [⟨kind, dest, c.age⟩] }

/-- The predicate that the outcome of an append writes (R204, R205). -/
def pushDest (p : PReg) : Option Dest := if p = 0 then none else some (.pred p)

/-- QENQ (R203, R204): the item is appended behind its release, and pd is interlocked. -/
def execQenq (p : PReg) (a b : Reg) (s : State) : Host.Outcome State Fault Refusal :=
  slotExec 7 (.qenq p a b)
    (fun s =>
      match s.handleTrap (s.c.rs a) false with
      | some t => .trap t
      | none => .ok { s with c := s.c.afterRelease (.enq (s.partOf (clusterOf s.c.id)) (s.c.rs a).toNat (s.c.rs b)) (pushDest p) }) s

/-- QDEQ (R203, R204, R280): registered with its queue from issue. -/
def execQdeq (d a : Reg) (s : State) : Host.Outcome State Fault Refusal :=
  slotExec 7 (.qdeq d a)
    (fun s =>
      match s.handleTrap (s.c.rs a) false with
      | some t => .trap t
      | none =>
        let part := s.partOf (clusterOf s.c.id)
        let qn := (s.c.rs a).toNat
        let q := s.queue part qn
        let s := s.setQueue part qn { q with waiters := q.waiters ++ [.core s.c.id] }
        .ok { s with c := { s.c with ilk := s.c.ilk ++ [⟨.qdeq part qn none, if d = 0 then none else some (.scalar d), s.c.age⟩] } }) s

/-- The first QDEQ of a queue that has no item takes one. -/
def giveItem (part qn : Nat) (v : Word) : List Ilk → Option (List Ilk)
  | [] => none
  | o :: rest =>
    match o.kind with
    | .qdeq p n none => if p = part ∧ n = qn then some ({ o with kind := .qdeq p n (some v) } :: rest) else (giveItem part qn v rest).map (o :: ·)
    | _ => (giveItem part qn v rest).map (o :: ·)

/-- The outstanding operations of a waiter. -/
def State.waiterIlk (s : State) (w : Waiter) : List Ilk :=
  match w with
  | .core k => (s.core k).ilk
  | .slot ctx addr => match s.saved? ctx addr with | some v => v.ilk | none => []

/-- QDEQ_ITEM_DELIVERED (R280): the oldest item goes to the earliest registered waiter, resident or parked; a removal that faults
leaves the waiter its place (R279). -/
def execQdeqItemDelivered (part qn : Nat) (s : State) : Host.Outcome State Fault Refusal :=
  .next (
    match (s.queue part qn).waiters with
    | [] => s
    | w :: rest =>
      match giveItem part qn 0 (s.waiterIlk w) with
      | none => s.setQueue part qn { s.queue part qn with waiters := rest }
      | some _ =>
        match s.takeItem part qn with
        | (s, none) => s
        | (s, some v) =>
          let s := s.setQueue part qn { s.queue part qn with waiters := rest }
          let ops := (giveItem part qn v (s.waiterIlk w)).getD []
          match w with
          | .core k => s.setCore { s.core k with ilk := ops }
          | .slot ctx addr => s.setSaved ctx addr (fun x => { x with ilk := ops }))

/-! ### Task records (R216, R217) -/

/-- A record is malformed (R217 item 1), but for its global fields. -/
def recMalformed (r : BitVec 512) : Bool :=
  decide (recField r 43 5 ≠ 0 ∨ bits r.toNat 299 1 ≠ 0 ∨ bits r.toNat 302 2 ≠ 0 ∨ bits r.toNat 310 2 ≠ 0 ∨ bits r.toNat 318 2 ≠ 0 ∨
    bits r.toNat 334 2 ≠ 0 ∨ 2 ≤ bits r.toNat 306 2) ||
  (if bitAt r.toNat 308 then decide (47 < bits r.toNat 312 6) else decide (bits r.toNat 312 6 ≠ 0)) ||
  decide (20 < recField r 42 1 ∨ 128 < recField r 36 1 ∨ recField r 0 8 % 64 ≠ 0 ∨ recField r 48 8 % 64 ≠ 0 ∨ recField r 56 8 % 8 ≠ 0)

/-- The first global field of a record that is too large (R217 item 1). -/
def recFar (r : BitVec 512) : Option Nat := [recField r 0 8, recField r 48 8, recField r 56 8].find? (fun a => decide (2 ^ 49 ≤ a))

/-- A record is too large for a core (R217 item 3). -/
def recTooLarge (r : BitVec 512) : Bool := decide (4 < recTiles r ∨ 1048576 < recField r 32 4 ∨ 1048576 < recS r)

/-- A resume record (R315): `entry` is 0, and but for `argp` and `prio` every byte is zero. -/
def recResume (r : BitVec 512) : Bool :=
  decide (setBits (setBits r.toNat 64 64 0) 304 2 0 = 0)

/-- A slot holds a trapped task of the context and the cluster of a queue (R315). -/
def State.trappedAt (s : State) (q : Queue) (addr : Nat) : Option Saved :=
  s.tasks.find? (fun v => decide (v.task.ctx = q.rctx ∧ v.task.slot = addr ∧ v.cl = q.rclu) &&
    (match v.state with | .trapped b => b | _ => false))

/-- The faults of a record at TQPUSH (R205, R217, R315). -/
def State.recTrap (s : State) (q : Queue) (r : BitVec 512) : Option Trap :=
  if recResume r then
    if isCompute s.c.id then some (s.openTrap .privilege)
    else if (s.trappedAt q (recField r 8 8)).isNone then some s.illegal5
    else none
  else if recMalformed r then some s.illegal5
  else
    match recFar r with
    | some a => some ⟨.translation, addrInfo a⟩
    | none => if isCompute s.c.id ∧ recField r 40 1 ≠ s.c.party.comp then some (s.openTrap .compartment) else none

/-- A checked record reaches its queue, or its error word (R205). -/
def State.pushRecord (s : State) (part qn : Nat) (r : BitVec 512) (a : Nat) : State × Bool :=
  if !recResume r && recTooLarge r then (s.queueErr part qn Cause.launchTooLarge.code a, false) else s.append part qn r.toNat

/-- TQPUSH (R203, R205). -/
def execTqpush (p : PReg) (a b : Reg) (s : State) : Host.Outcome State Fault Refusal :=
  let off := (s.c.rs b).toNat
  slotExec 7 (.tqpush p a b)
    (fun s =>
      match s.handleTrap (s.c.rs a) true with
      | some t => .trap t
      | none =>
        localOperand off 64 64 (fun v s =>
          let part := s.partOf (clusterOf s.c.id)
          let qn := (s.c.rs a).toNat
          let r := BitVec.ofNat 512 v
          match s.recTrap (s.queue part qn) r with
          | some t => .trap t
          | none => .ok { s with c := s.c.afterRelease (.push part qn r off) (pushDest p) }) s) s

/-- An operation that follows a release, once the release is performed: an append, or a black-box entry (R204, R205, R215). -/
def State.releasedOp (s : State) (k : CoreId) (kind : IlkKind) : State × Nat :=
  let out (r : State × Bool) : State × Nat := (r.1, if r.2 then 2 ^ 512 - 1 else 0)
  match kind with
  | .enq part qn v => out (s.append part qn v.toNat)
  | .push part qn r a => out (s.pushRecord part qn r a)
  | .evt code ctx v => ((s.observeTick).logEntry code (corenoOf s.umpire.standby k) ctx (s.ctx ctx).wld v.toNat 0, 0)
  | _ => (s, 0)

/-- The release before an append or a black-box entry (R105, R204, R205, R215): it covers every earlier access, the L slot's of its own bundle
among them, follows every earlier QDEQ, and comes after the earlier operations of its kind, in order. One that can never be performed ends
the operation with a trap after issue, which the X slot's word finds (R74). -/
def State.releasedArrives (s : State) (k : CoreId) (n : Nat) (o : Ilk) : State :=
  let c := s.core k
  let first := (c.ilk.take n).all (fun x => match x.kind with | .enq _ _ _ => false | .push _ _ _ _ => false | .evt _ _ _ => false | _ => true)
  let before := { s.coreBefore c (o.age + 1) with ilk := c.ilk.take n }
  if !first then s
  else if s.releaseReady before .mod then
    let r := s.releasedOp k o.kind
    r.1.deliver k n o.dest r.2
  else
    match s.releaseFault before .mod with
    | some t => s.setCore (({ c with ilk := dropNth c.ilk n } : Core).addFault 7 t)
    | none => s

/-! ### Supervisor items and completion signals -/

/-- The release at .mod before an item (R313): the trapped task's stores are performed, and its side log awaits no translation or
replay. -/
def State.itemReleased (s : State) (i : SupItem) : Bool :=
  i.waits.all (fun n => !s.isPending n) &&
    (match i.task with
     | some (ctx, addr) =>
       (match s.saved? ctx addr, s.slotRead ctx addr with
        | some _, .ok b => (logsOf b).all (fun e => decide (e.state = 2))
        | _, _ => true)
     | none => true)

/-- The first of some items whose release is performed and whose queue takes it, with those before and behind it; the items of one queue
go in their order (R313). `shut` are the queues whose first item waits. -/
def State.itemDue (s : State) (shut : List (Nat × Nat)) (before : List SupItem) : List SupItem → Option (SupItem × List SupItem)
  | [] => none
  | i :: rest =>
    let q := s.queue i.part i.qn
    if (i.part, i.qn) ∈ shut ∨ !s.itemReleased i ∨ q.shut then s.itemDue ((i.part, i.qn) :: shut) (before ++ [i]) rest
    else some (i, before ++ rest)

/-- SUPQ_ITEM_APPEND (R313): of the items that the scheduler holds, the first whose release is performed and whose queue has room is
appended. An append that faults fails, and is not tried again (R279). -/
def execSupqItemAppend (cl : Nat) (s : State) : Host.Outcome State Fault Refusal :=
  .next (
    match s.itemDue [] [] (s.cluster cl).items with
    | none => s
    | some (i, rest) =>
      let s := (s.append i.part i.qn i.item.toNat).1
      s.setCluster cl { s.cluster cl with items := rest })

/-- A signal that faults is recorded in the error word of the task's queue, which goes on, and logged (R218). -/
def State.signalFailed (s : State) (g : Signal) (f : Cause) (a : Nat) : State :=
  (s.queueErr g.part g.qn f.code a).logEntry 0x5A (corenoOf s.umpire.standby (.partition g.cl)) g.ctx (s.ctx g.ctx).wld a 0

/-- An indivisible update of n bytes by the queue unit (R218). -/
def State.signalUpdate (s : State) (g : Signal) (a n : Nat) (f : Nat → Nat) : State :=
  let p : Party := ⟨.partition, g.ctx, 0, .partition g.cl⟩
  match s.translate p a Need.rmw with
  | .error e => s.signalFailed g e a
  | .ok x =>
    let s := s.settle g.cl x.pa n
    match s.readHome x n with
    | .error e => s.signalFailed g e a
    | .ok v => s.storeHome (.partition g.cl) x (bytesOf n (f v)) true

/-- Addresses of the distributors' own chunk counters: none is a global address (R289). -/
def counterBase : Nat := 2 ^ 63

/-- The launch and the chunk's key that a record's counters name (R289, R417). -/
def chunkOf (r : BitVec 512) : Nat × Nat := ((recField r 48 8 - counterBase) / 64, (recField r 56 8 - counterBase) / 8)

/-- A record of a distributor, whose counters are the distributor's own (R289). -/
def recOfChunk (r : BitVec 512) : Bool := decide (counterBase ≤ recField r 56 8)

/-- The cluster whose scheduler consumes a record: that of its chunk, else that of its queue (R278, R289). -/
def State.recCluster (s : State) (q : Queue) (r : BitVec 512) : Nat :=
  if recOfChunk r then
    match (s.launches.find? (fun l => decide (l.id = (chunkOf r).1))).bind (fun l => l.chunks.find? (fun c => decide (c.key = (chunkOf r).2))) with
    | some c => c.cl
    | none => q.rclu
  else q.rclu

/-- A cluster takes records from a queue: it is the consuming cluster, or a launch has chunks of it there (R278, R289). -/
def State.consumes (s : State) (part qn : Nat) (q : Queue) (cl : Nat) : Bool :=
  decide (q.rclu = cl) || s.launches.any (fun l => decide (l.part = part ∧ l.qn = qn) && l.chunks.any (fun c => decide (c.cl = cl)))

/-- A task of a chunk completes: one fewer is left (R289, R290). -/
def State.chunkDone (s : State) (r : BitVec 512) : State :=
  let id := (chunkOf r).1
  let key := (chunkOf r).2
  { s with launches := s.launches.map (fun l =>
      if l.id = id then { l with chunks := l.chunks.map (fun c => if c.key = key then { c with left := c.left - 1 } else c) } else l) }

/-- The signals of a completed task, in their order (R218): a decrement that stays at 0, an increment, a tag. The address of a failed
decrement is that of `dep`, the bytes it updates, the model's choice (log 82). -/
def State.sendSignals (s : State) (g : Signal) : State :=
  let r := g.record
  if recOfChunk r then s.chunkDone r
  else
    let s := if recField r 48 8 = 0 then s else s.signalUpdate g (recField r 48 8 + 22) 2 (· - 1)
    let s := if recField r 56 8 = 0 then s else s.signalUpdate g (recField r 56 8) 8 (fun v => (v + 1) % 2 ^ 64)
    if recNtf r then s.tagSet (.core (.partition g.cl)) (Fin.ofNat 64 (bits r.toNat 328 6)) else s

/-- COMPLETION_SIGNALS (R218): the n-th completed task whose signals are due. -/
def execCompletionSignals (n : Nat) (s : State) : Host.Outcome State Fault Refusal :=
  .next (match s.signals[n]? with
    | none => s
    | some g => { s with signals := dropNth s.signals n }.sendSignals g)

end Sys2Proof.Machine
end

