-- ==== Sys2Proof/Machine/Sched.lean ====
section
/-! DEFINITION. Fetching a word (R68, R305, R346), the cluster scheduler (R220, R221, R281 to R284, R293 to R296, R315), parking
(R219, R280), and the end of a task (R100, R226). -/

namespace Sys2Proof.Machine

/-! ### Fetch -/

/-- n bytes of the firmware of a partition core or the Umpire, which its secure MRAM gives untranslated (R396). That the Umpire fetches so
as well, and that there is nothing behind the last packet that holds a byte, are the model's (log 72). -/
def firmwareAt (m : Mem) (va n : Nat) : Except Trap Nat :=
  if va < roundUp ((m.map (fun c => c.1 + 1)).foldl Nat.max 0) 64 then .ok (memRead m va n) else .error ⟨.translation, addrInfo va⟩

/-- A fetch of n bytes within a line at an address: of a compute core through its tables, with execute rights, the code slot of a measured
task and poison (R321, R346); of the others from their firmware (R396). -/
def State.fetch (s : State) (k : CoreId) (va n : Nat) : Except Trap Nat :=
  let c := s.core k
  match k with
  | .partition _ => firmwareAt s.umpire.pimage va n
  | .umpire => firmwareAt s.umpire.image va n
  | .compute _ _ =>
  match s.translate c.party va Need.fetch with
  | .error f => .error ⟨f, addrInfo va⟩
  | .ok x =>
    let moved := match c.task with
      | some t => (match t.meas with | some m => decide (x.slot ≠ t.code ∨ (s.key x.slot).kind ≠ 5 ∨ (s.key x.slot).meas ≠ m) | none => false)
      | none => false
    if moved then .error ⟨.permission, addrInfo va⟩
    else
      match s.readGlobal k x n with
      | .error f => .error ⟨f, addrInfo va⟩
      | .ok v => .ok v

/-- The word at a virtual address (R66); one that is not aligned, which only an lbeg written by MTC can name, may cross a line. -/
def State.fetchWord (s : State) (k : CoreId) (va : Nat) : Except Trap Nat :=
  let n := 64 - va % 64
  if 4 ≤ n then s.fetch k va 4
  else
    match s.fetch k va n, s.fetch k (va + n) (4 - n) with
    | .ok lo, .ok hi => .ok (lo + hi * 256 ^ n)
    | .error t, _ => .error t
    | _, .error t => .error t

/-- The words of the bundle at an address, at most n of them; each word's slot is at least lo (R68, R69, R71). -/
def bundleWords (get : Nat → Except Trap Nat) : Nat → Nat → Bool → Nat → Except Trap (List Nat)
  | 0, _, _, _ => .ok []
  | n + 1, va, first, lo =>
    match get va with
    | .error t => .error t
    | .ok w =>
      if w = 0 then .ok []
      else if !first && bitAt w 31 then .ok []
      else if bits w 28 3 < lo then .error ⟨.illegal, encInfo 4 w (bits w 28 3)⟩
      else
        match bundleWords get n (va + 4) false (bits w 28 3 + 1) with
        | .error t => .error t
        | .ok ws => .ok (w :: ws)

/-- Words that a packet can still give a bundle at an address: at most 8 (R68, R71). -/
def bundleRoom (va : Nat) : Nat := Nat.min 8 (16 - va / 4 % 16)

/-- The instruction that a core's next bundle begins with, if it can be read. -/
def State.nextFirst (s : State) (k : CoreId) : Option Instr :=
  match s.fetchWord k (s.core k).pc.toNat with
  | .error _ => none
  | .ok w => match decodeWord w with | .ok i => some i | .error _ => none

/-- INSTRUCTION_FETCH_FAULT (R305): the first word of the next bundle cannot be fetched; the trap is taken in the issue way. -/
def execInstructionFetchFault (k : CoreId) (s : State) : Host.Outcome State Fault Refusal :=
  .next (
    let s' := s.switch k
    match s'.fetchWord k s'.c.pc.toNat with
    | .error t => (s'.takeTrap t s'.c.pc).switch s.c.id
    | .ok _ => s)

/-! ### Candidates (R281 to R284) -/

/-- A tenant world runs: bound to a TDI in RUN, and not suspended (R351, R354). -/
def State.worldRuns (s : State) (w : Nat) : Bool :=
  decide (w = 0) || (decide (w ∉ s.suspended) && s.vfs.any (fun v => decide (v.2.wld = w ∧ v.2.tdi = .run)))

/-- The free cores of a cluster, in order (R283); a disabled core is never bound (R426). -/
def State.freeCores (s : State) (cl : Nat) : List CoreId :=
  ((List.range 48).map (CoreId.compute cl)).filter (fun k => (s.core k).task.isNone && !(s.core k).halted && (s.core k).enabled)

/-- The core a task or record binds to (R283, R426): its pinned core, else the lowest RUN or IDLE one, else the lowest DARK one. -/
def State.pickCore (s : State) (free : List CoreId) (pin : Option Nat) : Option CoreId :=
  match pin with
  | some n => free.find? (fun k => decide (coreNumber k = n))
  | none =>
    let ok := free.filter (fun k => (s.core k).off.isEmpty)
    match ok.find? (fun k => decide ((s.core k).power ≠ .dark)) with
    | some k => some k
    | none => ok.head?

/-- A record or task that may bind: its class, its queue position (4,096 is the resume list), and what it is (R282). -/
structure Cand where
  cls : Nat
  pos : Nat
  seq : Nat
  record : BitVec 512
  core : Option CoreId
  saved : Option Saved
  deriving DecidableEq, Repr

/-- The record of a sequence number (R277). -/
def State.readRecord (s : State) (q : Queue) (seq : Nat) : Except Cause (BitVec 512) :=
  (s.readRange (queueParty q) (q.slotAddr seq) 64).map (BitVec.ofNat 512)

/-- The sequence numbers of a queue's records that are not consumed, in order (R278). -/
def Queue.seqs (q : Queue) : List Nat := ((List.range q.used).map (fun i => (q.head + i) % 2 ^ 32)).filter (fun n => decide (n ∉ q.holes))

/-- What a record is for a cluster, as a candidate: eligible, of a world that runs, and a resume record of a trapped task (R278, R281,
R315, R354). -/
def State.candOf (s : State) (cl : Nat) (free : List CoreId) (qn : Nat) (q : Queue) (seq : Nat) (r : BitVec 512) : Option Cand :=
  if s.recCluster q r ≠ cl ∨ recField r 22 2 ≠ 0 ∨ !s.worldRuns (s.ctx q.rctx).wld then none
  else if recResume r then
    match s.trappedAt q (recField r 8 8) with
    | some v => some ⟨recPrio r, qn, seq, r, s.pickCore free v.pin, some v⟩
    | none => none
  else some ⟨recPrio r, qn, seq, r, s.pickCore free (recPin r), none⟩

/-- A pinned record is a candidate only while its core is free; it does not hide those behind it (R281). -/
def Cand.pinned (x : Cand) : Bool := match x.saved with | some v => v.pin.isSome | none => (recPin x.record).isSome

/-- The candidates of a queue: for each class, the first eligible record (R281). An unreadable ring gives its address and cause. -/
def State.queueCands (s : State) (cl : Nat) (free : List CoreId) (qn : Nat) (q : Queue) : Except (Cause × Nat) (List Cand) :=
  q.seqs.foldlM (fun found seq =>
    match s.readRecord q seq with
    | .error f => .error (f, q.slotAddr seq)
    | .ok r =>
      match s.candOf cl free qn q seq r with
      | some x =>
        if (x.pinned && x.core.isNone) || found.any (fun y => decide (y.cls = x.cls)) then .ok found else .ok (found ++ [x])
      | none => .ok found) []

/-- The running task queues that a cluster consumes (R276, R278). -/
def State.taskQueues (s : State) (cl : Nat) : List (Nat × Nat × Queue) :=
  let p := s.partOf cl
  if 32 ≤ p ∨ (s.part p).halted then []
  else
    s.queues.filterMap (fun e =>
      if e.1.1 = p ∧ !e.2.stopped ∧ e.2.isTask ∧ s.consumes p e.1.2 e.2 cl then some (p, e.1.2, e.2) else none)

/-- The resume list of a cluster, in the order of joining (R284). -/
def State.resumeList (s : State) (cl : Nat) : List Saved :=
  let ready := s.tasks.filter (fun v => decide (v.cl = cl ∧ v.state = .ready) && s.worldRuns (s.ctx v.task.ctx).wld)
  ready.foldl (fun l v => l.takeWhile (fun x => decide (x.order ≤ v.order)) ++ v :: l.dropWhile (fun x => decide (x.order ≤ v.order))) []

/-- Tasks of a cluster that stand in its resume lists, or join them as the save under way ends (R284, R310). -/
def State.joining (s : State) (cl : Nat) : Nat :=
  (s.tasks.filter (fun v => decide (v.cl = cl ∧ v.state = .ready))).length +
    (s.cores.filter (fun k => decide (clusterOf k = cl ∧ (s.core k).saving = some .ready))).length

/-- The resume lists have room (R284). -/
def State.listRoom (s : State) (cl : Nat) : Bool := decide (s.joining cl < 1024)

/-- The tasks of the resume lists that can bind now, the first of each class (R282). -/
def State.resumeCands (s : State) (cl : Nat) (free : List CoreId) : List Cand :=
  (s.resumeList cl).foldl (fun found v =>
    let core := s.pickCore free v.pin
    if core.isNone || found.any (fun y => decide (y.cls = v.task.cls)) then found
    else found ++ [⟨v.task.cls, 4096, 0, 0, core, some v⟩]) []

/-- Every candidate of a cluster; queues whose ring cannot be read give none. -/
def State.cands (s : State) (cl : Nat) (free : List CoreId) : List Cand :=
  (s.taskQueues cl).flatMap (fun q => match s.queueCands cl free q.2.1 q.2.2 with | .ok l => l | .error _ => [])

/-- A cluster holds a candidate, or a resume-list entry, of a class or a higher one (R101, R294). -/
def State.waitingWork (s : State) (cl cls : Nat) : Bool :=
  !(s.part (s.partOf cl)).halted &&
    ((s.cands cl (s.freeCores cl)).any (fun x => decide (x.cls ≤ cls)) || (s.resumeList cl).any (fun v => decide (v.task.cls ≤ cls)))

/-! ### Binding (R220, R221, R282, R306, R307, R338) -/

/-- The pool of context slots has one to give (R307). -/
def State.hasSlot (s : State) (part ctx : Nat) : Bool :=
  let q := s.queue part (s.ctx ctx).plq
  !q.stopped && !q.isTask && decide (q.used ≠ 0)

/-- Why no record of a context can bind: the cause its queue stops with (R306). -/
def State.ctxError (s : State) (ctx : Nat) : Option Cause :=
  let x := s.ctx ctx
  if !x.v then some .translation
  else if (s.key x.kslot).wld ≠ x.wld ∨ (s.key x.kslot).st ≠ 1 then some .permission
  else none

/-- Why a fresh record of a context can never bind: the cause its queue stops with (R306, R338). -/
def State.bindError (s : State) (ctx compid : Nat) : Option Cause :=
  let x := s.ctx ctx
  (s.ctxError ctx).orElse fun _ =>
  if (if compid = 0 then decide (x.wld ≠ 0) else decide ((look ⟨0, none, 0⟩ s.comps compid).wld ≠ x.wld ∨ find? s.comps compid = none)) then
    some .compartment
  else none

/-- The measurement of a routine and its code slot: those of the page that holds its entry (R346). -/
def State.measure (s : State) (ctx entry : Nat) : Option (BitVec 384) × Nat :=
  match s.entryOf ctx entry with
  | .error _ => (none, 0)
  | .ok (e, _) =>
    let n := bits e 56 7
    if (s.key n).kind = 5 ∧ (s.key n).st = 1 then (some (s.key n).meas, n) else (none, 0)

/-- The registers and scratchpad of a core bound to a fresh record (R220, R221). -/
def Core.boundTo (c : Core) (t : Task) (slc : Nat) : Core :=
  let r := t.record
  let owner := (t.ctx, recField r 40 1)
  let n := recS r
  let base := c.freed (some owner)
  let same := decide (c.lastCtx = some owner)
  let scratch := if same then memFrom n c.scratch else []
  let poison := if same then c.poison.filter (fun l => decide (n ≤ 64 * l)) else []
  let c := { base with scratch := scratch, poison := poison, power := .run, task := some t, pc := BitVec.ofNat 49 (recField r 0 8) }
  let live := 2 ^ ceilDiv n 16384 - 1
  let set (c : Core) (e : Fin 96 × Nat) : Core := c.setCr e.1 (BitVec.ofNat 64 e.2)
  [(crCtxid, t.ctx), (crCompid, recField r 40 1), (crTaskid, recField r 24 8), (crTilec, recField r 16 6), (crArgp, recField r 8 8),
    (crWheybase, roundUp (recField r 32 4) 512), (crWheylen, 512 * recField r 36 1), (crLivemap, live), (crSlice, slc)].foldl set c

/-- The areas of a context slot whose contents are zero, as blocks (R307). -/
def zeroBlocks : List Nat := 0x7E000 :: 0x7F000 :: (List.range 128).map (fun i => 0x180000 + 4096 * i)

/-- A slot that a fresh record takes has its zero areas cleared, where they can be written (R307). -/
def State.clearSlot (s : State) (t : Task) : State :=
  zeroBlocks.foldl (fun s b => match s.slotWrite t.ctx [(t.slot + b, 0)] with | .ok s => s | .error _ => s) s

/-- Binding a fresh record to a core: its slot is taken and its record written there (R220, R307). A fault of that write loses the slot
as one of a save does, the model's choice (log 85): R428 names saves, restores, fills and flushes. -/
def State.bindFresh (s : State) (cl part : Nat) (x : Cand) (k : CoreId) : State :=
  let q := s.queue part x.pos
  match s.bindError q.rctx (recField x.record 40 1) with
  | some f => s.stopQueue part x.pos f.code (q.slotAddr x.seq)
  | none =>
    match s.takeItem part (s.ctx q.rctx).plq with
    | (s, none) => s
    | (s, some slot) =>
      let s := s.consume part x.pos x.seq
      let m := s.measure q.rctx (recField x.record 0 8)
      let t : Task := ⟨x.record, part, x.pos, q.rctx, slot.toNat, x.cls, m.1, m.2, []⟩
      let s := s.setCore ((s.core k).boundTo t q.slc)
      match s.slotWrite t.ctx [(t.slot + 0x7B000, headerBlock 0 0 t.record 0)] with
      | .ok s => s.clearSlot t
      | .error f => s.slotLost (.compute cl (coreNumber k)) t f []

/-- Takes a saved task off the list. -/
def State.takeSaved (s : State) (v : Saved) : State :=
  { s with tasks := s.tasks.filter (fun x => decide (x.task.ctx ≠ v.task.ctx ∨ x.task.slot ≠ v.task.slot)) }

/-- Binding what was chosen (R282, R315). A resume record gives its class and its queue; one of a context that cannot bind stops its
queue and stays there (R306). -/
def State.bind (s : State) (cl part : Nat) (x : Cand) (k : CoreId) : State :=
  match x.saved with
  | some v =>
    if x.pos = 4096 then (s.takeSaved v).restoreTask k v (s.queue v.task.part v.task.qn).slc
    else
      match s.ctxError v.task.ctx with
      | some f => s.stopQueue part x.pos f.code ((s.queue part x.pos).slotAddr x.seq)
      | none =>
      let v := { v with task := { v.task with cls := x.cls, qn := x.pos, part := part } }
      ((s.consume part x.pos x.seq).takeSaved v).restoreTask k v (s.queue part x.pos).slc
  | none => s.bindFresh cl part x k

/-- A candidate that can bind now: a core, and for a fresh record a slot, or an error to report (R306, R307). -/
def State.canBind (s : State) (part : Nat) (x : Cand) : Bool :=
  x.core.isSome &&
    (x.saved.isSome || (s.bindError (s.queue part x.pos).rctx (recField x.record 40 1)).isSome || s.hasSlot part (s.queue part x.pos).rctx)

/-- The choice of R282: the lowest class, then the first position at or after its pointer. -/
def chooseCand (ptr : List Nat) (xs : List Cand) : Option Cand :=
  let key (x : Cand) : Nat := x.cls * 8192 + (x.pos + 4097 - ptr.getD x.cls 0) % 4097
  xs.foldl (fun best x => match best with | some b => if key b ≤ key x then some b else some x | none => some x) none

/-- The first task queue of a cluster whose ring cannot be read (R279). -/
def State.brokenQueue (s : State) (cl : Nat) : Option (Nat × Nat × Cause × Nat) :=
  (s.taskQueues cl).findSome? (fun q =>
    match s.queueCands cl (s.freeCores cl) q.2.1 q.2.2 with
    | .error (f, a) => some (q.1, q.2.1, f, a)
    | .ok _ => none)

/-- SCHEDULER_BIND (R282): one record or task is bound to a free core. -/
def execSchedulerBind (cl : Nat) (s : State) : Host.Outcome State Fault Refusal :=
  .next (
    match s.brokenQueue cl with
    | some (p, qn, f, a) => s.stopQueue p qn f.code a
    | none =>
      let clu := s.cluster cl
      let part := s.partOf cl
      if clu.dark || clu.halted || (s.part part).halted then s
      else
        let free := s.freeCores cl
        match chooseCand clu.ptr ((s.cands cl free ++ s.resumeCands cl free).filter (s.canBind part)) with
        | none => s
        | some x =>
          match x.core with
          | none => s
          | some k =>
            (s.setCluster cl { clu with ptr := setNth clu.ptr x.cls ((x.pos + 1) % 4097) }).bind cl part x k)

/-! ### Pre-emption (R294 to R296) -/

/-- A wait, or a part of one, has failed (R74, R105). -/
def Wait.hasFailed (w : Wait) : Bool := w.fault.isSome

/-- A trap of this core is due, so that a pre-emption at the same boundary gives way (R304). -/
def Core.trapDue (c : Core) : Bool := !c.due.isEmpty || c.engineFault.isSome || c.ord.wait.any Wait.hasFailed

/-- SLICE_EXPIRY (R294): pre-empted, or the slice is reloaded. -/
def execSliceExpiry (k : CoreId) (s : State) : Host.Outcome State Fault Refusal :=
  .next (
    let c := s.core k
    match c.task with
    | none => s
    | some t =>
      if c.cr crSlice ≠ 0 ∨ c.trapDue ∨ c.saving.isSome then s
      else if 4096 ≤ c.issued ∧ s.waitingWork (clusterOf k) t.cls ∧ s.listRoom (clusterOf k) then s.saveTask k t .ready
      else s.setCore (c.setCr crSlice (BitVec.ofNat 64 (s.queue t.part t.qn).slc)))

/-- Compute cores of a cluster whose task is being saved: each is free for a candidate as its save ends. -/
def State.leaving (s : State) (cl : Nat) : Nat :=
  (((List.range 48).map (CoreId.compute cl)).filter (fun k => (s.core k).saving.isSome)).length

/-- The task that a waiting candidate pre-empts: the lowest class, then the lowest core (R295). A candidate pre-empts one task: as many
as there are saves under way have theirs already. -/
def State.victim (s : State) (cl : Nat) : Option (CoreId × Task) :=
  let res := ((List.range 48).map (CoreId.compute cl)).filterMap (fun k =>
    if (s.core k).saving.isSome then none else (s.core k).task.map (fun t => (k, t)))
  let pick := res.foldl (fun (best : Option (CoreId × Task)) x => match best with | some b => if x.2.cls ≤ b.2.cls then some b else some x | none => some x) Option.none
  match pick with
  | some x => if ((s.cands cl []).filter (fun y => decide (y.cls < x.2.cls))).length ≤ s.leaving cl then none else some x
  | none => none

/-- PRIORITY_PREEMPTION (R295). -/
def execPriorityPreemption (cl : Nat) (s : State) : Host.Outcome State Fault Refusal :=
  .next (
    match s.victim cl with
    | none => s
    | some (k, t) =>
      if (s.freeCores cl).isEmpty && (s.cands cl []).any (fun x => decide (x.cls < t.cls)) && decide (4096 ≤ (s.core k).issued) &&
          s.listRoom cl && !(s.core k).trapDue then s.saveTask k t .ready
      else s)

/-- PREEMPTED (R296, R316): a partition core whose slice has reached 0 enters its handler, unless it is in it. -/
def execPreempted (cl : Nat) (s : State) : Host.Outcome State Fault Refusal :=
  .next (
    let k := CoreId.partition cl
    let c := s.core k
    if c.frozen.isSome || !c.due.any (fun t => decide (t.cause = .preempted)) then s
    else
      let s' := (s.setCore { c with due := c.due.filter (fun t => decide (t.cause ≠ .preempted)) }).switch k
      (s'.takeTrap ⟨.preempted, Config.openWord s.freeCtr⟩ s'.c.pc).switch s.c.id)

/-! ### Waits and parking (R104, R107, R109, R219, R280) -/

/-- The tag wait that the next bundle stands in (R104): not while the bundle waits for the register that holds its mask, or for a QPOP (R28,
R109). -/
def State.tagCond (s : State) (k : CoreId) : Option Cond :=
  let c := s.core k
  let ready (a : Reg) : Bool := c.qpop.isNone && (decide (a = 0) || !c.interlocked (.scalar a))
  match (s.nextFirst k).filter (fun i => match i with | .wtall a => ready a | .wtany a => ready a | _ => false) with
  | some (.wtall a) => if c.cr crTagbits &&& c.rs a = c.rs a then none else some (.tags true (c.rs a))
  | some (.wtany a) => if c.rs a = 0 ∨ c.cr crTagbits &&& c.rs a ≠ 0 then none else some (.tags false (c.rs a))
  | _ => none

/-- The condition of a wait between bundles, if it is one that parks (R219); a CBAR whose arrival is delayed waits at its barrier
(R107, log 39). -/
def Wait.parks : Wait → Option Cond
  | .cbar b g => some (.barrier b g)
  | .arrive b n => some (.arrive b n)
  | .both x y => x.parks.orElse (fun _ => y.parks)
  | _ => none

/-- What a task waits for, if one of its waits is of those that park (R219): a barrier or a tag, else the QPOP or a QDEQ that is
pending, whatever else the core waits for (R109, R280). -/
def State.parkCond (s : State) (k : CoreId) : Option Cond :=
  let c := s.core k
  let first := match c.ord.wait with
    | some w => w.parks
    | none => s.tagCond k
  first.orElse fun _ =>
    if c.qpop.isSome && c.rq.isEmpty then some .qpop
    else if c.ilk.any (fun o => match o.kind with | .qdeq _ _ none => true | _ => false) then some .qdeq
    else none

/-- PARK_BOUND_EXPIRES (R219, R284): a wait longer than the task's park bound parks it, if the resume lists have room. -/
def execParkBoundExpires (k : CoreId) (s : State) : Host.Outcome State Fault Refusal :=
  .next (
    match (s.core k).task, s.parkCond k with
    | some t, some cond => if s.listRoom (clusterOf k) && !(s.core k).trapDue && (s.core k).saving.isNone then s.saveTask k t (.parked cond) else s
    | _, _ => s)

/-- A QDEQ of a saved task has its item (R280). -/
def Saved.hasItem (v : Saved) : Bool := v.ilk.any (fun o => match o.kind with | .qdeq _ _ (some _) => true | _ => false)

/-- The condition of a parked task holds (R219, R229, R233, R280); the item of a QDEQ makes it eligible whatever else it waits for. -/
def State.condHolds (s : State) (v : Saved) (cond : Cond) : Bool :=
  v.hasItem ||
  match cond with
  | .tags all m =>
    match s.slotField v.task.ctx v.task.slot 0x300 8 with
    | .ok x => if all then decide (BitVec.ofNat 64 x &&& m = m) else decide (BitVec.ofNat 64 x &&& m ≠ 0)
    | .error _ => false
  | .qpop =>
    match s.slotField v.task.ctx v.task.slot 0x680 128 with
    | .ok x => !(rqOfImage x).isEmpty
    | .error _ => false
  | .qdeq => false
  | .barrier b g => decide (((s.cluster v.cl).barrier b).gen ≠ g)
  | .arrive _ _ => false
  | .met => true

/-- A parked task may join its resume list before the others (R284): none of its cluster's tasks whose conditions came to hold
earlier still waits for room. -/
def State.firstMet (s : State) (v : Saved) : Bool :=
  s.tasks.all (fun w => !decide (w.cl = v.cl ∧ w.state = .parked .met) || (decide (v.state = .parked .met) && decide (v.order ≤ w.order)))

/-- A parked task moves on (R284): its condition comes to hold, or room has appeared for it. -/
def State.wakes (s : State) (v : Saved) : Bool :=
  match v.state with
  | .parked .met => s.listRoom v.cl && s.firstMet v
  | .parked cond => s.condHolds v cond
  | _ => false

/-! ### Barriers (R107) -/

/-- An arrival at a barrier (R107): the generation completes at the n-th. -/
def Barrier.arrive (b : Barrier) (owner : Nat × Nat) (n : Nat) : Barrier :=
  if b.arrived + 1 = n then { b with owner := owner, count := n, arrived := 0, gen := b.gen + 1 }
  else { b with owner := owner, count := n, arrived := b.arrived + 1 }

/-- A generation is Filling for another owner or another count (R107). -/
def Barrier.foreign (b : Barrier) (owner : Nat × Nat) (n : Nat) : Bool := decide (b.arrived ≠ 0 ∧ (b.owner ≠ owner ∨ b.count ≠ n))

/-- A wait once its arrival has been counted: what the arrival leaves in its place. -/
def Wait.counted (new : Option Wait) : Wait → Option Wait
  | .arrive _ _ => new
  | .both x y =>
    match x.counted new, y.counted new with
    | some a, some b => some (.both a b)
    | some a, none => some a
    | none, b => b
  | w => some w

/-- A wait stands at a generation of a barrier. -/
def Wait.standsAt (b : Fin 16) (g : Nat) : Wait → Bool
  | .cbar x h => decide (x = b ∧ h = g)
  | .both x y => x.standsAt b g || y.standsAt b g
  | _ => false

/-- An ordering state that waits at a generation of a barrier. -/
def Ordering.standsAt (o : Ordering) (b : Fin 16) (g : Nat) : Bool := o.wait.any (fun w => w.standsAt b g)

/-- The stores that a barrier's arrivals cover. -/
def Cluster.coveredAt (cl : Cluster) (b : Fin 16) : List Nat := look [] cl.gathered b.val

/-- A generation has completed: each departure is an acquire at .clu of what every arrival has released (R107, R239, R245, R248). -/
def State.depart (s : State) (cl : Nat) (b : Fin 16) (g : Nat) (k : Option CoreId) : State :=
  let ids := ((s.cluster cl).coveredAt b).filter s.isPending
  let s := (s.cores.filter (fun j => decide (clusterOf j = cl ∧ (some j = k ∨ (s.core j).ord.standsAt b g = true)))).foldl (fun s j =>
    let c := s.core j
    (s.setCore (c.observe (ids.filter (fun i => decide (i ∉ idsOf c.ord.own))) (c.age - 1))).acquire j (c.age - 1)) s
  let s : State := { s with tasks := s.tasks.map (fun v =>
    if v.cl = cl ∧ v.ord.standsAt b g = true then { v with ord := v.ord.observe ids v.newest } else v) }
  s.setCluster cl { s.cluster cl with gathered := del (s.cluster cl).gathered b.val }

/-- An arrival that releases some stores at .clu is counted (R107, R239): the barrier, and the departures if it is the last. -/
def State.countArrival (s : State) (cl : Nat) (b : Fin 16) (n : Nat) (owner : Nat × Nat) (ids : List Nat) (k : Option CoreId) : State :=
  let c := s.cluster cl
  let bar := c.barrier b
  let s := s.setCluster cl { c with
    barriers := put c.barriers b.val (bar.arrive owner n), gathered := put c.gathered b.val (c.coveredAt b ++ ids) }
  if bar.arrived + 1 = n then s.depart cl b bar.gen k else s

/-- The arrival of a core whose CBAR has issued, once its release is performed (R107). One that its release has delayed waits while
a generation of another owner or count fills (log 39). -/
def State.arrive (s : State) (k : CoreId) (b : Fin 16) (n : Nat) : State :=
  let bar := (s.cluster (clusterOf k)).barrier b
  let c := s.core k
  if bar.foreign c.owner n then s else
  let wait := c.ord.wait.bind (Wait.counted (if bar.arrived + 1 = n then none else some (.cbar b bar.gen)))
  (s.setCore { c with ord := { c.ord with wait := wait } }).countArrival (clusterOf k) b n c.owner (c.ord.covered.filter s.isPending) (some k)

/-- The arrival of a task that parked before it could be counted (R107, R219): its accesses are performed, and its barrier takes it. -/
def State.arriveSaved (s : State) (v : Saved) (b : Fin 16) (n : Nat) : State :=
  let bar := (s.cluster v.cl).barrier b
  let owner := (v.task.ctx, recField v.task.record 40 1)
  let quiet := v.stq.isEmpty && v.ilk.all (fun o => match o.kind with | .access _ none => false | .qdeq _ _ none => false | _ => true) &&
    (match s.slotRead v.task.ctx v.task.slot with
     | .ok img => (logsOf img).isEmpty && !bitAt (field img 0x620 32) 159 && !bitAt (field img 0x310 8) 63
     | .error _ => false)
  if !quiet || bar.foreign owner n then s
  else
    let s := s.setSaved v.task.ctx v.task.slot (fun x => { x with
      state := .parked (.barrier b bar.gen)
      ord := { x.ord with wait := x.ord.wait.bind (Wait.counted (some (.cbar b bar.gen))) } })
    s.countArrival v.cl b n owner (v.ord.covered.filter s.isPending) none

/-- A saved task whose arrival at a barrier is still due. -/
def Saved.arrival (v : Saved) : Option (Fin 16 × Nat) := match v.state with | .parked (.arrive b n) => some (b, n) | _ => none

/-- PARKED_CONDITION_HOLDS (R219, R284): a task in a slot becomes eligible, at the tail of its class, once the list has room;
tasks join in the order in which their conditions came to hold. The delayed arrival of a parked task is counted here (R107). -/
def execParkedConditionHolds (cl : Nat) (slot : Nat) (s : State) : Host.Outcome State Fault Refusal :=
  .next (
    match s.tasks.find? (fun v => decide (v.cl = cl ∧ v.task.slot = slot) && s.wakes v) with
    | none =>
      (match s.tasks.find? (fun v => decide (v.cl = cl ∧ v.task.slot = slot) && v.arrival.isSome) with
       | some v => (match v.arrival with | some (b, n) => s.arriveSaved v b n | none => s)
       | none => s)
    | some v =>
      let st := if s.listRoom cl && s.firstMet v then TaskState.ready else .parked .met
      { s.setSaved v.task.ctx slot (fun x => { x with state := st, order := s.ids }) with ids := s.ids + 1 })

/-- A barrier whose owner's context is destroyed returns to Open (R233). -/
def State.openBarriers (s : State) (ctx : Nat) : State :=
  { s with clusters := s.clusters.map (fun e =>
      (e.1, { e.2 with barriers := e.2.barriers.map (fun b => if b.2.owner.1 = ctx then (b.1, { b.2 with arrived := 0 }) else b) })) }

/-! ### The end of a task (R100, R226) -/

/-- Nothing of a core is outstanding any more but its stores (R100). -/
def Core.tendQuiet (c : Core) : Bool :=
  c.ilk.isEmpty && c.held.isNone && c.cmds.isEmpty && c.gather.isNone && c.stream.isNone && c.stq.isEmpty && c.log.isEmpty &&
    c.array.isNone && c.loader.isNone && c.due.isEmpty

/-- The conditions of TEND's wait (R100): the release at .mod covers the write-backs of its windows (R226). -/
def State.tendReady (s : State) (c : Core) : Bool := c.tendQuiet && s.storesDone c .mod

/-- A window of a core has a dirty piece. -/
def Core.anyDirty (c : Core) : Bool := c.wins.any (fun w => w.pieces.any (fun p => decide (p = .dirty)))

/-- The write-back of every dirty piece before TEND's release (R226): the first that faults, as an engine fault with tag 0. -/
def State.tendWriteBack (s : State) (k : CoreId) : Except Trap State :=
  ((s.core k).wins.zipIdx).foldlM (fun (s : State) w =>
    (w.1.pieces.zipIdx).foldlM (fun (s : State) p =>
      if p.1 = .dirty then
        match s.writePiece (s.core k) w.1 p.2 with
        | .ok s' => .ok (s'.setCore (((s'.core k).setPiece w.2 p.2 .clean).countHints (w.1.ga + 4096 * p.2) 4096))
        | .error t => .error ⟨t.cause, engInfo 0 p.2 0 1 t.info.toNat⟩
      else .ok s) s) s

/-- A slot goes back to the pool of its context; while the pool is full or stopped it waits with the scheduler (R307). An append that faults
fails (R279). -/
def State.returnSlot (s : State) (cl : Nat) (t : Task) : State :=
  let plq := (s.ctx t.ctx).plq
  if (s.queue t.part plq).shut then
    let c := s.cluster cl
    s.setCluster cl { c with items := c.items ++ [⟨t.part, plq, BitVec.ofNat 64 t.slot, [], none⟩] }
  else (s.append t.part plq t.slot).1

/-- The base lines of a finished task's register space, which the core flushes as it leaves the task (R223, R232); what TEND discards
is gone (R100). -/
def State.flushBase (s : State) (k : CoreId) (t : Task) : Except Cause State :=
  let img := s.regSpace { s.core k with shadow := [], rq := [], wins := [], tendDone := false } t.record
  s.slotWrite t.ctx ((List.range 4).map (fun i => (t.slot + 4096 * i, img / 2 ^ (32768 * i) % 2 ^ 32768)))

/-- TEND finishes: hints are evaluated, readers unregistered, the core freed, the slot returned, the signals due (R100, R218,
R252, R307, R324). A flush that faults ends the task without completion (R428). -/
def State.finishTask (s : State) (k : CoreId) (t : Task) : State :=
  let s := s.evalHints (s.core k)
  match s.flushBase k t with
  | .error f => s.slotLost k t f []
  | .ok s =>
  let s := s.endOfTask t
  let s := (s.unheard k).setCore ((s.core k).freed (some (t.ctx, recField t.record 40 1)))
  let s : State := { s with signals := s.signals ++ [⟨t.record, t.part, t.qn, clusterOf k, t.ctx⟩] }
  s.returnSlot (clusterOf k) t

/-- A trap found while the core waits is due at its boundary (R304). -/
def State.addDue (s : State) (k : CoreId) (t : Trap) : State := s.setCore { s.core k with due := (s.core k).due ++ [t] }

/-- TEND_WAIT_ENDS (R100, R226): the wait's conditions, then the write-back of what is dirty, then the release that covers it, then
completion. -/
def execTendWaitEnds (k : CoreId) (s : State) : Host.Outcome State Fault Refusal :=
  .next (
    let c := s.core k
    match c.task, c.ord.wait with
    | some t, some .tend =>
      if !c.due.isEmpty then s
      else
        match s.releaseFault c .mod with
        | some f => s.addDue k f
        | none =>
          if !c.tendQuiet then s
          else if c.anyDirty then
            match s.tendWriteBack k with
            | .error f => s.addDue k f
            | .ok s' => s'
          else if s.storesDone c .mod then s.finishTask k t
          else s
    | _, _ => s)

end Sys2Proof.Machine
end

