-- ==== Sys2Proof/Machine/Stream.lean ====
section
/-! DEFINITION. Generation streams (R207 to R209, R355 to R368): stream-table entries, pages, the sampler's stages and draw, and
the effect of each stream form. A form is performed whole. -/

namespace Sys2Proof.Machine

/-! ### Entries (R355, R356) -/

/-- Why a stream form does not complete: a fault, an empty page pool (R359), a mask that is not ready, with the deadline of its stage
(R362), a set lock. -/
inductive StreamErr where
  | cause (c : Cause)
  | pool
  | notReady (dl : Nat)
  | locked
  deriving DecidableEq, Repr

/-- A result with the state it leaves. -/
abbrev SRes := Except StreamErr State

/-- A fault of the sampler's access. -/
def liftCause {α : Type} : Except Cause α → Except StreamErr α
  | .ok x => .ok x
  | .error c => .error (.cause c)

/-- STREAM_STATE unless a condition holds (R209). -/
def streamOk (b : Bool) : Except StreamErr Unit := if b then .ok () else .error (.cause .streamState)

/-- The sampler of a cluster as a party: in the context of the stream table, for the partition core (R339, R355). -/
def State.samplerParty (s : State) (k : CoreId) : Party :=
  ⟨.partition, bits (s.part (s.partOf (clusterOf k))).stcfg.toNat 0 9, 0, .partition (clusterOf k)⟩

/-- The sampler reads n bytes at a virtual address, as its cluster sees them: every write that is hb-before the form is among those
(R248, R249, R358). -/
def State.seenRange (s : State) (p : Party) (va n : Nat) : Except Cause Nat :=
  let v := s.view (clusterOf p.core)
  (chunksOf va n).foldlM (fun acc c => do
    let x ← s.translate p c.1 Need.read
    let y ← v.readHome x c.2
    pure (acc + y * 256 ^ (c.1 - va))) 0

/-- A stream table entry that has been read: its number, its address and its 256 bytes. -/
structure Strm where
  addr : Nat
  raw : Nat
  deriving DecidableEq, Repr

/-- n bytes of an entry. -/
def Strm.f (e : Strm) (lo n : Nat) : Nat := field e.raw lo n
/-- An entry with n bytes replaced. -/
def Strm.set (e : Strm) (lo n v : Nat) : Strm := { e with raw := setBits e.raw (8 * lo) (8 * n) v }
/-- `vocab` -/
def Strm.vocab (e : Strm) : Nat := e.f 4 4
/-- `kvn` -/
def Strm.kvn (e : Strm) : Nat := e.f 24 4
/-- `kvpb` -/
def Strm.kvpb (e : Strm) : Nat := e.f 28 4
/-- `rs` -/
def Strm.rs (e : Strm) : Nat := e.f 56 8
/-- `rsz` -/
def Strm.rsz (e : Strm) : Nat := e.f 64 4
/-- `hlen` -/
def Strm.hlen (e : Strm) : Nat := e.f 104 4
/-- `g` -/
def Strm.g (e : Strm) : Nat := e.f 128 4
/-- `p` -/
def Strm.p (e : Strm) : Nat := e.f 132 4
/-- `spos` of slot k -/
def Strm.spos (e : Strm) (k : Nat) : Nat := e.f (80 + 4 * k) 4
/-- None, or invalid. -/
def noPos : Nat := 0xFFFFFFFF
/-- An open stream. -/
def Strm.isOpen (e : Strm) : Bool := bitAt e.raw 0

/-- The S fields lie within their limits, and what must be zero is (R356). -/
def Strm.fieldsOk (e : Strm) : Bool :=
  decide (2 ≤ e.vocab ∧ e.vocab ≤ 262144 ∧ 1 ≤ e.kvn ∧ e.kvn ≤ 65536 ∧ e.kvpb % 64 = 0 ∧ 64 ≤ e.kvpb ∧ e.kvpb ≤ 1048576) &&
    decide (e.rs % 64 = 0 ∧ e.rsz % 64 = 0 ∧ e.rsz ≤ 1048576 ∧ 1 ≤ e.f 68 4 ∧ e.f 68 4 ≤ 65536) &&
    decide (64 ≤ e.hlen ∧ e.hlen ≤ 65536 ∧ 2 ^ Nat.log2 e.hlen = e.hlen) &&
    decide (e.f 50 6 = 0 ∧ e.f 164 92 = 0 ∧ bits e.raw 2 30 = 0)

/-- The entry of a stream number, checked (R355, R356). -/
def State.strm (s : State) (k : CoreId) (n : Nat) : Except StreamErr Strm := do
  let p := s.part (s.partOf (clusterOf k))
  streamOk (decide (n < bits p.stcfg.toNat 16 14 ∧ n < 8192))
  let a := bits p.stbase.toNat 12 37 * 4096 + 256 * n
  let v ← liftCause (s.seenRange (s.samplerParty k) a 256)
  streamOk (Strm.fieldsOk ⟨a, v⟩)
  pure ⟨a, v⟩

/-- Reads n bytes for the sampler. -/
def State.sRead (s : State) (p : Party) (a n : Nat) : Except StreamErr Nat := liftCause (s.seenRange p a n)
/-- A write of the sampler to a fenced home is lost (R254): while a form runs, its core's own mark notes it. -/
def State.sLost (s : State) (p : Party) (lost : Bool) : State := if lost then s.setCore ((s.core p.core).loseStore .window) else s

/-- Writes n bytes for the sampler. -/
def State.sWrite (s : State) (p : Party) (a n v : Nat) : SRes := do
  let lost := (chunksOf a n).any (fun c => match s.translate p c.1 Need.write with | .ok x => s.fenced x.pa | .error _ => false)
  let s ← liftCause (s.writeRange p a n v)
  pure (s.sLost p lost)

/-- Writes fields of an entry, as (offset, bytes): a form writes no field that it does not change (R356). -/
def State.putStrm (s : State) (p : Party) (e : Strm) (fs : List (Nat × Nat)) : SRes :=
  fs.foldlM (fun s f => s.sWrite p (e.addr + f.1) f.2 (e.f f.1 f.2)) s

/-- A copy by the copy engine on the sampler's behalf, with its poison (R192, R359). -/
def State.sCopy (s : State) (p : Party) (src dst n : Nat) : SRes :=
  let parts := (streamParts (fun _ => src) n n n 0).flatMap (fun q =>
    (chunksOf (dst + q.1) q.2.2).map (fun d => (src + (d.1 - dst), d.1, d.2)))
  parts.foldlM (fun (s : State) q => do
    let x ← liftCause (s.translate p q.1 Need.read)
    let y ← liftCause (s.translate p q.2.1 Need.write)
    let v := s.view (clusterOf p.core)
    let bad := x.psn || v.poisoned (x.pa / 64)
    let lost := s.fenced y.pa
    let s := (s.storeHome p.core y (bytesOf q.2.2 (v.plain x.label x.pa q.2.2)) false).sLost p lost
    pure (if bad && !lost then s.poisonLine (y.pa / 64) else s)) s

/-! ### Pages (R359) -/

/-- The page of entry j of the page list. -/
def State.pageAt (s : State) (p : Party) (e : Strm) (j : Nat) : Except StreamErr Nat := s.sRead p (e.f 16 8 + 4 * j) 4

/-- The reference count of a page. -/
def State.pageCount (s : State) (p : Party) (e : Strm) (n : Nat) : Except StreamErr Nat := s.sRead p (e.f 40 8 + 4 * n) 4

/-- Adds to the reference count of a page. -/
def State.addCount (s : State) (p : Party) (e : Strm) (n : Nat) (d : Nat → Nat) : SRes := do
  let c ← s.pageCount p e n
  s.sWrite p (e.f 40 8 + 4 * n) 4 (d c % 2 ^ 32)

/-- Takes n page numbers from the pool, or none of them. -/
def State.freshPages (s : State) (part : Nat) (e : Strm) : Nat → Except StreamErr (State × List Nat)
  | 0 => .ok (s, [])
  | n + 1 => do
    if (s.queue part (e.f 48 2)).isTask then throw .pool
    match s.takeItem part (e.f 48 2) with
    | (_, none) => throw .pool
    | (s, some v) => do
      let (s, rest) ← s.freshPages part e n
      pure (s, v.toNat % 2 ^ 32 :: rest)

/-- A pool that holds too few pages: those it held are taken and appended back (R359). -/
def State.giveBack (s : State) (part qn : Nat) : State :=
  if (s.queue part qn).isTask then s
  else
    let r := (List.range (s.queue part qn).used).foldl (fun (acc : State × List Word) _ =>
      match acc.1.takeItem part qn with
      | (s, some v) => (s, acc.2 ++ [v])
      | (s, none) => (s, acc.2)) (s, [])
    r.2.foldl (fun s v => (s.append part qn v.toNat).1) r.1

/-- What providing entry j needs: a page to place, a page to make private, or nothing (R359). -/
inductive PageNeed where
  | place
  | copy (old : Nat)
  | ready
  deriving DecidableEq, Repr

/-- What providing entry j needs. -/
def State.pageNeed (s : State) (p : Party) (e : Strm) (j : Nat) : Except StreamErr PageNeed := do
  let n ← s.pageAt p e j
  if n = noPos then pure .place
  else
    let c ← s.pageCount p e n
    pure (if 1 < c then .copy n else .ready)

/-- A fresh page for entry j (R359): placed, or a private copy of the old one. -/
def State.usePage (s : State) (p : Party) (e : Strm) (j : Nat) (need : PageNeed) (n : Nat) : Except StreamErr (State × Strm) := do
  match need with
  | .ready => pure (s, e)
  | .place =>
    let s ← s.sWrite p (e.f 40 8 + 4 * n) 4 1
    let s ← s.sWrite p (e.f 16 8 + 4 * j) 4 n
    pure (s, e)
  | .copy old =>
    let at' (k : Nat) : Nat := e.f 32 8 + k * e.kvpb
    let s ← s.sCopy p (at' old) (at' n) e.kvpb
    let s ← s.sWrite p (e.f 40 8 + 4 * n) 4 1
    let s ← s.addCount p e old (· - 1)
    let s ← s.sWrite p (e.f 16 8 + 4 * j) 4 n
    pure (s, e.set 160 4 (e.f 160 4 + 1))

/-- Provides the entries of a list, all fresh pages taken before anything changes (R359). -/
def State.provide (s : State) (p : Party) (part : Nat) (e : Strm) (js : List Nat) : Except StreamErr (State × Strm) := do
  let needs ← js.mapM (fun j => do let x ← s.pageNeed p e j; pure (j, x))
  let needs := needs.filter (fun x => decide (x.2 ≠ .ready))
  let (s, pages) ← s.freshPages part e needs.length
  (needs.zip pages).foldlM (fun (se : State × Strm) x => se.1.usePage p se.2 x.1.1 x.1.2 x.2) (s, e)

/-- Releases entry j: its count falls, and at 0 its page goes to the pool (R359). -/
def State.releasePage (s : State) (p : Party) (part : Nat) (e : Strm) (j : Nat) : SRes := do
  let n ← s.pageAt p e j
  if n = noPos then pure s
  else
    let c ← s.pageCount p e n
    let s ← s.sWrite p (e.f 40 8 + 4 * n) 4 (c - 1)
    let s ← s.sWrite p (e.f 16 8 + 4 * j) 4 noPos
    pure (if c ≤ 1 then (s.append part (e.f 48 2) n).1 else s)

/-! ### Weights and filters (R363, R364) -/

/-- A non-negative finite FP32 in units of 2^-149. -/
def fp32Units (x : Nat) : Nat :=
  let ex := bits x 23 8
  if ex = 0 then bits x 0 23 else (2 ^ 23 + bits x 0 23) * 2 ^ (ex - 1)

/-- A token's logit, while it is live. -/
abbrev Logits := List (Option Nat)

/-- A logit that is NaN makes its token not live (R360). -/
def dropNaN (xs : Logits) : Logits := xs.map (fun x => match x with | some v => if (fp32.value v).isNaN then none else some v | none => none)

/-- The largest live logit. -/
def maxLogit (xs : Logits) : Option Nat :=
  xs.foldl (fun m x =>
    match m, x with
    | some a, some b => if cmpExt (fp32.value a) (fp32.value b) < 0 then some b else some a
    | none, b => b
    | a, none => a) none

/-- The weight of a live logit under a maximum, in units of 2^-149 (R363). -/
def weightOf (m x : Nat) : Nat :=
  let mv := fp32.value m
  let xv := fp32.value x
  if mv.isInf && !mv.isNeg then (if xv.isInf && !xv.isNeg then 2 ^ 149 else 0)
  else if xv.isInf then 0
  else
    let d := (sumExt .rne [xv, mv.negate]).1
    let t := (deliver fp32 rneOff (mulExt d (fp32.value 0x3FB8AA3B)).1).1
    fp32Units (fpExp2 fp32 rneOff t).1

/-- The weights of R363; a token that is not live has weight 0. -/
def weights (xs : Logits) : List Nat :=
  match maxLogit xs with
  | none => xs.map (fun _ => 0)
  | some m => xs.map (fun x => match x with | some v => weightOf m v | none => 0)

/-- How many live tokens come before token i in the order of R364. -/
def rankOf (es : List (Nat × Option Nat)) (i e : Nat) : Nat :=
  (es.filter (fun x => match x.2 with | some y => decide (e < y) || (decide (e = y) && decide (x.1 < i)) | none => false)).length

/-- The tokens that a filter keeps (R364): `q` is an FP32 in (0, 1]. -/
def filterStage (sub kTop q : Nat) (xs : Logits) : Logits :=
  let ws := weights xs
  let es : List (Nat × Option Nat) := ((xs.zip ws).zipIdx).map (fun x => (x.2, x.1.1.map (fun _ => x.1.2)))
  let total := ws.sum
  let top := ws.foldl Nat.max 0
  ((xs.zip ws).zipIdx).map (fun x =>
    match x.1.1 with
    | none => none
    | some v =>
      let e := x.1.2
      let stays : Bool :=
        match sub with
        | 0 => decide (rankOf es x.2 e < kTop)
        | 1 => decide (((es.filterMap (·.2)).filter (fun y => decide (e < y))).sum * 2 ^ 149 < fp32Units q * total)
        | _ => decide (fp32Units q * top ≤ e * 2 ^ 149)
      if stays then some v else none)

/-! ### Stages (R361, R362) -/

/-- A positive finite FP32. -/
def fp32Positive (x : Nat) : Bool := decide (0 < x ∧ x < 0x7F800000)

/-- A Filter's q: an FP32 in (0, 1]. -/
def fp32Unit (x : Nat) : Bool := decide (0 < x ∧ x ≤ 0x3F800000)

/-- Changes the logit of one live token. -/
def onToken (xs : Logits) (t : Nat) (f : Nat → Nat) : Logits :=
  (xs.zipIdx).map (fun x => if x.2 = t then x.1.map f else x.1)

/-- The Penalty of a token that occurs c times (R361). -/
def penalise (r fq pr c x : Nat) : Nat :=
  let xv := fp32.value x
  let y := if !xv.isNeg && !xv.isZero then (fpDiv fp32 rneOff x r).1 else (fpMul fp32 rneOff x r).1
  let cf := (mulExt (extOfInt c) (fp32.value fq)).1
  (deliver fp32 rneOff (sumExt .rne [fp32.value y, cf.negate, (fp32.value pr).negate]).1).1

/-- What a stage leaves: the logits, and the position of the last mask applied. -/
structure StageOut where
  xs : Logits
  lmp : Nat
  deriving DecidableEq, Repr

/-- Applies a mask bitmap: a token with a 0 bit is not live (R362). -/
def applyMask (xs : Logits) (m : Nat) : Logits := (xs.zipIdx).map (fun x => if bitAt m x.2 then x.1 else none)

/-- The Mask stage (R362). `late` gives the ticks that have passed since the form began, once a deadline has expired. -/
def State.maskStage (s : State) (p : Party) (e : Strm) (pos b : Nat) (late : Option Nat) (o : StageOut) : Except StreamErr StageOut := do
  let sub := field b 1 1
  let dl := field b 4 4
  let size := roundUp (ceilDiv e.vocab 8) 64
  let buffer (n : Nat) : Except StreamErr Nat := s.sRead p (field b 8 8 + n % 2 * size) size
  streamOk (decide ((sub = 0 → 1 ≤ dl) ∧ field b 8 8 % 64 = 0 ∧ field b 16 8 % 8 = 0 ∧ sub ≤ 2))
  let ready ← s.sRead p (field b 16 8) 8
  if ready = pos then
    let m ← buffer pos
    pure ⟨applyMask o.xs m, pos⟩
  else
    match sub with
    | 0 => if late.any (fun t => decide (dl ≤ t)) then throw (.cause .maskLate) else throw (.notReady dl)
    | 1 =>
      if o.lmp = noPos then pure o
      else
        let m ← buffer o.lmp
        pure { o with xs := applyMask o.xs m }
    | _ => pure o

/-- Tokens of the history at positions lo to hi - 1. -/
def State.history (s : State) (p : Party) (e : Strm) (lo hi : Nat) : Except StreamErr (List Nat) :=
  (List.range (hi - lo)).mapM (fun i => s.sRead p (e.f 96 8 + 4 * ((lo + i) % e.hlen)) 4)

/-- One stage (R361). -/
def State.stage (s : State) (p : Party) (e : Strm) (pos b : Nat) (late : Option Nat) (o : StageOut) : Except StreamErr StageOut := do
  let sub := field b 1 1
  match field b 0 1 with
  | 1 =>
    streamOk (decide (sub = 0 ∧ field b 8 16 = 0) && fp32Positive (field b 4 4))
    pure { o with xs := o.xs.map (fun x => x.map (fun v => (fpDiv fp32 rneOff v (field b 4 4)).1)) }
  | 2 =>
    streamOk (decide (sub = 0 ∧ field b 4 4 = 0 ∧ field b 20 4 = 0 ∧ field b 8 8 % 8 = 0 ∧ 1 ≤ field b 16 4 ∧ field b 16 4 ≤ 4096))
    let n := field b 16 4
    let l ← s.sRead p (field b 8 8) (8 * n)
    let es := lanesOf 64 n l
    streamOk (es.all (fun x => decide (x % 2 ^ 32 < e.vocab)))
    pure { o with xs := es.foldl (fun xs x => onToken xs (x % 2 ^ 32) (fun v => (fpAdd fp32 rneOff v (x / 2 ^ 32)).1)) o.xs }
  | 3 => s.maskStage p e pos b late o
  | 4 =>
    streamOk (decide (sub = 0 ∧ field b 20 4 = 0 ∧ 1 ≤ field b 4 4 ∧ field b 4 4 ≤ e.hlen ∧ 0 < field b 8 4 ∧ field b 8 4 ≤ 0x7F800000))
    let h ← s.history p e (pos - field b 4 4) pos
    let toks := h.foldl (fun ts t => insertNew t ts) []
    pure { o with xs := toks.foldl (fun xs t => onToken xs t (penalise (field b 8 4) (field b 12 4) (field b 16 4) (h.count t))) o.xs }
  | 5 =>
    let k := field b 4 4
    streamOk (decide (sub ≤ 2 ∧ field b 12 12 = 0) && (if sub = 0 then decide (1 ≤ k ∧ k ≤ e.vocab) else fp32Unit (field b 8 4)))
    pure { o with xs := filterStage sub k (field b 8 4) o.xs }
  | _ => throw (.cause .streamState)

/-- The chain, at most 16 blocks (R360, R361). -/
def State.stages (s : State) (p : Party) (e : Strm) (pos : Nat) (late : Option Nat) : Nat → Nat → StageOut → Except StreamErr StageOut
  | 0, a, o => if a = 0 then .ok o else .error (.cause .streamState)
  | n + 1, a, o =>
    if a = 0 then .ok o
    else do
      streamOk (decide (a % 32 = 0))
      let b ← s.sRead p a 32
      streamOk (decide (field b 2 2 = 0))
      let o ← s.stage p e pos b late o
      s.stages p e pos late n (field b 24 8) { o with xs := dropNaN o.xs }

/-! ### The draw and the forms (R360, R365 to R368) -/

/-- The draw of R365 over weights in units. -/
def drawToken (key pos draw : Nat) (ws : List Nat) : Option Nat :=
  let o := aesEncrypt (natBytes 16 key) (natBytesBE 8 pos ++ natBytesBE 4 draw ++ [0, 0, 0, 0])
  let u := natOfBE (o.take 3)
  let total := ws.sum
  let sums := (ws.zipIdx).foldl (fun (acc : Nat × List (Nat × Nat)) w => (acc.1 + w.1, acc.2 ++ [(w.2, acc.1 + w.1)])) (0, [])
  (sums.2.find? (fun x => decide ((2 * u + 1) * total < x.2 * 2 ^ 25))).map (·.1)

/-- A replay is pending (R357). -/
def Strm.replaying (e : Strm) : Bool := decide (e.f 148 4 < e.f 144 4)

/-- The result fields of a request (R208). -/
def State.answer (s : State) (p : Party) (req tok stat : Nat) : SRes := s.sWrite p (req + 24) 8 (tok + stat * 2 ^ 32)

/-- GSMPL (R360). -/
def State.gsmpl (s : State) (k : CoreId) (n req : Nat) (late : Option Nat) : SRes := do
  let p := s.samplerParty k
  let part := s.partOf (clusterOf k)
  let e ← s.strm k n
  let r ← s.sRead p req 32
  streamOk (e.isOpen && decide (field r 20 4 = 0))
  let pos := field r 8 4
  if field r 16 4 ≠ e.f 136 4 then
    let s ← s.putStrm p (e.set 156 4 (e.f 156 4 + 1)) [(156, 4)]
    s.answer p req noPos 1
  else
    streamOk (decide (pos = e.g) && !e.replaying && decide (e.g ≠ 16 * e.kvn))
    let x ← s.sRead p (field r 0 8) (4 * e.vocab)
    let xs := dropNaN ((lanesOf 32 e.vocab x).map some)
    let o ← s.stages p e pos late 16 (e.f 8 8) ⟨xs, e.f 152 4⟩
    match drawToken (e.f 112 16) pos (field r 12 4) (weights o.xs) with
    | none => throw (.cause .streamState)
    | some tok =>
      let (s, e) ← s.provide p part e [e.g / 16]
      let s ← s.sWrite p (e.f 96 8 + 4 * (e.g % e.hlen)) 4 tok
      let s ← s.putStrm p ((e.set 128 4 (e.g + 1)).set 152 4 o.lmp) [(128, 4), (152, 4), (160, 4)]
      s.answer p req tok 0

/-- Fields that a child shares with its parent (R366). -/
def Strm.shares (a b : Strm) : Bool :=
  decide (a.vocab = b.vocab ∧ a.kvpb = b.kvpb ∧ a.f 32 8 = b.f 32 8 ∧ a.f 40 8 = b.f 40 8 ∧ a.f 48 2 = b.f 48 2 ∧ a.rsz = b.rsz ∧
    a.f 68 4 = b.f 68 4 ∧ a.hlen = b.hlen ∧ a.kvn ≤ b.kvn)

/-- The key of a child (R366 step 5). -/
def forkKey (key ordinal g : Nat) : Nat :=
  natOfLE (aesEncrypt (natBytes 16 key) (natBytesBE 4 ordinal ++ natBytesBE 8 g ++ [0, 0, 0, 1]))

/-- GFORK (R366). -/
def State.gfork (s : State) (k : CoreId) (n sb : Nat) : SRes := do
  let p := s.samplerParty k
  let e ← s.strm k n
  streamOk (e.isOpen && decide (bits sb 13 3 = 0 ∧ bits sb 32 32 = 0))
  let d ← s.strm k (bits sb 0 13)
  streamOk (!d.isOpen && e.shares d)
  if bitAt d.raw 1 then throw .locked
  let s ← (List.range e.kvn).foldlM (fun (s : State) j => do
    let pg ← s.pageAt p e j
    let s ← s.sWrite p (d.f 16 8 + 4 * j) 4 pg
    if pg = noPos then pure s else s.addCount p e pg (· + 1)) s
  let s ← s.sCopy p (e.f 96 8) (d.f 96 8) (4 * e.hlen)
  let s ← if e.rs = 0 then pure s else s.sCopy p e.rs d.rs e.rsz
  let s ← if e.rs = 0 then pure s else s.sCopy p (e.f 72 8) (d.f 72 8) (4 * e.rsz)
  let d := ((((d.set 8 8 (e.f 8 8)).set 80 16 (e.f 80 16)).set 108 4 (e.f 108 4)).set 128 28 (e.f 128 28)).set 156 8 0
  s.putStrm p ((d.set 112 16 (forkKey (e.f 112 16) (bits sb 16 16) e.g)).set 0 4 1)
    [(8, 8), (80, 16), (108, 4), (128, 28), (156, 8), (112, 16), (0, 4)]

/-- The valid slot with the largest position that is at most p (R368). -/
def Strm.bestSlot (e : Strm) (p : Nat) : Option Nat :=
  (List.range 4).foldl (fun best k =>
    if e.spos k = noPos ∨ p < e.spos k then best
    else match best with
      | some b => if e.spos b < e.spos k then some k else some b
      | none => some k) none

/-- GTRUNC (R368). -/
def State.gtrunc (s : State) (k : CoreId) (n sb : Nat) : SRes := do
  let p := s.samplerParty k
  let part := s.partOf (clusterOf k)
  let e ← s.strm k n
  streamOk (e.isOpen && decide (bits sb 32 32 = 0 ∧ e.f 136 4 < bits sb 0 32))
  let cut := e.p
  let slot := if e.rs = 0 then none else e.bestSlot cut
  if e.rs ≠ 0 ∧ slot = none then throw (.cause .lateFrame)
  let from' := match slot with | some x => e.spos x | none => cut
  let keep := (List.range (ceilDiv cut 16)).filter (fun j => decide (from' < 16 * j + 16))
  let live ← keep.filterM (fun j => do let pg ← s.pageAt p e j; pure (decide (pg ≠ noPos)))
  let (s, e) ← s.provide p part e live
  let s ← (List.range (e.kvn - ceilDiv cut 16)).foldlM (fun (s : State) j => s.releasePage p part e (ceilDiv cut 16 + j)) s
  let s ← match slot with
    | some x => s.sCopy p (e.f 72 8 + x * e.rsz) e.rs e.rsz
    | none => pure s
  let e := match slot with
    | some x =>
      ((List.range 4).foldl (fun (e : Strm) i => if e.spos i ≠ noPos ∧ cut < e.spos i then e.set (80 + 4 * i) 4 noPos else e) e).set 108 4 ((x + 1) % 4)
    | none => e
  let e := (((e.set 136 4 (bits sb 0 32)).set 128 4 cut).set 140 4 from').set 144 4 cut
  s.putStrm p (e.set 148 4 from') [(80, 16), (108, 4), (128, 4), (136, 16), (160, 4)]

/-- GCUR once the sampler takes it (R209, R367). -/
def State.gcur (s : State) (k : CoreId) (n cursor : Nat) : SRes := do
  let e ← s.strm k n
  streamOk (e.isOpen && decide (e.p ≤ cursor ∧ cursor ≤ e.g))
  if bitAt e.raw 1 then throw .locked
  s.putStrm (s.samplerParty k) (e.set 132 4 cursor) [(132, 4)]

/-- GINS (R208, R209, R367). -/
def State.gins (s : State) (k : CoreId) (n blk : Nat) : SRes := do
  let p := s.samplerParty k
  let part := s.partOf (clusterOf k)
  let e ← s.strm k n
  let h ← s.sRead p blk 8
  let cnt := field h 0 4
  streamOk (e.isOpen && decide (1 ≤ cnt ∧ cnt ≤ 64 ∧ field h 4 4 = 0))
  let t ← s.sRead p (blk + 8) (4 * cnt)
  let toks := lanesOf 32 cnt t
  streamOk (toks.all (fun x => decide (x < e.vocab)) && decide (e.g = e.p ∧ e.g + cnt ≤ 16 * e.kvn))
  let (s, e) ← s.provide p part e (((List.range cnt).map (fun i => (e.g + i) / 16)).foldl (fun js j => insertNew j js) [])
  let s ← (toks.zipIdx).foldlM (fun (s : State) x => s.sWrite p (e.f 96 8 + 4 * ((e.g + x.2) % e.hlen)) 4 x.1) s
  s.putStrm p ((e.set 128 4 (e.g + cnt)).set 132 4 (e.g + cnt)) [(128, 8), (160, 4)]

/-- GSNAP (R209, R367). -/
def State.gsnap (s : State) (k : CoreId) (n : Nat) : SRes := do
  let p := s.samplerParty k
  let e ← s.strm k n
  streamOk (e.isOpen && decide (e.rs ≠ 0 ∧ e.g % e.f 68 4 = 0))
  let held := (List.range 4).find? (fun i => decide (e.spos i = e.g))
  let slot := held.getD (e.f 108 4 % 4)
  let s ← s.sCopy p e.rs (e.f 72 8 + slot * e.rsz) e.rsz
  let e := e.set (80 + 4 * slot) 4 e.g
  s.putStrm p (if held.isSome then e else e.set 108 4 ((e.f 108 4 + 1) % 4)) [(80, 16), (108, 4)]

/-! ### Issue (R207, R208) -/

/-- A stream form at issue: its operands are captured. -/
def streamIssue (i : Instr) (x : Xc) (a b : Word) (align : Nat) : Prep :=
  cmdStart x (fun s =>
    if align ≠ 0 ∧ 2 ^ 49 ≤ b.toNat then .trap ⟨.translation, addrInfo b.toNat⟩
    else if align ≠ 0 ∧ b.toNat % align ≠ 0 then .trap ⟨.misaligned, addrInfo b.toNat⟩
    else addCmd { s.cmd0 i x 0 with opA := a, opB := b } s)

/-- GSMPL (R208, R360). -/
def execGsmpl (a b : Reg) (x : Xc) (s : State) : Host.Outcome State Fault Refusal :=
  slotExec 7 (.gsmpl a b x) (streamIssue (.gsmpl a b x) x (s.c.rs a) (s.c.rs b) 32) s

/-- GFORK (R207, R366). -/
def execGfork (a b : Reg) (x : Xc) (s : State) : Host.Outcome State Fault Refusal :=
  slotExec 7 (.gfork a b x) (streamIssue (.gfork a b x) x (s.c.rs a) (s.c.rs b) 0) s

/-- GTRUNC (R207, R368). -/
def execGtrunc (a b : Reg) (x : Xc) (s : State) : Host.Outcome State Fault Refusal :=
  slotExec 7 (.gtrunc a b x) (streamIssue (.gtrunc a b x) x (s.c.rs a) (s.c.rs b) 0) s

/-- GCUR (R209, R367): the successor waits until the sampler has accepted the update. -/
def execGcur (a b : Reg) (s : State) : Host.Outcome State Fault Refusal :=
  slotExec 7 (.gcur a b) (onCore (fun c => c.withFlow (fun f => { f with wait := some (.gcur (c.rs a) (c.rs b)) }))) s

/-- GINS (R208, R367). -/
def execGins (a b : Reg) (x : Xc) (s : State) : Host.Outcome State Fault Refusal :=
  slotExec 7 (.gins a b x) (streamIssue (.gins a b x) x (s.c.rs a) (s.c.rs b) 8) s

/-- GSNAP (R207, R367). -/
def execGsnap (a : Reg) (x : Xc) (s : State) : Host.Outcome State Fault Refusal :=
  slotExec 7 (.gsnap a x) (streamIssue (.gsnap a x) x (s.c.rs a) 0 0) s

/-! ### Performing a form -/

/-- How a form that is not in boxes goes: performed, waiting, or faulted. -/
inductive Work where
  | done (s : State)
  | wait (s : State)
  | fault (s : State) (t : Trap)
  deriving DecidableEq, Repr

/-- A stream form, and its stream (R207). -/
def Cmd.streamOf (m : Cmd) : Option Nat :=
  match m.instr with
  | .gsmpl _ _ _ => some m.opA.toNat | .gfork _ _ _ => some m.opA.toNat | .gtrunc _ _ _ => some m.opA.toNat
  | .gins _ _ _ => some m.opA.toNat | .gsnap _ _ => some m.opA.toNat
  | _ => none

/-- The `line` address of a stream form's fault (R209, R359); for a form without a request or block no rule states it. -/
def State.streamLine (s : State) (m : Cmd) (pool : Bool) : Nat :=
  if pool then bits (s.part (s.partOf (clusterOf m.core))).stbase.toNat 12 37 * 4096 + 256 * m.opA.toNat
  else
    match m.instr with
    | .gsmpl _ _ _ => m.opB.toNat
    | .gins _ _ _ => m.opB.toNat
    | _ => (Config.openWord s.freeCtr).toNat

/-! ### What a form reads (R249, R250) -/

/-- What a Mask stage reads beside its block, as (address, bytes), and the position of the last mask applied after it (R362): the ready word,
and the one buffer that it applies. -/
def State.maskReads (s : State) (p : Party) (e : Strm) (pos b lmp : Nat) : List (Nat × Nat) × Nat :=
  let size := roundUp (ceilDiv e.vocab 8) 64
  let word := (field b 16 8, 8)
  let buffer (n : Nat) : Nat × Nat := (field b 8 8 + n % 2 * size, size)
  match s.sRead p word.1 8 with
  | .error _ => ([word], lmp)
  | .ok ready =>
    if ready = pos then ([word, buffer pos], pos)
    else if field b 1 1 = 1 ∧ lmp ≠ noPos then ([word, buffer lmp], lmp)
    else ([word], lmp)

/-- The tokens of the history that a Penalty stage reads (R361). -/
def Strm.windowReads (e : Strm) (pos w : Nat) : List (Nat × Nat) :=
  (List.range (pos - (pos - w))).map (fun i => (e.f 96 8 + 4 * ((pos - w + i) % e.hlen), 4))

/-- What a stage reads beside its block (R361, R362). -/
def State.stageReads (s : State) (p : Party) (e : Strm) (pos b lmp : Nat) : List (Nat × Nat) × Nat :=
  match field b 0 1 with
  | 2 => ([(field b 8 8, 8 * field b 16 4)], lmp)
  | 3 => s.maskReads p e pos b lmp
  | 4 => (e.windowReads pos (field b 4 4), lmp)
  | _ => ([], lmp)

/-- What the chain of stages reads, over at most n blocks (R360). -/
def State.chainReads (s : State) (p : Party) (e : Strm) (pos : Nat) : Nat → Nat → Nat → List (Nat × Nat)
  | 0, _, _ => []
  | n + 1, a, lmp =>
    if a = 0 then []
    else
      match s.sRead p a 32 with
      | .error _ => [(a, 32)]
      | .ok b =>
        let r := s.stageReads p e pos b lmp
        (a, 32) :: r.1 ++ s.chainReads p e pos n (field b 24 8) r.2

/-- What releasing or sharing the entries of a page list reads: each entry, and the count of its page (R359, R366). -/
def State.countReads (s : State) (p : Party) (e : Strm) (js : List Nat) : List (Nat × Nat) :=
  js.flatMap (fun j => (e.f 16 8 + 4 * j, 4) ::
    (match s.pageAt p e j with
     | .ok n => if n = noPos then [] else [(e.f 40 8 + 4 * n, 4)]
     | .error _ => []))

/-- What providing the entries of a page list reads: their counts, and a page of which it makes a private copy (R359). -/
def State.pageReads (s : State) (p : Party) (e : Strm) (js : List Nat) : List (Nat × Nat) :=
  s.countReads p e js ++ js.flatMap (fun j =>
    match s.pageNeed p e j with
    | .ok (.copy n) => [(e.f 32 8 + n * e.kvpb, e.kvpb)]
    | _ => [])

/-- The address of an entry of the stream table (R355). -/
def State.strmAddr (s : State) (k : CoreId) (n : Nat) : Nat := bits (s.part (s.partOf (clusterOf k))).stbase.toNat 12 37 * 4096 + 256 * n

/-- What truncation reads beside the entry (R368): the entries it keeps from its snapshot on and those it releases, and the snapshot. -/
def State.truncReads (s : State) (p : Party) (e : Strm) : List (Nat × Nat) :=
  let slot := if e.rs = 0 then none else e.bestSlot e.p
  let from' := match slot with | some x => e.spos x | none => e.p
  let held := ceilDiv e.p 16
  s.pageReads p e ((List.range held).filter (fun j => decide (from' < 16 * j + 16))) ++
    s.countReads p e ((List.range (e.kvn - held)).map (· + held)) ++
    (match slot with | some x => [(e.f 72 8 + x * e.rsz, e.rsz)] | none => [])

/-- The ranges that a form reads: its entry, its request or block, and by its kind the logits and stages, pages, history, recurrent state
and snapshots (R360, R366 to R368). -/
def State.formReads (s : State) (m : Cmd) : List (Nat × Nat) :=
  let k := m.core
  let p := s.samplerParty k
  (s.strmAddr k m.opA.toNat, 256) ::
    match s.strm k m.opA.toNat with
    | .error _ => []
    | .ok e =>
      match m.instr with
      | .gsmpl _ _ _ =>
        (m.opB.toNat, 32) ::
          (match s.sRead p m.opB.toNat 32 with
           | .error _ => []
           | .ok r =>
             if field r 16 4 ≠ e.f 136 4 then []
             else (field r 0 8, 4 * e.vocab) :: s.chainReads p e e.g 16 (e.f 8 8) (e.f 152 4) ++ s.pageReads p e [e.g / 16])
      | .gfork _ _ _ =>
        [(s.strmAddr k (bits m.opB.toNat 0 13), 256), (e.f 96 8, 4 * e.hlen)] ++
          (if e.rs = 0 then [] else [(e.rs, e.rsz), (e.f 72 8, 4 * e.rsz)]) ++ s.countReads p e (List.range e.kvn)
      | .gtrunc _ _ _ => s.truncReads p e
      | .gins _ _ _ =>
        (match s.sRead p m.opB.toNat 8 with
         | .error _ => [(m.opB.toNat, 8)]
         | .ok h =>
           let js := ((List.range (field h 0 4)).map (fun i => (e.g + i) / 16)).foldl (fun js j => insertNew j js) []
           (m.opB.toNat, 8) :: (m.opB.toNat + 8, 4 * field h 0 4) :: s.pageReads p e js)
      | _ => [(e.rs, e.rsz)]

/-- The stores that reading a range for a core's sampler observes, with those that what is read carries: a form acquires at .mod (R245, R249,
R358). -/
def State.rangeSeen (s : State) (k : CoreId) (r : Nat × Nat) : List Nat :=
  (chunksOf r.1 r.2).flatMap (fun c =>
    match s.translate (s.samplerParty k) c.1 Need.read with
    | .error _ => []
    | .ok x => s.observedAll k x.pa c.2 ++ (s.carriedTo k x.pa c.2).filter s.isPending)

/-- The stores that a form's reads observe (R249, R358). -/
def State.formSeen (s : State) (m : Cmd) : List Nat := (s.formReads m).flatMap (s.rangeSeen m.core)

/-- Sets or clears the lock of a stream (R358). -/
def State.setLock (s : State) (k : CoreId) (n : Nat) (b : Bool) : State :=
  match s.strm k n with
  | .ok e =>
    match s.putStrm (s.samplerParty k) (e.set 0 4 (setBits (e.f 0 4) 1 1 b.toNat)) [(0, 4)] with
    | .ok s' => s'
    | .error _ => s
  | .error _ => s

/-- The lock of a stream is set by another form (R358). -/
def State.lockedBy (s : State) (k : CoreId) (n : Nat) : Bool :=
  match s.strm k n with
  | .ok e => bitAt e.raw 1
  | .error _ => false

/-- A stream form is performed (R358, R360 to R368). A GSMPL that waits for its mask keeps the lock, and the deadline of its stage. -/
def State.streamWork (s : State) (r : TaskRef) (m : Cmd) (late : Option Nat) : Work :=
  let k := m.core
  let n := m.opA.toNat
  let mine := decide (m.fetched ≠ [])
  if !mine && s.lockedBy k n then .wait s
  else
    let s := if mine then s.setLock k n false else s
    let out : SRes :=
      match m.instr with
      | .gsmpl _ _ _ => s.gsmpl k n m.opB.toNat late
      | .gfork _ _ _ => s.gfork k n m.opB.toNat
      | .gtrunc _ _ _ => s.gtrunc k n m.opB.toNat
      | .gins _ _ _ => s.gins k n m.opB.toNat
      | _ => s.gsnap k n
    match out with
    | .ok s' => .done s'
    | .error .locked => .wait s
    | .error (.notReady dl) => .wait ((s.setLock k n true).putCmd r { m with fetched := [dl] })
    | .error .pool =>
      let s := match s.strm k n with
        | .ok e => s.giveBack (s.partOf (clusterOf k)) (e.f 48 2)
        | .error _ => s
      .fault s ⟨.streamState, engInfo m.tag.val 0 0 0 (s.streamLine m true)⟩
    | .error (.cause c) =>
      let s := if c = .maskLate then
          (match s.answer (s.samplerParty k) m.opB.toNat noPos 2 with | .ok s' => s' | .error _ => s)
        else s
      .fault s ⟨c, engInfo m.tag.val 0 0 0 (s.streamLine m false)⟩

end Sys2Proof.Machine
end

