-- ==== Sys2Proof/Machine/Launch.lean ====
section
/-! DEFINITION. Spread launches and their distributors (R206, R289, R290, R417), the rings of the host and its commands (R285,
R286), and launch packets of other modules (R287). -/

namespace Sys2Proof.Machine

/-! ### Spread launches -/

/-- The limits of a launch descriptor (R206). A cluster mask of 0 names no place for a chunk and is refused as well. -/
def launchOk (d : Nat) : Bool :=
  decide (field d 32 32 = 0 ∧ field d 8 4 < field d 12 4 ∧ field d 20 1 ≤ 2 ∧ field d 21 1 < 2 ∧ field d 0 8 % 64 = 0 ∧ field d 16 4 ≠ 0)

/-- The launch of a descriptor: the command becomes outstanding, and the distributors get its range (R206, R289). -/
def launchIssue (m : Cmd) : Prep := fun s =>
  match addCmd m s with
  | .ok s' =>
    let d := m.desc
    let l : Launch :=
      { id := s'.ids, part := s.partOf (clusterOf s.c.id), ctx := s.c.party.ctx, issuer := s.c.id, tag := m.tag, seq := s.ids, record := 0
        lo := field d 8 4, hi := field d 12 4, cmask := BitVec.ofNat 32 (field d 16 4), dim := field d 20 1
        reiss := bitAt d 168, qn := field d 22 2, bitmap := field d 24 8, done := [], chunks := [], tmpl := field d 0 8, ready := false, dead := false
        master := 16, reissues := 0 }
    .ok { s' with launches := s'.launches ++ [l], ids := s'.ids + 1 }
  | x => x

/-- LAUNCH (R206): a cluster outside the partition is PERMISSION. -/
def execLaunch (a : Reg) (x : Xc) (s : State) : Host.Outcome State Fault Refusal :=
  slotExec 7 (.launch a x)
    (cmdStart x (localOperand (s.c.rs a).toNat 64 64 (fun d =>
      require (launchOk d)
        (globalOperand (field d 0 8) (globalOperand (field d 24 8) (fun s =>
          if BitVec.ofNat 32 (field d 16 4) &&& ~~~(s.part (s.partOf (clusterOf s.c.id))).clusters = 0 then
            launchIssue (s.cmd0 (.launch a x) x d) s
          else .trap (s.openTrap .permission))))))) s

/-- Chunks of a launch (R289). -/
def Launch.count (l : Launch) : Nat := ceilDiv (l.hi - l.lo) 64

/-- The clusters of a launch, ascending. -/
def Launch.clusters (l : Launch) : List Nat := (List.range 32).filter (fun n => l.cmask.getLsbD n)

/-- The cluster that R289 assigns a chunk to. -/
def Launch.assigned (l : Launch) (j : Nat) : Nat := l.clusters.getD (j % l.clusters.length) 0

/-- One past the last index of a chunk. -/
def Launch.stop (l : Launch) (j : Nat) : Nat := Nat.min (l.lo + 64 * j + 64) l.hi

/-- A chunk before its first push: the distributor of its cluster's vat owns it. -/
def Launch.fresh (l : Launch) (j cl : Nat) : Chunk := ⟨j, cl, l.lo + 64 * j, l.stop j - (l.lo + 64 * j), cl / 2, j⟩

/-- A lost chunk before its first push on a surviving cluster: the master owns it, and its counter is a new one (R417). -/
def Launch.again (l : Launch) (j cl : Nat) : Chunk := { l.fresh j cl with owner := l.master, key := j + l.count * l.reissues }

/-- The record of an index (R289): its coordinate, the distributor's own counters, no notification. -/
def Launch.recordAt (l : Launch) (c : Chunk) (i : Nat) : BitVec 512 :=
  let r := setBits l.record.toNat (128 + 16 * l.dim) 16 i
  let r := setBits r 384 64 (counterBase + 64 * l.id)
  let r := setBits r 448 64 (counterBase + 8 * c.key)
  BitVec.ofNat 512 (setBits r 309 1 0)

/-- Replaces a launch. -/
def State.setLaunch (s : State) (l : Launch) : State :=
  { s with launches := s.launches.map (fun x => if x.id = l.id then l else x) }

/-- Ends a launch: its command has nothing left to wait for. -/
def State.dropLaunch (s : State) (id : Nat) : State := { s with launches := s.launches.filter (fun x => decide (x.id ≠ id)) }

/-- A distributor as a party: the launch's context, in the partition's own compartment (R339). -/
def Launch.party (l : Launch) (cl : Nat) : Party := ⟨.partition, l.ctx, 0, .partition cl⟩

/-- The cause that a template is refused with (R217, R290). -/
def templateCause (r : BitVec 512) : Option Cause :=
  if recMalformed r then some .illegal
  else if (recFar r).isSome then some .translation
  else if recTooLarge r then some .launchTooLarge
  else none

/-- The first chunk from j on, among n, that the distributor of a vat owns (R289). -/
def Launch.nextOf (l : Launch) (vat : Nat) : Nat → Nat → Option Nat
  | 0, _ => none
  | n + 1, j => if j < l.count then (if l.assigned j / 2 = vat then some j else l.nextOf vat n (j + 1)) else none

/-- Vats whose distributors take part in a launch. -/
def Launch.vats (l : Launch) : List Nat := l.clusters.foldl (fun vs cl => insertNew (cl / 2) vs) []

/-- The template is read and checked once (R290): the first chunk of every distributor is ready to push, or the launch ends. -/
def State.readTemplate (s : State) (l : Launch) : State :=
  let cl := l.clusters.headD 0
  let fail (f : Cause) : State :=
    let s := s.queueErr l.part l.qn f.code l.tmpl
    if l.dead then s.setLaunch { l with ready := true } else s.dropLaunch l.id
  match s.readRange (l.party cl) l.tmpl 64 with
  | .error f => fail f
  | .ok v =>
    let r := BitVec.ofNat 512 v
    match templateCause r with
    | some f => fail f
    | none =>
      let js := (l.vats.filter (fun v => decide ((s.vat v).state = .live))).filterMap (fun v => l.nextOf v l.clusters.length 0)
      s.setLaunch { l with record := r, ready := true, chunks := l.chunks ++ js.map (fun j => l.fresh j (l.assigned j)) }

/-- Pushes the indices of a chunk in order while its queue takes them (R289). An append that faults is not tried again (R279). -/
def State.pushIndices (s : State) (l : Launch) (c : Chunk) : Nat → State × Chunk
  | 0 => (s, c)
  | n + 1 =>
    let q := s.queue l.part l.qn
    if l.stop c.num ≤ c.next ∨ !q.isTask ∨ q.stopped ∨ q.used = q.size then (s, c)
    else
      let r := s.append l.part l.qn (l.recordAt c c.next).toNat
      r.1.pushIndices l { c with next := c.next + 1 } n

/-- Pushes chunks in their order, each distributor its own one after another: `busy` are those whose chunk is not pushed whole. One that
has pushed a chunk whole goes on with the next that it owns (R289). -/
def State.pushChunks (s : State) (l : Launch) (busy : List Nat) : List Chunk → State × List Chunk
  | [] => (s, [])
  | c :: cs =>
    if c.owner ∈ busy then
      let t := s.pushChunks l busy cs
      (t.1, c :: t.2)
    else
      let r := s.pushIndices l c 64
      let whole := decide (r.2.next = l.stop c.num)
      let ended := whole && decide (c.next < l.stop c.num ∧ c.key = c.num)
      let more := if ended then ((l.nextOf c.owner l.clusters.length (c.num + 1)).map (fun j => l.fresh j (l.assigned j))).toList else []
      let t := r.1.pushChunks l (if whole then busy else c.owner :: busy) cs
      (t.1, r.2 :: t.2 ++ more)

/-- DISTRIBUTOR_PUSH_CHUNK (R289, R290): the template, then records. -/
def execDistributorPushChunk (id : Nat) (s : State) : Host.Outcome State Fault Refusal :=
  .next (match s.launches.find? (fun l => decide (l.id = id)) with
    | none => s
    | some l =>
      if l.ready then
        let r := s.pushChunks l [] l.chunks
        r.1.setLaunch { l with chunks := r.2 }
      else s.readTemplate l)

/-- An engine fault of a command without boxes, at an address that it writes (R193). -/
def Cmd.fail (m : Cmd) (f : Cause) (a : Nat) : Cmd := { m with fault := some ⟨f, engInfo m.tag.val 0 0 1 a⟩ }

/-- An engine fault that has no address: its `line` is free (R193). -/
def State.failOpen (s : State) (m : Cmd) (f : Cause) : Cmd :=
  { m with fault := some ⟨f, engInfo m.tag.val 0 0 0 ((Config.openWord s.freeCtr).toNat % 2 ^ 49)⟩ }

/-- The command of a launch. -/
def State.launchCmd (s : State) (l : Launch) : Option Cmd := (s.core l.issuer).cmds.find? (fun m => decide (m.seq = l.seq))

/-- Sets the bit of a chunk by an indivisible update of the bitmap's byte (R290). A fault is the command's own (R193). -/
def State.setChunkBit (s : State) (l : Launch) (c : Chunk) : State :=
  let a := l.bitmap + c.num / 8
  let bad (f : Cause) : State :=
    match s.launchCmd l with
    | some m => if m.fault.isSome then s else s.putCmd (.core l.issuer) (m.fail f a)
    | none => s
  let l' := { l with done := l.done ++ [c.num], chunks := l.chunks.filter (fun x => decide (x.num ≠ c.num)) }
  match s.translate (l.party c.cl) a Need.rmw with
  | .error f => bad f
  | .ok x =>
    let s' := s.settle c.cl x.pa 1
    match s'.readHome x 1 with
    | .error f => bad f
    | .ok v => (s'.storeHome (.partition c.cl) x (bytesOf 1 (v ||| 2 ^ (c.num % 8))) true).setLaunch l'

/-- CHUNK_COMPLETE (R290): the last task of a chunk has completed. -/
def execChunkComplete (id chunk : Nat) (s : State) : Host.Outcome State Fault Refusal :=
  .next (match s.launches.find? (fun l => decide (l.id = id)) with
    | none => s
    | some l =>
      match l.chunks.find? (fun c => decide (c.num = chunk)) with
      | none => s
      | some c => if c.left = 0 ∧ c.next = l.stop c.num then s.setChunkBit l c else s)

/-- Every bit of the bitmap of a launch is set (R290). -/
def Launch.allDone (l : Launch) : Bool := decide (l.done.length = l.count) && l.ready

/-- The template or the bitmap of a launch is homed on a vat (R417). -/
def State.launchHomed (s : State) (v : Nat) (l : Launch) : Bool :=
  let homed (a : Nat) : Bool :=
    match s.translate (l.party (l.clusters.headD 0)) a Need.read with | .ok x => decide (homeOf x.pa = v) | .error _ => false
  homed l.tmpl || homed l.bitmap

/-- The bit of a chunk is set, as the bitmap stands (R416, R417). -/
def State.chunkSet (s : State) (l : Launch) (j : Nat) : Bool :=
  decide (j ∈ l.done) ||
    (match s.readRange (l.party (l.clusters.headD 0)) (l.bitmap + j / 8) 1 with | .ok b => bitAt b (j % 8) | .error _ => false)

/-- The master: the lowest-numbered Live vat (R416). -/
def State.electMaster (s : State) : Nat := ((List.range 16).find? (fun v => decide ((s.vat v).state = .live))).getD 16

/-- A chunk of a launch goes with a vat: its cluster lies there, or its counters do (R416, R417). -/
def Launch.goesWith (l : Launch) (v j : Nat) : Bool :=
  match l.chunks.find? (fun c => decide (c.num = j)) with
  | some c => decide (c.cl / 2 = v ∨ c.owner = v)
  | none => decide (l.assigned j / 2 = v)

/-- What the master decides about a launch after the fence of a vat (R416, R417): `homed` tells whether its template or bitmap was homed
there. A launch that is given up or fails keeps what survives of it, which runs on and sets its bits. -/
def State.settleLaunch (s : State) (v : Nat) (homed : Bool) (l : Launch) : State :=
  let l := { l with master := s.electMaster }
  let mine := (List.range l.count).filter (fun j => decide (j ∉ l.done) && l.goesWith v j)
  let lost := mine.filter (fun j => !s.chunkSet l j)
  let live := l.clusters.filter (fun cl => decide (cl / 2 ≠ v ∧ (s.vat (cl / 2)).state = .live))
  let kept := { l with
    chunks := l.chunks.filter (fun c => !decide (c.num ∈ mine)), done := l.done ++ mine.filter (fun j => !decide (j ∈ lost)) }
  let ends (s : State) : State := s.setLaunch { kept with dead := true }
  let fails : State :=
    match s.launchCmd l with
    | some m => ends (s.putCmd (.core l.issuer) (s.failOpen m .fenceLost))
    | none => ends s
  if l.dead ∨ (clusterOf l.issuer / 2 = v ∧ l.issuer ≠ .umpire) then ends s
  else if homed then fails
  else if lost.isEmpty then s.setLaunch kept
  else if !l.reiss || live.isEmpty then fails
  else
    let k := { kept with reissues := l.reissues + 1 }
    s.setLaunch { k with chunks := k.chunks ++ (lost.zipIdx).map (fun x => k.again x.1 (live.getD (x.2 % live.length) 0)) }

/-! ### Rings of the host (R286) -/

/-- `en` of a ring's configuration. -/
def ringOn (cfg : Word) : Bool := cfg.getLsbD 16

/-- Entries of a ring: 2^lgn for every `lgn`, one outside 4 to 12 too, the model's choice (log 84). -/
def ringSize (cfg : Word) : Nat := 2 ^ bits cfg.toNat 0 5

/-- Entries between two counts modulo 2^16. -/
def between16 (a b : BitVec 16) : Nat := (b - a).toNat

/-- CQTAIL_DOORBELL (R286): refused if it would overfill the ring. -/
def execCqtailDoorbell (vf : Nat) (val : Word) (s : State) : Host.Outcome State Fault Refusal :=
  let v := s.vf vf
  let t := BitVec.ofNat 16 val.toNat
  .next (s.setVf vf (if ringSize v.cqcfg < between16 v.cqhead t then { v with cqcfg := v.cqcfg ||| 2 ^ 24 } else { v with cqtail := t }))

/-- CPHEAD_WRITE (R286): refused if it would move past the tail. -/
def execCpheadWrite (vf : Nat) (val : Word) (s : State) : Host.Outcome State Fault Refusal :=
  let v := s.vf vf
  let h := BitVec.ofNat 16 val.toNat
  .next (s.setVf vf (if between16 v.cphead v.cptail < between16 v.cphead h then { v with cpcfg := v.cpcfg ||| 2 ^ 24 } else { v with cphead := h }))

/-- Writable bits of the rings' configurations, but for `err` (R286). -/
def ringMask (comp : Bool) : Word := if comp then 0x1FF1F else 0x1001F

/-- A write of a ring's configuration (R286): `err` clears by a 1, `lgn` keeps its value while the ring is on. -/
def ringConfig (comp : Bool) (old new : Word) : Word :=
  let err := old &&& 0x1000000 &&& ~~~new
  let lgn := if ringOn old then old &&& 0x1F else new &&& 0x1F
  err ||| (new &&& ringMask comp &&& ~~~0x1F) ||| lgn

/-- Configures a ring; changing `en` from 0 to 1 sets its head and tail to 0 (R286). -/
def Vf.configure (v : Vf) (comp : Bool) (new : Word) : Vf :=
  if comp then
    let c := ringConfig true v.cpcfg new
    if ringOn c && !ringOn v.cpcfg then { v with cpcfg := c, cphead := 0, cptail := 0 } else { v with cpcfg := c }
  else
    let c := ringConfig false v.cqcfg new
    if ringOn c && !ringOn v.cqcfg then { v with cqcfg := c, cqhead := 0, cqtail := 0 } else { v with cqcfg := c }

/-- RING_ENABLE (R286). -/
def execRingEnable (vf : Nat) (comp : Bool) (s : State) : Host.Outcome State Fault Refusal :=
  let v := s.vf vf
  .next (s.setVf vf (v.configure comp ((if comp then v.cpcfg else v.cqcfg) &&& ~~~0x1000000 ||| 0x10000)))

/-- The command that a VF's ring shows next, if the device takes one (R286, R354, R392). -/
def State.hostCommand (s : State) (vf : Nat) : Option Nat :=
  let v := s.vf vf
  if ringOn v.cqcfg && ringOn v.cpcfg && decide (v.cqhead ≠ v.cqtail) && decide (between16 v.cphead v.cptail < ringSize v.cpcfg) &&
      v.part.isSome && decide (v.wld ∉ s.suspended) && !s.umpire.deepOff then
    some (s.hostRead (hostKey vf (v.cqbase.toNat + 128 * (v.cqhead.toNat % ringSize v.cqcfg))) 128)
  else none

/-- An MSI-X vector raised at the host, as a reply. -/
def msix (fn vec : Nat) : Reply := ⟨0x4D534958, fn * 2 ^ 16 + vec, []⟩

/-- The completion entry of a command (R286), its vector, and the head of the command ring. -/
def State.complete (s : State) (vf cmd stat : Nat) : State :=
  let v := s.vf vf
  let n := ringSize v.cpcfg
  let ph := if v.cptail.toNat / n % 2 = 0 then 1 else 0
  let e := field cmd 16 8 + stat * 2 ^ 64 + ph * 2 ^ 72 + field cmd 2 2 * 2 ^ 80
  let s := s.hostWrite (hostKey vf (v.cpbase.toNat + 16 * (v.cptail.toNat % n))) 16 e
  { s.setVf vf { v with cptail := v.cptail + 1, cqhead := v.cqhead + 1 } with replies := s.replies ++ [msix vf (bits v.cpcfg.toNat 8 8)] }

/-- Why a queue takes nothing from a source (R285): its number, its kind, its state. -/
def State.queueShut (s : State) (part qn : Nat) (task : Bool) : Bool :=
  let q := s.queue part qn
  decide (4096 ≤ qn ∨ 32 ≤ part) || !kindValid q.kindNow || decide (q.isTask ≠ task) || q.stopped

/-- A compartment is one of a world (R337): world 0 has compartment 0 alone, which no request creates. -/
def State.compOf (s : State) (wld comp : Nat) : Bool :=
  if comp = 0 then decide (wld = 0) else decide (find? s.comps comp ≠ none ∧ (look ⟨0, none, 0⟩ s.comps comp).wld = wld)

/-- A record pushed from outside the module (R217, R285, R287): its status. -/
def State.pushOutside (s : State) (part qn wld : Nat) (r : BitVec 512) (a : Nat) : State × Nat :=
  if s.queueShut part qn true then (s, 0x10)
  else if recResume r || recMalformed r || (recFar r).isSome then (s, 0x81)
  else if !s.compOf wld (recField r 40 1) then (s, 0x09)
  else if recTooLarge r then (s.queueErr part qn Cause.launchTooLarge.code a, 0x11)
  else if (s.queue part qn).used = (s.queue part qn).size then (s, 0x01)
  else
    match s.append part qn r.toNat with
    | (s, true) => (s, 0x00)
    | (s, false) => (s, 0x10)

/-- The bytes of a host command that no field is listed for are zero (R285). -/
def hostCommandOk (cmd : Nat) : Bool := decide (field cmd 1 1 = 0 ∧ field cmd 4 4 = 0 ∧ field cmd 24 40 = 0)

/-- PUSH_RECORD (R285): the next command of a VF, unless it pushes an item. -/
def execPushRecord (vf : Nat) (s : State) : Host.Outcome State Fault Refusal :=
  .next (match s.hostCommand vf with
    | none => s
    | some cmd =>
      let v := s.vf vf
      let part := v.part.getD 32
      if field cmd 0 1 = 2 then s
      else if field cmd 0 1 ≠ 1 || !hostCommandOk cmd then s.complete vf cmd 0x81
      else if (s.queue part (field cmd 2 2)).vfm ≠ vf then s.complete vf cmd 0x10
      else
        let r := s.pushOutside part (field cmd 2 2) v.wld (BitVec.ofNat 512 (field cmd 64 64))
          (v.cqbase.toNat + 128 * (v.cqhead.toNat % ringSize v.cqcfg))
        r.1.complete vf cmd r.2)

/-- PUSH_ITEM (R285). -/
def execPushItem (vf : Nat) (s : State) : Host.Outcome State Fault Refusal :=
  .next (match s.hostCommand vf with
    | none => s
    | some cmd =>
      let part := (s.vf vf).part.getD 32
      let qn := field cmd 2 2
      if field cmd 0 1 ≠ 2 then s
      else if !hostCommandOk cmd then s.complete vf cmd 0x81
      else if (s.queue part qn).vfm ≠ vf || s.queueShut part qn false then s.complete vf cmd 0x10
      else if (s.queue part qn).used = (s.queue part qn).size then s.complete vf cmd 0x01
      else
        match s.append part qn (field cmd 8 8) with
        | (s, true) => s.complete vf cmd 0x00
        | (s, false) => s.complete vf cmd 0x10)

/-! ### Launch packets (R287) -/

/-- The 16 bytes of a launch-table entry (R287). -/
def launchImage (e : LaunchEntry) : Nat :=
  e.smod % 2 ^ 16 + e.wld % 256 * 2 ^ 16 + e.v.toNat * 2 ^ 24 + e.q0 % 2 ^ 16 * 2 ^ 32 + e.qc % 2 ^ 16 * 2 ^ 48

/-- The entry of 16 bytes; its zero bytes stay zero. -/
def launchOfImage (v : Nat) : LaunchEntry := ⟨field v 0 2, field v 2 1, bitAt v 24, field v 4 2, field v 6 2⟩

/-- An entry that nothing has written. -/
def LaunchEntry.empty : LaunchEntry := ⟨0, 0, false, 0, 0⟩

/-- A write of n bytes at an offset of a vat's launch table of 64 entries (R287). -/
def State.writeLaunchTable (s : State) (vat off n val : Nat) : State :=
  let i := off / 16
  if 64 ≤ i ∨ 16 ≤ vat then s
  else
    let v := s.vat vat
    let t := v.launch ++ List.replicate (i + 1 - v.launch.length) LaunchEntry.empty
    let old := launchImage (t.getD i LaunchEntry.empty)
    s.setVat vat { v with launch := setNth t i (launchOfImage (setBits old (8 * (off % 16)) (8 * Nat.min n (16 - off % 16)) val)) }

/-- A read at an offset of a vat's launch table. -/
def State.readLaunchTable (s : State) (vat off : Nat) : Nat :=
  launchImage ((s.vat vat).launch.getD (off / 16) LaunchEntry.empty) / 256 ^ (off % 16) % 2 ^ 64

/-- An entry of a launch table admits a packet. -/
def LaunchEntry.admits (e : LaunchEntry) (smod wld qn : Nat) : Bool :=
  e.v && decide (e.smod = smod ∧ e.wld = wld ∧ e.q0 ≤ qn ∧ qn < e.q0 + e.qc)

/-- The acknowledgement of a launch packet, as a reply. -/
def packetReply (vat status : Nat) : Reply := ⟨0x47515545, vat * 2 ^ 8 + status, []⟩

/-- GORQUE_LAUNCH_PACKET (R287): admitted by the vat's launch table, then checked as a host's record is. The queue is of the
partition that holds the vat's first cluster that belongs to one. -/
def execGorqueLaunchPacket (vat smod wld qn : Nat) (rec' : BitVec 512) (s : State) : Host.Outcome State Fault Refusal :=
  let v := s.vat vat
  let part := if s.partOf (2 * vat) < 32 then s.partOf (2 * vat) else s.partOf (2 * vat + 1)
  .next (
    if s.umpire.stopped ∨ s.umpire.deepOff ∨ v.state ≠ .live then s
    else
      let r := if v.launch.any (fun e => e.admits smod wld qn) then s.pushOutside part qn wld rec' 0 else (s, 0x0B)
      let s := r.1
      let s := if r.2 = 0 then s else s.setVat vat { s.vat vat with rejects := (s.vat vat).rejects + 1 }
      { s with replies := s.replies ++ [packetReply vat r.2] })

end Sys2Proof.Machine
end

