-- ==== Sys2Proof/Machine/Scalar.lean ====
section
/-! DEFINITION. The A and B slots (R110 to R118): integer, predicate and floating-point forms. Every result but a division's
is entered with the latency of R27; a division's is interlocked (R28). -/

namespace Sys2Proof.Machine

/-- Slot number of an A or B form (R14). -/
def abSlot : AB → Nat
  | .a => 1
  | .b => 2

/-- ADD (R111). -/
def execAdd (y : AB) (d a b : Reg) (s : State) : Host.Outcome State Fault Refusal :=
  slotExec (abSlot y) (.add y d a b)
    (onCore (fun c => c.enterS (abSlot y) 1 d (c.rs a + c.rs b))) s

/-- SUB (R111). -/
def execSub (y : AB) (d a b : Reg) (s : State) : Host.Outcome State Fault Refusal :=
  slotExec (abSlot y) (.sub y d a b)
    (onCore (fun c => c.enterS (abSlot y) 1 d (c.rs a - c.rs b))) s

/-- ADDI (R111). -/
def execAddi (y : AB) (d a : Reg) (i : BitVec 11) (s : State) : Host.Outcome State Fault Refusal :=
  slotExec (abSlot y) (.addi y d a i)
    (onCore (fun c => c.enterS (abSlot y) 1 d (c.rs a + i.signExtend 64))) s

/-- MOVI (R111). -/
def execMovi (y : AB) (d : Reg) (i : BitVec 16) (s : State) : Host.Outcome State Fault Refusal :=
  slotExec (abSlot y) (.movi y d i)
    (onCore (fun c => c.enterS (abSlot y) 1 d (i.signExtend 64))) s

/-- MOVHI (R111). -/
def execMovhi (y : AB) (d : Reg) (i : BitVec 16) (s : State) : Host.Outcome State Fault Refusal :=
  slotExec (abSlot y) (.movhi y d i)
    (onCore (fun c => c.enterS (abSlot y) 1 d ((c.rs d <<< 16) ||| i.zeroExtend 64))) s

/-- MUL (R111). -/
def execMul (y : AB) (d a b : Reg) (s : State) : Host.Outcome State Fault Refusal :=
  slotExec (abSlot y) (.mul y d a b)
    (onCore (fun c => c.enterS (abSlot y) 3 d (c.rs a * c.rs b))) s

/-- MULHI (R111). -/
def execMulhi (y : AB) (d a b : Reg) (s : State) : Host.Outcome State Fault Refusal :=
  slotExec (abSlot y) (.mulhi y d a b)
    (onCore (fun c => c.enterS (abSlot y) 3 d (BitVec.ofInt 64 ((c.rs a).toInt * (c.rs b).toInt / 2 ^ 64)))) s

/-- MULHN (R111). -/
def execMulhn (y : AB) (d a b : Reg) (s : State) : Host.Outcome State Fault Refusal :=
  slotExec (abSlot y) (.mulhn y d a b)
    (onCore (fun c => c.enterS (abSlot y) 3 d (BitVec.ofNat 64 ((c.rs a).toNat * (c.rs b).toNat / 2 ^ 64)))) s

/-- Quotient and remainder of R112: signed or unsigned, truncating, with its two corners. -/
def divide (signed : Bool) (x y : Word) : Word × Word :=
  if y = 0 then (BitVec.allOnes 64, x)
  else if signed then
    if x = BitVec.intMin 64 ∧ y = BitVec.allOnes 64 then (BitVec.intMin 64, 0)
    else (BitVec.ofInt 64 (x.toInt.tdiv y.toInt), BitVec.ofInt 64 (x.toInt.tmod y.toInt))
  else (BitVec.ofNat 64 (x.toNat / y.toNat), BitVec.ofNat 64 (x.toNat % y.toNat))

/-- An interlocked scalar result whose value is fixed at issue (R28); one for s0 is discarded. -/
def Core.await (c : Core) (d : Reg) (x : Word) : Core :=
  c.awaitKind (.value x.toNat) (if d = 0 then none else some (.scalar d))

/-- DIV (R112). -/
def execDiv (y : AB) (d a b : Reg) (s : State) : Host.Outcome State Fault Refusal :=
  slotExec (abSlot y) (.div y d a b) (onCore (fun c => c.await d (divide true (c.rs a) (c.rs b)).1)) s

/-- DIVN (R112). -/
def execDivn (y : AB) (d a b : Reg) (s : State) : Host.Outcome State Fault Refusal :=
  slotExec (abSlot y) (.divn y d a b) (onCore (fun c => c.await d (divide false (c.rs a) (c.rs b)).1)) s

/-- REM (R112). -/
def execRem (y : AB) (d a b : Reg) (s : State) : Host.Outcome State Fault Refusal :=
  slotExec (abSlot y) (.rem y d a b) (onCore (fun c => c.await d (divide true (c.rs a) (c.rs b)).2)) s

/-- REMN (R112). -/
def execRemn (y : AB) (d a b : Reg) (s : State) : Host.Outcome State Fault Refusal :=
  slotExec (abSlot y) (.remn y d a b) (onCore (fun c => c.await d (divide false (c.rs a) (c.rs b)).2)) s

/-- AND (R111). -/
def execAnd (y : AB) (d a b : Reg) (s : State) : Host.Outcome State Fault Refusal :=
  slotExec (abSlot y) (.and y d a b)
    (onCore (fun c => c.enterS (abSlot y) 1 d (c.rs a &&& c.rs b))) s

/-- OR (R111). -/
def execOr (y : AB) (d a b : Reg) (s : State) : Host.Outcome State Fault Refusal :=
  slotExec (abSlot y) (.or y d a b)
    (onCore (fun c => c.enterS (abSlot y) 1 d (c.rs a ||| c.rs b))) s

/-- XOR (R111). -/
def execXor (y : AB) (d a b : Reg) (s : State) : Host.Outcome State Fault Refusal :=
  slotExec (abSlot y) (.xor y d a b)
    (onCore (fun c => c.enterS (abSlot y) 1 d (c.rs a ^^^ c.rs b))) s

/-- ANDN (R111). -/
def execAndn (y : AB) (d a b : Reg) (s : State) : Host.Outcome State Fault Refusal :=
  slotExec (abSlot y) (.andn y d a b)
    (onCore (fun c => c.enterS (abSlot y) 1 d (c.rs a &&& ~~~ c.rs b))) s

/-- ANDI (R111). -/
def execAndi (y : AB) (d a : Reg) (i : BitVec 11) (s : State) : Host.Outcome State Fault Refusal :=
  slotExec (abSlot y) (.andi y d a i)
    (onCore (fun c => c.enterS (abSlot y) 1 d (c.rs a &&& i.zeroExtend 64))) s

/-- ORI (R111). -/
def execOri (y : AB) (d a : Reg) (i : BitVec 11) (s : State) : Host.Outcome State Fault Refusal :=
  slotExec (abSlot y) (.ori y d a i)
    (onCore (fun c => c.enterS (abSlot y) 1 d (c.rs a ||| i.zeroExtend 64))) s

/-- XORI (R111). -/
def execXori (y : AB) (d a : Reg) (i : BitVec 11) (s : State) : Host.Outcome State Fault Refusal :=
  slotExec (abSlot y) (.xori y d a i)
    (onCore (fun c => c.enterS (abSlot y) 1 d (c.rs a ^^^ i.zeroExtend 64))) s

/-- SHL (R111). -/
def execShl (y : AB) (d a b : Reg) (s : State) : Host.Outcome State Fault Refusal :=
  slotExec (abSlot y) (.shl y d a b)
    (onCore (fun c => c.enterS (abSlot y) 1 d (c.rs a <<< ((c.rs b).toNat % 64)))) s

/-- SHRL (R111). -/
def execShrl (y : AB) (d a b : Reg) (s : State) : Host.Outcome State Fault Refusal :=
  slotExec (abSlot y) (.shrl y d a b)
    (onCore (fun c => c.enterS (abSlot y) 1 d (c.rs a >>> ((c.rs b).toNat % 64)))) s

/-- SHRA (R111). -/
def execShra (y : AB) (d a b : Reg) (s : State) : Host.Outcome State Fault Refusal :=
  slotExec (abSlot y) (.shra y d a b)
    (onCore (fun c => c.enterS (abSlot y) 1 d ((c.rs a).sshiftRight ((c.rs b).toNat % 64)))) s

/-- SHLI (R111). -/
def execShli (y : AB) (d a : Reg) (h : Fin 64) (s : State) : Host.Outcome State Fault Refusal :=
  slotExec (abSlot y) (.shli y d a h)
    (onCore (fun c => c.enterS (abSlot y) 1 d (c.rs a <<< h.val))) s

/-- SHRLI (R111). -/
def execShrli (y : AB) (d a : Reg) (h : Fin 64) (s : State) : Host.Outcome State Fault Refusal :=
  slotExec (abSlot y) (.shrli y d a h)
    (onCore (fun c => c.enterS (abSlot y) 1 d (c.rs a >>> h.val))) s

/-- SHRAI (R111). -/
def execShrai (y : AB) (d a : Reg) (h : Fin 64) (s : State) : Host.Outcome State Fault Refusal :=
  slotExec (abSlot y) (.shrai y d a h)
    (onCore (fun c => c.enterS (abSlot y) 1 d ((c.rs a).sshiftRight h.val))) s

/-- Leading zero bits among the n low bits (R111). -/
def leadingZeros (x : Word) : Nat → Nat
  | 0 => 0
  | n + 1 => if x.getLsbD n then 0 else leadingZeros x n + 1

/-- 1 bits among the n low bits (R111). -/
def onesBelow (x : Word) : Nat → Nat
  | 0 => 0
  | n + 1 => (x.getLsbD n).toNat + onesBelow x n

/-- Trailing zero bits from bit i on, n bits left (R111). -/
def trailingZeros (x : Word) : Nat → Nat → Nat
  | 0, _ => 0
  | n + 1, i => if x.getLsbD i then 0 else trailingZeros x n (i + 1) + 1

/-- CLZ (R111). -/
def execClz (y : AB) (d a : Reg) (s : State) : Host.Outcome State Fault Refusal :=
  slotExec (abSlot y) (.clz y d a)
    (onCore (fun c => c.enterS (abSlot y) 1 d (BitVec.ofNat 64 (leadingZeros (c.rs a) 64)))) s

/-- CTZ (R111). -/
def execCtz (y : AB) (d a : Reg) (s : State) : Host.Outcome State Fault Refusal :=
  slotExec (abSlot y) (.ctz y d a)
    (onCore (fun c => c.enterS (abSlot y) 1 d (BitVec.ofNat 64 (trailingZeros (c.rs a) 64 0)))) s

/-- POPC (R111). -/
def execPopc (y : AB) (d a : Reg) (s : State) : Host.Outcome State Fault Refusal :=
  slotExec (abSlot y) (.popc y d a)
    (onCore (fun c => c.enterS (abSlot y) 1 d (BitVec.ofNat 64 (onesBelow (c.rs a) 64)))) s

/-- MIN (R111). -/
def execMin (y : AB) (d a b : Reg) (s : State) : Host.Outcome State Fault Refusal :=
  slotExec (abSlot y) (.min y d a b)
    (onCore (fun c => c.enterS (abSlot y) 1 d (if (c.rs a).slt (c.rs b) then c.rs a else c.rs b))) s

/-- MAX (R111). -/
def execMax (y : AB) (d a b : Reg) (s : State) : Host.Outcome State Fault Refusal :=
  slotExec (abSlot y) (.max y d a b)
    (onCore (fun c => c.enterS (abSlot y) 1 d (if (c.rs a).slt (c.rs b) then c.rs b else c.rs a))) s

/-- MINN (R111). -/
def execMinn (y : AB) (d a b : Reg) (s : State) : Host.Outcome State Fault Refusal :=
  slotExec (abSlot y) (.minn y d a b)
    (onCore (fun c => c.enterS (abSlot y) 1 d (if (c.rs a).ult (c.rs b) then c.rs a else c.rs b))) s

/-- MAXN (R111). -/
def execMaxn (y : AB) (d a b : Reg) (s : State) : Host.Outcome State Fault Refusal :=
  slotExec (abSlot y) (.maxn y d a b)
    (onCore (fun c => c.enterS (abSlot y) 1 d (if (c.rs a).ult (c.rs b) then c.rs b else c.rs a))) s

/-- SEL (R113). -/
def execSel (y : AB) (d a b : Reg) (p : PReg) (s : State) : Host.Outcome State Fault Refusal :=
  slotExec (abSlot y) (.sel y d a b p)
    (onCore (fun c => c.enterS (abSlot y) 1 d (if (c.rp p).getLsbD 0 then c.rs a else c.rs b))) s

/-- CMP (R113). -/
def execCmp (y : AB) (d a b : Reg) (cc : Cc) (s : State) : Host.Outcome State Fault Refusal :=
  slotExec (abSlot y) (.cmp y d a b cc)
    (onCore (fun c => c.enterS (abSlot y) 1 d (if ccHolds 64 cc (c.rs a).toNat (c.rs b).toNat then 1 else 0))) s

/-- CMPI (R113). -/
def execCmpi (y : AB) (d a : Reg) (cc : Cc) (i : BitVec 8) (s : State) : Host.Outcome State Fault Refusal :=
  slotExec (abSlot y) (.cmpi y d a cc i)
    (onCore (fun c => c.enterS (abSlot y) 1 d (if ccHolds 64 cc (c.rs a).toNat (i.signExtend 64).toNat then 1 else 0))) s

/-- A bitwise function of two predicates by its table: bit 2x + y of the table is the result for x and y (R81, R114). -/
def predTable (f : BitVec 4) (x y : Pred) : Pred :=
  let on (i : Nat) (m : Pred) : Pred := if f.getLsbD i then m else 0
  on 0 (~~~x &&& ~~~y) ||| on 1 (~~~x &&& y) ||| on 2 (x &&& ~~~y) ||| on 3 (x &&& y)

/-- PLOG (R114). -/
def execPlog (y : AB) (d a b : PReg) (f : BitVec 4) (s : State) : Host.Outcome State Fault Refusal :=
  slotExec (abSlot y) (.plog y d a b f)
    (onCore (fun c => c.enterP (abSlot y) 1 d (predTable f (c.rp a) (c.rp b)))) s

/-- Bit j of a predicate from bit j div 8 of a scalar (R114). -/
def predOfScalar (x : Word) : Pred := spreadBits 64 ((List.range 64).map x.getLsbD)

/-- Bit e of a scalar from bit 8e of a predicate (R114). -/
def scalarOfPred (p : Pred) : Word :=
  BitVec.ofNat 64 (packLanes 1 ((List.range 64).map (fun e => (p.getLsbD (8 * e)).toNat)))

/-- PMOV (R114). -/
def execPmov (y : AB) (dir : Bool) (x : Reg) (p : PReg) (s : State) : Host.Outcome State Fault Refusal :=
  slotExec (abSlot y) (.pmov y dir x p)
    (onCore (fun c =>
      if dir then c.enterS (abSlot y) 1 x (scalarOfPred (c.rp p)) else c.enterP (abSlot y) 1 p (predOfScalar (c.rs x)))) s

/-- ADDSC (R111). -/
def execAddsc (y : AB) (d a b : Reg) (h : Fin 8) (s : State) : Host.Outcome State Fault Refusal :=
  slotExec (abSlot y) (.addsc y d a b h)
    (onCore (fun c => c.enterS (abSlot y) 1 d (c.rs a + (c.rs b <<< h.val)))) s

/-- EXT: bits beyond 63 read as 0 (R111). -/
def execExt (y : AB) (d a : Reg) (p : Fin 64) (l : Fin 32) (s : State) : Host.Outcome State Fault Refusal :=
  slotExec (abSlot y) (.ext y d a p l)
    (onCore (fun c => c.enterS (abSlot y) 1 d (BitVec.ofNat 64 (bits (c.rs a).toNat p.val (l.val + 1))))) s

/-- A scalar operand at a format: the low bits of its register (R116). -/
def Core.fpArg (c : Core) (f : FD) (a : Reg) : Nat := (c.rs a).toNat % 2 ^ (fdFmt f).width

/-- A scalar floating-point result, zero-extended, with its flags (R38, R116). -/
def Core.enterFp (c : Core) (slot lat : Nat) (d : Reg) (r : Nat × Flags) : Core := c.enter slot lat (.scalar d) r.1 r.2

/-- FADD (R116). -/
def execFadd (y : AB) (d a b : Reg) (f : FD) (s : State) : Host.Outcome State Fault Refusal :=
  slotExec (abSlot y) (.fadd y d a b f)
    (onCore (fun c => c.enterFp (abSlot y) 4 d (fpAdd (fdFmt f) c.rnd (c.fpArg f a) (c.fpArg f b)))) s

/-- FSUB (R116). -/
def execFsub (y : AB) (d a b : Reg) (f : FD) (s : State) : Host.Outcome State Fault Refusal :=
  slotExec (abSlot y) (.fsub y d a b f)
    (onCore (fun c => c.enterFp (abSlot y) 4 d (fpSub (fdFmt f) c.rnd (c.fpArg f a) (c.fpArg f b)))) s

/-- FMUL (R116). -/
def execFmul (y : AB) (d a b : Reg) (f : FD) (s : State) : Host.Outcome State Fault Refusal :=
  slotExec (abSlot y) (.fmul y d a b f)
    (onCore (fun c => c.enterFp (abSlot y) 4 d (fpMul (fdFmt f) c.rnd (c.fpArg f a) (c.fpArg f b)))) s

/-- FFMA (R116). -/
def execFfma (y : AB) (d a b e : Reg) (f : FD) (s : State) : Host.Outcome State Fault Refusal :=
  slotExec (abSlot y) (.ffma y d a b e f)
    (onCore (fun c => c.enterFp (abSlot y) 4 d (fpFma (fdFmt f) c.rnd (c.fpArg f a) (c.fpArg f b) (c.fpArg f e)))) s

/-- FCMP (R117). -/
def execFcmp (y : AB) (d a b : Reg) (cc : Fcc) (f : FD) (s : State) : Host.Outcome State Fault Refusal :=
  slotExec (abSlot y) (.fcmp y d a b cc f)
    (onCore (fun c => c.enterFp (abSlot y) 4 d (boolResult (fpCompare (fdFmt f) cc (c.fpArg f a) (c.fpArg f b))))) s

/-- FCVT (R118). -/
def execFcvt (y : AB) (d a : Reg) (t f : Ty) (s : State) : Host.Outcome State Fault Refusal :=
  slotExec (abSlot y) (.fcvt y d a t f)
    (onCore (fun c => c.enterFp (abSlot y) 4 d (let r := convert c.rnd t f ((c.rs a).toNat % 2 ^ (tyKind f).bits); (extendTy t r.1, r.2)))) s

/-- FMNX (R117). -/
def execFmnx (y : AB) (d a b : Reg) (f : FD) (m : Bool) (s : State) : Host.Outcome State Fault Refusal :=
  slotExec (abSlot y) (.fmnx y d a b f m)
    (onCore (fun c => c.enterFp (abSlot y) 4 d (fpMinMax (fdFmt f) c.rnd m (c.fpArg f a) (c.fpArg f b)))) s

end Sys2Proof.Machine
end

