-- ==== Sys2Proof/Machine/Journal.lean ====
section
/-! DEFINITION. The journal of a core's weight store: the forms WJW, WJC, WJA and WJD and WWEAR at issue (R210, R211), writes of
units with their wear and spares (R381 to R383), the records on the media (R384, R385), the order of writes (R386, R387) and the
scan at wake (R388). -/

namespace Sys2Proof.Machine

/-- Changes a core's weight store. -/
def State.onWs (s : State) (k : CoreId) (f : WStore → WStore) : State := s.setCore { s.core k with ws := f (s.core k).ws }

/-! ### Writing a unit (R381 to R383) -/

/-- The lowest-numbered free spare. -/
def WStore.freeSpare (w : WStore) : Option Nat := (List.range 2048).find? (fun i => decide ((w.entry i).1 = 0))

/-- One attempt is counted: in the segment of the unit, or in the wear report (R383). -/
def WStore.count (w : WStore) (u : Nat) : WStore :=
  if u < 1048576 then { w with wear := put w.wear (u / 1024) (Nat.min (2 ^ 32 - 1) (look 0 w.wear (u / 1024) + 1)) }
  else { w with report := w.report + 1 }

/-- A unit that holds a copy of the state record (R384). -/
def isStateUnit (u : Nat) : Bool := decide (u = 1048576 ∨ u = 1048577)

/-- One attempt for unit u at a place of the medium (R381): a failed one leaves the bytes as ECC reads them, or uncorrectable; a copy of the
state whose write has not passed its verify does not check (R384, R389). A place that is a unit of a converted segment counts there as
well (R379, R383). -/
def WStore.pulse (w : WStore) (u place : Nat) (x : WUnit) (fails torn : Bool) : WStore :=
  let w := ({ w with units := put w.units place { x with bad := fails && (torn || isStateUnit u) } }).count u
  if place < 1048576 ∧ place ≠ u then w.count place else w

/-- How far a unit write has come. -/
inductive Wrote where
  | more | passed | wearOut
  deriving DecidableEq, Repr

/-- Attempts at one copy of an entry, among n from the a-th on, and whether one passes (R382). -/
def entryTries (k : Nat) : Nat → Nat → Nat × Bool
  | 0, _ => (0, false)
  | n + 1, a => if Config.entryPasses k a then (1, true) else let r := entryTries k n (a + 1); (r.1 + 1, r.2)

/-- A write of remap entry i (R382): up to five attempts on each copy, reported and counted in no segment; a copy that fails is in
error. It fails when both do. -/
def WStore.writeEntry (w : WStore) (k a i : Nat) (v : Nat × Nat) : WStore × Bool :=
  let x := entryTries k 5 a
  let y := entryTries k 5 (a + 5)
  ({ w with
      remap := if x.2 then put w.remap i v else w.remap
      mirror := if y.2 then put w.mirror i v else w.mirror
      badCopies := w.badCopies.filter (fun b => decide (b.1 ≠ i)) ++ (if x.2 then [] else [(i, 0)]) ++ (if y.2 then [] else [(i, 1)])
      report := w.report + x.1 + y.1 }, x.2 || y.2)

/-- The entry that makes spare i serve a unit; the spare that served it before has failed, and is marked bad (R382). -/
def WStore.serve (w : WStore) (k i u : Nat) : WStore × Bool :=
  let x := w.writeEntry k 0 i (1, u)
  match w.serving u with
  | some j => let y := x.1.writeEntry k 10 j (2, 0); (y.1, x.2 && y.2)
  | none => x

/-- The counters are written to their mirrored copies (R383). -/
def WStore.flush (w : WStore) (k : Nat) : WStore :=
  { w with wearCopy := w.wear, wearMirror := w.wear, report := w.report + Config.counterAttempts k }

/-- A core is retired (R382, R410, R426): it is never bound; the event holds a cause. `engine` is the slot of the engine at fault, or 0. -/
def State.retireCore (s : State) (k : CoreId) (f : Cause) (engine : Nat) : State :=
  let s := s.setCore { s.core k with enabled := false }
  State.logEvent { s with umpire := { s.umpire with retired := insertNew (k, engine) s.umpire.retired } } 0x51 k f.code

/-- One attempt of a unit write, or the write of a spare's entry (R381, R382). -/
def State.unitStep (s : State) (k : CoreId) (u : Nat) (x : WUnit) : State × Wrote :=
  let n := s.freeCtr
  let s := s.tickFree
  let w := (s.core k).ws
  if w.tries < 5 then
    if Config.verifyPasses n w.tries then (s.onWs k (fun w => { w.pulse u (w.place u) x false false with tries := 0 }), .passed)
    else (s.onWs k (fun w => { w.pulse u (w.place u) x true (Config.tornUnit n) with tries := w.tries + 1 }), .more)
  else
    match w.freeSpare with
    | none => ((s.onWs k (fun w => { w with tries := 0 })).logEvent 0x44 k u, .wearOut)
    | some i =>
      let p := w.spareUnit i
      if w.tries < 10 then
        if Config.verifyPasses n (w.tries - 5) then (s.onWs k (fun w => { w.pulse u p x false false with tries := 10 }), .more)
        else
          let s := s.onWs k (fun w => { w.pulse u p x true (Config.tornUnit n) with tries := w.tries + 1 })
          if w.tries = 9 then
            let r := (s.core k).ws.writeEntry n 0 i (2, 0)
            if r.2 then (s.onWs k (fun _ => { r.1 with tries := 5 }), .more)
            else ((s.onWs k (fun _ => { r.1 with tries := 0 })).retireCore k .wearOut 0, .wearOut)
          else (s, .more)
      else
        let r := w.serve n i u
        let s := s.onWs k (fun _ => { r.1 with tries := 0 })
        if r.2 then (s.logEvent 0x43 k (i * 2 ^ 32 + u), .passed) else (s.retireCore k .wearOut 0, .wearOut)

/-! ### Records (R384, R385) -/

/-- A 64-byte unit of a number, with a unit sequence. -/
def unitOf (v seq : Nat) : WUnit := ⟨BitVec.ofNat 512 v, BitVec.ofNat 64 seq, false⟩

/-- A state record. -/
def stateRecord (j : Journal) (st gen : Nat) : Nat :=
  0x4A530001 + gen % 2 ^ 32 * 2 ^ 32 + st * 2 ^ 64 + j.wset * 2 ^ 80 + j.jstart * 2 ^ 96 + j.jhead * 2 ^ 112 + j.seq * 2 ^ 128 + j.hiseq * 2 ^ 192

/-- A state write goes to the copy that does not hold the generation in force (R384). -/
def stateWrite (j : Journal) (st : Nat) : Nat × WUnit := (1048576 + (j.gen + 1) % 2, unitOf (stateRecord j st (j.gen + 1)) 0)

/-- A range record. -/
def rangeRecord (r : Nat × Nat × Nat) (seq : Nat) : Nat :=
  0x4A520001 + r.2.1 * 2 ^ 32 + r.1 * 2 ^ 64 + r.2.2 * 2 ^ 96 + seq * 2 ^ 128

/-- Journal data unit j as a unit of the store (R379). -/
def dataUnit (j : Nat) : Nat := 1046528 + j % 2048

/-- Data units that ranges take. -/
def unitsOf (rs : List (Nat × Nat × Nat)) : Nat := (rs.map (fun r => r.2.1 / 64)).sum

/-- The digest of a commit record (R385): range records, then the staged ciphertext. -/
def WStore.digest (w : WStore) (rs : List (Nat × Nat × Nat)) (seq : Nat) : Nat :=
  natOfBytes ((sha384 (rs.flatMap (fun r => bytesOf 64 (rangeRecord r seq)) ++
    rs.flatMap (fun r => (List.range (r.2.1 / 64)).flatMap (fun i => bytesOf 64 (w.unit (dataUnit (r.2.2 + i))).data.toNat)))).take 32)

/-- A commit record. -/
def WStore.commitRecord (w : WStore) (j : Journal) : Nat :=
  0x4A430001 + j.ranges.length * 2 ^ 32 + j.seq * 2 ^ 64 + j.wset * 2 ^ 128 + unitsOf j.ranges * 2 ^ 160 + w.digest j.ranges j.seq * 2 ^ 256

/-- The state record of a copy, if its magic and ECC check. -/
def WStore.stateCopy (w : WStore) (c : Nat) : Option Nat :=
  let x := w.unit (1048576 + c)
  if !x.bad && decide (field x.data.toNat 0 4 = 0x4A530001) then some x.data.toNat else none

/-- The valid state record (R384), or none on a store that nothing has written. -/
def WStore.validState (w : WStore) : Option Nat :=
  match w.stateCopy 0, w.stateCopy 1 with
  | some a, some b => some (if field a 4 4 < field b 4 4 then b else a)
  | some a, none => some a
  | none, b => b

/-- Range record i of a transaction, if it carries its sequence. -/
def WStore.rangeAt (w : WStore) (seq i : Nat) : Option (Nat × Nat × Nat) :=
  let x := w.unit (1048578 + i)
  let v := x.data.toNat
  if !x.bad && decide (field v 0 4 = 0x4A520001 ∧ field v 16 8 = seq) then some (field v 8 4, field v 4 4, field v 12 2) else none

/-- The valid range records of a transaction, in order. -/
def WStore.ranges (w : WStore) (seq : Nat) : Nat → Nat → List (Nat × Nat × Nat)
  | 0, _ => []
  | n + 1, i =>
    match w.rangeAt seq i with
    | some r => r :: w.ranges seq n (i + 1)
    | none => []

/-- The journal that the media show (R384, R385): Committed if the commit record is valid. -/
def WStore.scanned (w : WStore) : Journal :=
  match w.validState with
  | none => ⟨0, 0, 0, 0, 0, 0, 0, []⟩
  | some v =>
    let seq := field v 16 8
    let j : Journal := ⟨field v 8 1, seq, field v 10 2, field v 12 2, field v 14 2, field v 24 8, field v 4 4, w.ranges seq 61 0⟩
    let x := w.unit 1048639
    let c := x.data.toNat
    let nr := field c 4 1
    let good := !x.bad && decide (field c 0 4 = 0x4A430001 ∧ field c 8 8 = seq ∧ field c 16 2 = j.wset ∧ 1 ≤ nr ∧ nr ≤ j.ranges.length) &&
      decide (field c 32 32 = w.digest (j.ranges.take nr) seq)
    if j.st = 0 then { j with ranges := [] }
    else if good then { j with st := 2, ranges := j.ranges.take nr }
    else { j with st := 1 }

/-! ### The version table (R379) -/

/-- Entry e of the version table. -/
def WStore.version (w : WStore) (e : Nat) : Nat := field (w.unit (1048640 + e / 4)).data.toNat (16 * (e % 4)) 16

/-- The entry of a weight set: its own, or the first that is free. -/
def WStore.versionSlot (w : WStore) (wset : Nat) : Nat :=
  match (List.range 64).find? (fun e => bitAt (w.version e) 80 && decide (field (w.version e) 8 2 = wset)) with
  | some e => e
  | none => ((List.range 64).find? (fun e => !bitAt (w.version e) 80)).getD 63

/-- The published sequence number of a set on a core (R252, R386). -/
def WStore.published (w : WStore) (wset : Nat) : Nat :=
  let v := w.version (w.versionSlot wset)
  if bitAt v 80 && decide (field v 8 2 = wset) then field v 0 8 else 0

/-- The write that publishes a sequence number. -/
def WStore.publish (w : WStore) (wset seq : Nat) : Nat × WUnit :=
  let e := w.versionSlot wset
  let u := 1048640 + e / 4
  (u, unitOf (setBits (w.unit u).data.toNat (128 * (e % 4)) 128 (seq + wset * 2 ^ 64 + 2 ^ 80)) 0)

/-! ### The writes of a form, in order (R386) -/

/-- The units of a range at its target: the ciphertext unchanged, under the transaction's sequence (R385). -/
def WStore.applyRange (w : WStore) (seq : Nat) (r : Nat × Nat × Nat) : List (Nat × WUnit) :=
  (List.range (r.2.1 / 64)).map (fun i => (r.1 / 64 + i, unitOf (w.unit (dataUnit (r.2.2 + i))).data.toNat seq))

/-- The journal after a transaction has been applied or discarded (R386). -/
def Journal.closed (j : Journal) : Journal := { j with st := 0, jhead := (j.jstart + unitsOf j.ranges) % 2048, ranges := [] }

/-- The writes of an apply (R386): the targets, the publication, the state. -/
def WStore.applyWrites (w : WStore) (j : Journal) : List (Nat × WUnit) :=
  j.ranges.flatMap (w.applyRange j.seq) ++ [w.publish j.wset j.seq, stateWrite j.closed 0]

/-- The range that a WJW adds. -/
def Journal.nextRange (j : Journal) (m : Cmd) : Nat × Nat × Nat := (m.d 8 4, m.d 12 4, (j.jstart + unitsOf j.ranges) % 2048)

/-- The transaction that a WJW opens or goes on with (R210, R386). -/
def Journal.opened (j : Journal) (m : Cmd) : Journal :=
  if j.st = 0 then { j with st := 1, seq := m.d 0 8, wset := m.d 20 2, jstart := j.jhead, hiseq := m.d 0 8, ranges := [] } else j

/-- The journal after a form (R210, R386). -/
def Journal.after (j : Journal) (m : Cmd) : Journal :=
  match m.instr with
  | .wjw _ _ => let o := j.opened m; { o with ranges := o.ranges ++ [o.nextRange m] }
  | .wjc _ _ => { j with st := 2 }
  | .wja _ _ => if j.st = 2 then j.closed else j
  | .wjd _ _ => j.closed
  | _ => j

/-- The staged ciphertext of a WJW (R385): its bytes under the counter block of the target offset and the sequence. -/
def State.stagedUnits (s : State) (k : CoreId) (m : Cmd) (j0 : Nat) : List (Nat × WUnit) :=
  (m.list.zipIdx).map (fun x =>
    let u := m.d 8 4 / 64 + x.2
    let key := (s.key ((s.core k).ws.seg (u / 1024)).slot).key
    let seq := BitVec.ofNat 64 (m.d 0 8)
    (dataUnit (j0 + x.2), unitOf (x.1 ^^^ unitStream key (clusterOf k) (coreNumber k) u seq) seq.toNat))

/-- The unit writes of a form, in order (R386). -/
def State.formWrites (s : State) (k : CoreId) (m : Cmd) : List (Nat × WUnit) :=
  let w := (s.core k).ws
  let j := w.jnl
  match m.instr with
  | .wjw _ _ =>
    let o := j.opened m
    let r := o.nextRange m
    (if j.st = 0 then [stateWrite { o with gen := j.gen } 1] else []) ++
      (1048578 + o.ranges.length, unitOf (rangeRecord r o.seq) 0) :: s.stagedUnits k m r.2.2
  | .wjc _ _ => [(1048639, unitOf (w.commitRecord j) 0)]
  | .wja _ _ => if j.st = 2 then w.applyWrites j else []
  | .wjd _ _ => [stateWrite j.closed 0]
  | _ => []

/-! ### Issue (R210) -/

/-- A journal form. -/
def Cmd.isJournal (m : Cmd) : Bool :=
  match m.instr with
  | .wjw _ _ => true | .wjc _ _ => true | .wja _ _ => true | .wjd _ _ => true | _ => false

/-- Inserts a form in order of issue. -/
def insertForm (x : TaskRef × Cmd) : List (TaskRef × Cmd) → List (TaskRef × Cmd)
  | [] => [x]
  | y :: ys => if x.2.seq ≤ y.2.seq then x :: y :: ys else y :: insertForm x ys

/-- The journal forms outstanding on a core's store, with their owners, in order of issue. -/
def State.journalForms (s : State) (k : CoreId) : List (TaskRef × Cmd) :=
  let owners := s.cores.map TaskRef.core ++ s.tasks.map (fun v => .slot v.task.ctx v.task.slot)
  (owners.flatMap (fun r => ((s.cmdsAt r).filter (fun m => m.isJournal && decide (m.core = k))).map (fun m => (r, m)))).foldr insertForm []

/-- The journal that the outstanding forms leave if each succeeds (R210); one that is done has left its state already. -/
def State.journalNext (s : State) (k : CoreId) : Journal :=
  ((s.journalForms k).filter (fun x => !x.2.done)).foldl (fun j x => j.after x.2) (s.core k).ws.jnl

/-- A segment that a task may write (R339, R345). -/
def State.segWritable (s : State) (n : Nat) : Bool :=
  let g := s.c.ws.seg n
  decide (g.role = 0 ∧ g.wld = (s.ctx s.c.party.ctx).wld ∧ g.comp = s.c.party.comp) && g.write

/-- Every segment of some ranges may be written. -/
def State.rangesWritable (s : State) (rs : List (Nat × Nat)) : Bool := rs.all (fun r => (segsOf r.1 r.2).all s.segWritable)

/-- The limits of a WJW's descriptor (R210). -/
def wjwOk (d : Nat) : Bool :=
  let n := field d 12 4
  decide (field d 22 42 = 0 ∧ field d 8 4 % 64 = 0 ∧ n % 64 = 0 ∧ 64 ≤ n ∧ n ≤ 65536 ∧ field d 8 4 + n ≤ 0x4000000 ∧ field d 16 4 % 64 = 0)

/-- The state checks of a WJW (R210, R386). -/
def State.wjwState (s : State) (d : Nat) : Bool :=
  let j := s.journalNext s.c.id
  let seq := field d 0 8
  let units := (if j.st = 0 then 0 else unitsOf j.ranges) + field d 12 4 / 64
  (if j.st = 0 then decide (j.hiseq < seq ∧ s.c.ws.published (field d 20 2) < seq)
   else decide (j.st = 1 ∧ j.seq = seq ∧ j.wset = field d 20 2 ∧ j.ranges.length < 61)) && decide (units ≤ 2048)

/-- WJW (R210). -/
def execWjw (a : Reg) (x : Xc) (s : State) : Host.Outcome State Fault Refusal :=
  slotExec 7 (.wjw a x)
    (cmdStart x (localOperand (s.c.rs a).toNat 64 64 (fun d => require (wjwOk d && s.wjwState d) (fun s =>
      let off := field d 16 4
      let n := field d 12 4
      if s.c.scratchSize < off + n then .trap ⟨.scratchRange, addrInfo off⟩
      else if !s.rangesWritable [(field d 8 4, n)] then .trap (s.openTrap .compartment)
      else if s.c.needsFill off n then .hold { s with c := s.c.startFills off n }
      else addCmd (s.cmd0 (.wjw a x) x d) s)))) s

/-- The descriptor of the other forms names the open transaction, whose state is st (R210). -/
def State.journalNamed (s : State) (d st : Nat) : Bool :=
  let j := s.journalNext s.c.id
  decide (field d 22 42 = 0 ∧ field d 16 4 = 0 ∧ j.st = st ∧ field d 0 8 = j.seq ∧ field d 20 2 = j.wset)

/-- WJC (R210): every staged range is checked again. -/
def execWjc (a : Reg) (x : Xc) (s : State) : Host.Outcome State Fault Refusal :=
  slotExec 7 (.wjc a x)
    (cmdStart x (localOperand (s.c.rs a).toNat 64 64 (fun d => require (s.journalNamed d 1) (fun s =>
      if s.rangesWritable ((s.journalNext s.c.id).ranges.map (fun r => (r.1, r.2.1))) then addCmd (s.cmd0 (.wjc a x) x d) s
      else .trap (s.openTrap .compartment))))) s

/-- The task is a reader of a set (R252). -/
def Core.readsSet (c : Core) (wset : Nat) : Bool := match c.task with | some t => decide (wset ∈ t.sets) | none => false

/-- WJA (R210): not by a reader of the set. -/
def execWja (a : Reg) (x : Xc) (s : State) : Host.Outcome State Fault Refusal :=
  slotExec 7 (.wja a x)
    (cmdStart x (localOperand (s.c.rs a).toNat 64 64 (fun d =>
      require (s.journalNamed d 2 && !s.c.readsSet (field d 20 2)) (addCmd (s.cmd0 (.wja a x) x d))))) s

/-- WJD (R210). -/
def execWjd (a : Reg) (x : Xc) (s : State) : Host.Outcome State Fault Refusal :=
  slotExec 7 (.wjd a x)
    (cmdStart x (localOperand (s.c.rs a).toNat 64 64 (fun d => require (s.journalNamed d 1) (addCmd (s.cmd0 (.wjd a x) x d))))) s

/-- WWEAR (R211). -/
def execWwear (d a : Reg) (s : State) : Host.Outcome State Fault Refusal :=
  slotExec 7 (.wwear d a)
    (fun s =>
      let n := (s.c.rs a).toNat
      if 1024 ≤ n then .trap ⟨.scratchRange, addrInfo n⟩
      else .ok { s with c := s.c.await d (BitVec.ofNat 64 (look 0 s.c.ws.wear n)) }) s

/-! ### Performing a form -/

/-- The form that a core's journal unit performs next: its oldest, unless that one has faulted or is done (R210). -/
def State.journalHead (s : State) (k : CoreId) : Option (TaskRef × Cmd) :=
  match (s.journalForms k).find? (fun x => !x.2.done) with
  | some x => if x.2.fault.isSome then none else some x
  | none => none

/-- The readers of a set (R252). -/
def State.readers (s : State) (wset : Nat) : Nat := (look WSet.fresh s.wsets wset).readers

/-- An extend of a measurement register (R422). -/
def State.extend (s : State) (n : Fin 16) (d : BitVec 384) : State :=
  { s with mrs := s.mrs.set n (BitVec.ofNat 384 (sha384Nat (bytesOf 48 s.mrs[n].toNat ++ bytesOf 48 d.toNat))) }

/-- A digest as an extend takes it. -/
def digestOf (bs : List (BitVec 8)) : BitVec 384 := BitVec.ofNat 384 (sha384Nat bs)

/-- What the measurement of a version-table entry hashes (R422): the entry, then core and set, 2 bytes each. -/
def State.versionBytes (s : State) (k : CoreId) (e : Nat) : List (BitVec 8) :=
  let v := (s.core k).ws.version e
  bytesOf 16 v ++ bytesOf 2 (corenoOf s.umpire.standby k).toNat ++ bytesOf 2 (field v 8 2)

/-- The publication of a set on a core is measured (R422). -/
def State.measurePublication (s : State) (k : CoreId) (wset : Nat) : State :=
  s.extend 5 (digestOf (s.versionBytes k ((s.core k).ws.versionSlot wset)))

/-- Where a write stands among those of an apply: the publication is the last but one, the state the last (R386). -/
inductive Stage where
  | targets | publication | state
  deriving DecidableEq, Repr

/-- The stage of the p-th of n writes. -/
def stageOf (p n : Nat) : Stage := if p + 1 = n then .state else if p + 2 = n then .publication else .targets

/-- One attempt at a write of an apply, or of its roll-forward (R386 to R388): until the publication the reads of the set are held; one that
ends in WEAR_OUT leaves them held. -/
def State.applyStep (s : State) (k : CoreId) (ps : List (Nat × WUnit)) (u : Nat) (x : WUnit) : State × Wrote :=
  let p := (s.core k).ws.pos
  let stage := stageOf p ps.length
  let s := if stage = .state then s else s.onWs k (fun w => { w with applying := some w.jnl.wset })
  match s.unitStep k u x with
  | (s, .more) => (s, .more)
  | (s, .wearOut) => (s.onWs k (fun w => { w with pos := 0, applying := none, worn := true }), .wearOut)
  | (s, .passed) =>
    let s := s.onWs k (fun w => { w with pos := p + 1 })
    match stage with
    | .publication =>
      ((s.onWs k (fun w => { w with applying := none, worn := false })).measurePublication k (s.core k).ws.jnl.wset, .passed)
    | _ => (s, .passed)

/-- One attempt at a write of a form that is no apply (R386): the opening state write raises `hiseq` as it passes. -/
def State.stageStep (s : State) (k : CoreId) (m : Cmd) (u : Nat) (x : WUnit) : State × Wrote :=
  match s.unitStep k u x with
  | (s, .more) => (s, .more)
  | (s, .wearOut) => (s.onWs k (fun w => { w with pos := 0 }), .wearOut)
  | (s, .passed) =>
    (s.onWs k (fun w => { w with
      pos := w.pos + 1
      jnl := if isStateUnit u then { w.jnl with gen := w.jnl.gen + 1, hiseq := (w.jnl.opened m).hiseq } else w.jnl }), .passed)

/-- A journal form applies a transaction. -/
def Cmd.applies (m : Cmd) : Bool := match m.instr with | .wja _ _ => true | _ => false

/-- The form has made its last write (R383, R386). An apply that had a transaction to close wrote the state: one generation more (R384). -/
def State.journalEnd (s : State) (k : CoreId) (r : TaskRef) (m : Cmd) : State :=
  (s.onWs k (fun w => { w.flush s.freeCtr with
    pos := 0, worn := w.worn && !m.applies
    jnl := { w.jnl.after m with gen := if m.applies ∧ w.jnl.st = 2 then w.jnl.gen + 1 else w.jnl.gen } })).tickFree.putCmd r { m with done := true }

/-- The release at .mod that comes before a publication (R239), or why it can never be performed; other writes have none. -/
def State.beforeWrite (s : State) (r : TaskRef) (m : Cmd) (stage : Stage) : Except Cause Bool :=
  if m.applies && decide (stage = .publication) then s.cmdRelease r m .mod else .ok true

/-- One step of a journal form on its core: an attempt at its next unit (R386). -/
def State.journalStep (s : State) (k : CoreId) (r : TaskRef) (m : Cmd) : State :=
  let ps := s.formWrites k m
  let p := (s.core k).ws.pos
  match ps[p]? with
  | none => s.journalEnd k r m
  | some (u, x) =>
    match s.beforeWrite r m (stageOf p ps.length) with
    | .error f => (s.onWs k (fun w => { w with pos := 0, applying := none, worn := true })).putCmd r (s.failOpen m f)
    | .ok false => s
    | .ok true =>
      match (if m.applies then s.applyStep k ps u x else s.stageStep k m u x) with
      | (s, .more) => s
      | (s, .wearOut) => s.putCmd r (m.fail .wearOut (64 * u))
      | (s, .passed) => if p + 1 = ps.length then s.journalEnd k r m else s

/-- A journal form other than WJA is performed (R210, R386): its bytes are taken while its task resides on the core. -/
def State.journalWork (s : State) (r : TaskRef) (m : Cmd) : State :=
  match s.journalHead m.core with
  | some (r', h) =>
    if r' ≠ r ∨ h.tag ≠ m.tag then s
    else
      match m.instr with
      | .wja _ _ => s
      | .wjw _ _ =>
        let m' := if r = .core m.core && (s.core m.core).earlierSeen m then (s.core m.core).journalTake m else m
        if m'.fault.isSome then s.putCmd r m' else if m'.list.isEmpty then s else (s.putCmd r m').journalStep m.core r m'
      | _ => s.journalStep m.core r m
  | none => s

/-- A WJA begins its apply (R252, R387): it is no roll-forward, and the reads of its set are held as those of an apply in progress. -/
def WStore.begin (w : WStore) : WStore := if w.running then w else { w with worn := false, applying := if w.jnl.st = 2 then some w.jnl.wset else none }

/-- WJA_APPLY (R210, R252, R386): it begins, from its first unit, once no task of the module reads the set. -/
def execWjaApply (k : CoreId) (s : State) : Host.Outcome State Fault Refusal :=
  .next (match s.journalHead k with
    | some (r, m) =>
      match m.instr with
      | .wja _ _ =>
        if !(s.core k).ws.running && decide (s.readers (s.core k).ws.jnl.wset ≠ 0) then s
        else (s.onWs k WStore.begin).journalStep k r m
      | _ => s
    | none => s)

/-! ### The scan at wake (R388) -/

/-- What a scan writes on the media (R388): a committed transaction is applied, an open one discarded. -/
def WStore.scanWrites (w : WStore) : List (Nat × WUnit) := if w.jnl.st = 2 then w.applyWrites w.jnl else [stateWrite w.jnl.closed 0]

/-- The writes of a scan, or of a roll-forward, are made: event 0x42 or 0x41 (R388). -/
def State.scanEnd (s : State) (k : CoreId) : State :=
  let j := (s.core k).ws.jnl
  (s.onWs k (fun w => { w.flush s.freeCtr with
    jnl := { j.closed with gen := j.gen + 1 }, applying := none, worn := false, pos := 0 })).tickFree.logEvent (if j.st = 2 then 0x42 else 0x41) k j.seq

/-- One attempt of the scan of a core's journal (R388), and whether the scan of the core is over: it stops in WEAR_OUT, or has made its
last write. -/
def State.scanStep (s : State) (k : CoreId) : State × Bool :=
  let w := (s.core k).ws
  let ps := w.scanWrites
  match ps[w.pos]? with
  | none => (s.scanEnd k, true)
  | some (u, x) =>
    match (if w.jnl.st = 2 then s.applyStep k ps u x else
        match s.unitStep k u x with
        | (s, .passed) => (s.onWs k (fun w => { w with pos := w.pos + 1 }), Wrote.passed)
        | y => y) with
    | (s, .more) => (s, false)
    | (s, .wearOut) => (s, true)
    | (s, .passed) => if w.pos + 1 = ps.length then (s.scanEnd k, true) else (s, false)

/-- The journal as a wake finds it on the media (R384, R385, R388). -/
def State.openJournal (s : State) (k : CoreId) : State :=
  s.onWs k (fun w => { w with jnl := w.scanned, tries := 0, pos := 0, applying := none, worn := false, wear := w.wearCopy })

/-- One attempt of the roll-forward that follows a repair (R388): it applies without the reader wait. -/
def State.rollForward (s : State) (k : CoreId) : State := (s.scanStep k).1

/-- An apply that a worn unit stopped can go on: the journal stands Committed and no form of the core is to be performed (R387, R388). -/
def State.rollsForward (s : State) (k : CoreId) : Bool :=
  let w := (s.core k).ws
  decide (w.jnl.st = 2) && (s.journalHead k).isNone && (w.running || w.applying.isSome)

/-- ROLL_FORWARD_RETRY (R387, R388): once a repair has supplied spares, and while no form of the core is to be performed. -/
def execRollForwardRetry (k : CoreId) (s : State) : Host.Outcome State Fault Refusal :=
  .next (if s.rollsForward k then s.rollForward k else s)

end Sys2Proof.Machine
end

