-- ==== Sys2Proof/Machine/Complete.lean ====
section
/-! DEFINITION. Commands that end (R187, R190, R228, R229), a late mask (R362), and the waits of a successor bundle (R99, R104, R106,
R107, R199, R209). -/

namespace Sys2Proof.Machine

/-! ### The work of commands without boxes -/

/-- An earlier form on the same stream from the same core has not completed (R207, R358). -/
def State.streamBusy (s : State) (k : CoreId) (n : Nat) (before : Nat) : Bool :=
  (s.core k).cmds.any (fun m => decide (m.streamOf = some n ∧ m.seq < before))

/-- The security engine works on the scratchpad of the core where the task resides (R212); before a save it has finished (R314). -/
def State.securityWork (s : State) (r : TaskRef) (m : Cmd) : State :=
  match r with
  | .core k =>
    let c := s.core k
    let rs := (m.secReads ++ [m.secOut]).filter (fun x => c.needsFill x.1 x.2)
    if !c.earlierSeen m || c.freeze ≠ 0 then s
    else
      match rs.findSome? (fun x => (c.badFill x.1 x.2).map (fun f => (x, f))) with
      | some (x, f) =>
        (s.setCore (c.clearBad x.1 x.2)).putCmd r { m with fault := some ⟨f.cause, engInfo m.tag.val 0 0 0 (f.info.toNat % 2 ^ 49)⟩ }
      | none =>
        if rs.isEmpty then
          let y := c.secDo m
          (s.setCore y.1).putCmd r y.2
        else s.setCore (rs.foldl (fun c x => c.startFills x.1 x.2) c)
  | .slot _ _ => s

/-- Marks that a core's stores have been lost, as they stood in an ordering state (R254). -/
def State.setLost (s : State) (k : CoreId) (o : Ordering) : State :=
  s.setCore { s.core k with ord := { (s.core k).ord with lost := o.lost, lostOwn := o.lostOwn } }

/-- A form's work is taken on: performed, waiting, or faulted. Its release waits for what it has read (R249), and fails where a write of it
was lost (R254); `o` is its core's ordering state before it. -/
def Work.taken (w : Work) (r : TaskRef) (m : Cmd) (seen : List Nat) (o : Ordering) : State :=
  match w with
  | .done s' => (s'.setLost m.core o).putCmd r { m with done := true, fetched := [], seen := seen, lost := m.lost || (s'.core m.core).ord.lost.isSome }
  | .wait s' => s'.setLost m.core o
  | .fault s' t => (s'.setLost m.core o).putCmd r { m with fault := some t, fetched := [] }

/-- A stream form (R207, R358). `late` gives the ticks that have passed since it began to wait, once a deadline has expired (R362). -/
def State.streamTurn (s : State) (r : TaskRef) (m : Cmd) (late : Option Nat) : State :=
  match m.streamOf with
  | none => s
  | some n =>
    if s.streamBusy m.core n m.seq || !(s.core m.core).earlierSeen m then s
    else ((s.setLost m.core Ordering.none).streamWork r m late).taken r m (s.formSeen m) (s.core m.core).ord

/-- A LAUNCH is done when every chunk's bit is set, or when no launch is left of it (R290); one that a fence has failed fails again
(R417). -/
def State.launchWork (s : State) (r : TaskRef) (m : Cmd) : State :=
  match s.launches.find? (fun l => decide (l.issuer = m.core ∧ l.seq = m.seq)) with
  | none => s.putCmd r { m with done := true }
  | some l =>
    if l.dead then s.putCmd r (s.failOpen m .fenceLost)
    else if l.allDone then (s.dropLaunch l.id).putCmd r { m with done := true }
    else s

/-- The work of a command (R187): its boxes, or its form. -/
def State.commandWork (s : State) (r : TaskRef) (m : Cmd) : State :=
  if m.hasBoxes then (if m.boxesDone then s.putCmd r { m with done := true } else s)
  else if m.isSecurity then s.securityWork r m
  else if m.isJournal then s.journalWork r m
  else
    match m.instr with
    | .xinv _ _ => s.putCmd r { m with done := true }
    | .launch _ _ => s.launchWork r m
    | _ => s.streamTurn r m none

/-! ### Release and tag -/

/-- The scopes of the `sc` field (R78). -/
def scopeOfCode (n : Nat) : Scope :=
  match n with
  | 0 => .core | 1 => .clu | 2 => .vat | 3 => .mod | _ => .sys

/-- The release that a command performs before its tag (R187, R210, R358): stream forms at .mod at least, WJA at .mod. -/
def Cmd.releaseScope (m : Cmd) : Option Scope :=
  match m.xc with
  | none => none
  | some x =>
    let floor := m.streamOf.isSome || (match m.instr with | .wja _ _ => true | _ => false)
    if x.rel then some (if floor && decide (x.sc.val < 3) then .mod else scopeOfCode x.sc.val)
    else if floor then some .mod
    else none

/-- The release of a command whose work is done, then its tag; a release that can never be performed is an engine fault (R187, R190). -/
def State.commandEnd (s : State) (r : TaskRef) (m : Cmd) : State :=
  if !m.done || m.fault.isSome then s
  else
    match m.releaseScope with
    | none => s.finishCmd r m
    | some sc =>
      match s.cmdRelease r m sc with
      | .ok true => s.finishCmd r m
      | .ok false => s
      | .error f => s.putCmd r (s.failOpen m f)

/-- COMMAND_COMPLETES (R187): the work of a command goes on, and when it is done its release and its tag follow. -/
def execCommandCompletes (r : TaskRef) (tag : Fin 64) (s : State) : Host.Outcome State Fault Refusal :=
  .next (match s.cmdAt r tag with
    | none => s
    | some m =>
      if m.fault.isSome then s
      else
        let s := if m.done then s else s.commandWork r m
        match s.cmdAt r tag with
        | some m => s.commandEnd r m
        | none => s)

/-- MASK_DEADLINE_EXPIRES (R362): the deadline of the Mask stage at which a GSMPL waits; its ready word is read once more. -/
def execMaskDeadlineExpires (k : CoreId) (tag : Fin 64) (s : State) : Host.Outcome State Fault Refusal :=
  .next (match s.cmdAt (.core k) tag with
    | none => s
    | some m => if m.fault.isSome || m.done || m.fetched.isEmpty then s else s.streamTurn (.core k) m m.fetched.head?)

/-! ### Waits of a successor bundle -/

/-- Sets the wait of a core. -/
def State.setWait (s : State) (k : CoreId) (w : Option Wait) : State := s.setCore { s.core k with ord := { (s.core k).ord with wait := w } }

/-- The wait in force is over. -/
def State.endWait (s : State) (k : CoreId) : State := s.setWait k none

/-- What is left of two waits of one bundle. -/
def joinWaits : Option Wait → Option Wait → Option Wait
  | some x, some y => some (.both x y)
  | some x, none => some x
  | none, y => y

/-- A context chosen by `pcsel` comes into force at a partition core's SYNC (R340). -/
def State.applyPcsel (s : State) (k : CoreId) : State :=
  let c := s.core k
  match c.pcselNext with
  | some n => s.setCore { c.setCr crCtxid (BitVec.ofNat 64 n) with pcselNext := none }
  | none => s

/-- The wait in force can never end: the waiting bundle raises the trap (R74, R105, R209). -/
def State.failWait (s : State) (k : CoreId) (t : Trap) : State := s.setWait k (some (.failed t))

/-- GCUR at its successor (R209, R358, R367): accepted behind its release at .mod, which covers what its read of the entry has observed,
waiting for earlier forms of its stream and earlier stores, or rejected there. -/
def State.gcurWait (s : State) (k : CoreId) (n cur : Word) : State :=
  let ends (s : State) (c : Cause) : State := s.failWait k ⟨c, engInfo (Config.openWord s.freeCtr).toNat 0 0 0 0⟩
  if s.streamBusy k n.toNat s.ids || s.lockedBy k n.toNat || !(s.core k).stq.isEmpty then s
  else
    match s.gcur k n.toNat cur.toNat with
    | .ok s' =>
      if s'.releaseReady (s'.core k) .mod && (s.rangeSeen k (s.strmAddr k n.toNat, 256)).all (s.performedAt k .mod) then s'.endWait k
      else
        match s'.releaseFault (s'.core k) .mod with
        | some t => s'.failWait k t
        | none => s
    | .error .locked => s
    | .error (.notReady _) => s
    | .error .pool => ends s .streamState
    | .error (.cause c) => ends s c

/-- Every L-slot global access of a core is performed, with what its side log holds (R106). -/
def State.globalsDone (s : State) (c : Core) : Bool :=
  c.ilk.all (fun o => match o.kind with | .access a none => a.isRemote | _ => true) && c.held.isNone && c.stq.isEmpty && c.log.isEmpty &&
    (idsOf c.ord.own).all (s.performedAt c.id .sys)

/-- Why a SYNC can never end: an unreplayable entry, or a store of its own that is lost (R106, R254). -/
def State.syncFault (s : State) (c : Core) : Option Trap :=
  if c.log.any (fun e => decide (e.state = 2)) || c.ord.lostOwn then s.releaseFault c .sys else none

/-- One wait of a core, where its condition holds or can never hold (R99, R105 to R107, R199, R209). One that can never hold fails the bundle
that waits (R74, R105). -/
def State.waitHolds (s : State) (k : CoreId) : Wait → State
  | .both x y =>
    let s := (s.setWait k (some x)).waitHolds k x
    let rx := (s.core k).ord.wait
    let s := (s.setWait k (some y)).waitHolds k y
    s.setWait k (joinWaits rx (s.core k).ord.wait)
  | .sync =>
    match s.syncFault (s.core k) with
    | some t => s.failWait k t
    | none => if s.globalsDone (s.core k) then (s.applyPcsel k).endWait k else s
  | .arrive b n =>
    match s.releaseFault (s.core k) .clu with
    | some t => s.failWait k t
    | none => if s.releaseReady (s.core k) .clu then s.arrive k b n else s
  | .cbar b g => if ((s.cluster (clusterOf k)).barrier b).gen ≠ g then s.endWait k else s
  | .xcan tags => if (s.core k).cmds.any (fun m => decide (m.tag ∈ tags)) then s else s.endWait k
  | .gcur n cur => s.gcurWait k n cur
  | .tend => s
  | .failed _ => s

/-- WAIT_CONDITION_HOLDS (R99, R105 to R107, R199, R209): the wait between a bundle and its successor ends. The waits of a bundle
itself end as it issues. -/
def execWaitConditionHolds (k : CoreId) (s : State) : Host.Outcome State Fault Refusal :=
  .next (match (s.core k).ord.wait with
    | none => s
    | some w => s.waitHolds k w)

end Sys2Proof.Machine
end

