-- ==== Sys2Proof/Machine/Security.lean ====
section
/-! DEFINITION. What the Umpire keeps of trust: SPDM connections and sessions (R350, R423, R424), TDIs (R351), the requests of
owners (R337, R341, R342, R346 to R348, R352), and hot reset and link-down (R354). -/

namespace Sys2Proof.Machine

/-! ### SPDM (R423, R424) -/

/-- A connection that has sent nothing. -/
def Conn.fresh : Conn := ⟨0, [], [], []⟩

/-- A connection by its number. -/
def State.conn (s : State) (n : Nat) : Conn := look Conn.fresh s.conns n

/-- Replaces a connection. -/
def State.setConn (s : State) (n : Nat) (c : Conn) : State := { s with conns := put s.conns n c }

/-- The Umpire sends a reply. -/
def State.reply (s : State) (r : Reply) : State := { s with replies := s.replies ++ [r] }

/-- The Umpire answers requests: it has booted and has not stopped (R397, R427). -/
def State.serves (s : State) : Bool := s.booted && !s.umpire.stopped

/-- A request that the Umpire takes. -/
def serveWith (f : State → State) (s : State) : Host.Outcome State Fault Refusal := .next (if s.serves then f s else s)

/-- An ERROR reply and its event (R423); it changes neither state nor transcript. -/
def State.spdmError (s : State) (req err : Nat) : State :=
  (s.logEvent 0x56 .umpire (req + err * 2 ^ 8)).reply ⟨0x7F, err, []⟩

/-- Error codes of R423. -/
def invalidRequest : Nat := 0x01
/-- A request that the state does not accept. -/
def unexpectedRequest : Nat := 0x04
/-- A request that the Umpire does not know. -/
def unsupportedRequest : Nat := 0x07

/-- Bytes of the header that every SPDM message has: a shorter request is malformed (R423; the standard's, log 45). -/
def spdmHeader : Nat := 4

/-- A request in a connection: malformed without a whole header, refused out of its states, else answered (R423). -/
def spdmAsk (code conn : Nat) (req : List (BitVec 8)) (lo hi : Nat) (f : State → Conn → State) : State → State := fun s =>
  let c := s.conn conn
  if req.length < spdmHeader then s.spdmError code invalidRequest
  else if c.state < lo ∨ hi < c.state then s.spdmError code unexpectedRequest
  else f s.tickFree c

/-- GET_VERSION (R423): from any state; the transcripts begin with this exchange. -/
def execGetVersion (conn : Nat) (req : List (BitVec 8)) (s : State) : Host.Outcome State Fault Refusal :=
  serveWith (spdmAsk 0x84 conn req 0 4 (fun s _ =>
    let out := Config.spdmReplyBytes s.freeCtr
    (s.setConn conn ⟨1, req ++ out, [], []⟩).reply ⟨0x04, 0x13, out⟩)) s

/-- The capabilities that R423 lists, as the standard's flags (log 45): CERT_CAP, CHAL_CAP, MEAS_CAP with signature, MEAS_FRESH_CAP,
ENCRYPT_CAP, MAC_CAP, KEY_EX_CAP. -/
def spdmCapabilities : Nat := 2 ^ 1 + 2 ^ 2 + 2 ^ 4 + 2 ^ 5 + 2 ^ 6 + 2 ^ 7 + 2 ^ 9

/-- The algorithms that R423 names, as the standard's selections (log 45): no base asymmetric algorithm, since brainpoolP384r1 is an extended
one, SHA-384 as the base hash, AES-256-GCM as the AEAD. -/
def spdmAlgorithms : List (BitVec 8) := bytesOf 4 0 ++ bytesOf 4 2 ++ bytesOf 2 2

/-- GET_CAPABILITIES (R423). -/
def execGetCapabilities (conn : Nat) (req : List (BitVec 8)) (s : State) : Host.Outcome State Fault Refusal :=
  serveWith (spdmAsk 0xE1 conn req 1 1 (fun s c =>
    let out := Config.spdmReplyBytes s.freeCtr ++ bytesOf 4 spdmCapabilities
    (s.setConn conn { c with state := 2, vca := c.vca ++ req ++ out }).reply ⟨0x61, 0, out⟩)) s

/-- NEGOTIATE_ALGORITHMS (R423). -/
def execNegotiateAlgorithms (conn : Nat) (req : List (BitVec 8)) (s : State) : Host.Outcome State Fault Refusal :=
  serveWith (spdmAsk 0xE3 conn req 2 2 (fun s c =>
    let out := Config.spdmReplyBytes s.freeCtr ++ spdmAlgorithms
    (s.setConn conn { c with state := 3, vca := c.vca ++ req ++ out }).reply ⟨0x63, 0, out⟩)) s

/-- Bytes of the certificate chain in slot 0; a chain has at least one (R424). -/
def certSize : Nat := Config.certLen + 1

/-- GET_CERTIFICATE (R423): slot 0, in portions of up to 1,024 bytes. -/
def execGetCertificate (conn slot off len : Nat) (req : List (BitVec 8)) (s : State) : Host.Outcome State Fault Refusal :=
  serveWith (spdmAsk 0x82 conn req 3 4 (fun s c =>
    if slot ≠ 0 ∨ certSize ≤ off then s.spdmError 0x82 invalidRequest
    else
      let n := Nat.min (Nat.min len 1024) (certSize - off)
      let out := Config.spdmReplyBytes s.freeCtr ++ (List.range n).map (fun i => Config.certChain (off + i))
      (s.setConn conn { c with certs := c.certs ++ req ++ out }).reply ⟨0x02, n, out⟩)) s

/-- A signature by the attestation key over a transcript (R212, R424). -/
def attest (bytes : List (BitVec 8)) : List (BitVec 8) := ecSign (Config.deviceKey 1) (sha384 bytes)

/-- CHALLENGE (R423, R424): signed over the transcript up to the signature. -/
def execChallenge (conn : Nat) (nonce : Option (BitVec 256)) (req : List (BitVec 8)) (s : State) : Host.Outcome State Fault Refusal :=
  serveWith (spdmAsk 0x83 conn req 3 4 (fun s c =>
    match nonce with
    | none => s.spdmError 0x83 invalidRequest
    | some _ =>
      let out := Config.spdmReplyBytes s.freeCtr ++ bytesOf 32 (Config.nonce s.freeCtr).toNat
      let sig := attest (c.vca ++ c.certs ++ req ++ out)
      (s.setConn conn { c with state := 4 }).reply ⟨0x03, 0, out ++ sig⟩)) s

/-- The measurements that an index names: the count, one register, or all (R423). -/
def State.measurements (s : State) (idx : Nat) : Option (List (BitVec 8)) :=
  if idx = 0 then some [16]
  else if h : 1 ≤ idx ∧ idx ≤ 16 then some (bytesOf 48 s.mrs[idx - 1].toNat)
  else if idx = 0xFF then some (s.mrs.toList.flatMap (fun x => bytesOf 48 x.toNat))
  else none

/-- GET_MEASUREMENTS (R423, R424): the running hash is signed where asked, and then begins anew. -/
def execGetMeasurements (conn idx : Nat) (sign : Bool) (nonce : Option (BitVec 256)) (req : List (BitVec 8)) (s : State) :
    Host.Outcome State Fault Refusal :=
  serveWith (spdmAsk 0xE0 conn req 3 4 (fun s c =>
    match s.measurements idx with
    | none => s.spdmError 0xE0 invalidRequest
    | some ms =>
      if sign && nonce.isNone then s.spdmError 0xE0 invalidRequest
      else
        let out := Config.spdmReplyBytes s.freeCtr ++ ms ++ bytesOf 32 (Config.nonce s.freeCtr).toNat
        let t := c.meas ++ req ++ out
        if sign then (s.setConn conn { c with meas := [] }).reply ⟨0x60, idx, out ++ attest t⟩
        else (s.setConn conn { c with meas := t }).reply ⟨0x60, idx, out⟩)) s

/-- A request that is not listed (R423). -/
def execSpdmUnsupportedRequest (_conn : Nat) (req : List (BitVec 8)) (s : State) : Host.Outcome State Fault Refusal :=
  serveWith (fun s => s.spdmError (req.getD 1 0).toNat unsupportedRequest) s

/-- KEY_EXCHANGE (R350, R423): at most 64 sessions. -/
def execKeyExchange (conn : Nat) (req : List (BitVec 8)) (s : State) : Host.Outcome State Fault Refusal :=
  serveWith (spdmAsk 0xE4 conn req 3 4 (fun s _ =>
    if 64 ≤ s.sessions.length then s.spdmError 0xE4 invalidRequest
    else ({ s with sessions := put s.sessions s.ids ⟨false, 0, none⟩, ids := s.ids + 1 } : State).reply ⟨0x64, s.ids, Config.spdmReplyBytes s.freeCtr⟩)) s

/-- FINISH (R350): the session opens, with the certificate that its requester proved. -/
def execFinish (conn ses cert : Nat) (req : List (BitVec 8)) (s : State) : Host.Outcome State Fault Refusal :=
  serveWith (spdmAsk 0xE5 conn req 3 4 (fun s _ =>
    match find? s.sessions ses with
    | some x =>
      if x.finished then s.spdmError 0xE5 unexpectedRequest
      else ({ s with sessions := put s.sessions ses { x with finished := true, cert := cert } } : State).reply ⟨0x65, ses, Config.spdmReplyBytes s.freeCtr⟩
    | none => s.spdmError 0xE5 unexpectedRequest)) s

/-- END_SESSION (R350): its compartments are left to be claimed (R337). -/
def execEndSession (ses : Nat) (s : State) : Host.Outcome State Fault Refusal :=
  serveWith (fun s =>
    match find? s.sessions ses with
    | none => s.spdmError 0xEC unexpectedRequest
    | some _ =>
      ({ s with
        sessions := del s.sessions ses
        comps := s.comps.map (fun e => if e.2.owner = some ses then (e.1, { e.2 with owner := none }) else e) } : State).reply ⟨0x6C, ses, []⟩) s

/-! ### Sessions and their TDIs (R351) -/

/-- A finished session. -/
def State.session (s : State) (ses : Nat) : Option Session :=
  match find? s.sessions ses with
  | some x => if x.finished then some x else none
  | none => none

/-- A request inside a session. -/
def inSession (ses : Nat) (f : State → Session → State) : State → State := fun s =>
  match s.session ses with
  | some x => f s.tickFree x
  | none => s.spdmError 0xFE unexpectedRequest

/-- A refusal of a request inside a session (R352). -/
def State.refuse (s : State) : State := s.spdmError 0xFE invalidRequest

/-- A reply of a request inside a session. -/
def State.agree (s : State) (v : Nat) (bytes : List (BitVec 8)) : State := s.reply ⟨0x7E, v, bytes⟩

/-- The lowest world that no VF holds. -/
def State.freeWorld (s : State) : Option Nat := (List.range' 1 255).find? (fun w => s.vfs.all (fun v => decide (v.2.wld ≠ w)))

/-- Tasks of a world that are resident are saved and stay not eligible (R354). -/
def State.suspendWorld (s : State) (w : Nat) : State :=
  let s := s.cores.foldl (fun s k =>
    match (s.core k).task with
    | some t => if (s.ctx t.ctx).wld = w then s.saveTask k t .suspended else s
    | none => s) s
  { s with suspended := insertNew w s.suspended }

/-- A world resumes: its suspended tasks become eligible (R354), and join the resume lists while these have room (R284). -/
def State.resumeWorld (s : State) (w : Nat) : State :=
  (s.tasks.filter (fun v => decide (v.state = .suspended ∧ (s.ctx v.task.ctx).wld = w))).foldl (fun s v =>
    let st := if s.listRoom v.cl && s.firstMet v then TaskState.ready else .parked .met
    { s.setSaved v.task.ctx v.task.slot (fun x => { x with state := st, order := s.ids }) with ids := s.ids + 1 })
    { s with suspended := s.suspended.filter (fun x => decide (x ≠ w)) }

/-- A slot of a world with one of some kinds is retired (R342). -/
def State.retireSlots (s : State) (w : Option Nat) (kinds : List Nat) : State :=
  { s with keys := s.keys.map (fun e =>
      if e.2.st = 1 ∧ e.2.kind ∈ kinds ∧ (w = none ∨ w = some e.2.wld) then (e.1, { e.2 with st := 2 }) else e) }

/-- LOCK_INTERFACE_REQUEST (R351): the TDI is bound to the session; a world without a number gets the lowest free one. -/
def execLockInterfaceRequest (ses vf : Nat) (s : State) : Host.Outcome State Fault Refusal :=
  serveWith (inSession ses (fun s x =>
    let v := s.vf vf
    let w := if v.wld = 0 then s.freeWorld else some v.wld
    match w with
    | none => s.refuse
    | some w =>
      if vf < 1 ∨ 384 < vf ∨ v.part.isNone ∨ v.tdi ≠ .unlocked ∨ (x.vf.isSome ∧ x.vf ≠ some vf) then s.refuse
      else
        let n := Config.nonce s.freeCtr
        let s := s.setVf vf { v with tdi := .locked, wld := w, session := some ses, nonce := n }
        ({ s with sessions := put s.sessions ses { x with vf := some vf } } : State).agree vf (bytesOf 32 n.toNat))) s

/-- START_INTERFACE_REQUEST (R351, R354): with the nonce of LOCK. -/
def execStartInterfaceRequest (ses vf : Nat) (nonce : BitVec 256) (s : State) : Host.Outcome State Fault Refusal :=
  serveWith (inSession ses (fun s x =>
    let v := s.vf vf
    if x.vf ≠ some vf ∨ v.session ≠ some ses ∨ v.tdi ≠ .locked ∨ v.nonce ≠ nonce then s.refuse
    else ((s.setVf vf { v with tdi := .run }).resumeWorld v.wld).agree vf [])) s

/-- STOP_INTERFACE_REQUEST (R351): no task of the world stays bound; its memory and host-link slots are retired. -/
def execStopInterfaceRequest (ses vf : Nat) (s : State) : Host.Outcome State Fault Refusal :=
  serveWith (inSession ses (fun s x =>
    let v := s.vf vf
    if x.vf ≠ some vf ∨ v.session ≠ some ses then s.refuse
    else
      let s := (s.suspendWorld v.wld).retireSlots (some v.wld) [2, 4]
      (s.setVf vf { v with tdi := .unlocked, session := none }).agree vf [])) s

/-- GET_DEVICE_INTERFACE_REPORT (R351): partition, clusters, queue numbers and world. -/
def execGetDeviceInterfaceReport (ses vf : Nat) (s : State) : Host.Outcome State Fault Refusal :=
  serveWith (inSession ses (fun s _ =>
    let v := s.vf vf
    match v.part with
    | none => s.refuse
    | some p =>
      let qs := (s.queues.filter (fun e => decide (e.1.1 = p ∧ e.2.vfm = vf))).map (fun e => e.1.2)
      s.agree (p + v.wld * 2 ^ 8 + (s.part p).clusters.toNat * 2 ^ 16) (qs.flatMap (bytesOf 2)))) s

/-- GET_DEVICE_INTERFACE_STATE (R351). -/
def execGetDeviceInterfaceState (ses vf : Nat) (s : State) : Host.Outcome State Fault Refusal :=
  serveWith (inSession ses (fun s _ =>
    s.agree (match (s.vf vf).tdi with | .unlocked => 0 | .locked => 1 | .run => 2 | .error => 3) [])) s

/-- A bound TDI goes to ERROR, and its world is suspended (R351). -/
def State.tdiError (s : State) (vf : Nat) : State :=
  let v := s.vf vf
  if v.tdi = .locked ∨ v.tdi = .run then (s.suspendWorld v.wld).setVf vf { v with tdi := .error } else s

/-- IDE_FAILURE (R351). -/
def execIdeFailure (vf : Nat) (s : State) : Host.Outcome State Fault Refusal := serveWith (fun s => s.tdiError vf) s

/-! ### Requests of owners (R352) -/

/-- The world that a session's requests act on: its TDI is bound to that session, and is locked or runs (R351, R352). -/
def State.boundWorld (s : State) (ses : Nat) (x : Session) : Option Nat :=
  match x.vf with
  | some vf => let v := s.vf vf; if v.session = some ses ∧ (v.tdi = .locked ∨ v.tdi = .run) then some v.wld else none
  | none => none

/-- A request of a bound session. -/
def fromOwner (ses : Nat) (f : State → Session → Nat → State) : State → State :=
  inSession ses (fun s x => match s.boundWorld ses x with | some w => f s x w | none => s.refuse)

/-- A compartment that nothing has created. -/
def Comp.none : Comp := ⟨0, Option.none, 0⟩

/-- A session owns a compartment of a world (R337). -/
def State.owns (s : State) (ses w comp : Nat) : Bool :=
  let c := look Comp.none s.comps comp
  decide (comp ≠ 0 ∧ c.wld = w ∧ c.owner = some ses)

/-- COMP_CREATE (R337, R352): the lowest free number; at most 16 of a world. -/
def execCompCreate (ses : Nat) (s : State) : Host.Outcome State Fault Refusal :=
  serveWith (fromOwner ses (fun s x w =>
    if 16 ≤ (s.comps.filter (fun e => decide (e.2.wld = w))).length then s.refuse
    else
      match (List.range' 1 255).find? (fun n => (find? s.comps n).isNone) with
      | none => s.refuse
      | some n => ({ s with comps := put s.comps n ⟨w, some ses, x.cert⟩ } : State).agree n [])) s

/-- COMP_CLAIM (R337, R352). -/
def execCompClaim (ses comp : Nat) (s : State) : Host.Outcome State Fault Refusal :=
  serveWith (fromOwner ses (fun s x w =>
    match find? s.comps comp with
    | none => s.refuse
    | some c =>
      if c.wld ≠ w ∨ c.owner.isSome ∨ c.cert = 0 ∨ c.cert ≠ x.cert then s.refuse
      else ({ s with comps := put s.comps comp { c with owner := some ses } } : State).agree comp [])) s

/-- The status word of a key slot (R341). -/
def keyStatus (k : KeySlot) : Nat :=
  k.gen % 2 ^ 16 * 2 ^ 48 + k.wld % 256 * 2 ^ 32 + k.comp % 256 * 2 ^ 24 + k.pc.toNat * 2 ^ 15 + k.kind % 8 * 2 ^ 12 + k.st % 4 * 2 ^ 10

/-- What the measurement of a table hashes, where a rule gives its bytes: the slot status words (R341, R422). -/
def State.tableBytes (s : State) (n : Fin 16) : Option (List (BitVec 8)) :=
  if n = 3 then some ((List.range 128).flatMap (fun i => bytesOf 8 (keyStatus (s.key i)))) else none

/-- A change of a table is measured; the byte form of the segment and gate tables is open (R422). -/
def State.measureTable (s : State) (n : Fin 16) : State :=
  s.extend n (match s.tableBytes n with | some bs => digestOf bs | none => Config.tableDigest s.freeCtr)

/-- KEY_LOAD (R341, R342, R352). -/
def execKeyLoad (ses slot kind comp : Nat) (pc : Bool) (key : BitVec 256) (s : State) : Host.Outcome State Fault Refusal :=
  serveWith (fromOwner ses (fun s _ w =>
    let k := s.key slot
    if !s.owns ses w comp ∨ slot = 0 ∨ 128 ≤ slot ∨ k.st ≠ 0 ∨ kind < 2 ∨ 4 < kind then s.refuse
    else ((s.setKey slot ⟨(k.gen + 1) % 2 ^ 16, w, comp, pc, kind, 1, key, 0⟩).measureTable 3).agree slot [])) s

/-- KEY_RETIRE (R342, R352). -/
def execKeyRetire (ses slot : Nat) (s : State) : Host.Outcome State Fault Refusal :=
  serveWith (fromOwner ses (fun s _ w =>
    let k := s.key slot
    if slot = 0 ∨ k.st ≠ 1 ∨ !s.owns ses w k.comp then s.refuse
    else ((s.setKey slot { k with st := 2 }).measureTable 3).agree slot [])) s

/-- KEY_SLOT_DRAINED (R342): no store made under the slot is pending; the key material is zeroed. -/
def execKeySlotDrained (slot : Nat) (s : State) : Host.Outcome State Fault Refusal :=
  .next (
    let k := s.key slot
    if k.st = 2 ∧ s.stores.all (fun x => decide (x.label ≠ s.keyLabel slot)) then s.setKey slot { k with st := 0, key := 0, meas := 0 } else s)

/-- Where the lines of an image lie: every page is under an Active memory slot of the context's world (R346). -/
def State.sealPlaces (s : State) (ctx base len : Nat) : Option (List (Xlat × Nat)) :=
  (chunksOf base len).mapM (fun c =>
    match s.entryOf ctx c.1 with
    | .error _ => none
    | .ok (e, w) =>
      let k := s.key (bits e 56 7)
      if k.kind = 2 ∧ k.st = 1 ∧ k.wld = (s.ctx ctx).wld then
        some (⟨bits e 16 32 * 2 ^ 16 + c.1 % 2 ^ w, s.keyLabel (bits e 56 7), bitAt e 54, bits e 56 7⟩, c.2)
      else none)

/-- CODE_SEAL (R346): the image is read, measured, and rewritten under a fresh code slot; it answers slot and measurement. The
base and the length are hashed as 8 bytes each. -/
def execCodeSeal (ses ctx base len : Nat) (s : State) : Host.Outcome State Fault Refusal :=
  serveWith (fromOwner ses (fun s _ w =>
    match s.sealPlaces ctx base len, (List.range' 1 127).find? (fun n => decide ((s.key n).st = 0)) with
    | some ps, some slot =>
      if len = 0 ∨ 2 ^ 24 < len ∨ 2 ^ 49 < base + len ∨ (s.ctx ctx).wld ≠ w ∨ !(s.ctx ctx).v ∨
          ps.any (fun p => p.1.psn || s.poisoned (p.1.pa / 64)) then s.refuse
      else
        let bytes := ps.map (fun p => bytesOf p.2 (s.plain p.1.label p.1.pa p.2))
        let m := BitVec.ofNat 384 (sha384Nat (bytesOf 8 base ++ bytesOf 8 len ++ bytes.flatten))
        let k := s.key slot
        let s := s.setKey slot ⟨(k.gen + 1) % 2 ^ 16, w, 0, false, 5, 1, Config.freshKey s.freeCtr, m⟩
        let s := (ps.zip bytes).foldl (fun s p => (s.writeLine (s.keyLabel slot) p.1.1.pa p.2).dropCopies none (p.1.1.pa / 64)) s
        let s := { s with umpire := { s.umpire with sealed := (w, m) :: s.umpire.sealed } }
        (s.extend 6 (BitVec.ofNat 384 (sha384Nat (bytesOf 48 m.toNat)))).agree slot (bytesOf 48 m.toNat)
    | _, _ => s.refuse)) s

/-- The compartments that hold segments of a weight set, as the segment tables give them (R345). -/
def State.setComps (s : State) (wset : Nat) : List Nat :=
  s.cores.foldl (fun cs k => ((s.core k).ws.segs.filter (fun g => decide (g.2.role = 0 ∧ g.2.wset = wset ∧ g.2.wld ≠ 0))).foldl
    (fun cs g => insertNew g.2.comp cs) cs) []

/-- GRANT_SET (R345, R347, R352): the grant list, and the write grant of the set's segments on every core. -/
def execGrantSet (ses wset : Nat) (ms : List (BitVec 384)) (write : Bool) (s : State) : Host.Outcome State Fault Refusal :=
  serveWith (fromOwner ses (fun s _ w =>
    match s.setComps wset with
    | [comp] =>
      if !s.owns ses w comp ∨ 16 < ms.length then s.refuse
      else
        let s := { s with wsets := put s.wsets wset { look WSet.fresh s.wsets wset with comp := comp, grants := ms } }
        let s := s.cores.foldl (fun s k => s.onWs k (fun x => { x with
          segs := x.segs.map (fun g => if g.2.role = 0 ∧ g.2.wset = wset then (g.1, { g.2 with write := write }) else g) })) s
        (s.measureTable 4).agree wset []
    | _ => s.refuse)) s

/-- GATE_SET (R348, R352): either owner declares; identical fields of both turn the gate On; a length of 0 turns it Off. -/
def execGateSet (ses gate src dst sva slen dva dlen : Nat) (s : State) : Host.Outcome State Fault Refusal :=
  serveWith (fromOwner ses (fun s _ w =>
    let g := s.gate w gate
    let a := s.owns ses w src
    let b := s.owns ses w dst
    let ok (v n : Nat) : Bool := decide (v % 4096 = 0 ∧ n % 4096 = 0 ∧ v + n ≤ 2 ^ 49)
    let world (c : Nat) : Bool := decide ((look Comp.none s.comps c).wld = w) && (find? s.comps c).isSome
    if 16 ≤ gate ∨ !(a || b) ∨ !ok sva slen ∨ !ok dva dlen ∨ !world src ∨ !world dst then s.refuse
    else if slen = 0 ∨ dlen = 0 then
      if g.slen ≠ 0 ∧ !(s.owns ses w g.src || s.owns ses w g.dst) then s.refuse
      else (({ s with gates := put s.gates (w, gate) { Gate.off with epoch := g.epoch + g.on.toNat } } : State).measureTable 7).agree gate []
    else
      let same := decide (g.src = src ∧ g.dst = dst ∧ g.sva = sva ∧ g.slen = slen ∧ g.dva = dva ∧ g.dlen = dlen)
      let new : Gate := ⟨src, dst, sva, slen, dva, dlen, a, b, g.epoch + (g.on && !same).toNat⟩
      let new := if same then { new with bySrc := a || g.bySrc, byDst := b || g.byDst } else new
      (({ s with gates := put s.gates (w, gate) new } : State).measureTable 7).agree gate [])) s

/-! ### Hot reset and link-down (R354) -/

/-- What a hot reset or a link-down does (R286, R354). -/
def State.hotReset (s : State) : State :=
  let s := s.suspendWorlds.eraseSessions.unlockTdis.retireSlots none [4]
  { s with vfs := s.vfs.map (fun e =>
      (e.1, { e.2 with cqcfg := e.2.cqcfg &&& ~~~0x10000, cpcfg := e.2.cpcfg &&& ~~~0x10000 })) }

/-- HOT_RESET of either port (R354). -/
def execHotReset (_port : Nat) (s : State) : Host.Outcome State Fault Refusal := .next s.hotReset

/-- LINK_DOWN of either host port (R354, R410). -/
def execLinkDown (_port : Nat) (s : State) : Host.Outcome State Fault Refusal := .next s.hotReset

end Sys2Proof.Machine
end

