-- ==== Sys2Proof/Machine/Registers.lean ====
section
/-! DEFINITION. The register pages (R7, R276, R286, R292, R306, R318, R322, R323, R336, R340, R341, R355), and the commands that
their registers give: invalidations, side-log commands, the context of a partition core. -/

namespace Sys2Proof.Machine

/-! ### Refused accesses (R336) -/

/-- The requester ID of a black-box entry. -/
def requesterId : Requester → Nat
  | .core k => (corenoOf false k).toNat % 2 ^ 16
  | .host id => 2 ^ 16 + id
  | .hostIde id _ _ => 2 ^ 16 + id

/-- A number for a page in a black-box entry. -/
def pageId : Page → Nat
  | .pf => 0
  | .queueTable p => 2 ^ 12 + p
  | .contextTable p => 2 ^ 13 + p
  | .vfRing v => 2 ^ 14 + v
  | .vfPrivate v => 2 ^ 15 + v
  | .umpire => 1

/-- The detail of event 0x21: requester, page, direction, offset. -/
def accessExt (by' : Requester) (page : Page) (off : Nat) (write : Bool) : Nat :=
  requesterId by' % 2 ^ 32 + pageId page % 2 ^ 31 * 2 ^ 32 + write.toNat * 2 ^ 63 + off % 2 ^ 64 * 2 ^ 64

/-- The link of an entry after the link of the one before it (R421). -/
def relink (prev : Nat) (e : BitVec 512) : BitVec 512 :=
  BitVec.ofNat 512 (bits e.toNat 0 384 + natOfBytes ((sha384 (bytesOf 16 prev ++ bytesOf 48 e.toNat)).take 16) * 2 ^ 384)

/-- Entries linked anew after one of them has changed. -/
def relinkAll : Nat → List (BitVec 512) → List (BitVec 512)
  | _, [] => []
  | prev, e :: es => let e' := relink prev e; e' :: relinkAll (field e'.toNat 48 16) es

/-- An earlier event of the same requester, page and direction within 2^20 ticks (R336). -/
def sameAccess (now ext : Nat) (e : BitVec 512) : Bool :=
  decide (field e.toNat 20 1 = 0x21 ∧ field e.toNat 32 8 = ext % 2 ^ 64 ∧ now < field e.toNat 8 8 + 2 ^ 20)

/-- Event 0x21, merged into the first of its kind (R336). The entry before the oldest of a ring that has dropped some left its link
(R421). -/
def State.logAccess (s : State) (by' : Requester) (page : Page) (off : Nat) (write : Bool) : State :=
  let s := s.observeTick
  let ext := accessExt by' page off write
  match s.boxLog.findIdx? (sameAccess s.tick.toNat ext) with
  | none => s.logEntry 0x21 (match by' with | .core k => corenoOf s.umpire.standby k | _ => 0) 0 0 0 ext
  | some i =>
    let rest := s.boxLog.drop i
    match rest with
    | [] => s
    | e :: es =>
      let cnt := Nat.min 65535 (field e.toNat 22 2 + 1)
      let e := BitVec.ofNat 512 (setBits e.toNat 176 16 cnt)
      let link := if i = 0 then s.umpire.boxLink else field (s.boxLog.getD (i - 1) 0).toNat 48 16
      { s with boxLog := s.boxLog.take i ++ relinkAll link (e :: es) }

/-- A host request is trusted (R336): on a stream bound to the page's TDI, with the TEE bit, while the TDI runs. -/
def State.trusted (s : State) (by' : Requester) (page : Page) : Bool :=
  match by' with
  | .core .umpire => true
  | .hostIde _ vf tee =>
    (match page with
     | .vfPrivate v => decide (v = vf) && tee && decide ((s.vf v).tdi = .run ∧ (s.vf v).wld ∉ s.suspended)
     | _ => false)
  | _ => false

/-- A private page (R336). -/
def isPrivate : Page → Bool
  | .vfPrivate _ => true
  | .umpire => true
  | _ => false

/-- A requester from the host. -/
def isHost : Requester → Bool
  | .core _ => false
  | _ => true

/-! ### The queue table page (R276) -/

/-- The writable fields of an entry; reserved bits stay zero (R7, R276). A `slc` of 0 is stored as it is and binds tasks with an empty
slice, the model's choice (log 83). -/
def queueOfImage (q : Queue) (v : Nat) : Queue :=
  { q with
    base := BitVec.ofNat 64 v, lgn := field v 8 1, kind := BitVec.ofNat 8 (bits v 72 4), ctx := BitVec.ofNat 16 (bits v 80 9)
    clu := field v 12 1, ntag := bits v 104 6, slc := field v 16 4, vfm := bits v 160 16
    err := errWord (bits v 248 8) (bits v 192 49) }

/-- A write to the queue table: `st` from 1 to 0 starts the queue (R276); a change of the VF that a locked TDI may push from is a
change of a locked setting (R351). -/
def State.writeQueue (s : State) (part off n val : Nat) : State :=
  let qn := off / 64
  if 4096 ≤ qn then s
  else
    let q := s.queue part qn
    let new := queueOfImage q (setBits (queueImage q) (8 * (off % 64)) (8 * Nat.min n (64 - off % 64)) val)
    let starts := q.stopped && !new.stopped
    let s := if new.vfm ≠ q.vfm then (s.tdiError q.vfm).tdiError new.vfm else s
    if starts then (s.setQueue part qn { new with kind := new.kind ||| 8 }).startQueue part qn else s.setQueue part qn new

/-! ### The context table page (R306, R318, R322, R340, R355) -/

/-- The writable fields of an entry; root, world and `v` only from the host's PF page. -/
def ctxOfImage (host : Bool) (x : Ctx) (v : Nat) : Ctx :=
  let y := { x with kslot := bits v 104 7, supq := field v 14 2, plq := field v 16 2, hrep := BitVec.ofNat 64 (field v 24 8) }
  if host then { y with root := BitVec.ofNat 64 v, wld := field v 11 1, v := bitAt v 96 } else y

/-- A write to a context entry of the partition; a context that is no longer valid gives up its barriers (R233). -/
def State.writeCtx (s : State) (part : Nat) (host : Bool) (off n val : Nat) : State :=
  let c := off / 64
  let x := s.ctx c
  if x.part ≠ some part then s
  else
    let new := ctxOfImage host x (setBits (ctxImage x) (8 * (off % 64)) (8 * Nat.min n (64 - off % 64)) val)
    let s := s.setCtx c new
    if x.v && !new.v then s.openBarriers c else s

/-- An invalidation is queued; at most 16 are, and those behind them are writes that wait for a place (R322). -/
def State.queueInval (s : State) (part page scope ctx : Nat) : State :=
  let p := s.part part
  if 3 ≤ scope then s else s.setPart part { p with inval := p.inval ++ [(page, scope, ctx)] }

/-- INVAL_PAGE (R322). -/
def execInvalPage (part page ctx : Nat) (s : State) : Host.Outcome State Fault Refusal := .next (s.queueInval part page 0 ctx)

/-- INVAL_CONTEXT (R322). -/
def execInvalContext (part ctx : Nat) (s : State) : Host.Outcome State Fault Refusal := .next (s.queueInval part 0 1 ctx)

/-- INVAL_PARTITION (R322). -/
def execInvalPartition (part : Nat) (s : State) : Host.Outcome State Fault Refusal := .next (s.queueInval part 0 2 0)

/-- A cached translation that an invalidation removes (R322). -/
def State.removes (s : State) (part : Nat) (i : Nat × Nat × Nat) (c : Cached) : Bool :=
  match i.2.1 with
  | 0 => decide (c.ctx = i.2.2 ∧ i.1 * 2 ^ 16 / 2 ^ c.bits = c.page)
  | 1 => decide (c.ctx = i.2.2)
  | _ => decide ((s.ctx c.ctx).part = some part)

/-- INVALIDATION_COMPLETES (R322): the oldest, once every store of the partition that may have used it is performed
everywhere (R249). -/
def execInvalidationCompletes (part : Nat) (s : State) : Host.Outcome State Fault Refusal :=
  .next (
    let p := s.part part
    match p.inval with
    | [] => s
    | i :: rest =>
      let used (k : CoreId) : Bool := p.clusters.getLsbD (clusterOf k)
      if s.stores.any (fun x => used x.src) || s.stale.any (fun y => used y.src) then s
      else { s.setPart part { p with inval := rest } with cached := s.cached.filter (fun c => !s.removes part i c) })

/-- The side log of the task at a slot, resident or saved, after a change of its entries (R318). -/
def State.onSideLog (s : State) (ctx slot : Nat) (f : LogEntry → LogEntry) : State :=
  match s.cores.find? (fun k => match (s.core k).task with | some t => decide (t.ctx = ctx ∧ t.slot = slot) | none => false) with
  | some k => s.setCore { s.core k with log := (s.core k).log.map f }
  | none =>
    match s.saved? ctx slot, s.slotRead ctx slot with
    | some _, .ok block => s.putLogs ctx slot block ((logsOf block).map f)
    | _, _ => s

/-- SLCMD_REPLAY (R318): every entry in state 0 is translated and replayed again. -/
def execSlcmdReplay (ctx slot : Nat) (s : State) : Host.Outcome State Fault Refusal :=
  .next (s.onSideLog ctx slot (fun e => if e.state = 0 then { e with state := 1 } else e))

/-- SLCMD_UNREPLAYABLE (R318). -/
def execSlcmdUnreplayable (ctx slot : Nat) (s : State) : Host.Outcome State Fault Refusal :=
  .next (s.onSideLog ctx slot (fun e => if e.state = 0 then { e with state := 2 } else e))

/-- PCSEL_WRITE (R340): for the writing partition core alone, at its next SYNC. -/
def State.writePcsel (s : State) (by' : Requester) (part : Nat) (val : Word) : State :=
  let n := bits val.toNat 0 9
  match by' with
  | .core (.partition cl) =>
    if val.toNat < 512 ∧ (s.ctx n).part = some part ∧ s.partOf cl = part then
      s.setCore { s.core (.partition cl) with pcselNext := some n }
    else s.logAccess by' (.contextTable part) 0x8018 true
  | _ => s.logAccess by' (.contextTable part) 0x8018 true

/-- PCSEL_WRITE (R340). -/
def execPcselWrite (by' : Requester) (part : Nat) (val : Word) (s : State) : Host.Outcome State Fault Refusal :=
  .next (s.writePcsel by' part val)

/-- The state that a meaning answers, or the one it was given. -/
def stateOf (s : State) (o : Host.Outcome State Fault Refusal) : State :=
  match o with
  | .next s' => s'
  | _ => s

/-- A write to the registers behind the context entries (R318, R322, R340, R355), for contexts of the partition alone (R306): bytes of a register that are not written keep what
it reads as. -/
def State.writeCtxReg (s : State) (by' : Requester) (part at' n v : Nat) : State :=
  let p := s.part part
  let off := at' / 8 * 8
  let val := setBits (s.contextReg part off) (8 * (at' % 8)) (8 * Nat.min n (8 - at' % 8)) v
  if off = 0x8000 then s.queueInval part (bits val 16 33) (bits val 14 2) (bits val 0 9)
  else if off = 0x8010 then
    let slot := bits val 21 28 * 2 ^ 21
    if (s.ctx (bits val 0 9)).part ≠ some part then s
    else if bits val 62 2 = 1 then stateOf s (execSlcmdReplay (bits val 0 9) slot s)
    else if bits val 62 2 = 2 then stateOf s (execSlcmdUnreplayable (bits val 0 9) slot s)
    else s
  else if off = 0x8018 then s.writePcsel by' part (BitVec.ofNat 64 val)
  else if off = 0x8020 then s.setPart part { p with stbase := BitVec.ofNat 64 (bits val 12 37 * 2 ^ 12) }
  else if off = 0x8028 then s.setPart part { p with stcfg := BitVec.ofNat 64 (bits val 16 14 * 2 ^ 16 + bits val 0 9) }
  else s

/-! ### The PF page (R292, R323, R341) -/

/-- Byte b of the mailbox request. -/
def State.mb (s : State) (lo n : Nat) : Nat := field s.umpire.mbreq.toNat lo n

/-- `busy`. -/
def State.mbBusy (s : State) : Bool := s.umpire.mbst.getLsbD 0

/-- A request ends (R292): its status, the count, the host's vector. -/
def State.mbEnd (s : State) (st : Nat) : State :=
  let n := bits s.umpire.mbst.toNat 16 32
  ({ s with umpire := { s.umpire with mbst := BitVec.ofNat 64 (st * 2 ^ 8 + (n + 1) % 2 ^ 32 * 2 ^ 16) } } : State).reply (msix 0 0)

/-- The request is well formed (R292): a known code, every field in range, every byte that it does not use zero. -/
def State.mbOk (s : State) : Bool :=
  let z (lo n : Nat) : Bool := decide (s.mb lo n = 0)
  let part : Bool := decide (s.mb 1 1 < 32)
  let maybe : Bool := decide (s.mb 1 1 < 32 ∨ s.mb 1 1 = 0xFF)
  match s.mb 0 1 with
  | 1 => part && z 2 2 && decide (s.mb 8 1 < 4) && z 9 1 && z 12 4 && decide (s.mb 66 1 ≤ 100) && z 67 189
  | 2 => part && z 2 254
  | 3 => maybe && decide (1 ≤ s.mb 2 2 ∧ s.mb 2 2 ≤ 384) && z 4 252
  | 4 => maybe && decide (s.mb 2 2 < 512) && z 4 252
  | 5 => decide (s.mb 1 1 < 16) && z 2 254
  | 6 => decide (s.mb 1 1 < 16) && z 2 254
  | 7 => decide (s.mb 1 1 < 2) && z 2 254
  | _ => false

/-- A write to the PF page: a doorbell whose reserved bits are not zero is ignored (the model's choice, log 48); the mailbox, or the aperture through which the host writes tables under slot 0 (R321, R323). The model
names the aperture's byte for physical address pa by offset 2^48 + pa. -/
def State.writePf (s : State) (off n val : Nat) : State :=
  if 2 ^ 48 ≤ off then (s.writeLine (s.keyLabel 0) (off - 2 ^ 48) (bytesOf (Nat.min n (64 - off % 64)) val)).dropCopies none ((off - 2 ^ 48) / 64)
  else if s.mbBusy then s
  else if 0x1000 ≤ off ∧ off < 0x1100 then
    let k := Nat.min n (0x1100 - off)
    { s with umpire := { s.umpire with mbreq := BitVec.ofNat 2048 (setBits s.umpire.mbreq.toNat (8 * (off - 0x1000)) (8 * k) val) } }
  else if off = 0x1100 ∧ val = 1 then
    if s.mbOk then { s with umpire := { s.umpire with mbst := s.umpire.mbst ||| 1 } } else s.mbEnd 2
  else s

/-- A read of the PF page; at an offset that begins none of its registers, the mailbox aside, it gives 0 (the model's choice, log 48). -/
def State.readPf (s : State) (off : Nat) : Nat :=
  if 2 ^ 48 ≤ off then s.plain (s.keyLabel 0) (off - 2 ^ 48) 8
  else if 0x1000 ≤ off ∧ off < 0x1100 then s.mb (off - 0x1000) 8
  else if off = 0x1108 then s.umpire.mbst.toNat
  else if 0x4000 ≤ off ∧ off < 0x4400 then keyStatus (s.key ((off - 0x4000) / 8))
  else 0

/-! ### A VF's doorbell page (R286) -/

/-- A write to a VF's doorbell page: it gives the whole register, whatever its width, and one that does not begin at a register is dropped (the
model's choice, log 48); deep off serves none (R392, log 43). -/
def State.writeVfRing (s : State) (vf off val : Nat) : State :=
  let v := s.vf vf
  let w := BitVec.ofNat 64 val
  if s.umpire.deepOff then s
  else if off = 0x000 then (if ringOn v.cqcfg then s else s.setVf vf { v with cqbase := w &&& ~~~0xFFF })
  else if off = 0x008 then s.setVf vf (v.configure false w)
  else if off = 0x010 then stateOf s (execCqtailDoorbell vf w s)
  else if off = 0x020 then (if ringOn v.cpcfg then s else s.setVf vf { v with cpbase := w &&& ~~~0xFFF })
  else if off = 0x028 then s.setVf vf (v.configure true w)
  else if off = 0x030 then stateOf s (execCpheadWrite vf w s)
  else s

/-- A read of a VF's doorbell page; at an offset that begins none of its registers it gives 0 (the model's choice, log 48). -/
def State.readVfRing (s : State) (vf off : Nat) : Nat :=
  let v := s.vf vf
  if off = 0x000 then v.cqbase.toNat
  else if off = 0x008 then v.cqcfg.toNat
  else if off = 0x010 then v.cqtail.toNat
  else if off = 0x018 then v.cqhead.toNat
  else if off = 0x020 then v.cpbase.toNat
  else if off = 0x028 then v.cpcfg.toNat
  else if off = 0x030 then v.cphead.toNat
  else if off = 0x038 then v.cptail.toNat
  else 0

/-! ### The Umpire's page (R287, R335, R382, R383, R426) -/

/-- Where the launch tables stand on the Umpire's page, 1,024 bytes for each vat: the model's place, no rule gives one (log 62). -/
def launchTables : Nat := 0x10000

/-- Where the Umpire reports a core's remap entries, and behind them its wear report and its corrected-error count, 64 KiB for core c of cluster n at 64n + c: the model's place
(log 62). -/
def wearTables : Nat := 2 ^ 40

/-- A remap entry as its word (R382). -/
def remapWord (e : Nat × Nat) : Nat := e.1 % 4 * 2 ^ 62 + e.2 % 2 ^ 21

/-- A write to the Umpire's page: an entry of a launch table (R287). -/
def State.writeUmpire (s : State) (off n val : Nat) : State :=
  if launchTables ≤ off ∧ off < launchTables + 0x4000 then
    s.writeLaunchTable ((off - launchTables) / 1024) ((off - launchTables) % 1024) n val
  else s

/-- A read of the Umpire's page: launch tables, remap entries, wear reports, corrected-error counts; what else it holds is not stated, and free. -/
def State.readUmpire (s : State) (off : Nat) : Nat :=
  if launchTables ≤ off ∧ off < launchTables + 0x4000 then
    s.readLaunchTable ((off - launchTables) / 1024) ((off - launchTables) % 1024)
  else if wearTables ≤ off ∧ off < wearTables + 2 ^ 27 then
    let at' := off - wearTables
    let c := s.core (.compute (at' / 2 ^ 22) (at' / 2 ^ 16 % 64))
    let i := at' % 2 ^ 16 / 8
    if i < 2048 then remapWord (c.ws.entry i) else if i = 2048 then c.ws.report % 2 ^ 64 else if i = 2049 then c.corrected else 0
  else (Config.openWord s.freeCtr).toNat

/-! ### Accesses -/

/-- A write that completes on its page. The table aperture of the PF page is no write path of a partition core (R323). -/
def State.pageWrite (s : State) (by' : Requester) (page : Page) (off n val : Nat) : State :=
  match page with
  | .pf => if 2 ^ 48 ≤ off ∧ !isHost by' ∧ by' ≠ .core .umpire then s else s.writePf off n val
  | .queueTable p => if s.mayMap by' p then s.writeQueue p off n val else s
  | .contextTable p =>
    if !s.mayMapContexts by' p then s
    else if off < 0x8000 then s.writeCtx p (isHost by') off n val
    else s.writeCtxReg by' p off n val
  | .vfRing vf => s.writeVfRing vf off val
  | .vfPrivate _ => s
  | .umpire => s.writeUmpire off n val

/-- A read that completes on its page. What a VF's private page holds is not stated: the value is free. -/
def State.pageRead (s : State) (by' : Requester) (page : Page) (off : Nat) : Nat :=
  match page with
  | .pf => s.readPf off
  | .queueTable p => s.readTablePage by' (.queueTable p) off
  | .contextTable p => s.readTablePage by' (.contextTable p) off
  | .vfRing vf => s.readVfRing vf off
  | .vfPrivate _ => (Config.openWord s.freeCtr).toNat
  | .umpire => s.readUmpire off

/-- REGISTER_WRITE (R7, R336): an untrusted write to a private page is dropped and logged. -/
def execRegisterWrite (by' : Requester) (page : Page) (off n val : Nat) (s : State) : Host.Outcome State Fault Refusal :=
  .next (if isPrivate page && !s.trusted by' page then s.logAccess by' page off true else s.pageWrite by' page off n val)

/-- REGISTER_READ (R7, R336): an untrusted read of a private page gives 0 and is logged. -/
def execRegisterRead (by' : Requester) (page : Page) (off : Nat) (s : State) : Host.Outcome State Fault Refusal :=
  .next (
    if isPrivate page && !s.trusted by' page then (s.logAccess by' page off false).reply ⟨0x52454144, 0, []⟩
    else s.reply ⟨0x52454144, s.pageRead by' page off, []⟩)

/-! ### Stores that reach their home -/

/-- A pending store is performed: at a register page it is a register write by the core that stored (R276), which waits while deep off
leaves the page dark (R392, log 43); elsewhere it is written home (R249). -/
def State.performStore (s : State) (x : PStore) : State :=
  match s.registerPage x.pa with
  | some (page, off) =>
    if s.umpire.deepOff then s else State.pageWrite { s with stores := s.stores.filter (fun y => decide (y.id ≠ x.id)) } (.core x.src) page off x.bytes.length (natOfBytes x.bytes)
  | none => s.acknowledge x

/-- STORE_ACKNOWLEDGED (R249): the home orders a pending store of a cluster, after the earlier ones on its bytes; one that is ordered
already loses a stale copy. -/
def execStoreAcknowledged (cl : Nat) (n : Nat) (s : State) : Host.Outcome State Fault Refusal :=
  .next (
    let own := s.stores.filter (fun x => decide (clusterOf x.src = cl))
    match own.find? (fun x => decide (x.id = n)) with
    | none => (s.invalidateCopy n).tickFree
    | some x =>
      let earlier := own.takeWhile (fun y => decide (y.id ≠ n))
      if earlier.any (fun y => overlap y.pa y.bytes.length x.pa x.bytes.length) then s else s.performStore x)

/-! ### Results that arrive (R28), and stores that are tried again (R136, R317) -/

/-- A global atomic on a register page, which the queue unit performs in one step: it reads the register and writes it (R138, R242, R276),
once no store of the cluster to its bytes is pending. -/
def State.pageAtomic (s : State) (k : CoreId) (a : Access) : Option (State × Nat) :=
  match s.translate (s.core k).party a.addr a.need with
  | .error _ => none
  | .ok x =>
    match s.registerPage x.pa with
    | none => none
    | some (page, off) =>
      if !a.isAtomic || s.stores.any (fun y => decide (clusterOf y.src = clusterOf k) && overlap y.pa y.bytes.length x.pa a.size) then none
      else
        let old := s.readTablePage (.core k) page off % 256 ^ a.size
        match a.newValue old with
        | some v => some (s.pageWrite (.core k) page off a.size v, old)
        | none => some (s, old)

/-- INTERLOCKED_RESULT_ARRIVES (R28): the n-th outstanding operation of a core; a QDEQ is followed by FENCE.acq.mod (R204). -/
def execInterlockedResultArrives (k : CoreId) (n : Nat) (s : State) : Host.Outcome State Fault Refusal :=
  .next (match (s.core k).ilk[n]? with
    | none => s
    | some o =>
      match o.kind with
      | .value v => s.deliver k n o.dest v
      | .tick => let s := s.observeTick; s.deliver k n o.dest s.tick.toNat
      | .access _ (some v) => s.deliver k n o.dest v
      | .access a none =>
        if a.isRemote || s.behind k a ((s.core k).ilk.take n) || !(logOverlap (s.core k).log a).isEmpty then s.globalArrives k n o a
        else
          match s.pageAtomic k a with
          | some (s', v) => s'.deliver k n o.dest (a.result v).toNat
          | none => s.globalArrives k n o a
      | .qdeq _ _ (some v) =>
        let s := (s.deliver k n o.dest v.toNat).acquire k o.age
        s.setCore ((s.core k).setFence ⟨.acq, .mod⟩ (o.age + 1))
      | .qdeq _ _ none => s
      | _ => s.releasedArrives k n o)

/-- STORE_RETIRES_INTO_SIDE_LOG (R136, R137): the oldest store that was not performed at issue is tried again, and retires into
the side log if it faults. -/
def execStoreRetiresIntoSideLog (k : CoreId) (s : State) : Host.Outcome State Fault Refusal :=
  .next (match (s.core k).stq with
    | [] => s
    | a :: rest =>
      if s.heldBefore k a then s
      else
        let s' := s.setCore { s.core k with stq := rest }
        match (if (logOverlap (s.core k).log a).isEmpty then s'.pageAtomic k a else none) with
        | some r => r.1
        | none => s'.retireStore k a)

/-- An entry of the side log of a resident task has been performed (R317). -/
def State.replayed (s : State) (k : CoreId) (n : Nat) : State :=
  s.setCore { s.core k with log := dropNth (s.core k).log n }

/-- The replay of an entry of a resident task (R136, R137, R317). -/
def State.replayCore (s : State) (k : CoreId) (n : Nat) : State :=
  let c := s.core k
  match c.log[n]? with
  | none => s
  | some e =>
    if !replayable (!isCompute k) c.log n e then s
    else
      match s.pageAtomic k e.access with
      | some r => r.1.replayed k n
      | none =>
        match s.tryGlobal k e.access with
        | .done s' _ => s'.replayed k n
        | .fault f =>
          let rest := dropNth c.log n
          let s := if e.state = 1 then s.postSide k rest e f else s
          s.setCore { s.core k with log := faultedAgain (s.core k).log n e }
        | _ => s

/-- SIDE_LOG_REPLAY (R136, R317): the n-th entry of a task's side log is tried again. -/
def execSideLogReplay (r : TaskRef) (n : Nat) (s : State) : Host.Outcome State Fault Refusal :=
  .next (match r with
    | .core k => s.replayCore k n
    | .slot ctx addr => s.replaySlot ctx addr n)

end Sys2Proof.Machine
end

