-- ==== Sys2Proof/Machine/Platform.lean ====
section
/-! DEFINITION. The Umpire's requests (R291, R292, R353, R414), power (R390 to R397), errors, fences and repairs (R410 to R417, R422,
R426, R427), HBM (R418 to R420), receipts (R425) and the governor (R298, R301). -/

namespace Sys2Proof.Machine

/-! ### Mailbox requests (R292) -/

/-- A request of a code that is in hand: refused, or performed. -/
def mailbox (code : Nat) (refused : State → Bool) (f : State → State) (s : State) : Host.Outcome State Fault Refusal :=
  .next (
    if !s.serves || !s.mbBusy || s.mb 0 1 ≠ code then s
    else if refused s then s.mbEnd 1
    else (f s).mbEnd 0)

/-- Sum of the floors of the partitions. -/
def State.floors (s : State) : Nat := ((s.parts.filter (·.2.exists')).map (·.2.floor)).sum

/-- A partition holds a cluster of a vat. -/
def onVat (clusters : BitVec 32) (v : Nat) : Bool := clusters.getLsbD (2 * v) || clusters.getLsbD (2 * v + 1)

/-- Shares at the points of a vat (R292, R300). -/
def State.shareAt (s : State) (v : Nat) : Nat := ((s.parts.filter (fun e => e.2.exists' && onVat e.2.clusters v)).map (·.2.share)).sum

/-- Why PART_CREATE is refused (R292, R298). -/
def State.createRefused (s : State) : Bool :=
  let mask := BitVec.ofNat 32 (s.mb 4 4)
  let sets := BitVec.ofNat 256 (s.mb 16 32)
  let lanes := BitVec.ofNat 144 (s.mb 48 18)
  let others := s.parts.filter (·.2.exists')
  (s.part (s.mb 1 1)).exists' ||
    others.any (fun e => decide (e.2.clusters &&& mask ≠ 0 ∨ e.2.sets &&& sets ≠ 0 ∨ e.2.lanes &&& lanes ≠ 0)) ||
    (List.range 16).any (fun v => decide (bits sets.toNat (16 * v) 16 ≠ 0) && !onVat mask v) ||
    decide (7500 < s.floors + s.mb 10 2 + 1480) ||
    (List.range 16).any (fun v => onVat mask v && decide (100 < s.shareAt v + s.mb 66 1))

/-- PART_CREATE (R291, R292): its schedulers start with their pointers at 0 (R282). -/
def execPartCreate (s : State) : Host.Outcome State Fault Refusal :=
  mailbox 1 State.createRefused (fun s =>
    let p := s.mb 1 1
    let mask := BitVec.ofNat 32 (s.mb 4 4)
    let s := s.setPart p { Part.fresh with
      exists' := true, clusters := mask, tier := s.mb 8 1, floor := s.mb 10 2, sets := BitVec.ofNat 256 (s.mb 16 32)
      lanes := BitVec.ofNat 144 (s.mb 48 18), share := s.mb 66 1, receipts := Config.receiptQueue p
      qpage := some (Config.queueFrame p % 2 ^ 32 * 2 ^ 16), cpage := some (Config.contextFrame p % 2 ^ 32 * 2 ^ 16) }
    (s.part p).clusterList.foldl (fun s cl => s.setCluster cl { s.cluster cl with ptr := [0, 0, 0, 0] }) s) s

/-- PART_DESTROY (R292); of a partition that does not exist it is refused, the model's choice (log 47). -/
def execPartDestroy (s : State) : Host.Outcome State Fault Refusal :=
  mailbox 2
    (fun s =>
      let p := s.mb 1 1
      !(s.part p).exists' || s.ctxs.any (fun e => decide (e.2.part = some p) && e.2.v) || s.vfs.any (fun e => decide (e.2.part = some p)))
    (fun s =>
      let p := s.mb 1 1
      { s with
        parts := del s.parts p
        queues := s.queues.filter (fun e => decide (e.1.1 ≠ p))
        ctxs := s.ctxs.map (fun e => if e.2.part = some p then (e.1, { e.2 with part := none }) else e) }) s

/-- The partition that a request names; none for 0xFF. -/
def State.mbPart (s : State) : Option Nat := if s.mb 1 1 = 0xFF then none else some (s.mb 1 1)

/-- VF_ASSIGN (R353). -/
def execVfAssign (s : State) : Host.Outcome State Fault Refusal :=
  mailbox 3
    (fun s =>
      let v := s.vf (s.mb 2 2)
      decide (v.tdi ≠ .unlocked) || (decide (v.wld ≠ 0) && s.ctxs.any (fun e => e.2.v && decide (e.2.wld = v.wld))) ||
        (match s.mbPart with
         | some p => !(s.part p).exists' || decide (12 ≤ (s.vfs.filter (fun e => decide (e.1 ≠ s.mb 2 2 ∧ e.2.part = some p))).length)
         | none => false))
    (fun s => s.setVf (s.mb 2 2) { s.vf (s.mb 2 2) with part := s.mbPart }) s

/-- CTX_ASSIGN (R292). -/
def execCtxAssign (s : State) : Host.Outcome State Fault Refusal :=
  mailbox 4
    (fun s =>
      let x := s.ctx (s.mb 2 2)
      x.v && decide (x.part ≠ none ∧ x.part ≠ s.mbPart))
    (fun s => s.setCtx (s.mb 2 2) { s.ctx (s.mb 2 2) with part := s.mbPart }) s

/-! ### Tasks and clusters that are lost (R413) -/

/-- The resident task of a core whose state is lost is Trapped without a valid register space; its supervisor gets an item (R413). -/
def State.endLost (s : State) (k : CoreId) (f : Cause) (info : Nat) : State :=
  let c := s.core k
  match c.task with
  | none => s
  | some t =>
    let sv : Saved := { Saved.bare t (clusterOf k) (.trapped false) s.ids with pin := recPin t.record, cmds := c.cmds }
    let s := ((s.dropWaiters (.core k)).setCore (c.freed none)).postItem k t (supItem f.code false k t.slot) (s.openStores c) none
    let s : State := { s with tasks := s.tasks ++ [sv], ids := s.ids + 1 }
    (s.slotPoke t.ctx t.slot (0x300 + 8 * 0x40) 8 f.code).slotPoke t.ctx t.slot (0x300 + 8 * 0x41) 8 info

/-- Compute cores of a cluster with a resident task. -/
def State.residents (s : State) (cl : Nat) : List CoreId :=
  s.cores.filter (fun k => isCompute k && decide (clusterOf k = cl) && (s.core k).task.isSome)

/-- A cluster stops: its tasks end, its partition core stops (R413, R415). -/
def State.stopCluster (s : State) (cl : Nat) (f : Cause) (info : Nat) : State :=
  let s := (s.residents cl).foldl (fun s k => s.endLost k f info) s
  let s := s.setCore { s.core (.partition cl) with halted := true }
  s.setCluster cl { s.cluster cl with halted := true }

/-! ### Fencing a vat (R254, R414, R415) -/

/-- The vat whose routers take the stores of a core: that of its cluster, and for the Umpire that of the one in charge (R250, R427). -/
def State.vatOf (s : State) (k : CoreId) : Nat := if k = .umpire then (if s.umpire.standby then 15 else 0) else clusterOf k / 2

/-- A pending store that the fence of a vat loses: homed there, or still on its routers (R254). -/
def State.losesStore (s : State) (v : Nat) (x : PStore) : Bool := decide (homeOf x.pa = v ∨ s.vatOf x.src = v)

/-- An ordering state that counted or observed a lost store (R249, R254), one of its own among them (R106); the vat's routers hold no
marker any more. -/
def Ordering.fenced (o : Ordering) (v : Nat) (ids : List Nat) : Ordering :=
  let stays (i : Nat) : Bool := decide (i ∉ ids)
  let gone := (o.own ++ o.seen).filter (fun e => !stays e.1)
  { gone.foldl (fun o e => o.lose e.2) o with
    lostOwn := o.lostOwn || !o.own.all (fun e => stays e.1)
    marks := o.marks.filter (fun m => decide (m ≠ v)), own := o.own.filter (fun e => stays e.1), seen := o.seen.filter (fun e => stays e.1)
    rel := o.rel.filter (fun r => stays r.2) }

/-- A command whose engine wrote a lost store, or whose release covers or observed one (R193, R254). `seqs` are the commands whose engines
wrote the lost stores. -/
def Cmd.fenced (m : Cmd) (seqs ids : List Nat) : Cmd :=
  { m with lost := m.lost || decide (m.seq ∈ seqs) || m.covers.any (fun i => decide (i ∈ ids)) || m.seen.any (fun i => decide (i ∈ ids)) }

/-- Step 2 of a fence (R254, R415): the stores are lost, and every release that counted them fails. A store that its home has ordered
is lost as well while the home has still to invalidate a copy; the copies in the vat's own cluster stores are gone. -/
def State.loseStores (s : State) (v : Nat) : State :=
  let gone := s.stores.filter (s.losesStore v)
  let copies := s.stale.filter (fun y => decide (homeOf y.pa = v))
  let ids := gone.map (·.id) ++ copies.map (·.id)
  let seqs := gone.filterMap (·.eng) ++ copies.filterMap (·.eng)
  let s := s.cores.foldl (fun s k =>
    let c := s.core k
    s.setCore { c with ord := c.ord.fenced v ids, cmds := c.cmds.map (fun m => m.fenced seqs ids) }) s
  { s with
    stores := s.stores.filter (fun x => !s.losesStore v x)
    stale := s.stale.filterMap (fun y =>
      let cls := y.cls.filter (fun c => decide (c / 2 ≠ v))
      if homeOf y.pa = v ∨ cls = [] then none else some { y with cls := cls })
    tasks := s.tasks.map (fun t => { t with ord := t.ord.fenced v ids, cmds := t.cmds.map (fun m => m.fenced seqs ids) }) }

/-- A queue that a fence stops: its cluster lies in the vat, or its ring is homed there (R415). -/
def State.queueOnVat (s : State) (v : Nat) (q : Queue) : Bool :=
  decide ((if q.stopped then q.clu else q.rclu) / 2 = v) ||
    (match s.translate (queueParty q) (if q.stopped then q.base.toNat else q.rbase) Need.read with
     | .ok x => decide (homeOf x.pa = v)
     | .error _ => false)

/-- The Umpire's dies after the fence of a vat (R427): the standby takes over for vat 0; where vat 15 is fenced the standby has failed, and
with it in charge the module stops. -/
def State.fenceUmpire (s : State) (v : Nat) : State :=
  if v = 0 && !s.umpire.standby then s.takeover
  else if v = 15 then { s with umpire := { s.umpire with failed := true, stopped := s.umpire.stopped || s.umpire.standby } }
  else s

/-- The steps of a fence (R415), of a vat that is not fenced already: which queues and launches the vat holds is settled while its lines can
still be read, then the steps run in order. -/
def State.fenceVat (s : State) (v : Nat) : State :=
  if (s.vat v).state = .fenced then s
  else
    let queues := s.queues.filter (fun e => s.queueOnVat v e.2)
    let launches : List (Launch × Bool) := s.launches.map (fun l => (l, s.launchHomed v l))
    let s := s.loseStores v
    let s := s.setVat v { s.vat v with state := .fenced }
    let s := [2 * v, 2 * v + 1].foldl (fun s cl => s.stopCluster cl .fenceLost (Config.openWord s.freeCtr).toNat) s
    let s := queues.foldl (fun s e => s.stopQueue e.1.1 e.1.2 Cause.fenceLost.code e.2.rbase) s
    let s := launches.foldl (fun (s : State) l => s.settleLaunch v l.2 l.1) s
    let s := s.logEvent 0x50 .umpire v
    let s := s.parts.foldl (fun s e =>
      if e.2.exists' && onVat e.2.clusters v && e.2.clusterList.all (fun cl => (s.cluster cl).halted) then
        (s.setPart e.1 { s.part e.1 with halted := true }).logEvent 0x55 .umpire (e.2.clusterList.headD 0)
      else s) s
    s.fenceUmpire v

/-- VAT_FENCE (R292, R414). -/
def execVatFence (s : State) : Host.Outcome State Fault Refusal :=
  mailbox 5 (fun s => decide ((s.vat (s.mb 1 1)).state ≠ .live)) (fun s => s.fenceVat (s.mb 1 1)) s

/-- A core as a readmitted vat leaves it: DARK, its weight store and repairs kept (R426). -/
def Core.readmitted (c : Core) : Core := { Core.dark c.id with ws := c.ws, off := c.off, enabled := c.enabled }

/-- A vat returns: HBM and cave zeroed with poison cleared; its clusters start DARK, with its queues stopped (R422, R426). -/
def State.readmitVat (s : State) (v : Nat) : State :=
  let out (a : Nat) : Bool := decide (homeOf a ≠ v)
  let stop (e : (Nat × Nat) × Queue) : (Nat × Nat) × Queue := if s.queueOnVat v e.2 then (e.1, { e.2 with kind := e.2.kind ||| 8 }) else e
  let s : State := { s with
    queues := s.queues.map stop
    mem := s.mem.filter (fun c => out c.1), stale := s.stale.filter (fun y => out y.pa), poison := s.poison.filter (fun l => out (64 * l)), labels := s.labels.filter (fun l => out (64 * l.1)) }
  let s := s.setVat v { s.vat v with state := .live, rows := [], acts := [], waiting := [] }
  let s := [2 * v, 2 * v + 1].foldl (fun s cl =>
    let s := s.setCluster cl { Cluster.fresh with items := (s.cluster cl).items }
    (s.cores.filter (fun k => decide (clusterOf k = cl ∧ k ≠ .umpire))).foldl (fun s k => s.setCore (s.core k).readmitted) s) s
  s.parts.foldl (fun s e => if onVat e.2.clusters v then s.setPart e.1 { s.part e.1 with halted := false } else s) s

/-- VAT_READMIT (R292, R422): a repair record must have allowed it. -/
def execVatReadmit (s : State) : Host.Outcome State Fault Refusal :=
  mailbox 6 (fun s => decide ((s.vat (s.mb 1 1)).state ≠ .readmitting)) (fun s => s.readmitVat (s.mb 1 1)) s

/-- Every cluster is DARK (R392). -/
def State.allDark (s : State) : Bool := (List.range 32).all (fun cl => (s.cluster cl).dark)

/-- DEEP_OFF_ENTER (R392): only when every cluster is DARK. -/
def execDeepOffEnter (s : State) : Host.Outcome State Fault Refusal :=
  if s.mb 1 1 = 1 then mailbox 7 (fun s => !s.allDark) (fun s => { s with umpire := { s.umpire with deepOff := true } }) s else .next s

/-- DEEP_OFF_LEAVE (R392). -/
def execDeepOffLeave (s : State) : Host.Outcome State Fault Refusal :=
  if s.mb 1 1 = 0 then mailbox 7 (fun _ => false) (fun s => { s with umpire := { s.umpire with deepOff := false } }) s else .next s

/-! ### The governor (R298, R301) -/

/-- One pass of the shares over the open partitions: (surplus, allotments); w gives each its weight (R298). -/
def sharePass (demand : List (Nat × Nat)) (opens : List Nat) (w : Nat → Nat) (surplus : Nat) (a : List (Nat × Nat)) : Nat × List (Nat × Nat) :=
  let total := (opens.map w).sum
  opens.foldl (fun acc x =>
    let have' := look 0 acc.2 x
    let give := Nat.min (surplus * w x / total) (look 0 demand x - have')
    (acc.1 - give, put acc.2 x (have' + give))) (surplus, a)

/-- Passes over the partitions of one tier that are short of their demand. -/
def shareLoop (demand : List (Nat × Nat)) (xs : List Nat) (w : Nat → Nat) : Nat → Nat → List (Nat × Nat) → Nat × List (Nat × Nat)
  | 0, surplus, a => (surplus, a)
  | n + 1, surplus, a =>
    let opens := xs.filter (fun x => decide (look 0 a x < look 0 demand x))
    if surplus = 0 ∨ opens.isEmpty then (surplus, a)
    else
      let r := sharePass demand opens w surplus a
      shareLoop demand xs w n r.1 r.2

/-- The allotments of a period, in microwatts rounded down (R298). -/
def State.allot (s : State) (draw : Nat) (demandW : List (Nat × Nat)) : List (Nat × Nat) :=
  let ps := s.parts.filter (·.2.exists')
  let demand := demandW.map (fun d => (d.1, d.2 * 1000000))
  let a0 := ps.map (fun e => (e.1, Nat.min (e.2.floor * 1000000) (look 0 demand e.1)))
  let surplus := (7500 - draw) * 1000000 - (a0.map (·.2)).sum
  ((List.range 4).foldl (fun acc tier =>
    let here := ps.filter (fun e => decide (e.2.tier = tier))
    let r := shareLoop demand ((here.filter (fun e => decide (0 < e.2.floor))).map (·.1)) (fun x => (s.part x).floor) 40 acc.1 acc.2
    shareLoop demand ((here.filter (fun e => decide (e.2.floor = 0))).map (·.1)) (fun _ => 1) 40 r.1 r.2) (surplus, a0)).2

/-- The demand of each partition: the sum of the draws of its clusters, given by cluster in watts (R298). -/
def State.partDemand (s : State) (draws : List (Nat × Nat)) : List (Nat × Nat) :=
  (s.parts.filter (·.2.exists')).map (fun e => (e.1, (e.2.clusterList.map (look 0 draws)).sum))

/-- A partition's allotment among its clusters in proportion to their demands (R298). -/
def State.allotClusters (s : State) (draws a demand : List (Nat × Nat)) : State :=
  (s.parts.filter (·.2.exists')).foldl (fun (s : State) (e : Nat × Part) => e.2.clusterList.foldl (fun s cl =>
    s.setCluster cl { s.cluster cl with allot := look 0 a e.1 * look 0 draws cl / look 0 demand e.1 }) s) s

/-- The governor sets the DARK dwell of a cluster, from 2,048 to 2^20 ticks (R390). -/
def State.setDwell (s : State) (cl : Nat) : State :=
  s.setCluster cl { s.cluster cl with dwell := 2048 + Config.darkDwell s.freeCtr cl % (2 ^ 20 - 2047) }

/-- The first entry of a list for each partition: one event a period (R419). -/
def firstOfEach : List Nat → List (Nat × Nat × Nat) → List (Nat × Nat × Nat)
  | _, [] => []
  | seen, x :: xs => if x.1 ∈ seen then firstOfEach seen xs else x :: firstOfEach (x.1 :: seen) xs

/-- GOVERNOR_PERIOD (R298, R301, R390, R419): allotments of partitions and clusters from the draws of the clusters, DARK dwells, class-U
overruns, and event 0x52, once, of each partition whose traffic has waited; its entry is about the partition core of its first cluster. -/
def execGovernorPeriod (draw : Nat) (draws overrun : List (Nat × Nat)) (short : List (Nat × Nat × Nat)) (s : State) :
    Host.Outcome State Fault Refusal :=
  let demand := s.partDemand draws
  let a := s.allot draw demand
  let s : State := { s with parts := s.parts.map (fun e =>
    (e.1, { e.2 with allot := look 0 a e.1, overrun := e.2.overrun + look 0 overrun e.1 })) }
  let s := s.allotClusters draws a demand
  let s := (draws.foldl (fun s d => s.setDwell d.1) s).tickFree
  .next ((firstOfEach [] short).foldl (fun s x =>
    s.logEvent 0x52 (.partition ((s.part x.1).clusterList.headD 0)) (x.2.1 % 256 + x.2.2 % 2 ^ 16 * 2 ^ 16)) s)

/-! ### Power states (R390, R391) -/

/-- Every command outstanding in the module, of resident tasks, of saved ones and of those that are gone. -/
def State.allCmds (s : State) : List Cmd := s.cores.flatMap (fun k => (s.core k).cmds) ++ s.tasks.flatMap (·.cmds)

/-- A command that a core issued is outstanding, whoever holds it now (R390). -/
def State.coreBusy (s : State) (k : CoreId) : Bool := s.allCmds.any (fun m => decide (m.core = k))

/-- DARK_DWELL_EXPIRES (R390): an idle core loses power, and its scratchpad. -/
def execDarkDwellExpires (k : CoreId) (s : State) : Host.Outcome State Fault Refusal :=
  .next (
    let c := s.core k
    if isCompute k && c.task.isNone && decide (c.power = .idle) && !s.coreBusy k then
      s.setCore { c with power := .dark, scratch := [], poison := [] }
    else s)

/-- The next bundle of a core waits for a QDEQ: it names the register that the item is to come to (R204). -/
def State.waitsQdeq (s : State) (k : CoreId) : Bool :=
  let c := s.core k
  let a := c.pc.toNat
  let names (d : Dest) : Bool := c.ilk.any (fun o => match o.kind with | .qdeq _ _ none => decide (o.dest = some d) | _ => false)
  match bundleWords (s.fetchWord k) (bundleRoom a) a true 0 with
  | .ok ws => ws.any (fun w => match decodeWord w with | .ok i => (srcs i ++ (dsts c i).map (·.1)).any names | .error _ => false)
  | .error _ => false

/-- The partition core waits in QDEQ or WTALL, or has not started (R391); it has no QPOP (R109). -/
def State.partitionWaits (s : State) (cl : Nat) : Bool :=
  let k := CoreId.partition cl
  let c := s.core k
  decide (c.power = .dark) ||
    (c.ord.wait.isNone && ((match s.tagCond k with | some (.tags true _) => true | _ => false) || s.waitsQdeq k))

/-- CLUSTER_DARK (R391): no command of a party of the cluster is outstanding, its sampler's among them; its dirty lines are written home
first. -/
def execClusterDark (cl : Nat) (s : State) : Host.Outcome State Fault Refusal :=
  .next (
    let ks := s.cores.filter (fun k => decide (clusterOf k = cl ∧ k ≠ .umpire))
    let rest := ks.all (fun k => !isCompute k || decide ((s.core k).power = .dark))
    let busy := s.allCmds.any (fun m => decide (clusterOf m.core = cl))
    if (s.cluster cl).dark || !rest || !s.partitionWaits cl || busy then s
    else
      let s := (s.stores.filter (fun x => decide (clusterOf x.src = cl))).foldl State.performStore s
      let s := (s.stale.map (fun y => y.pa / 64)).foldl (fun s l => s.dropCopies (some cl) l) s
      s.setCluster cl { s.cluster cl with dark := true })

/-- CLUSTER_WAKE (R391): the partition core's wait can end, or a task queue of the cluster has a candidate. -/
def execClusterWake (cl : Nat) (s : State) : Host.Outcome State Fault Refusal :=
  .next (
    let wakes := !s.partitionWaits cl || !(s.cands cl (s.freeCores cl)).isEmpty ||
      !(s.resumeCands cl (s.freeCores cl)).isEmpty
    if (s.cluster cl).dark && wakes && !s.umpire.deepOff then s.setCluster cl { s.cluster cl with dark := false } else s)

/-! ### Power loss and boot (R393 to R397) -/

/-- Every pending entry of a core, those that a handler has frozen first, with the ages that a restore gives them: in the order of their
bundles, and older than every bundle to come (R30, R309, R316, R393). -/
def Core.entriesKept (c : Core) : List Entry :=
  let all := (match c.frozen with | some f => f.shadow | none => []) ++ c.shadow
  all.map (fun e => { e with age := 65535 - (all.filter (fun x => decide (e.age < x.age))).length })

/-- What a core keeps of its program (R393, R396). -/
def Core.image (c : Core) : NvImage :=
  { pc := c.pc, prog := progOf c, shadow := c.entriesKept
    loops := [c.cr crLbeg, c.cr crLend, c.cr crLcnt, c.cr (loopReg crLbeg 1), c.cr (loopReg crLend 1), c.cr (loopReg crLcnt 1)]
    tagbits := c.cr crTagbits, ctx := c.party.ctx, comp := c.party.comp, taskid := c.cr crTaskid
    trap := [c.cr crTrapcause, c.cr crTrapinfo, c.cr crTrappc], pcsel := c.pcselNext, record := (c.task.map (·.record)).getD 0 }

/-- A core after a power loss (R393, R394): DARK, with its non-volatile image, its weight store and its repairs. Its journal unit has
written the counter cache; `k` names that write. -/
def Core.lost (c : Core) (k : Nat) : Core :=
  let runs := match c.id with
    | .compute _ _ => c.task.isSome
    | _ => decide (c.power ≠ Power.dark)
  { Core.dark c.id with
    nv := if runs then some c.image else c.nv
    ws := { c.ws.flush k with tries := 0, pos := 0, applying := none, worn := false }, off := c.off, enabled := c.enabled }

/-- The Umpire after a power loss (R394, R427): what its secure memory holds; a die whose vat is fenced has failed. -/
def State.umpireKept (s : State) : Umpire :=
  let out (v : Nat) : Bool := decide ((s.vat v).state ≠ .live)
  { Umpire.fresh with
    standby := out 0, failed := out 15, stopped := out 0 && out 15, handler := s.umpire.handler, image := s.umpire.image
    phandler := s.umpire.phandler, pimage := s.umpire.pimage, sealed := s.umpire.sealed, flagged := s.umpire.flagged
    firmware := s.umpire.firmware, retired := s.umpire.retired, boxLink := s.umpire.boxLink }

/-- POWER_LOSS (R393, R394): what survives is kept, everything else is as after power-on. A queue-table entry keeps its fields, with `st` = 1. -/
def execPowerLoss (s : State) : Host.Outcome State Fault Refusal :=
  let z := State.reset
  .next { z with
    c := s.c.lost s.freeCtr
    others := (s.others.zipIdx).map (fun e => (e.1.1, e.1.2.lost (s.freeCtr + 1 + e.2)))
    parts := s.parts.map (fun e => (e.1, { e.2 with stbase := 0, stcfg := 0, inval := [], overrun := 0, allot := 0, halted := false }))
    queues := s.queues.map (fun e => (e.1, { e.2 with kind := e.2.kind ||| 8, waiters := [] }))
    ctxs := s.ctxs.map (fun e => (e.1, { e.2 with v := false }))
    keys := s.keys.map (fun e => if e.2.kind = 4 then (e.1, { e.2 with st := 0, key := 0 }) else if e.2.st = 2 then (e.1, { e.2 with st := 0, key := 0, meas := 0 }) else e)
    comps := s.comps.map (fun e => (e.1, { e.2 with owner := none }))
    gates := s.gates
    wsets := s.wsets.map (fun e => (e.1, { e.2 with readers := 0 }))
    vfs := s.vfs.map (fun e => (e.1, { Vf.fresh with part := e.2.part, wld := e.2.wld }))
    vats := s.vats.map (fun e => (e.1, { Vat.fresh with state := e.2.state }))
    host := s.host
    suspended := List.range' 1 255
    boxLog := s.boxLog
    replies := s.replies
    umpire := s.umpireKept
    records := s.records
    images := s.images
    powerLost := true
    ids := s.ids
    freeCtr := s.freeCtr + 1 + s.others.length
    agenda := s.agenda }

/-- The bytes of a firmware image. -/
def imageBytes (m : Mem) : List (BitVec 8) := bytesOf ((m.map (fun c => c.1 + 1)).foldl Nat.max 0) (memValue 0 m)

/-- The compute cores whose image the Umpire takes into secure MRAM at a boot (R393, R395). -/
def State.takeImages (s : State) : State :=
  s.cores.foldl (fun s k =>
    match (s.core k).nv with
    | some n => if isCompute k then ({ s with images := put s.images k n } : State).setCore { s.core k with nv := none } else s
    | none => s) s

/-! ### Configuration records (R398) -/

/-- A copy of a record. -/
def State.recordCopy (s : State) (ty i : Nat) : ConfigCopy := look ⟨0, false, 0, 0, 0⟩ s.records (ty, i)

/-- The valid copy with the larger version that is not below a floor: its number and itself (R398). -/
def State.newerCopy (s : State) (ty floor : Nat) : Option (Nat × ConfigCopy) :=
  let ok (i : Nat) : Bool := (s.recordCopy ty i).good && decide (floor ≤ (s.recordCopy ty i).ver)
  if ok 1 && (!ok 0 || decide ((s.recordCopy ty 0).ver < (s.recordCopy ty 1).ver)) then some (1, s.recordCopy ty 1)
  else if ok 0 then some (0, s.recordCopy ty 0)
  else none

/-- The record in force for a type (R398): the rollback floor is that of the record of type 5. -/
def State.inForce (s : State) (ty : Nat) : Option (Nat × ConfigCopy) :=
  s.newerCopy ty (if ty = 5 then 0 else ((s.newerCopy 5 0).map (·.2.body)).getD 0)

/-- The body of a record in force. -/
def State.recordBody (s : State) (ty : Nat) : Nat := ((s.inForce ty).map (·.2.body)).getD 0

/-- A core's bit in the body of a record of type 1. -/
def coreBit : CoreId → Nat
  | .compute cl k => 48 * cl + k
  | .partition cl => 1536 + cl
  | .umpire => 1568

/-- Every compute core of the module. -/
def allCores : List CoreId := (List.range 32).flatMap (fun cl => (List.range 48).map (CoreId.compute cl))

/-- What a type governs is disabled (R398): the cores for the enabled-core map and for the trims, the V, M and F engines for the repair
map, the partitions for the layout. -/
def State.disableType (s : State) (ty : Nat) : State :=
  if ty = 1 ∨ ty = 3 then allCores.foldl (fun s k => s.setCore { s.core k with enabled := false }) s
  else if ty = 2 then allCores.foldl (fun s k => s.setCore { s.core k with off := [4, 5, 6] }) s
  else if ty = 4 then { s with parts := [], queues := [], ctxs := s.ctxs.map (fun e => (e.1, { e.2 with part := none })) }
  else s

/-- The bytes of a record (R398). -/
def recordBytes (ty : Nat) (c : ConfigCopy) : List (BitVec 8) :=
  bytesOf 2 ty ++ bytesOf 2 0 ++ bytesOf 4 c.ver ++ bytesOf 4 c.len ++ bytesOf 4 0 ++ bytesOf c.len c.body ++ bytesOf 96 c.sign

/-- An engine's bit in the body of a record of type 2 (log 69): V, M and F of each core. -/
def engineBit (k : CoreId) (slot : Fin 8) : Nat := 3 * coreBit k + (slot.val - 4)

/-- The engines of a core that a body of type 2 disables. -/
def disabledEngines (body : Nat) (k : CoreId) : List (Fin 8) := [4, 5, 6].filter (fun e => body.testBit (engineBit k e))

/-- The record in force of a type is applied (R397, R398): the enabled-core map, and the disabled engines of the repair map. Trims have no
effect that a program can tell, and the layout is held by the Umpire's tables. -/
def State.applyRecord (s : State) (ty : Nat) : State :=
  let b := s.recordBody ty
  if ty = 1 then (allCores.filter (fun k => b.testBit (coreBit k))).foldl (fun s k => s.setCore { s.core k with enabled := false }) s
  else if ty = 2 then
    (allCores.filter (fun k => !(disabledEngines b k).isEmpty)).foldl (fun s k =>
      s.setCore { s.core k with off := (disabledEngines b k).foldl (fun es e => insertNew e es) (s.core k).off }) s
  else s

/-- Boot step 2 (R397, R398, R422): each record in force is measured and applied; a type without one is disabled, with event 0x45. -/
def State.applyRecords (s : State) : State :=
  [1, 2, 3, 4, 5].foldl (fun (s : State) ty =>
    match s.inForce ty with
    | some c => (s.extend 1 (digestOf (recordBytes ty c.2))).applyRecord ty
    | none => (s.disableType ty).logEvent 0x45 .umpire ty) s

/-! ### The boot and the images (R395 to R397) -/

/-- The newer of the firmware images that verify (R397). -/
def newerFirmware (fs : List Firmware) : Option Firmware :=
  (fs.filter (·.good)).foldl (fun best f => match best with | some b => if b.ver < f.ver then some f else some b | none => some f) none

/-- Boot step 1 (R397): the newer valid firmware image of the two that the secure memory holds; with none that verifies, there is none to
run. A memory that holds no copies leaves the images as they were loaded (log 7). -/
def State.chooseFirmware (s : State) : State :=
  if s.umpire.firmware.isEmpty then s
  else
    let f := (newerFirmware s.umpire.firmware).getD ⟨0, false, 0, [], 0, []⟩
    { s with umpire := { s.umpire with handler := f.handler, image := f.image, phandler := f.phandler, pimage := f.pimage } }

/-- The Umpire's core starts with its firmware; without an image it stays in its ROM (R397). -/
def State.startUmpire (s : State) : State :=
  if s.umpire.image.isEmpty then s
  else s.setCore { Core.dark .umpire with power := .run, pc := BitVec.ofNat 49 s.umpire.handler }

/-- The compute cores whose journals the boot scans (R388, R397): the enabled ones. -/
def State.scanned (s : State) : List CoreId := s.cores.filter (fun k => isCompute k && (s.core k).enabled)

/-- The first three steps of the boot (R397, R399, R422): firmware, records and tables, and the images of a power loss; the journals that
are not Empty are left to scan, one attempt a step. -/
def State.bootBegin (s : State) : State :=
  let s := State.chooseFirmware { s with tick := 0, mrs := Vector.replicate 16 0 }
  let s := (s.extend 0 (digestOf (imageBytes s.umpire.image))).applyRecords
  let s := s.extend 2 (digestOf (imageBytes s.umpire.pimage))
  let s := [3, 4, 7].foldl (fun s n => (s.measureTable n).tickFree) s
  let s := s.takeImages
  let s := if s.powerLost then s.logEvent 0x40 .umpire s.images.length else s
  let s := s.scanned.foldl State.openJournal s
  { s with scans := some (s.scanned.filter (fun k => decide ((s.core k).ws.jnl.st ≠ 0))) }

/-- Every valid version-table entry of the scanned cores, as it is hashed (R422). -/
def State.versionTables (s : State) : List (BitVec 8) :=
  (allCores.filter (fun k => decide (k ∈ s.scanned))).flatMap (fun k =>
    ((List.range 64).filter (fun e => bitAt ((s.core k).ws.version e) 80)).flatMap (s.versionBytes k))

/-- The end of the boot (R397, R399, R422): every cluster DARK, the version tables measured, the Umpire's firmware started. -/
def State.bootEnd (s : State) : State :=
  let s := s.extend 5 (digestOf s.versionTables)
  let s := s.logEvent 0x46 .umpire (((s.inForce 4).map (·.2.ver)).getD 0)
  { s.startUmpire with booted := true, powerLost := false, scans := none }

/-- The boot ends once no scan is left. -/
def State.bootGoesOn (s : State) : State := if s.scans = some [] then s.bootEnd else s

/-- COLD_BOOT (R388, R397): its first steps, then an attempt of a scan, core by core, until none is left. -/
def execColdBoot (s : State) : Host.Outcome State Fault Refusal :=
  .next (
    if s.booted then s
    else
      match s.scans with
      | some (k :: rest) =>
        let r := s.scanStep k
        (if r.2 then { r.1 with scans := some rest } else r.1).bootGoesOn
      | _ => s.bootBegin.bootGoesOn)

/-- The register space that carries a lost core's image (R395): zero but for what it names. -/
def State.imageSpace (s : State) (k : CoreId) (n : NvImage) : Nat :=
  let at' (off v : Nat) := v * 256 ^ off
  let cr (c : Fin 96) (v : Nat) := at' (0x300 + 8 * c.val) v
  cr crTagbits n.tagbits.toNat + cr crProg n.prog.toNat +
    ([crLbeg, crLend, crLcnt, loopReg crLbeg 1, loopReg crLend 1, loopReg crLcnt 1].zip n.loops).foldl (fun v x => v + cr x.1 x.2.toNat) 0 +
    cr crTrapcause Cause.powerLoss.code + cr crTrappc n.pc.toNat + cr crTrapinfo (corenoOf s.umpire.standby k).toNat +
    at' 0x0600 n.pc.toNat +
    at' 0x0800 (packLanes 64 (n.shadow.map (headerImage 65535))) +
    at' 0x2000 (packLanes 4096 (n.shadow.map (fun e => if (destCode e.dest).1 = 4 then 0 else e.value)))

/-- IMAGE_DELIVERY (R395): the n-th image, once its context's pool and supervisor queue run. -/
def execImageDelivery (n : Nat) (s : State) : Host.Outcome State Fault Refusal :=
  .next (match s.images[n]? with
    | none => s
    | some (k, im) =>
      let x := s.ctx im.ctx
      match x.part with
      | none => s
      | some p =>
        if !x.v || (s.queue p x.plq).stopped || (s.queue p x.supq).stopped then s
        else
          match s.takeItem p x.plq with
          | (s, none) => s
          | (s, some slot) =>
            let img := s.imageSpace k im
            let regs := (List.range (regSpaceSize im.record / 4096)).map (fun i => (slot.toNat + 4096 * i, img / 2 ^ (32768 * i) % 2 ^ 32768))
            match s.slotWrite im.ctx (regs ++ [(slot.toNat + 0x7B000, headerBlock 0 0 im.record 0)]) with
            | .error _ => s
            | .ok s =>
              let t : Task := ⟨im.record, p, 0, im.ctx, slot.toNat, recPrio im.record, none, 0, []⟩
              let sv : Saved :=
                { Saved.bare t (clusterOf k) (.trapped false) s.ids with pin := recPin im.record, kept := heldBytes im.record img }
              let s : State := { s with tasks := s.tasks ++ [sv], ids := s.ids + 1, images := del s.images k }
              s.postSup k t (supItem Cause.powerLoss.code false k slot.toNat))

/-- Images that the partition of a cluster has pending (R396). -/
def State.pendingImages (s : State) (part : Nat) : Nat := (s.images.filter (fun e => decide ((s.ctx e.2.ctx).part = some part))).length

/-- The context that `pcsel` of a partition core names: as its image keeps it, or as it was written (R340, R396). -/
def Core.selected (c : Core) : Nat := match c.nv with | some n => n.pcsel.getD n.ctx | none => c.pcselNext.getD 0

/-- PARTITION_CORE_RESUME (R392, R396): once the context that pcsel names is valid, and not in deep off; it starts in its handler, its frozen
entries older than every bundle to come. -/
def execPartitionCoreResume (cl : Nat) (s : State) : Host.Outcome State Fault Refusal :=
  .next (
    let k := CoreId.partition cl
    let c := s.core k
    let ctx := c.selected
    let part := s.partOf cl
    if c.power ≠ .dark ∨ c.halted ∨ 32 ≤ part ∨ (s.cluster cl).halted ∨ !(s.ctx ctx).v ∨ s.umpire.pimage.isEmpty ∨ !s.booted ∨ s.umpire.deepOff then s
    else
      let pc := (c.nv.map (·.pc)).getD 0
      let d := (Core.dark k).setTrap ⟨.powerLoss, BitVec.ofNat 64 (s.pendingImages part)⟩ pc
      let loops := (c.nv.map (·.loops)).getD []
      let d := ([crLbeg, crLend, crLcnt, loopReg crLbeg 1, loopReg crLend 1, loopReg crLcnt 1].zip loops).foldl (fun d x => d.setCr x.1 x.2) d
      let d := d.setCr crCtxid (BitVec.ofNat 64 ctx)
      let s := s.setCore { d with
        power := .run, pc := BitVec.ofNat 49 s.umpire.phandler, age := 65536, frozen := some ⟨(c.nv.map (·.shadow)).getD [], none, none, none⟩ }
      s.setCluster cl { s.cluster cl with dark := false })

/-! ### Errors and repairs (R410, R413, R426, R427) -/

/-- UNCORRECTABLE_ERROR (R410, R427). -/
def execUncorrectableError (site : ErrorSite) (s : State) : Host.Outcome State Fault Refusal :=
  .next (match site with
    | .memLine pa => (s.poisonLine (pa / 64)).logEvent 0x53 .umpire (pa / 64 * 64)
    | .scratchLine k off =>
      (s.setCore { s.core k with poison := insertNew (off / 64) (s.core k).poison }).logEvent 0x53 k (off / 64 * 64)
    | .weightUnit k u =>
      (s.onWs k (fun w => { w with units := put w.units (w.place u) { w.unit u with bad := true } })).logEvent 0x53 k (64 * u)
    | .coreState k off engine =>
      if isCompute k then (s.endLost k .poisonConsumed off).retireCore k .poisonConsumed ((engine.map (·.val)).getD 0)
      else if k = .umpire then s.takeover
      else (s.stopCluster (clusterOf k) .poisonConsumed off).logEvent 0x55 k (clusterOf k)
    | .cluster cl => (s.stopCluster cl .poisonConsumed (Config.openWord s.freeCtr).toNat).logEvent 0x55 (.partition cl) cl
    | .vat v => s.fenceVat v
    | .umpire => s.takeover
    | .standby => { s with umpire := { s.umpire with failed := true, stopped := s.umpire.stopped || s.umpire.standby } })

/-- HEARTBEAT_CHECK (R427): two lapses hand over to the standby. -/
def execHeartbeatCheck (alive : Bool) (s : State) : Host.Outcome State Fault Refusal :=
  .next (
    if s.umpire.standby then s
    else if alive then { s with umpire := { s.umpire with lapses := 0 } }
    else if s.umpire.lapses = 0 then { s with umpire := { s.umpire with lapses := 1 } }
    else s.takeover)

/-- Body bytes of the records that the Umpire writes itself (log 69). -/
def recordLen (ty : Nat) : Nat := if ty = 1 then 197 else 589

/-- A record is written over the copy that is not in force (R398); if it is in force then, it is applied, with event 0x59 and MR8, and has
its effect (R422, R426). -/
def State.putRecord (s : State) (ty : Nat) (c : ConfigCopy) (effect : State → State) : State :=
  let older := match s.inForce ty with | some (0, _) => 1 | _ => 0
  let s := { s with records := put s.records (ty, older) c }
  if (s.inForce ty).map (·.1) = some older then
    ((effect (s.applyRecord ty)).extend 8 (digestOf (recordBytes ty c))).logEvent 0x59 .umpire (ty % 2 ^ 16 + c.ver % 2 ^ 32 * 2 ^ 16)
  else s

/-- A repair's record, signed (R426). -/
def State.recordRepair (s : State) (ty ver body : Nat) (effect : State → State) : State :=
  s.putRecord ty ⟨ver, true, recordLen ty, body, (Config.recordSign s.freeCtr).toNat⟩ effect

/-- The cores that their freezes have flagged are disabled, by a record of type 1, at the next record write (R426). -/
def State.disableFlagged (s : State) : State :=
  if s.umpire.flagged.isEmpty then s
  else
    let body := s.umpire.flagged.foldl (fun b k => b ||| 2 ^ coreBit k) (s.recordBody 1)
    let ver := ((s.inForce 1).map (·.2.ver)).getD 0 + 1
    (State.recordRepair { s with umpire := { s.umpire with flagged := [] } } 1 ver body id).tickFree

/-- Spares for a core (R426): a segment is converted, and the apply that wore out is due again (R388). -/
def WStore.convert (w : WStore) (seg : Nat) : WStore :=
  { w with
    converted := true, segs := put w.segs seg { Seg.fresh with role := 2 }
    applying := if w.worn then some w.jnl.wset else w.applying }

/-- An engine is disabled (R426): event 0x51 for it no longer retires the core, which is bound again if nothing else retires or disables it. -/
def State.disableEngine (s : State) (k : CoreId) (slot : Fin 8) : State :=
  let rest := s.umpire.retired.filter (fun r => decide (r ≠ (k, slot.val)))
  let back := decide ((k, slot.val) ∈ s.umpire.retired) && rest.all (fun r => decide (r.1 ≠ k)) && !(s.recordBody 1).testBit (coreBit k)
  let c := s.core k
  State.setCore { s with umpire := { s.umpire with retired := rest } } { c with off := insertNew slot c.off, enabled := c.enabled || back }

/-- REPAIR_RECORD (R379, R398, R426): spares, an engine, a core, a vat, or a record as it is delivered; a type 2 record but for a core's,
which is of type 1. A repair has its effect once its record is in force. -/
def execRepairRecord (r : Repair) (s : State) : Host.Outcome State Fault Refusal :=
  let s := s.disableFlagged
  .next (match r with
    | .spares k seg ver =>
      let w := (s.core k).ws
      if w.converted ∨ 1022 ≤ seg ∨ (w.seg seg).role ≠ 0 ∨ (w.seg seg).comp ≠ 0 ∨ (w.seg seg).wset ≠ 0 then s
      else s.recordRepair 2 ver (s.recordBody 2) (fun s => s.onWs k (fun w => w.convert seg))
    | .disableEngine k slot ver =>
      if slot.val < 4 ∨ 6 < slot.val then s
      else s.recordRepair 2 ver (s.recordBody 2 ||| 2 ^ engineBit k slot) (fun s => s.disableEngine k slot)
    | .disableCore k ver => s.recordRepair 1 ver (s.recordBody 1 ||| 2 ^ coreBit k) (fun s => s.setCore { s.core k with enabled := false })
    | .readmit v ver =>
      if (s.vat v).state = .fenced then s.recordRepair 2 ver (s.recordBody 2) (fun s => s.setVat v { s.vat v with state := .readmitting }) else s
    | .record ty ver len body sign whole => s.putRecord ty ⟨ver, whole, len, body, sign⟩ id)

/-- GORQUE_PORT_LINK_FAILURE (R410): the port is removed from routing; the fence counters stay on the surviving routes. -/
def execGorquePortLinkFailure (port : Nat) (s : State) : Host.Outcome State Fault Refusal :=
  .next { s with portsDown := insertNew port s.portsDown }

/-! ### HBM (R418 to R420) -/

/-- `acap`, `thr` and `thot` of a vat. -/
def Vat.acap (v : Vat) : Nat := bits v.rhcfg.toNat 40 8
/-- The refresh-management threshold. -/
def Vat.thr (v : Vat) : Nat := bits v.rhcfg.toNat 16 16
/-- The hot-state temperature. -/
def Vat.thot (v : Vat) : Nat := bits v.rhcfg.toNat 8 8

/-- One activation of a row (R418): at the threshold its neighbours are refreshed and its counter is 0. -/
def Vat.activate (v : Vat) (bank row : Nat) : Vat :=
  let n := look 0 v.rows (bank, row) + 1
  { v with
    acts := put v.acts bank (look 0 v.acts bank + 1)
    rows := if v.thr ≤ n then del v.rows (bank, row) else put v.rows (bank, row) n }

/-- An activation that is asked for (R419): in the hot state one beyond the cap waits for the next window. -/
def Vat.ask (v : Vat) (bank row : Nat) : Vat :=
  if v.hot && decide (v.acap ≤ look 0 v.acts bank) then { v with waiting := v.waiting ++ [(bank, row)] } else v.activate bank row

/-- The activations that wait are asked for again, in order. -/
def Vat.askAgain (v : Vat) : Vat := v.waiting.foldl (fun v x => v.ask x.1 x.2) { v with waiting := [] }

/-- The hot state at the temperature last reported (R419): it begins above thot and ends below thot - 3, and with it the cap. -/
def Vat.heat (v : Vat) : Vat :=
  ({ v with hot := if v.thot < v.temp then true else if v.temp + 3 < v.thot then false else v.hot } : Vat).askAgain

/-- ROW_REFRESH_MANAGEMENT (R418, R419): an activation of a row is asked for. -/
def execRowRefreshManagement (vat bank row : Nat) (s : State) : Host.Outcome State Fault Refusal :=
  .next (s.setVat vat ((s.vat vat).ask bank row))

/-- ACTIVATION_WINDOW (R419): a window of 1,000 ticks begins. -/
def execActivationWindow (vat : Nat) (s : State) : Host.Outcome State Fault Refusal :=
  .next (s.setVat vat ({ s.vat vat with acts := [] } : Vat).askAgain)

/-- HBM_TEMPERATURE_CHANGE (R410, R419): 105 degrees fence the vat. -/
def execHbmTemperatureChange (vat celsius : Nat) (s : State) : Host.Outcome State Fault Refusal :=
  let s := s.setVat vat ({ s.vat vat with temp := celsius } : Vat).heat
  .next (if 105 ≤ celsius then s.fenceVat vat else s)

/-- RHCFG_WRITE (R420): refused outside the limits; a new thot applies at once. -/
def execRhcfgWrite (vat : Nat) (val : Word) (s : State) : Host.Outcome State Fault Refusal :=
  let x := val.toNat
  let ok := decide (bits x 48 16 = 0 ∧ bits x 32 8 = 0 ∧ bits x 0 8 = 0 ∧ 16 ≤ bits x 40 8 ∧ 512 ≤ bits x 16 16 ∧ 70 ≤ bits x 8 8 ∧ bits x 8 8 ≤ 94)
  .next (if ok then s.setVat vat ({ s.vat vat with rhcfg := val } : Vat).heat else s)

/-! ### Receipts (R425) -/

/-- The world of a partition: that of its VF with a world. -/
def State.partWorld (s : State) (part : Nat) : Nat :=
  match s.vfs.find? (fun e => decide (e.2.part = some part ∧ e.2.wld ≠ 0)) with
  | some e => e.2.wld
  | none => 0

/-- A set passes if every core of the partition that holds a segment of it publishes the sequence in a valid entry (R379, R425). -/
def State.setPublished (s : State) (part wset seq : Nat) : Bool :=
  s.cores.all (fun k =>
    let w := (s.core k).ws
    let here := isCompute k && (s.part part).clusters.getLsbD (clusterOf k) && w.segs.any (fun g => decide (g.2.role = 0 ∧ g.2.wset = wset))
    !here || (bitAt (w.version (w.versionSlot wset)) 80 && decide (w.published wset = seq)))

/-- Entry i of a request's sets. -/
def reqSet (v i : Nat) : Nat := field v (24 + 16 * i) 16

/-- The status of a receipt request (R425): 5 malformed, 2 a sequence not published, 4 measurement unknown, 1 signed. -/
def State.receiptStat (s : State) (part v : Nat) : Nat :=
  let n := field v 16 1
  let zero := decide (field v 17 7 = 0 ∧ field v 260 60 = 0) && (List.range 8).all (fun i => decide (field (reqSet v i) 2 6 = 0))
  let cm := BitVec.ofNat 384 (field v 200 48)
  if 8 < n ∨ !zero ∨ field v 248 8 % 64 ≠ 0 ∨ 2 ^ 49 ≤ field v 248 8 then 5
  else if !(List.range n).all (fun i => s.setPublished part (field (reqSet v i) 0 2) (field (reqSet v i) 8 8)) then 2
  else if (s.partWorld part, cm) ∉ s.umpire.sealed then 4
  else 1

/-- Bytes 0 to 415 of a receipt (R425). -/
def State.receiptBody (s : State) (part v bseq : Nat) : Nat :=
  0x52430001 + field v 0 16 * 2 ^ 128 + part * 2 ^ 256 + s.partWorld part * 2 ^ 264 + field v 16 1 * 2 ^ 272 +
    s.mrs[0].toNat * 256 ^ 40 + s.mrs[2].toNat * 256 ^ 88 + field v 200 48 * 256 ^ 136 + field v 24 128 * 256 ^ 184 +
    field v 152 48 * 256 ^ 312 + bseq * 256 ^ 360 + s.tick.toNat * 256 ^ 368

/-- Answers a request in hand: the receipt first, then its status (R425). -/
def State.answerReceipt (s : State) (r : Receipt) : State :=
  let p : Party := ⟨.umpire, r.ctx, 0, .umpire⟩
  let stat (s : State) (n : Nat) : State :=
    match s.writeRange p (r.addr + 256) 4 n with
    | .ok s' => s'
    | .error _ => s
  match s.readRange p r.addr 320 with
  | .error f => if f = .poisonConsumed then stat s 3 else s
  | .ok v =>
    let st := s.receiptStat r.part v
    if r.addr % 64 ≠ 0 then stat s 5
    else if st ≠ 1 then stat s st
    else
      let s := s.observeTick
      let bseq := field (s.boxLog.getLast?.getD 0).toNat 0 8 + 1
      let body := s.receiptBody r.part v bseq
      let sig := natOfBytes (attest (bytesOf 416 body))
      match s.writeRange p (field v 248 8) 512 (body + sig * 256 ^ 416) with
      | .ok s' => stat (s'.logEntry 0x57 (corenoOf s.umpire.standby .umpire) 0 0 bseq 0) 1
      | .error _ => s

/-- RECEIPT_REQUEST (R425, R427): a request in hand is answered; else the next is dequeued. -/
def execReceiptRequest (part : Nat) (s : State) : Host.Outcome State Fault Refusal :=
  serveWith (fun s =>
    match s.receipts.find? (fun r => decide (r.part = part)) with
    | some r => ({ s with receipts := s.receipts.filter (fun x => decide (x ≠ r)) } : State).answerReceipt r
    | none =>
      let qn := (s.part part).receipts
      let ctx := (s.queue part qn).rctx
      if (s.queue part qn).isTask then s
      else
        match s.takeItem part qn with
        | (s, some a) => { s with receipts := s.receipts ++ [⟨part, ctx, a.toNat⟩] }
        | (s, none) => s) s

end Sys2Proof.Machine
end

