-- ==== Sys2Proof/Machine/Dispatch.lean ====
section
/-! DEFINITION. The meaning of every instruction: one arm per constructor. -/

namespace Sys2Proof.Machine

def exec (i : Instr) (s : State) : Host.Outcome State Fault Refusal :=
  match i with
  | .nop => Sys2Proof.Machine.execNop s
  | .stall x1 => Sys2Proof.Machine.execStall x1 s
  | .brScalar x1 x2 x3 => Sys2Proof.Machine.execBrScalar x1 x2 x3 s
  | .brPredicate x1 x2 x3 => Sys2Proof.Machine.execBrPredicate x1 x2 x3 s
  | .j x1 => Sys2Proof.Machine.execJ x1 s
  | .jr x1 => Sys2Proof.Machine.execJr x1 s
  | .call x1 => Sys2Proof.Machine.execCall x1 s
  | .callr x1 => Sys2Proof.Machine.execCallr x1 s
  | .ret => Sys2Proof.Machine.execRet s
  | .loop x1 x2 x3 => Sys2Proof.Machine.execLoop x1 x2 x3 s
  | .loops x1 x2 x3 => Sys2Proof.Machine.execLoops x1 x2 x3 s
  | .lbrk x1 => Sys2Proof.Machine.execLbrk x1 s
  | .tend => Sys2Proof.Machine.execTend s
  | .tyield => Sys2Proof.Machine.execTyield s
  | .trap x1 => Sys2Proof.Machine.execTrap x1 s
  | .tret => Sys2Proof.Machine.execTret s
  | .wtall x1 => Sys2Proof.Machine.execWtall x1 s
  | .wtany x1 => Sys2Proof.Machine.execWtany x1 s
  | .tffr x1 x2 => Sys2Proof.Machine.execTffr x1 x2 s
  | .tclr x1 => Sys2Proof.Machine.execTclr x1 s
  | .cbar x1 x2 => Sys2Proof.Machine.execCbar x1 x2 s
  | .fence x1 => Sys2Proof.Machine.execFence x1 s
  | .mfc x1 x2 => Sys2Proof.Machine.execMfc x1 x2 s
  | .mtc x1 x2 => Sys2Proof.Machine.execMtc x1 x2 s
  | .qpop x1 => Sys2Proof.Machine.execQpop x1 s
  | .sync => Sys2Proof.Machine.execSync s
  | .add x1 x2 x3 x4 => Sys2Proof.Machine.execAdd x1 x2 x3 x4 s
  | .sub x1 x2 x3 x4 => Sys2Proof.Machine.execSub x1 x2 x3 x4 s
  | .addi x1 x2 x3 x4 => Sys2Proof.Machine.execAddi x1 x2 x3 x4 s
  | .movi x1 x2 x3 => Sys2Proof.Machine.execMovi x1 x2 x3 s
  | .movhi x1 x2 x3 => Sys2Proof.Machine.execMovhi x1 x2 x3 s
  | .mul x1 x2 x3 x4 => Sys2Proof.Machine.execMul x1 x2 x3 x4 s
  | .mulhi x1 x2 x3 x4 => Sys2Proof.Machine.execMulhi x1 x2 x3 x4 s
  | .mulhn x1 x2 x3 x4 => Sys2Proof.Machine.execMulhn x1 x2 x3 x4 s
  | .div x1 x2 x3 x4 => Sys2Proof.Machine.execDiv x1 x2 x3 x4 s
  | .divn x1 x2 x3 x4 => Sys2Proof.Machine.execDivn x1 x2 x3 x4 s
  | .rem x1 x2 x3 x4 => Sys2Proof.Machine.execRem x1 x2 x3 x4 s
  | .remn x1 x2 x3 x4 => Sys2Proof.Machine.execRemn x1 x2 x3 x4 s
  | .and x1 x2 x3 x4 => Sys2Proof.Machine.execAnd x1 x2 x3 x4 s
  | .or x1 x2 x3 x4 => Sys2Proof.Machine.execOr x1 x2 x3 x4 s
  | .xor x1 x2 x3 x4 => Sys2Proof.Machine.execXor x1 x2 x3 x4 s
  | .andn x1 x2 x3 x4 => Sys2Proof.Machine.execAndn x1 x2 x3 x4 s
  | .andi x1 x2 x3 x4 => Sys2Proof.Machine.execAndi x1 x2 x3 x4 s
  | .ori x1 x2 x3 x4 => Sys2Proof.Machine.execOri x1 x2 x3 x4 s
  | .xori x1 x2 x3 x4 => Sys2Proof.Machine.execXori x1 x2 x3 x4 s
  | .shl x1 x2 x3 x4 => Sys2Proof.Machine.execShl x1 x2 x3 x4 s
  | .shrl x1 x2 x3 x4 => Sys2Proof.Machine.execShrl x1 x2 x3 x4 s
  | .shra x1 x2 x3 x4 => Sys2Proof.Machine.execShra x1 x2 x3 x4 s
  | .shli x1 x2 x3 x4 => Sys2Proof.Machine.execShli x1 x2 x3 x4 s
  | .shrli x1 x2 x3 x4 => Sys2Proof.Machine.execShrli x1 x2 x3 x4 s
  | .shrai x1 x2 x3 x4 => Sys2Proof.Machine.execShrai x1 x2 x3 x4 s
  | .clz x1 x2 x3 => Sys2Proof.Machine.execClz x1 x2 x3 s
  | .ctz x1 x2 x3 => Sys2Proof.Machine.execCtz x1 x2 x3 s
  | .popc x1 x2 x3 => Sys2Proof.Machine.execPopc x1 x2 x3 s
  | .min x1 x2 x3 x4 => Sys2Proof.Machine.execMin x1 x2 x3 x4 s
  | .max x1 x2 x3 x4 => Sys2Proof.Machine.execMax x1 x2 x3 x4 s
  | .minn x1 x2 x3 x4 => Sys2Proof.Machine.execMinn x1 x2 x3 x4 s
  | .maxn x1 x2 x3 x4 => Sys2Proof.Machine.execMaxn x1 x2 x3 x4 s
  | .sel x1 x2 x3 x4 x5 => Sys2Proof.Machine.execSel x1 x2 x3 x4 x5 s
  | .cmp x1 x2 x3 x4 x5 => Sys2Proof.Machine.execCmp x1 x2 x3 x4 x5 s
  | .cmpi x1 x2 x3 x4 x5 => Sys2Proof.Machine.execCmpi x1 x2 x3 x4 x5 s
  | .plog x1 x2 x3 x4 x5 => Sys2Proof.Machine.execPlog x1 x2 x3 x4 x5 s
  | .pmov x1 x2 x3 x4 => Sys2Proof.Machine.execPmov x1 x2 x3 x4 s
  | .addsc x1 x2 x3 x4 x5 => Sys2Proof.Machine.execAddsc x1 x2 x3 x4 x5 s
  | .ext x1 x2 x3 x4 x5 => Sys2Proof.Machine.execExt x1 x2 x3 x4 x5 s
  | .fadd x1 x2 x3 x4 x5 => Sys2Proof.Machine.execFadd x1 x2 x3 x4 x5 s
  | .fsub x1 x2 x3 x4 x5 => Sys2Proof.Machine.execFsub x1 x2 x3 x4 x5 s
  | .fmul x1 x2 x3 x4 x5 => Sys2Proof.Machine.execFmul x1 x2 x3 x4 x5 s
  | .ffma x1 x2 x3 x4 x5 x6 => Sys2Proof.Machine.execFfma x1 x2 x3 x4 x5 x6 s
  | .fcmp x1 x2 x3 x4 x5 x6 => Sys2Proof.Machine.execFcmp x1 x2 x3 x4 x5 x6 s
  | .fcvt x1 x2 x3 x4 x5 => Sys2Proof.Machine.execFcvt x1 x2 x3 x4 x5 s
  | .fmnx x1 x2 x3 x4 x5 x6 => Sys2Proof.Machine.execFmnx x1 x2 x3 x4 x5 x6 s
  | .lds x1 x2 x3 x4 => Sys2Proof.Machine.execLds x1 x2 x3 x4 s
  | .sts x1 x2 x3 x4 => Sys2Proof.Machine.execSts x1 x2 x3 x4 s
  | .ldv x1 x2 x3 x4 => Sys2Proof.Machine.execLdv x1 x2 x3 x4 s
  | .stv x1 x2 x3 x4 => Sys2Proof.Machine.execStv x1 x2 x3 x4 s
  | .ldvb x1 x2 x3 x4 => Sys2Proof.Machine.execLdvb x1 x2 x3 x4 s
  | .ldvx x1 x2 x3 x4 x5 => Sys2Proof.Machine.execLdvx x1 x2 x3 x4 x5 s
  | .stvx x1 x2 x3 x4 x5 => Sys2Proof.Machine.execStvx x1 x2 x3 x4 x5 s
  | .ldpm x1 x2 x3 => Sys2Proof.Machine.execLdpm x1 x2 x3 s
  | .stpm x1 x2 x3 => Sys2Proof.Machine.execStpm x1 x2 x3 s
  | .ldg x1 x2 x3 x4 => Sys2Proof.Machine.execLdg x1 x2 x3 x4 s
  | .stg x1 x2 x3 x4 => Sys2Proof.Machine.execStg x1 x2 x3 x4 s
  | .atg x1 x2 x3 x4 x5 => Sys2Proof.Machine.execAtg x1 x2 x3 x4 x5 s
  | .casg x1 x2 x3 x4 x5 => Sys2Proof.Machine.execCasg x1 x2 x3 x4 x5 s
  | .ats x1 x2 x3 x4 x5 => Sys2Proof.Machine.execAts x1 x2 x3 x4 x5 s
  | .cass x1 x2 x3 x4 x5 => Sys2Proof.Machine.execCass x1 x2 x3 x4 x5 s
  | .vadd x1 x2 x3 x4 x5 => Sys2Proof.Machine.execVadd x1 x2 x3 x4 x5 s
  | .vsub x1 x2 x3 x4 x5 => Sys2Proof.Machine.execVsub x1 x2 x3 x4 x5 s
  | .vmul x1 x2 x3 x4 x5 => Sys2Proof.Machine.execVmul x1 x2 x3 x4 x5 s
  | .vmulhi x1 x2 x3 x4 x5 => Sys2Proof.Machine.execVmulhi x1 x2 x3 x4 x5 s
  | .vmad x1 x2 x3 x4 x5 => Sys2Proof.Machine.execVmad x1 x2 x3 x4 x5 s
  | .vand x1 x2 x3 x4 x5 => Sys2Proof.Machine.execVand x1 x2 x3 x4 x5 s
  | .vor x1 x2 x3 x4 x5 => Sys2Proof.Machine.execVor x1 x2 x3 x4 x5 s
  | .vxor x1 x2 x3 x4 x5 => Sys2Proof.Machine.execVxor x1 x2 x3 x4 x5 s
  | .vshl x1 x2 x3 x4 x5 => Sys2Proof.Machine.execVshl x1 x2 x3 x4 x5 s
  | .vshrl x1 x2 x3 x4 x5 => Sys2Proof.Machine.execVshrl x1 x2 x3 x4 x5 s
  | .vshra x1 x2 x3 x4 x5 => Sys2Proof.Machine.execVshra x1 x2 x3 x4 x5 s
  | .vmin x1 x2 x3 x4 x5 => Sys2Proof.Machine.execVmin x1 x2 x3 x4 x5 s
  | .vmax x1 x2 x3 x4 x5 => Sys2Proof.Machine.execVmax x1 x2 x3 x4 x5 s
  | .vabs x1 x2 x3 x4 => Sys2Proof.Machine.execVabs x1 x2 x3 x4 s
  | .vneg x1 x2 x3 x4 => Sys2Proof.Machine.execVneg x1 x2 x3 x4 s
  | .vsel x1 x2 x3 x4 x5 => Sys2Proof.Machine.execVsel x1 x2 x3 x4 x5 s
  | .vcmp x1 x2 x3 x4 x5 => Sys2Proof.Machine.execVcmp x1 x2 x3 x4 x5 s
  | .vfadd x1 x2 x3 x4 x5 => Sys2Proof.Machine.execVfadd x1 x2 x3 x4 x5 s
  | .vfsub x1 x2 x3 x4 x5 => Sys2Proof.Machine.execVfsub x1 x2 x3 x4 x5 s
  | .vfmul x1 x2 x3 x4 x5 => Sys2Proof.Machine.execVfmul x1 x2 x3 x4 x5 s
  | .vffma x1 x2 x3 x4 x5 => Sys2Proof.Machine.execVffma x1 x2 x3 x4 x5 s
  | .vfdiv x1 x2 x3 x4 x5 => Sys2Proof.Machine.execVfdiv x1 x2 x3 x4 x5 s
  | .vfsqrt x1 x2 x3 x4 => Sys2Proof.Machine.execVfsqrt x1 x2 x3 x4 s
  | .vfrcp x1 x2 x3 x4 => Sys2Proof.Machine.execVfrcp x1 x2 x3 x4 s
  | .vfrsq x1 x2 x3 x4 => Sys2Proof.Machine.execVfrsq x1 x2 x3 x4 s
  | .vfexp2 x1 x2 x3 x4 => Sys2Proof.Machine.execVfexp2 x1 x2 x3 x4 s
  | .vflog2 x1 x2 x3 x4 => Sys2Proof.Machine.execVflog2 x1 x2 x3 x4 s
  | .vfmin x1 x2 x3 x4 x5 => Sys2Proof.Machine.execVfmin x1 x2 x3 x4 x5 s
  | .vfmax x1 x2 x3 x4 x5 => Sys2Proof.Machine.execVfmax x1 x2 x3 x4 x5 s
  | .vfcmp x1 x2 x3 x4 x5 => Sys2Proof.Machine.execVfcmp x1 x2 x3 x4 x5 s
  | .vcvt x1 x2 x3 x4 x5 => Sys2Proof.Machine.execVcvt x1 x2 x3 x4 x5 s
  | .vqnt x1 x2 x3 x4 x5 => Sys2Proof.Machine.execVqnt x1 x2 x3 x4 x5 s
  | .vdqnt x1 x2 x3 x4 x5 => Sys2Proof.Machine.execVdqnt x1 x2 x3 x4 x5 s
  | .vred x1 x2 x3 x4 x5 => Sys2Proof.Machine.execVred x1 x2 x3 x4 x5 s
  | .vscan x1 x2 x3 x4 x5 x6 => Sys2Proof.Machine.execVscan x1 x2 x3 x4 x5 x6 s
  | .vperm x1 x2 x3 x4 x5 => Sys2Proof.Machine.execVperm x1 x2 x3 x4 x5 s
  | .vbcst x1 x2 x3 x4 => Sys2Proof.Machine.execVbcst x1 x2 x3 x4 s
  | .viota x1 x2 x3 x4 => Sys2Proof.Machine.execViota x1 x2 x3 x4 s
  | .vcmpr x1 x2 x3 x4 => Sys2Proof.Machine.execVcmpr x1 x2 x3 x4 s
  | .vmovs x1 x2 x3 x4 x5 => Sys2Proof.Machine.execVmovs x1 x2 x3 x4 x5 s
  | .vdefer x1 x2 x3 x4 x5 => Sys2Proof.Machine.execVdefer x1 x2 x3 x4 x5 s
  | .vdrain x1 x2 x3 x4 x5 => Sys2Proof.Machine.execVdrain x1 x2 x3 x4 x5 s
  | .vtoq x1 x2 x3 => Sys2Proof.Machine.execVtoq x1 x2 x3 s
  | .vsred x1 x2 x3 x4 x5 => Sys2Proof.Machine.execVsred x1 x2 x3 x4 x5 s
  | .mldw x1 x2 x3 => Sys2Proof.Machine.execMldw x1 x2 x3 s
  | .mmul x1 x2 x3 x4 x5 => Sys2Proof.Machine.execMmul x1 x2 x3 x4 x5 s
  | .mzero x1 => Sys2Proof.Machine.execMzero x1 s
  | .mload x1 x2 => Sys2Proof.Machine.execMload x1 x2 s
  | .mdrain x1 x2 x3 x4 x5 => Sys2Proof.Machine.execMdrain x1 x2 x3 x4 x5 s
  | .mtt x1 x2 x3 => Sys2Proof.Machine.execMtt x1 x2 x3 s
  | .maddt x1 x2 x3 => Sys2Proof.Machine.execMaddt x1 x2 x3 s
  | .mscl x1 x2 x3 => Sys2Proof.Machine.execMscl x1 x2 x3 s
  | .mtrn x1 x2 => Sys2Proof.Machine.execMtrn x1 x2 s
  | .mnorm x1 x2 => Sys2Proof.Machine.execMnorm x1 x2 s
  | .mpoly x1 x2 x3 => Sys2Proof.Machine.execMpoly x1 x2 x3 s
  | .miter x1 x2 x3 => Sys2Proof.Machine.execMiter x1 x2 x3 s
  | .fmt x1 => Sys2Proof.Machine.execFmt x1 s
  | .fmts x1 => Sys2Proof.Machine.execFmts x1 s
  | .sla x1 => Sys2Proof.Machine.execSla x1 s
  | .slb x1 => Sys2Proof.Machine.execSlb x1 s
  | .slq x1 => Sys2Proof.Machine.execSlq x1 s
  | .slz => Sys2Proof.Machine.execSlz s
  | .xcp x1 x2 => Sys2Proof.Machine.execXcp x1 x2 s
  | .xcph x1 x2 x3 => Sys2Proof.Machine.execXcph x1 x2 x3 s
  | .xmc x1 x2 x3 => Sys2Proof.Machine.execXmc x1 x2 x3 s
  | .xga x1 x2 x3 => Sys2Proof.Machine.execXga x1 x2 x3 s
  | .xsc x1 x2 x3 => Sys2Proof.Machine.execXsc x1 x2 x3 s
  | .xwin x1 x2 x3 => Sys2Proof.Machine.execXwin x1 x2 x3 s
  | .xwb x1 x2 => Sys2Proof.Machine.execXwb x1 x2 s
  | .xinv x1 x2 => Sys2Proof.Machine.execXinv x1 x2 s
  | .xgate x1 x2 => Sys2Proof.Machine.execXgate x1 x2 s
  | .xcan x1 => Sys2Proof.Machine.execXcan x1 s
  | .qenq x1 x2 x3 => Sys2Proof.Machine.execQenq x1 x2 x3 s
  | .qdeq x1 x2 => Sys2Proof.Machine.execQdeq x1 x2 s
  | .tqpush x1 x2 x3 => Sys2Proof.Machine.execTqpush x1 x2 x3 s
  | .launch x1 x2 => Sys2Proof.Machine.execLaunch x1 x2 s
  | .gsmpl x1 x2 x3 => Sys2Proof.Machine.execGsmpl x1 x2 x3 s
  | .gfork x1 x2 x3 => Sys2Proof.Machine.execGfork x1 x2 x3 s
  | .gtrunc x1 x2 x3 => Sys2Proof.Machine.execGtrunc x1 x2 x3 s
  | .gcur x1 x2 => Sys2Proof.Machine.execGcur x1 x2 s
  | .gins x1 x2 x3 => Sys2Proof.Machine.execGins x1 x2 x3 s
  | .gsnap x1 x2 => Sys2Proof.Machine.execGsnap x1 x2 s
  | .wjw x1 x2 => Sys2Proof.Machine.execWjw x1 x2 s
  | .wjc x1 x2 => Sys2Proof.Machine.execWjc x1 x2 s
  | .wja x1 x2 => Sys2Proof.Machine.execWja x1 x2 s
  | .wjd x1 x2 => Sys2Proof.Machine.execWjd x1 x2 s
  | .wwear x1 x2 => Sys2Proof.Machine.execWwear x1 x2 s
  | .xhash x1 x2 => Sys2Proof.Machine.execXhash x1 x2 s
  | .xsign x1 x2 => Sys2Proof.Machine.execXsign x1 x2 s
  | .xvfy x1 x2 => Sys2Proof.Machine.execXvfy x1 x2 s
  | .xhint x1 x2 => Sys2Proof.Machine.execXhint x1 x2 s
  | .xpwr x1 => Sys2Proof.Machine.execXpwr x1 s
  | .xevt x1 x2 => Sys2Proof.Machine.execXevt x1 x2 s
  | .shadowWriteLands x1 => Sys2Proof.Machine.execShadowWriteLands x1 s
  | .interlockedResultArrives x1 x2 => Sys2Proof.Machine.execInterlockedResultArrives x1 x2 s
  | .vtoqPushLands x1 => Sys2Proof.Machine.execVtoqPushLands x1 s
  | .correctableErrorFreeze x1 => Sys2Proof.Machine.execCorrectableErrorFreeze x1 s
  | .freezeEnd x1 => Sys2Proof.Machine.execFreezeEnd x1 s
  | .instructionFetchFault x1 => Sys2Proof.Machine.execInstructionFetchFault x1 s
  | .heldAccessFault x1 => Sys2Proof.Machine.execHeldAccessFault x1 s
  | .sideLogReplay x1 x2 => Sys2Proof.Machine.execSideLogReplay x1 x2 s
  | .gatherScatterElement x1 => Sys2Proof.Machine.execGatherScatterElement x1 s
  | .vsredVectorRead x1 => Sys2Proof.Machine.execVsredVectorRead x1 s
  | .mUnitCompletes x1 x2 => Sys2Proof.Machine.execMUnitCompletes x1 x2 s
  | .miterPhaseEnd x1 => Sys2Proof.Machine.execMiterPhaseEnd x1 s
  | .arrayPoisonDetected x1 x2 => Sys2Proof.Machine.execArrayPoisonDetected x1 x2 s
  | .remoteAccessArrives x1 x2 => Sys2Proof.Machine.execRemoteAccessArrives x1 x2 s
  | .waitConditionHolds x1 => Sys2Proof.Machine.execWaitConditionHolds x1 s
  | .parkBoundExpires x1 => Sys2Proof.Machine.execParkBoundExpires x1 s
  | .parkedConditionHolds x1 x2 => Sys2Proof.Machine.execParkedConditionHolds x1 x2 s
  | .tendWaitEnds x1 => Sys2Proof.Machine.execTendWaitEnds x1 s
  | .completionSignals x1 => Sys2Proof.Machine.execCompletionSignals x1 s
  | .sliceExpiry x1 => Sys2Proof.Machine.execSliceExpiry x1 s
  | .priorityPreemption x1 => Sys2Proof.Machine.execPriorityPreemption x1 s
  | .preempted x1 => Sys2Proof.Machine.execPreempted x1 s
  | .supqItemAppend x1 => Sys2Proof.Machine.execSupqItemAppend x1 s
  | .schedulerBind x1 => Sys2Proof.Machine.execSchedulerBind x1 s
  | .copyBoxComplete x1 x2 x3 => Sys2Proof.Machine.execCopyBoxComplete x1 x2 x3 s
  | .engineFaultDelivery x1 => Sys2Proof.Machine.execEngineFaultDelivery x1 s
  | .commandCompletes x1 x2 => Sys2Proof.Machine.execCommandCompletes x1 x2 s
  | .windowFillCompletes x1 => Sys2Proof.Machine.execWindowFillCompletes x1 s
  | .backgroundWriteback x1 x2 x3 => Sys2Proof.Machine.execBackgroundWriteback x1 x2 x3 s
  | .storeAcknowledged x1 x2 => Sys2Proof.Machine.execStoreAcknowledged x1 x2 s
  | .fenceMarkerAck x1 x2 => Sys2Proof.Machine.execFenceMarkerAck x1 x2 s
  | .qdeqItemDelivered x1 x2 => Sys2Proof.Machine.execQdeqItemDelivered x1 x2 s
  | .queueStart x1 x2 => Sys2Proof.Machine.execQueueStart x1 x2 s
  | .registerWrite x1 x2 x3 x4 x5 => Sys2Proof.Machine.execRegisterWrite x1 x2 x3 x4 x5 s
  | .cqtailDoorbell x1 x2 => Sys2Proof.Machine.execCqtailDoorbell x1 x2 s
  | .cpheadWrite x1 x2 => Sys2Proof.Machine.execCpheadWrite x1 x2 s
  | .ringEnable x1 x2 => Sys2Proof.Machine.execRingEnable x1 x2 s
  | .pushRecord x1 => Sys2Proof.Machine.execPushRecord x1 s
  | .pushItem x1 => Sys2Proof.Machine.execPushItem x1 s
  | .gorqueLaunchPacket x1 x2 x3 x4 x5 => Sys2Proof.Machine.execGorqueLaunchPacket x1 x2 x3 x4 x5 s
  | .partCreate => Sys2Proof.Machine.execPartCreate s
  | .partDestroy => Sys2Proof.Machine.execPartDestroy s
  | .vfAssign => Sys2Proof.Machine.execVfAssign s
  | .ctxAssign => Sys2Proof.Machine.execCtxAssign s
  | .vatFence => Sys2Proof.Machine.execVatFence s
  | .vatReadmit => Sys2Proof.Machine.execVatReadmit s
  | .deepOffEnter => Sys2Proof.Machine.execDeepOffEnter s
  | .deepOffLeave => Sys2Proof.Machine.execDeepOffLeave s
  | .distributorPushChunk x1 => Sys2Proof.Machine.execDistributorPushChunk x1 s
  | .chunkComplete x1 x2 => Sys2Proof.Machine.execChunkComplete x1 x2 s
  | .governorPeriod x1 x2 x3 x4 => Sys2Proof.Machine.execGovernorPeriod x1 x2 x3 x4 s
  | .darkDwellExpires x1 => Sys2Proof.Machine.execDarkDwellExpires x1 s
  | .clusterDark x1 => Sys2Proof.Machine.execClusterDark x1 s
  | .clusterWake x1 => Sys2Proof.Machine.execClusterWake x1 s
  | .powerLoss => Sys2Proof.Machine.execPowerLoss s
  | .coldBoot => Sys2Proof.Machine.execColdBoot s
  | .imageDelivery x1 => Sys2Proof.Machine.execImageDelivery x1 s
  | .partitionCoreResume x1 => Sys2Proof.Machine.execPartitionCoreResume x1 s
  | .wjaApply x1 => Sys2Proof.Machine.execWjaApply x1 s
  | .rollForwardRetry x1 => Sys2Proof.Machine.execRollForwardRetry x1 s
  | .invalPage x1 x2 x3 => Sys2Proof.Machine.execInvalPage x1 x2 x3 s
  | .invalContext x1 x2 => Sys2Proof.Machine.execInvalContext x1 x2 s
  | .invalPartition x1 => Sys2Proof.Machine.execInvalPartition x1 s
  | .slcmdReplay x1 x2 => Sys2Proof.Machine.execSlcmdReplay x1 x2 s
  | .slcmdUnreplayable x1 x2 => Sys2Proof.Machine.execSlcmdUnreplayable x1 x2 s
  | .pcselWrite x1 x2 x3 => Sys2Proof.Machine.execPcselWrite x1 x2 x3 s
  | .maskDeadlineExpires x1 x2 => Sys2Proof.Machine.execMaskDeadlineExpires x1 x2 s
  | .getVersion x1 x2 => Sys2Proof.Machine.execGetVersion x1 x2 s
  | .getCapabilities x1 x2 => Sys2Proof.Machine.execGetCapabilities x1 x2 s
  | .negotiateAlgorithms x1 x2 => Sys2Proof.Machine.execNegotiateAlgorithms x1 x2 s
  | .getCertificate x1 x2 x3 x4 x5 => Sys2Proof.Machine.execGetCertificate x1 x2 x3 x4 x5 s
  | .challenge x1 x2 x3 => Sys2Proof.Machine.execChallenge x1 x2 x3 s
  | .getMeasurements x1 x2 x3 x4 x5 => Sys2Proof.Machine.execGetMeasurements x1 x2 x3 x4 x5 s
  | .keyExchange x1 x2 => Sys2Proof.Machine.execKeyExchange x1 x2 s
  | .finish x1 x2 x3 x4 => Sys2Proof.Machine.execFinish x1 x2 x3 x4 s
  | .endSession x1 => Sys2Proof.Machine.execEndSession x1 s
  | .compCreate x1 => Sys2Proof.Machine.execCompCreate x1 s
  | .compClaim x1 x2 => Sys2Proof.Machine.execCompClaim x1 x2 s
  | .keyLoad x1 x2 x3 x4 x5 x6 => Sys2Proof.Machine.execKeyLoad x1 x2 x3 x4 x5 x6 s
  | .keyRetire x1 x2 => Sys2Proof.Machine.execKeyRetire x1 x2 s
  | .keySlotDrained x1 => Sys2Proof.Machine.execKeySlotDrained x1 s
  | .codeSeal x1 x2 x3 x4 => Sys2Proof.Machine.execCodeSeal x1 x2 x3 x4 s
  | .grantSet x1 x2 x3 x4 => Sys2Proof.Machine.execGrantSet x1 x2 x3 x4 s
  | .gateSet x1 x2 x3 x4 x5 x6 x7 x8 => Sys2Proof.Machine.execGateSet x1 x2 x3 x4 x5 x6 x7 x8 s
  | .lockInterfaceRequest x1 x2 => Sys2Proof.Machine.execLockInterfaceRequest x1 x2 s
  | .startInterfaceRequest x1 x2 x3 => Sys2Proof.Machine.execStartInterfaceRequest x1 x2 x3 s
  | .stopInterfaceRequest x1 x2 => Sys2Proof.Machine.execStopInterfaceRequest x1 x2 s
  | .getDeviceInterfaceReport x1 x2 => Sys2Proof.Machine.execGetDeviceInterfaceReport x1 x2 s
  | .getDeviceInterfaceState x1 x2 => Sys2Proof.Machine.execGetDeviceInterfaceState x1 x2 s
  | .ideFailure x1 => Sys2Proof.Machine.execIdeFailure x1 s
  | .hotReset x1 => Sys2Proof.Machine.execHotReset x1 s
  | .linkDown x1 => Sys2Proof.Machine.execLinkDown x1 s
  | .uncorrectableError x1 => Sys2Proof.Machine.execUncorrectableError x1 s
  | .heartbeatCheck x1 => Sys2Proof.Machine.execHeartbeatCheck x1 s
  | .rowRefreshManagement x1 x2 x3 => Sys2Proof.Machine.execRowRefreshManagement x1 x2 x3 s
  | .hbmTemperatureChange x1 x2 => Sys2Proof.Machine.execHbmTemperatureChange x1 x2 s
  | .activationWindow x1 => Sys2Proof.Machine.execActivationWindow x1 s
  | .rhcfgWrite x1 x2 => Sys2Proof.Machine.execRhcfgWrite x1 x2 s
  | .receiptRequest x1 => Sys2Proof.Machine.execReceiptRequest x1 s
  | .repairRecord x1 => Sys2Proof.Machine.execRepairRecord x1 s
  | .storeRetiresIntoSideLog x1 => Sys2Proof.Machine.execStoreRetiresIntoSideLog x1 s
  | .gorquePortLinkFailure x1 => Sys2Proof.Machine.execGorquePortLinkFailure x1 s
  | .spdmUnsupportedRequest x1 x2 => Sys2Proof.Machine.execSpdmUnsupportedRequest x1 x2 s
  | .registerRead x1 x2 x3 => Sys2Proof.Machine.execRegisterRead x1 x2 x3 s
  | .invalidationCompletes x1 => Sys2Proof.Machine.execInvalidationCompletes x1 s

end Sys2Proof.Machine
end

