-- ==== Sys2Proof/Machine/Bundle.lean ====
section
/-! DEFINITION. Bundles (R66 to R75, R92), what a bundle does at its end (R93 to R103), issue cycles (R25, R32, R166, R293), the order of
traps and pre-emption at a boundary (R304), and which internal events may happen (R26, R249, R282). -/

namespace Sys2Proof.Machine

/-! ### Bundle formation (R67 to R71) -/

/-- How many words a bundle at an address has, whatever their order (R68). -/
def bundleLength (get : Nat → Except Trap Nat) : Nat → Nat → Bool → Nat
  | 0, _, _ => 0
  | n + 1, va, first =>
    match get va with
    | .error _ => 0
    | .ok w => if w = 0 ∨ (!first && bitAt w 31) then 0 else bundleLength get n (va + 4) false + 1

/-- The first word at or after an address that begins a bundle (R92); where a word cannot be fetched, its address, so that the next
bundle's fetch reports it. -/
def successorFrom (get : Nat → Except Trap Nat) : Nat → Nat → Nat
  | 0, b => b
  | n + 1, b =>
    match get b with
    | .error _ => b
    | .ok w => if w ≠ 0 then b else successorFrom get n ((b / 64 + 1) * 64)

/-- The successor of a bundle of n words (R92); the address space has 2^43 packets. -/
def successorOf (get : Nat → Except Trap Nat) (a n : Nat) : Nat := successorFrom get (2 ^ 43) (a + 4 * n)

/-- A word starts a bundle and lies before the first fill word of its packet (R72). -/
def startsBundle (get : Nat → Except Trap Nat) (va : Nat) : Except Trap Bool := do
  let w ← get va
  let before ← (List.range (va % 64 / 4)).mapM (fun i => get (va / 64 * 64 + 4 * i))
  pure (bitAt w 31 && before.all (fun x => decide (x ≠ 0)))

/-- The checks of one recorded word (R71): kind of core, repair, opcode, reserved and coded fields. -/
def State.decodeSlot (s : State) (w : Nat) : Except Trap (Nat × Instr) :=
  let slot := bits w 28 3
  if !isCompute s.c.id && decide (4 ≤ slot ∧ slot ≤ 6) then .error ⟨.illegal, encInfo 3 w slot⟩
  else if Fin.ofNat 8 slot ∈ s.c.off then .error ⟨.slotAbsent, BitVec.ofNat 64 slot⟩
  else
    match decodeWord w with
    | .ok i => .ok (w, i)
    | .error r => .error ⟨.illegal, encInfo r.code w slot⟩

/-- A decoded bundle: its words in slot order, and its successor. -/
structure Bundle where
  words : List (Nat × Instr)
  succ : Nat
  deriving DecidableEq, Repr

/-- Fetch for the core that steps. -/
def State.get (s : State) (va : Nat) : Except Trap Nat := s.fetchWord s.c.id va

/-- The bundle at an address that begins with a start bit (R71). -/
def State.formBundle (s : State) (a : Nat) : Except Trap Bundle := do
  let ws ← bundleWords s.get (bundleRoom a) a true 0
  let is ← ws.mapM s.decodeSlot
  pure ⟨is, successorOf s.get a ws.length⟩

/-- Decoding the bundle at the program counter, whose first word is w (R71, R72). -/
def State.decodeBundle (s : State) (w : Nat) : Except Trap Bundle :=
  let a := s.c.pc.toNat
  match s.c.arrived with
  | some b =>
    match startsBundle s.get a with
    | .error t => .error t
    | .ok false => .error ⟨.notStart, b.zeroExtend 64⟩
    | .ok true => s.formBundle a
  | none => if bitAt w 31 then s.formBundle a else .error ⟨.illegal, encInfo 4 w (bits w 28 3)⟩

/-! ### Issue -/

/-- What trying to issue a bundle gives. -/
inductive Attempt where
  /-- The first word cannot be fetched (R305). -/
  | fetch
  /-- A fault of decoding or of issue, or of the target way, and what the bundle's L slot may still retire into the side log (R74,
  R304). -/
  | trap (t : Trap) (late : List Access)
  /-- Held before issue; implicit empty issue cycles pass if `counts` (R26, R32, R109, R167). -/
  | held (s : State) (counts : Bool)
  /-- Every slot has executed; `skip` tells of the end word of a skipped loop: it starts a bundle, and its successor (R96). -/
  | ready (s : State) (skip : Bool × Nat)
  /-- A word has no meaning. -/
  | stop (o : Host.Outcome State Fault Refusal)

/-- The stores and reductions of the bundle in issue that have not been performed (R132, R138). -/
def Core.lateStores (c : Core) : List Access :=
  (c.ilk.filter (fun o => decide (o.age = c.age))).filterMap (fun o =>
    match o.kind with | .access a none => if a.isStore then some a else none | _ => none) ++ c.stq

/-- The gather or scatter of the bundle in issue is performed, element by element, until it ends, faults or waits. -/
def State.gatherAll (s : State) : Nat → State
  | 0 => s
  | n + 1 =>
    match s.c.gather with
    | some g => if s.c.due.isEmpty then (s.gatherStep s.c.id g).gatherAll n else s
    | none => s

/-- A V-slot word that accesses the scratchpad at issue (R161, R162). -/
def accessesAtIssue : Instr → Bool
  | .vdefer _ _ _ _ _ => true
  | .vdrain _ _ _ _ _ => true
  | _ => false

/-- A VDEFER or VDRAIN beside an LDVX or STVX of its bundle (R144): the L slot's elements are performed first, and the bundle waits while
they wait; the V slot's sources are those before the bundle (R29). One that an element's fault stops goes on (log 61). -/
def State.execBehind (s : State) (w : Nat) (i : Instr) : Host.Outcome State Fault Refusal :=
  let r := s.gatherAll 129
  if r.c.gather.isSome && decide (r.c.due = s.c.due) then .next { r with verdict := .held false }
  else
    match exec i { r with c := { r.c with v := s.c.v }, word := w } with
    | .next t => .next { t with c := { t.c with v := r.c.v } }
    | o => o

/-- A word that starts a gather or scatter (R128). -/
def startsGather : Instr → Bool
  | .ldvx _ _ _ _ _ => true
  | .stvx _ _ _ _ _ => true
  | _ => false

/-- The slots of a bundle, lowest first (R29, R74): the first that is held holds the bundle, else the first trap is its trap; a slot
whose word traps leaves no effect for the others to see. `l` tells of an LDVX or STVX before. -/
def State.runSlots (s : State) (l : Bool) : List (Nat × Instr) → Option Trap → Attempt
  | [], some t => .trap t s.c.lateStores
  | [], none => .ready s (true, 0)
  | (w, i) :: rest, t =>
    match (if l && accessesAtIssue i && s.c.gather.isSome then s.execBehind w i else exec i { s with word := w }) with
    | .next s' =>
      match s'.verdict with
      | .issued => s'.runSlots (l || startsGather i) rest t
      | .held counts => .held s' counts
      | .trapped u => s.runSlots l rest (match t with | some t => some t | none => some u)
    | o => .stop o

/-- The state of a window's pieces before an attempt, with the fills that the attempt has started (R225). -/
def keepFills (old new : List Piece) : List Piece :=
  List.zipWith (fun p q => if p = .unfilled ∧ q = .filling then .filling else p) old new

/-- A core whose bundle is held: as before the attempt, but for the fills started (R122, R225). -/
def Core.heldAfter (c held : Core) : Core :=
  { c with wins := List.zipWith (fun x y => { x with pieces := keepFills x.pieces y.pieces }) c.wins held.wins }

/-- Pending entries of latency 2 or more after a bundle (R32); one that lands at the end of the current cycle still counts (log 54). -/
def Core.pendingAfter (c issued : Core) : Nat :=
  c.shadow.length + (issued.shadow.filter (fun e => decide (e.age = c.age ∧ 2 ≤ e.remaining))).length

/-- The trap of a held bundle that starts a fill again whose piece has failed to fill for it (R122, R225). -/
def Core.failedFill (c held : Core) : Option Trap :=
  (c.badFills.find? (fun b =>
    match c.pieceAt b.1, held.pieceAt b.1 with
    | some (_, _, .unfilled), some (_, _, .filling) => true
    | _, _ => false)).map (·.2)

/-- A held bundle keeps the fills that its elements have started at other cores as well (R122). -/
def State.heldOthers (s held : State) : List (CoreId × Core) := s.others.map (fun e => (e.1, e.2.heldAfter (held.core e.1)))

/-- A result that is fixed at issue and interlocked, and another write of the same scalar register by a word of the C, A or B slot of its
bundle: the higher slot's write stays (R30, R110, log 23). -/
def Core.settleTwin (c : Core) (slot : Nat) (r : Reg) : Core :=
  let twin (e : Entry) : Bool := decide (e.dest = .scalar r ∧ e.age = c.age ∧ e.slot ≤ 2)
  if c.shadow.any (fun e => twin e && decide (slot < e.slot)) then
    { c with ilk := c.ilk.map (fun o => if o.dest = some (.scalar r) ∧ o.age = c.age then { o with dest := none } else o) }
  else { c with shadow := c.shadow.map (fun e => if twin e then { e with dest := .scalar 0 } else e) }

/-- What the words of one bundle leave to be settled between them: two writes of one register (R30), and SYNC beside the wait of an X-slot
word (R106, R199, R209). -/
def Core.settleBundle (c : Core) (words : List (Nat × Instr)) : Core :=
  if words.length ≤ 1 then c
  else
    let c := words.foldl (fun c w => match fixedResult w.2 with | some r => c.settleTwin (bits w.1 28 3) r | none => c) c
    if words.any (fun w => decide (w.2 = .sync)) then
      c.withFlow (fun f => { f with wait := match f.wait with | some .sync => some .sync | some w => some (.both .sync w) | none => none })
    else c

/-- The bundle's slots, then the capacity of the shadow queue, then the end word of a skipped loop (R32, R74, R96). -/
def State.tryBundle (s : State) (b : Bundle) : Attempt :=
  match ({ s with c := { s.c with flow := { Flow.none with succ := b.succ } } } : State).runSlots false b.words none with
  | .held s' counts =>
    match s.c.failedFill s'.c with
    | some t => .trap t []
    | none =>
      let h : State := { s with c := s.c.heldAfter s'.c }
      if b.words.length ≤ 1 then .held h counts else .held { h with others := s.heldOthers s' } counts
  | .ready s' _ =>
    let s' : State := { s' with c := s'.c.settleBundle b.words }
    if 16 < s.c.pendingAfter s'.c then .held s true
    else
      match s'.c.flow.skipTo with
      | none => .ready s' (true, 0)
      | some (_, e) =>
        match startsBundle s.get e with
        | .error t => .trap t s'.c.lateStores
        | .ok good => .ready s' (good, successorOf s.get e (bundleLength s.get (bundleRoom e) e true))
  | x => x

/-- Whether the next bundle issues: fetch and decoding, then the wait that its predecessor left and the access that is performed again
before it, which may have failed, then its slots (R74, R105, R304, R316). On a compute core too, every bundle waits until the held access has been performed again: the
model's choice (log 58). -/
def State.attempt (s : State) : Attempt :=
  match s.get s.c.pc.toNat with
  | .error _ => .fetch
  | .ok w =>
    match s.decodeBundle w with
    | .error t => .trap t []
    | .ok b =>
      match s.c.ord.wait.bind Wait.fault with
      | some t => .trap t []
      | none => if s.c.ord.wait.isSome || s.c.redoing then .held s false else s.tryBundle b

/-- A store or reduction of a bundle that traps retires into the side log if it faults as R136 says or stands behind an entry, and has no
other effect (R74, R137). -/
def State.lateStore (s : State) (a : Access) : State :=
  let k := s.c.id
  let hits := logOverlap s.c.log a
  if a ∈ s.c.stq ∨ 32 ≤ s.c.log.length ∨ hits.any (fun e => decide (e.state = 2)) then s
  else if !hits.isEmpty then s.enterLog k a none
  else
    match s.tryGlobal k a with
    | .fault f => if f.repairable then s.enterLog k a (some f) else s
    | _ => s

/-- A bundle traps before it issues (R74, R304); the wait that failed it, if one did, is over (R105). -/
def State.bundleTrap (s : State) (t : Trap) (late : List Access) : State :=
  let s := late.foldl State.lateStore s
  State.trapNow { s with c := s.c.waitTaken t } t

/-! ### Issue cycles -/

/-- What an event or a word of the table does, where it goes on. -/
def State.perform (s : State) (i : Instr) : State :=
  match exec i s with
  | .next s' => s'
  | _ => s

/-- The charge of one issue cycle: the residency counts it, and slice counts down and stops at 0; a partition core whose slice
reaches 0 is due PREEMPTED, the Umpire nothing (R94, R293, R294, R296). -/
def Core.charge (c : Core) : Core :=
  let c := { c with issued := c.issued + 1 }
  let n := (c.cr crSlice).toNat
  if n = 0 then c
  else
    let c := c.setCr crSlice (BitVec.ofNat 64 (n - 1))
    if isPartition c.id && decide (n = 1) then { c with due := c.due ++ [⟨.preempted, 0⟩] } else c

/-- The stores of a core that could not be performed at issue are tried again, in order (R136). -/
def State.retireOwn (s : State) (k : CoreId) : State := (s.core k).stq.foldl (fun s _ => s.perform (.storeRetiresIntoSideLog k)) s

/-- One issue cycle (R25): a landed push is taken, counts move, writes land, the matrix units advance. What the L slot finds is reported
before what the M slot finds (R74). -/
def State.cycle (s : State) : State :=
  let k := s.c.id
  let s := (s.retireOwn k).perform (.vtoqPushLands k)
  let s := { s with c := s.c.rqCount.countDown.charge }
  let s := s.perform (.shadowWriteLands k)
  let s := (s.perform (.arrayPoisonDetected k .array)).perform (.arrayPoisonDetected k .loader)
  let s := { s with c := s.c.unitCycle }
  let s := s.perform (.miterPhaseEnd k)
  (s.perform (.mUnitCompletes k .array)).perform (.mUnitCompletes k .loader)

/-- n issue cycles. -/
def State.cycles (s : State) : Nat → State
  | 0 => s
  | n + 1 => s.cycle.cycles n

/-! ### The end of a bundle -/

/-- The end check of one level at an address (R97): the level's count, and its loop-back if there is one. -/
def Core.endLevel (c : Core) (l : Fin 2) (a : Nat) : Core × Option Nat :=
  let n := (c.lcnt l).toNat
  if 0 < n ∧ (c.cr (loopReg crLend l)).toNat = a then
    if 1 < n then (c.setCr (loopReg crLcnt l) (BitVec.ofNat 64 (n - 1)), some (c.cr (loopReg crLbeg l)).toNat)
    else (c.setCr (loopReg crLcnt l) 0, none)
  else (c, none)

/-- The end check at an address, level 1 first; one level may be left out (R96, R97). -/
def Core.endCheck (c : Core) (skip : Option (Fin 2)) (a succ : Nat) : Core × Nat :=
  let r1 := if skip = some 1 then (c, none) else c.endLevel 1 a
  match r1.2 with
  | some x => (r1.1, x)
  | none =>
    let r0 := if skip = some 0 then (r1.1, none) else r1.1.endLevel 0 a
    (r0.1, r0.2.getD succ)

/-- A taken branch leaves every loop whose range does not hold its target (R97). -/
def Core.disarm (c : Core) (x : Nat) : Core :=
  [(0 : Fin 2), 1].foldl (fun c l =>
    if 0 < (c.lcnt l).toNat ∧ (x < (c.cr (loopReg crLbeg l)).toNat ∨ (c.cr (loopReg crLend l)).toNat < x) then
      c.setCr (loopReg crLcnt l) 0
    else c) c

/-- LBRK takes effect before the end check (R99). -/
def Core.leaveLoops (c : Core) (ls : List (Fin 2)) : Core := ls.foldl (fun c l => c.setCr (loopReg crLcnt l) 0) c

/-- The next bundle (R93, R96, R97, R102): the loop registers after the end check, its address, and whether it was branched to. -/
def Core.nextBundle (c : Core) (skip : Bool × Nat) : Core × Nat × Bool :=
  let f := c.flow
  if f.trapDone.isSome then (c, f.succ, false)
  else
    let c := c.leaveLoops f.lbrk
    match f.branch, f.skipTo with
    | some x, _ => (if f.isCall then c else c.disarm x, x, true)
    | none, some (l, e) => if skip.1 then ((c.endCheck (some l) e skip.2).1, (c.endCheck (some l) e skip.2).2, false) else (c, e, true)
    | none, none => ((c.endCheck none c.pc.toNat f.succ).1, (c.endCheck none c.pc.toNat f.succ).2, false)

/-- A loop level is armed at the end of its bundle (R96). -/
def Core.armed (c : Core) : Option (Fin 2 × Nat × Nat) → Core
  | none => c
  | some (l, n, e) =>
    ((c.setCr (loopReg crLbeg l) (BitVec.ofNat 64 c.flow.succ)).setCr (loopReg crLend l) (BitVec.ofNat 64 e)).setCr (loopReg crLcnt l) (BitVec.ofNat 64 n)

/-- What takes effect at the end of a bundle that issues: the program counter, loops, tags, a pending QPOP, a fence, a wait
(R93, R97, R100, R104 to R106, R109). TEND leaves the program counter at its bundle (R100). A loop begin with bits above the 49 of the
program counter is cut to it and faults nowhere, the model's choice (log 24). -/
def Core.bundleEnd (c : Core) (skip : Bool × Nat) : Core :=
  let f := c.flow
  let n := c.nextBundle skip
  let d := n.1.armed f.arm
  let d := d.setCr crTagbits (d.cr crTagbits &&& ~~~f.clear)
  let d := match f.fence with | some os => d.setFence os (c.age + 1) | none => d
  { d with
    pc := if f.tend then c.pc else BitVec.ofNat 49 n.2.1
    arrived := if n.2.2 then some c.pc else none
    tendDone := f.tend
    qpop := match f.qpop with | some r => some r | none => d.qpop
    ord := { d.ord with wait := if f.tend then some .tend else f.wait }
    age := c.age + 1
    redo := none
    flow := Flow.none }

/-- The arrival of a CBAR: at once where its release is performed, else once it is (R107); an X-slot word of its bundle waits beside
it (R199, R209). -/
def State.cbarEnd (s : State) (b : Fin 16) (n : Nat) : State :=
  let wait := match s.c.ord.wait with | some w => Wait.both (.arrive b n) w | none => .arrive b n
  let s' := { s with c := { s.c with ord := { s.c.ord with wait := some wait } } }
  if s.releaseReady s.c .clu then s'.arrive s.c.id b n else s'

/-- Something of a core besides its next bundle may wait for a fill of its scratchpad: a latch, a command, a remote access (R122). -/
def State.fillWaiters (s : State) (c : Core) : Bool :=
  c.gather.isSome || c.stream.isSome || !c.cmds.isEmpty ||
    s.others.any (fun e => e.2.ilk.any (fun o => match o.kind with | .access a none => a.isRemote && decide (caTarget e.1 a.addr = c.id) | _ => false))

/-- A failed fill that nothing waits for is forgotten as a bundle issues: the next touch fills again (R225). -/
def State.forgetFills (s : State) : State :=
  if s.c.badFills.isEmpty || s.fillWaiters s.c then s else { s with c := { s.c with badFills := [] } }

/-- A fence whose condition holds binds no longer (R105): with its acquire what the core has read is covered by its later releases, and with
its release its later stores carry what it covers (R243 to R245). -/
def State.clearFence (s : State) : State :=
  let done := s.c.ord.fence.filter (s.fenceReady s.c)
  let s := (done.filter (fun f => Order.isAcq f.1.ord)).foldl (fun s f => s.acquire s.c.id (f.2 - 1)) s
  let o := s.c.ord
  let carried := (done.filter (fun f => Order.isRel f.1.ord)).flatMap (fun f =>
    ((o.before f.2).covered.filter s.isPending).map (fun i => (f.1.scope, i)))
  { s with c := { s.c with ord := { o with fence := o.fence.filter (fun f => decide (f ∉ done)), rel := o.rel ++ carried } } }

/-- The next bundle of the core that steps traps as it is decoded or issues: that trap comes before everything else at its boundary
(R304). -/
def State.nextTraps (s : State) : Bool :=
  match s.clearFence.attempt with
  | .fetch => true
  | .trap _ _ => true
  | _ => false

/-- TYIELD at the boundary after its bundle (R101); a trap that falls due there is taken instead (R304). -/
def State.yieldEnd (s : State) : State :=
  match s.c.task with
  | some t =>
    if s.waitingWork (clusterOf s.c.id) t.cls && s.listRoom (clusterOf s.c.id) && !s.c.trapDue && !s.nextTraps then s.saveTask s.c.id t .ready
    else s
  | none => s

/-- A bundle whose slots have executed issues: its end, its issue cycles, and what follows them (R93, R101 to R103, R107). -/
def State.commit (s : State) (skip : Bool × Nat) : State :=
  let f := s.c.flow
  let s := (State.forgetFills { s with c := s.c.bundleEnd skip }).cycles f.cycles
  let s := if f.tret then { s with c := s.c.leaveHandler } else s
  let s := match f.cbar with | some (b, n) => s.cbarEnd b n | none => s
  let s := if f.tyield then s.yieldEnd else s
  match f.trapDone with
  | some code => s.trapNow ⟨.trapInsn, code⟩
  | none => s

/-! ### Boundaries -/

/-- The slot whose word found a trap after issue: the L slot where no other is noted (R74). -/
def Core.slotOfTrap (c : Core) (t : Trap) : Nat :=
  match c.pending.slots.find? (fun e => decide (e.1 = t)) with
  | some e => e.2
  | none => 3

/-- The trap due that is taken first: the earliest of the lowest slot; PREEMPTED is none of them (R74, R296). -/
def Core.firstDue (c : Core) : Option Trap :=
  (c.due.filter (fun t => decide (t.cause ≠ .preempted))).foldl
    (fun best t => match best with | some b => if c.slotOfTrap b ≤ c.slotOfTrap t then some b else some t | none => some t) none

/-- A trap is due no longer. -/
def Core.dropDue (c : Core) (t : Trap) : Core :=
  { c with due := c.due.erase t, pending := { c.pending with slots := c.pending.slots.eraseP (fun e => decide (e.1 = t)) } }

/-- After-issue faults, then engine faults, then PREEMPTED of a partition core (R296, R304). -/
def State.takeDue (s : State) : Option State :=
  match s.c.firstDue with
  | some t => some ({ s with c := s.c.dropDue t }.trapNow t)
  | none =>
    if s.c.engineFault.isSome then some (s.perform (.engineFaultDelivery s.c.id))
    else
      match s.c.id with
      | .partition cl =>
        if s.c.frozen.isNone && s.c.due.any (fun t => decide (t.cause = .preempted)) then some (s.perform (.preempted cl)) else none
      | _ => none

/-- Pre-emption at a boundary of a compute core: slice, then a waiting candidate of a higher class (R294, R295). -/
def State.preempt (s : State) : State :=
  let k := s.c.id
  let cl := clusterOf k
  if !isCompute k then s
  else
    let s := if s.c.cr crSlice = 0 then s.perform (.sliceExpiry k) else s
    if (s.taskQueues cl).isEmpty || s.c.task.isNone then s
    else if (s.victim cl).any (fun v => decide (v.1 = k)) then s.perform (.priorityPreemption cl)
    else s

/-- A word of the next bundle waits for the pending QPOP (R109). -/
def State.qpopWaits (s : State) : Bool :=
  s.c.qpop.isSome &&
    (match s.get s.c.pc.toNat >>= s.decodeBundle with
     | .ok b => b.words.any (fun w => s.c.qpopHolds (bits w.1 28 3) (srcs w.2 ++ (dsts s.c w.2).map (·.1)))
     | .error _ => false)

/-- decoupst counts n cycles (R109). -/
def Core.decouple (c : Core) (n : Nat) : Core := c.setCr crDecoupst (c.cr crDecoupst + BitVec.ofNat 64 n)

/-- A held bundle: an implicit empty issue cycle, or a wait that counts no issue cycle (R26, R32, R109, R167). -/
def State.hold (s before : State) (counts : Bool) : State :=
  if counts then
    let s' := if before.qpopWaits then { before with c := before.c.decouple 1 } else before
    { s'.cycle with verdict := .held true }
  else
    let s' := if before.qpopWaits then { s with c := s.c.decouple (Config.heldCycles s.freeCtr) } else s
    { s' with verdict := .held false }

/-- What follows an attempt at which nothing traps: the traps that are due, pre-emption, then the bundle (R304). -/
def State.boundary (s : State) : Host.Outcome State Fault Refusal :=
  match s.takeDue with
  | some s' => .next s'
  | none =>
    let s' := s.preempt
    if s'.c.saving.isSome || (isCompute s.c.id && s'.c.task.isNone) then .next s'
    else
      match s'.attempt with
      | .held h counts => .next (h.hold s' counts)
      | .ready r skip => .next ((r.commit skip).remember s.c.party.ctx s.c.pc.toNat)
      | .stop o => o
      | .trap t late => .next (s'.bundleTrap t late)
      | .fetch => .next s'

/-- A core's turn: a save under way goes on; else it waits in TEND, or its next bundle is tried; an issue fault of that bundle comes
before everything else that is due (R100, R304, R310). -/
def State.bundleTurn (s : State) : Host.Outcome State Fault Refusal :=
  if s.c.saving.isSome then .next (s.saveStep s.c.id)
  else if s.c.tendDone then
    let s := { s with c := { s.c with ord := { s.c.ord with wait := some .tend } } }
    match s.takeDue with
    | some s' => .next s'
    | none => .next (s.perform (.tendWaitEnds s.c.id))
  else
    let s := s.clearFence
    match s.attempt with
    | .fetch => .next (s.perform (.instructionFetchFault s.c.id))
    | .trap t late => .next (s.bundleTrap t late)
    | _ => s.boundary

/-- A core issues: it is powered, holds a task or its firmware, and is neither frozen nor halted (R26, R36, R316, R391). -/
def State.coreRuns (s : State) (c : Core) : Bool :=
  decide (c.power = .run ∧ c.freeze = 0) && !c.halted && !s.umpire.stopped &&
    (match c.id with
     | .compute cl _ => c.task.isSome && !(s.cluster cl).dark && !(s.cluster cl).halted
     | .partition cl => !(s.cluster cl).dark && !(s.cluster cl).halted
     | .umpire => true)

/-- The core that steps issues. -/
def State.runs (s : State) : Bool := s.coreRuns s.c

/-- The other cores that issue. -/
def State.rivals (s : State) : List CoreId := (s.others.filter (fun e => s.coreRuns e.2)).map (·.1)

/-- The core of this turn: the one that `turns` names; else one of the cores that issue, and no rule says which. -/
def State.chosen (s : State) : State :=
  match s.turns with
  | k :: rest => ({ s with turns := rest } : State).switch k
  | [] =>
    match s.rivals with
    | [] => s
    | ks =>
      match Config.pickCore s.freeCtr % (ks.length + 1) with
      | 0 => s
      | n + 1 => s.switch (ks.getD n s.c.id)

/-! ### Internal events -/

/-- A list of one event where a condition holds. -/
def eventIf (b : Bool) (i : Instr) : List Instr := if b then [i] else []

/-- The events of an outstanding command (R187, R192). -/
def cmdEvents (r : TaskRef) (m : Cmd) : List Instr :=
  let boxes := if m.hasBoxes then ((List.range m.boxes).filter (fun b => !m.bitmap.getLsbD b)).take 8 else []
  boxes.map (fun b => Instr.copyBoxComplete r m.tag b) ++ eventIf m.fault.isNone (.commandCompletes r m.tag)

/-- The event of an outstanding interlocked operation (R23, R28); a QDEQ without an item has none of its own. -/
def ilkEvents (k : CoreId) (o : Ilk × Nat) : List Instr :=
  match o.1.kind with
  | .access a none => if a.isRemote then [.remoteAccessArrives k o.2] else [.interlockedResultArrives k o.2]
  | .qdeq _ _ none => []
  | _ => [.interlockedResultArrives k o.2]

/-- The dirty pieces of a window. -/
def dirtyPieces (w : Window) : List Nat := (w.pieces.zipIdx.filter (fun p => decide (p.1 = .dirty))).map (·.2)

/-- Entries of a side log that may be replayed. -/
def replayEvents (r : TaskRef) (anyState : Bool) (log : List LogEntry) : List Instr :=
  (log.zipIdx.filter (fun e => replayable anyState log e.2 e.1)).map (fun e => Instr.sideLogReplay r e.2)

/-- The events of a core: none of its own but the end of a freeze while it is frozen (R36). -/
def State.coreEvents (s : State) (c : Core) : List Instr :=
  let k := c.id
  if c.freeze ≠ 0 then [.freezeEnd k]
  else
    let parts : List (List Instr) :=
      [c.ilk.zipIdx.flatMap (ilkEvents k),
        eventIf (c.held.isNone && c.saving.isNone && (s.faulting k c.ilk 0).isSome) (.heldAccessFault k),
        eventIf (c.gather.isSome && c.saving.isNone) (.gatherScatterElement k),
        eventIf (c.stream.isSome && c.saving.isNone) (.vsredVectorRead k),
        eventIf c.fillingPiece.isSome (.windowFillCompletes k),
        c.ord.marks.map (fun v => Instr.fenceMarkerAck k v),
        replayEvents (.core k) (!isCompute k) c.log,
        c.cmds.flatMap (cmdEvents (.core k)),
        eventIf (c.ord.wait.isSome && !c.tendDone) (.waitConditionHolds k),
        c.wins.zipIdx.flatMap (fun w => (dirtyPieces w.1).map (fun p => Instr.backgroundWriteback k w.2 p)),
        eventIf (match s.journalHead k with | some (_, m) => (match m.instr with | .wja _ _ => true | _ => false) | none => false) (.wjaApply k),
        eventIf (s.rollsForward k) (.rollForwardRetry k)]
    parts.flatten

/-- A task is parked (R219). -/
def Saved.isParked (v : Saved) : Bool := match v.state with | .parked _ => true | _ => false

/-- The events of a task that is not resident (R187, R219, R314, R317); the engines of a frozen core stand still (R36). -/
def State.savedEvents (s : State) (v : Saved) : List Instr :=
  let r := TaskRef.slot v.task.ctx v.task.slot
  let log := match s.slotRead v.task.ctx v.task.slot with | .ok b => logsOf b | .error _ => []
  let parts : List (List Instr) :=
    [(v.cmds.filter (fun m => decide ((s.core m.core).freeze = 0))).flatMap (cmdEvents r), eventIf v.isParked (.parkedConditionHolds v.cl v.task.slot), replayEvents r false log]
  parts.flatten

/-- The events of the schedulers of a cluster (R282, R313, R391, R396). -/
def State.clusterEvents (s : State) (cl : Nat) : List Instr :=
  let parts : List (List Instr) :=
    [eventIf (!(s.cluster cl).items.isEmpty) (.supqItemAppend cl),
      eventIf (!((s.taskQueues cl).isEmpty && (s.resumeList cl).isEmpty)) (.schedulerBind cl),
      eventIf (s.cluster cl).dark (.clusterWake cl),
      eventIf (decide (s.partOf cl < 32) && !s.umpire.pimage.isEmpty && decide ((s.core (.partition cl)).power = .dark)) (.partitionCoreResume cl)]
  parts.flatten

/-- The events of a launch (R289, R290). -/
def launchEvents (l : Launch) : List Instr :=
  eventIf (!l.ready || l.chunks.any (fun c => decide (c.next < l.stop c.num))) (.distributorPushChunk l.id) ++
    (l.chunks.filter (fun c => decide (c.left = 0 ∧ c.next = l.stop c.num))).map (fun c => Instr.chunkComplete l.id c.num)

/-- The command that a VF's rings show (R285, R286). -/
def State.vfEvents (s : State) (vf : Nat) : List Instr :=
  match s.hostCommand vf with
  | some c => if field c 0 1 = 2 then [.pushItem vf] else [.pushRecord vf]
  | none => []

/-- The events of a partition: an invalidation, a receipt (R322, R425). -/
def State.partEvents (s : State) (e : Nat × Part) : List Instr :=
  let q := s.queue e.1 e.2.receipts
  let asked := s.receipts.any (fun r => decide (r.part = e.1)) || (e.2.exists' && !q.isTask && !q.stopped && decide (q.used ≠ 0))
  eventIf (!e.2.inval.isEmpty) (.invalidationCompletes e.1) ++ eventIf asked (.receiptRequest e.1)

/-- The event of the mailbox's request in hand (R292). -/
def State.mailboxEvents (s : State) : List Instr :=
  if !s.mbBusy then []
  else
    match s.mb 0 1 with
    | 1 => [.partCreate] | 2 => [.partDestroy] | 3 => [.vfAssign] | 4 => [.ctxAssign] | 5 => [.vatFence] | 6 => [.vatReadmit]
    | _ => [.deepOffEnter, .deepOffLeave]

/-- Stores that are still to be ordered at their homes, and copies that are still to be invalidated (R249). -/
def State.storeEvents (s : State) : List Instr :=
  s.stores.map (fun x => Instr.storeAcknowledged (clusterOf x.src) x.id) ++ s.stale.map (fun y => Instr.storeAcknowledged (clusterOf y.src) y.id)

/-- Every internal event that may happen now; in deep off only the Umpire acts, and what was written before goes home (R392). Events that
only time or the outside world brings stand in `agenda`. -/
def State.events (s : State) : List Instr :=
  if s.umpire.deepOff then s.coreEvents (s.core .umpire) ++ s.storeEvents ++ s.mailboxEvents
  else
  let parts : List (List Instr) :=
    [s.cores.flatMap (fun k => s.coreEvents (s.core k)),
      s.tasks.flatMap s.savedEvents,
      s.clusters.flatMap (fun e => s.clusterEvents e.1),
      s.storeEvents,
      s.signals.zipIdx.map (fun x => Instr.completionSignals x.2),
      (s.queues.filter (fun e => !e.2.waiters.isEmpty && decide (e.2.used ≠ 0))).map (fun e => Instr.qdeqItemDelivered e.1.1 e.1.2),
      s.launches.flatMap launchEvents,
      s.vfs.flatMap (fun e => s.vfEvents e.1),
      s.parts.flatMap s.partEvents,
      (s.keys.filter (fun e => decide (e.2.st = 2))).map (fun e => Instr.keySlotDrained e.1),
      s.images.zipIdx.map (fun x => Instr.imageDelivery x.2),
      s.mailboxEvents]
  parts.flatten

/-- Stores that could not be performed at issue retire, in order, before anything else happens (R136). -/
def State.retireStores (s : State) : State := s.cores.foldl State.retireOwn s

/-- What an outcome leaves once its stores have retired. -/
def settled : Host.Outcome State Fault Refusal → Host.Outcome State Fault Refusal
  | .next s => .next s.retireStores
  | o => o

/-! ### One step -/

/-- The turn of the core that steps: its bundle, or nothing. A module that has stopped serving is a fault once nothing is left to
happen in it: only a cold boot restarts it (R427). -/
def State.coreTurn (s : State) : Host.Outcome State Fault Refusal :=
  if s.runs then s.bundleTurn
  else if s.umpire.stopped && s.events.isEmpty then .fault .halted
  else .next s

/-- What happens next inside the module: the bundle of the core that steps, or one of the events that may happen. -/
def State.innerTurn (s : State) : Host.Outcome State Fault Refusal :=
  match s.events with
  | [] => s.coreTurn
  | evs =>
    match Config.pickEvent s.freeCtr % (evs.length + 1) with
    | 0 => s.coreTurn
    | n + 1 => exec (evs.getD n .nop) s

/-- One step of the module: the core of this turn becomes the one that steps; an event from outside comes first; before the
boot there is nothing but the boot (R397). A slot word in `agenda` is no event, and is dropped. -/
def State.turn (s : State) : Host.Outcome State Fault Refusal :=
  let s := s.tickFree.chosen
  match s.agenda with
  | i :: rest => if i.slot.isNone then settled (exec i { s with agenda := rest }) else .next { s with agenda := rest }
  | [] => if s.booted then settled s.innerTurn else exec .coldBoot s

/-! ### Placing one instruction (assumption log 7) -/

/-- The core that has a form: a partition core for LAUNCH, TRET and the stream forms, the Umpire for XSIGN, else a compute core
(R14, R103, R189). -/
def placeOf (w : Nat) : CoreId :=
  match decodeWord w with
  | .ok i =>
    match i with
    | .launch _ _ => .partition 0 | .gsmpl _ _ _ => .partition 0 | .gfork _ _ _ => .partition 0 | .gtrunc _ _ _ => .partition 0
    | .gcur _ _ => .partition 0 | .gins _ _ _ => .partition 0 | .gsnap _ _ => .partition 0 | .tret => .partition 0
    | .xsign _ _ => .umpire
    | _ => .compute 0 0
  | .error _ => .compute 0 0

/-- A record that asks for four tiles and the full vector class (R216). -/
def placedRecord : BitVec 512 := BitVec.ofNat 512 (4 * 2 ^ 296 + 3 * 2 ^ 300)

/-- The task that stands on a compute core. -/
def placedTask : Task := ⟨placedRecord, 0, 0, 1, 0x200000, 0, none, 0, []⟩

/-- The core with the program counter at the placed word, free of every wait. -/
def Core.placed (c : Core) : Core :=
  { ((c.setCr crCtxid 1).setCr crSlice 65536) with
    power := .run, freeze := 0, halted := false, pc := 0x1FFC0, due := [], badFills := [], redo := none, saving := none, ord := Ordering.none
    tendDone := false, arrived := none, task := if isCompute c.id then some placedTask else none }

/-- Three levels of tables at 0x100000 that map the page at 0x10000 to 0x200000 under key slot 1, to read and execute (R320, R321),
and the word in the last packet of that page, from which a compute core fetches it. -/
def placedMem (m : Mem) (w : Nat) : Mem :=
  memPut (memPut (memPut (memPut m 0x100000 8 0x104001) 0x104000 8 0x108001) 0x108008 8 (0x200017 + 2 ^ 56)) 0x20FFC0 4 w

/-- The machine booted, with the word w, its start bit set, as the next bundle of a core that has the form: a partition core and the Umpire
fetch it from their firmware (R396). -/
def State.withWord (s : State) (w : Nat) : State :=
  let w := withStart w
  let s := ({ s with booted := true, agenda := [], turns := [] } : State).switch (placeOf w)
  let s := s.setCtx 1 { Ctx.fresh with root := 0x100000, v := true, kslot := 1 }
  let s := s.setKey 1 ⟨0, 0, 0, false, 2, 1, 0, 0⟩
  let s := s.setCluster 0 { s.cluster 0 with dark := false }
  let u := s.umpire
  let s : State := match placeOf w with
    | .partition _ => { s with umpire := { u with pimage := memPut u.pimage 0x1FFC0 4 w } }
    | .umpire => { s with umpire := { u with image := memPut u.image 0x1FFC0 4 w } }
    | _ => s
  { s with
    c := s.c.placed
    turns := [placeOf w]
    mem := placedMem s.mem w
    labels := labelSet s.labels (0x20FFC0 / 64) 1 (1, 0)
    cached := s.cached.filter (fun e => decide (e.ctx ≠ 1)) }

end Sys2Proof.Machine
end

