-- ==== Sys2Proof/Machine/Step.lean ====
section
/-! DEFINITION. The step of the module, and the placing of one instruction where the next step fetches it. -/

namespace Sys2Proof.Machine

/-- One step of the module. -/
def step (s : State) : Host.Outcome State Fault Refusal := s.turn

/-- The state with one instruction stored as the next bundle of a core that runs (assumption log 7); its word has its start bit set,
since no bundle begins with another (R67, R68). -/
def State.withFetchWord (s : State) (nbits w : Nat) : State := s.withWord (w % 2 ^ nbits)

end Sys2Proof.Machine
end

