-- ==== Sys2Proof/Safety.lean ====
section
/-! DEFINITION. The terms in which statements are made: when a word issues, the state after it, the results the manual's
tables give, written from the tables alone, and the invariants of the module. -/

namespace Sys2Proof.Machine

/-- Nothing holds a word and no check that every word passes stops it (R28 to R35, R74, R104, R105, R167, R222). -/
abbrev State.Issues (s : State) (i : Instr) : Prop :=
  s.preIssue (i.slot.getD 0) i = .go ∧ s.commonTrap (i.slot.getD 0) i = none

/-- The state after a word whose only effect is on its core. -/
def State.after (s : State) (c : Core) : State := { s with c := c, verdict := .issued }

/-- The state after a word that enters one pending write (R27, R29, R32). -/
def State.entered (s : State) (slot lat : Nat) (d : Dest) (value : Nat) (f : Flags) : State :=
  s.after (s.c.enter slot lat d value f)

/-- A scalar as read, as a 64-bit pattern (R111). -/
def Core.xn (c : Core) (r : Reg) : Nat := (c.rs r).toNat

/-- A scalar as read, as a signed number (R46, R111). -/
def Core.xi (c : Core) (r : Reg) : Int := (c.rs r).toInt

/-- The table of R111 with the latencies of R27: slot, destination, latency, and the result before it is taken modulo 2^64. -/
def intResult (c : Core) : Instr → Option (AB × Reg × Nat × Int)
  | .add y d a b => some (y, d, 1, c.xn a + c.xn b)
  | .sub y d a b => some (y, d, 1, c.xn a - c.xn b)
  | .addi y d a i => some (y, d, 1, c.xn a + i.toInt)
  | .movi y d i => some (y, d, 1, i.toInt)
  | .movhi y d i => some (y, d, 1, c.xn d * 2 ^ 16 + i.toNat)
  | .mul y d a b => some (y, d, 3, c.xn a * c.xn b)
  | .mulhi y d a b => some (y, d, 3, c.xi a * c.xi b / 2 ^ 64)
  | .mulhn y d a b => some (y, d, 3, c.xn a * c.xn b / 2 ^ 64)
  | .and y d a b => some (y, d, 1, (c.xn a &&& c.xn b : Nat))
  | .or y d a b => some (y, d, 1, (c.xn a ||| c.xn b : Nat))
  | .xor y d a b => some (y, d, 1, (c.xn a ^^^ c.xn b : Nat))
  | .andn y d a b => some (y, d, 1, (c.xn a &&& (2 ^ 64 - 1 - c.xn b) : Nat))
  | .andi y d a i => some (y, d, 1, (c.xn a &&& i.toNat : Nat))
  | .ori y d a i => some (y, d, 1, (c.xn a ||| i.toNat : Nat))
  | .xori y d a i => some (y, d, 1, (c.xn a ^^^ i.toNat : Nat))
  | .shl y d a b => some (y, d, 1, c.xn a * 2 ^ (c.xn b % 64))
  | .shrl y d a b => some (y, d, 1, c.xn a / 2 ^ (c.xn b % 64))
  | .shra y d a b => some (y, d, 1, c.xi a / 2 ^ (c.xn b % 64))
  | .shli y d a h => some (y, d, 1, c.xn a * 2 ^ h.val)
  | .shrli y d a h => some (y, d, 1, c.xn a / 2 ^ h.val)
  | .shrai y d a h => some (y, d, 1, c.xi a / 2 ^ h.val)
  | .clz y d a => some (y, d, 1, ((List.range 64).reverse.takeWhile (fun i => !(c.xn a).testBit i)).length)
  | .ctz y d a => some (y, d, 1, ((List.range 64).takeWhile (fun i => !(c.xn a).testBit i)).length)
  | .popc y d a => some (y, d, 1, ((List.range 64).filter (fun i => (c.xn a).testBit i)).length)
  | .min y d a b => some (y, d, 1, Min.min (c.xi a) (c.xi b))
  | .max y d a b => some (y, d, 1, Max.max (c.xi a) (c.xi b))
  | .minn y d a b => some (y, d, 1, (Nat.min (c.xn a) (c.xn b) : Nat))
  | .maxn y d a b => some (y, d, 1, (Nat.max (c.xn a) (c.xn b) : Nat))
  | .addsc y d a b h => some (y, d, 1, c.xn a + c.xn b * 2 ^ h.val)
  | .ext y d a p l => some (y, d, 1, c.xn a / 2 ^ p.val % 2 ^ (l.val + 1))
  | _ => none

/-- The quotient of R112: truncating; -1, whose pattern is 2^64 - 1, for a divisor of 0. -/
def quotient (x y : Int) : Int := if y = 0 then -1 else x.tdiv y

/-- The remainder of R112: x - q * y, and x for a divisor of 0. -/
def remainder (x y : Int) : Int := if y = 0 then x else x - quotient x y * y

/-- The results of R112, before they are taken modulo 2^64. -/
def divResult (c : Core) : Instr → Option (Reg × Int)
  | .div _ d a b => some (d, quotient (c.xi a) (c.xi b))
  | .divn _ d a b => some (d, quotient (c.xn a) (c.xn b))
  | .rem _ d a b => some (d, remainder (c.xi a) (c.xi b))
  | .remn _ d a b => some (d, remainder (c.xn a) (c.xn b))
  | _ => none

/-- The integer conditions of R79 on two 64-bit patterns. -/
def condHolds (cc : Cc) (x y : Word) : Prop :=
  match cc with
  | .eq => x = y
  | .ne => x ≠ y
  | .lt => x.toInt < y.toInt
  | .le => x.toInt ≤ y.toInt
  | .ltn => x.toNat < y.toNat
  | .len => x.toNat ≤ y.toNat

/-- The bits of x and y and the table of R81 give bit j of a predicate. -/
def tableBit (f : BitVec 4) (x y : Pred) (j : Nat) : Bool := f.getLsbD (2 * (x.getLsbD j).toNat + (y.getLsbD j).toNat)

/-- The address of a word offset from the bundle at a (R80, R95), in the 49 bits of an address (R15). -/
def wordTarget (a : BitVec 49) (off : Int) : Nat := ((a.toNat + 4 * off) % 2 ^ 49).toNat

/-- The core asks for a taken branch at the end of its bundle (R93, R95). -/
def Core.branched (c : Core) (call : Bool) (x : Nat) : Core :=
  { c with flow := { c.flow with branch := some x, isCall := call } }

/-- The end check of R97 at a bundle of address a without a taken branch: the next bundle, and the counts of levels 1 and 0 after it, from the
count, end and begin of each level. -/
def loopEnd (n1 e1 b1 n0 e0 b0 a succ : Nat) : Nat × Nat × Nat :=
  if 0 < n1 ∧ a = e1 ∧ 1 < n1 then (b1, n1 - 1, n0)
  else
    let n1 := if 0 < n1 ∧ a = e1 then 0 else n1
    if 0 < n0 ∧ a = e0 then (if 1 < n0 then (b0, n1, n0 - 1) else (succ, n1, 0)) else (succ, n1, n0)

/-- The table of R189: the forms that a kind of core does not have, and what each raises at issue. -/
def lacksForm (k : CoreId) : Instr → Option Cause
  | .xwin _ _ _ => if isCompute k then none else some .illegal
  | .xwb _ _ => if isCompute k then none else some .illegal
  | .xinv _ _ => if isCompute k then none else some .illegal
  | .wjw _ _ => if isCompute k then none else some .illegal
  | .wjc _ _ => if isCompute k then none else some .illegal
  | .wja _ _ => if isCompute k then none else some .illegal
  | .wjd _ _ => if isCompute k then none else some .illegal
  | .wwear _ _ => if isCompute k then none else some .illegal
  | .xhint _ _ => if k = .umpire then some .illegal else none
  | .launch _ _ => if isCompute k then some .privilege else none
  | .gsmpl _ _ _ => if isCompute k then some .privilege else if k = .umpire then some .illegal else none
  | .gfork _ _ _ => if isCompute k then some .privilege else if k = .umpire then some .illegal else none
  | .gtrunc _ _ _ => if isCompute k then some .privilege else if k = .umpire then some .illegal else none
  | .gcur _ _ => if isCompute k then some .privilege else if k = .umpire then some .illegal else none
  | .gins _ _ _ => if isCompute k then some .privilege else if k = .umpire then some .illegal else none
  | .gsnap _ _ => if isCompute k then some .privilege else if k = .umpire then some .illegal else none
  | .xsign _ _ => if k = .umpire then none else some .privilege
  | _ => none

/-- A register target that R95 accepts: a multiple of 4 below 2^49. -/
abbrev goodTarget (x : Word) : Prop := x.toNat % 4 = 0 ∧ x.toNat < 2 ^ 49

/-- What a C-slot form asks of the end of its bundle (R94, R99 to R102, R104, R106, R109). -/
def flowRequest (c : Core) : Instr → Option Flow
  | .nop => some c.flow
  | .stall n => some { c.flow with cycles := n.toNat + 1 }
  | .lbrk l => some { c.flow with lbrk := l :: c.flow.lbrk }
  | .tend => some { c.flow with tend := true }
  | .tyield => some { c.flow with tyield := true }
  | .trap code => some { c.flow with trapDone := some (code.zeroExtend 64) }
  | .wtall _ => some c.flow
  | .wtany _ => some c.flow
  | .tclr a => some { c.flow with clear := c.flow.clear ||| c.rs a }
  | .qpop d => some { c.flow with qpop := some d }
  | .sync => some { c.flow with wait := some .sync }
  | .gcur a b => some { c.flow with wait := some (.gcur (c.rs a) (c.rs b)) }
  | _ => none

/-- coreno by the fields of R19. -/
def corenoFields (standby : Bool) : CoreId → Nat
  | .compute cl n => cl * 2 ^ 10 + cl / 2 * 2 ^ 6 + n
  | .partition cl => 2 ^ 15 + cl * 2 ^ 10 + cl / 2 * 2 ^ 6 + 63
  | .umpire => 2 ^ 15 + (if standby then 30 * 2 ^ 10 + 15 * 2 ^ 6 else 0) + 63

/-- Bits of the field of a writable control register, from bit 0 on (R16, R17). -/
def crBits (k : Nat) : Nat :=
  if 0x20 ≤ k ∧ k ≤ 0x27 then 32
  else if k = 0x28 then 16
  else if k = 0x29 ∨ k = 0x2A then 32
  else if k = 0x30 then 20
  else if k = 0x31 then 17
  else if k = 0x40 then 8
  else 64

/-- The effective address of R121. -/
def Core.effective (c : Core) (a : Reg) (off : BitVec 8) (unit : Nat) : Nat := ((c.xn a + off.toInt * unit) % 2 ^ 64).toNat

/-- A local-offset access that passes the checks of R121 and waits for no window fill (R122). -/
abbrev Core.reaches (c : Core) (ea n : Nat) : Prop :=
  ea % n = 0 ∧ ea + n ≤ c.scratchSize ∧ c.bankConflict ea n = false ∧ c.needsFill ea n = false

/-- One byte of the scratchpad, as read (R5). -/
def Core.byte (c : Core) (x : Nat) : BitVec 8 := memGet c.scratch x

/-- Byte j of a vector (R142). -/
def vbyte (v : Vec) (j : Nat) : BitVec 8 := BitVec.ofNat 8 (lane 8 v j)

/-- An element as a signed number (R46). -/
def signedLane (w x : Nat) : Int := if 2 ^ (w - 1) ≤ x then (x : Int) - 2 ^ w else x

/-- An element as the type takes it: signed for .i, unsigned for .n (R145). -/
def typedLane (t : IntTy) (x : Nat) : Int := if intTySigned t then signedLane (intTyBits t) x else x

/-- The table of R145: destination, sources, predicate, type, and the element result from the old, first and second elements, before
it is taken modulo 2^w. -/
def vecIntResult : Instr → Option (Reg × Reg × Reg × PReg × IntTy × (Nat → Nat → Nat → Int))
  | .vadd d a b p t => some (d, a, b, p, t, fun _ x y => x + y)
  | .vsub d a b p t => some (d, a, b, p, t, fun _ x y => x - y)
  | .vmul d a b p t => some (d, a, b, p, t, fun _ x y => x * y)
  | .vmulhi d a b p t => some (d, a, b, p, t, fun _ x y => typedLane t x * typedLane t y / 2 ^ intTyBits t)
  | .vmad d a b p t => some (d, a, b, p, t, fun z x y => z + x * y)
  | .vand d a b p t => some (d, a, b, p, t, fun _ x y => (x &&& y : Nat))
  | .vor d a b p t => some (d, a, b, p, t, fun _ x y => (x ||| y : Nat))
  | .vxor d a b p t => some (d, a, b, p, t, fun _ x y => (x ^^^ y : Nat))
  | .vshl d a b p t => some (d, a, b, p, t, fun _ x y => x * 2 ^ (y % intTyBits t))
  | .vshrl d a b p t => some (d, a, b, p, t, fun _ x y => x / 2 ^ (y % intTyBits t))
  | .vshra d a b p t => some (d, a, b, p, t, fun _ x y => signedLane (intTyBits t) x / 2 ^ (y % intTyBits t))
  | .vmin d a b p t => some (d, a, b, p, t, fun _ x y => Min.min (typedLane t x) (typedLane t y))
  | .vmax d a b p t => some (d, a, b, p, t, fun _ x y => Max.max (typedLane t x) (typedLane t y))
  | .vabs d a p t => some (d, a, a, p, t, fun _ x _ => (signedLane (intTyBits t) x).natAbs)
  | .vneg d a p t => some (d, a, a, p, t, fun _ x _ => 0 - x)
  | _ => none

/-- The floating-point forms by elements (R148, R149): destination, sources, predicate, type, latency (R27), and the model's operation on the old,
first and second elements. -/
def vecFloatResult : Instr → Option (Reg × Reg × Reg × PReg × FpTy × Nat × (Fmt → RndCtl → Nat → Nat → Nat → Nat × Flags))
  | .vfadd d a b p t => some (d, a, b, p, t, 4, fun f r _ x y => fpAdd f r x y)
  | .vfsub d a b p t => some (d, a, b, p, t, 4, fun f r _ x y => fpSub f r x y)
  | .vfmul d a b p t => some (d, a, b, p, t, 4, fun f r _ x y => fpMul f r x y)
  | .vffma d a b p t => some (d, a, b, p, t, 4, fun f r z x y => fpFma f r x y z)
  | .vfdiv d a b p t => some (d, a, b, p, t, 12, fun f r _ x y => fpDiv f r x y)
  | .vfsqrt d a p t => some (d, a, a, p, t, 12, fun f r _ x _ => fpSqrt f r x)
  | .vfrcp d a p t => some (d, a, a, p, t, 8, fun f r _ x _ => fpRcp f r x)
  | .vfrsq d a p t => some (d, a, a, p, t, 8, fun f r _ x _ => fpRsq f r x)
  | .vfexp2 d a p t => some (d, a, a, p, t, 8, fun f r _ x _ => fpExp2 f r x)
  | .vflog2 d a p t => some (d, a, a, p, t, 8, fun f r _ x _ => fpLog2 f r x)
  | .vfmin d a b p t => some (d, a, b, p, t, 4, fun f r _ x y => fpMinMax f r false x y)
  | .vfmax d a b p t => some (d, a, b, p, t, 4, fun f r _ x y => fpMinMax f r true x y)
  | _ => none

/-- The flags of an operation by elements: one is set exactly if some governed element of the n sets it (R143). -/
def flagsJoin (g : Flags) (n : Nat) (on : Nat → Bool) (f : Nat → Flags) : Prop :=
  ∀ j < 5, g.getLsbD j = true ↔ ∃ k < n, on k = true ∧ (f k).getLsbD j = true

/-- The integer reductions of R155 over the elements that take part, from left to right, with the identities of R59 and R155. -/
def intReduction (t : IntTy) (r : Rop) (xs : List Nat) : Nat :=
  let w := intTyBits t
  match r with
  | .sum => xs.sum % 2 ^ w
  | .min => xs.foldl (fun x y => if typedLane t y < typedLane t x then y else x) (if intTySigned t then 2 ^ (w - 1) - 1 else 2 ^ w - 1)
  | .max => xs.foldl (fun x y => if typedLane t x < typedLane t y then y else x) (if intTySigned t then 2 ^ (w - 1) else 0)
  | .and => xs.foldl (fun x y => x &&& y) (2 ^ w - 1)
  | .or => xs.foldl (fun x y => x ||| y) 0
  | .xor => xs.foldl (fun x y => x ^^^ y) 0

/-- The table of R138: what an operation stores at w bits, from the old value and the operand; the signed comparisons are those of two's
complement (R46). -/
def atomicTable (op : Aop) (w old v : Nat) : Nat :=
  match op with
  | .add => (old + v) % 2 ^ w
  | .and => old &&& v
  | .or => old ||| v
  | .xor => old ^^^ v
  | .min => if signedLane w v < signedLane w old then v else old
  | .max => if signedLane w old < signedLane w v then v else old
  | .minn => if v < old then v else old
  | .maxn => if old < v then v else old
  | .xchg => v

/-- A region that the M and F slots accept: a multiple of 512, within the megabyte, in one bank group (R173 to R175, R177, R178), with no
window to fill (R122). -/
abbrev Core.regionOk (c : Core) (off n : Nat) : Prop :=
  off % 512 = 0 ∧ off + n ≤ 0x100000 ∧ off / 2 ^ 18 = (off + n - 1) / 2 ^ 18 ∧ c.needsFill off n = false

/-- The instruction in the array after a word, with its issue cycles, its scalar operands, and what it captures: the formats and latches, and
the tiles as they stand (R166, R168). -/
def Core.arrayHolds (c : Core) (i : Instr) (total off b : Nat) : Prop :=
  ∃ o : ArrayOp, c.array = some o ∧ o.instr = i ∧ o.total = total ∧ o.a = off ∧ o.b = b ∧ o.cyc = 0 ∧ o.iter = 0 ∧ o.phase = 0 ∧
    o.cap = c.capture ∧ o.tiles = c.tiles

/-- The element of row i and column j of a tile (R169). -/
def tileElem (v : TileBits) (i j : Nat) : Nat := v.toNat / 2 ^ (32 * (128 * i + j)) % 2 ^ 32

/-- As the array completes it leaves these elements in tile t, each with the flags of its roundings, which join the flags given in the tile's
flag set; every other tile, its flag set and the scratchpad stay (R168, R176 to R181). -/
def State.leavesTile (s : State) (k : CoreId) (t : TileNo) (old : Flags) (status : Bool) (f : Nat → Nat → Nat × Flags) : Prop :=
  ∃ c : Core, exec (.mUnitCompletes k .array) s = .next (s.setCore c) ∧ c.array = none ∧ c.scratch = (s.core k).scratch ∧
    (status = true → c.cr (Fin.ofNat 96 (0x14 + t.val)) = 0) ∧
    (∀ i < 128, ∀ j < 128, tileElem c.tiles[t] i j = (f i j).1 % 2 ^ 32) ∧
    (∀ b < 5, c.tflags[t].getLsbD b = true ↔ old.getLsbD b = true ∨ ∃ i < 128, ∃ j < 128, (f i j).2.getLsbD b = true) ∧
    ∀ u : TileNo, u ≠ t → c.tiles[u] = (s.core k).tiles[u] ∧ c.tflags[u] = (s.core k).tflags[u]

/-- Row i of a tile, and column j, as a feedback operand (R57, R58). -/
def partsRow (fb : Bool) (v : TileBits) (i : Nat) : List Parts := (List.range 128).map (fun j => feedParts fb (tileElem v i j))
/-- Column j of a tile as a feedback operand (R57, R58). -/
def partsCol (fb : Bool) (v : TileBits) (j : Nat) : List Parts := (List.range 128).map (fun i => feedParts fb (tileElem v i j))

/-- An element of an MMUL's result, from the accumulator, the bytes of row i of A and column j of B, and the half of the scale latches (R53 to R55,
R176): the INT8 sum from the rule alone, the others by the model's sums over the pass. -/
def passElem (cap : MCapture) (h acc a b i j : Nat) : Nat × Flags :=
  if cap.afmt = 4 then
    ((BitVec.ofInt 32 (acc + ((List.range 256).map (fun k => signedLane 8 (bits a (8 * k) 8) * signedLane 8 (bits b (8 * k) 8))).sum)).toNat, 0)
  else if cap.afmt = 5 then
    mxDot acc a b (fun x => bits cap.sla.toNat (8 * (2048 * h + 16 * i + x)) 8) (fun x => bits cap.slb.toNat (8 * (2048 * h + 16 * j + x)) 8)
  else if cap.bfmt = 6 then sqDot acc a b (bits cap.slq.toNat (8 * 256) 32) (fun x => bits cap.slq.toNat (8 * (2 * j + x)) 8)
  else sum16 (acc, 0) (rowExts (operandFmt cap.afmt) a) (rowExts (operandFmt cap.bfmt) b)

/-- An element of a drain (R178): copied bit for bit, or converted with RNE and the captured sat (R50, R51). -/
def drained (cap : MCapture) (ty : Ty) (x : Nat) : Nat × Flags :=
  let src : Ty := if cap.afmt = 4 ∧ cap.bfmt = 4 then .i32 else .f32
  if ty = src then (x, 0) else convert ⟨.rne, cap.fmt.getLsbD 8⟩ ty src x

/-- The first two checks of a command pass (R187): its order fields, and a tag that no command of the core holds and no held tag of the
register space names. -/
abbrev State.takesTag (s : State) (x : Xc) : Prop :=
  (x.sc = 0 ∨ x.acq = true ∨ x.rel = true) ∧ x.sc.val ≤ 4 ∧ (∀ m ∈ s.c.cmds, m.tag ≠ x.tag) ∧ s.c.heldTags.getLsbD x.tag.val = false

/-- n bytes at a local offset that a word may read at issue (R188). -/
abbrev Core.operandOk (c : Core) (off n align : Nat) : Prop :=
  off % align = 0 ∧ off + n ≤ c.scratchSize ∧ c.bankConflict off n = false ∧ c.needsFill off n = false ∧ c.scratchPoisoned off n = false

/-- A handle that R203 accepts: the number of a running queue of the core's own partition, of the kind that the form takes, and on a
compute core of the task's context. -/
abbrev State.handleOk (s : State) (h : Word) (task : Bool) : Prop :=
  let q := s.queue (s.partOf (clusterOf s.c.id)) h.toNat
  h.toNat < 4096 ∧ s.partOf (clusterOf s.c.id) < 32 ∧ q.stopped = false ∧ q.rkind.getLsbD 0 = task ∧ bits q.rkind.toNat 1 2 ≠ 3 ∧
    bits q.rkind.toNat 4 4 = 0 ∧ (isCompute s.c.id = true → q.rctx = s.c.party.ctx)

/-- The release at .mod of the core that steps is performed, but for its outstanding operations (R105, R249, R250). -/
abbrev State.released (s : State) : Prop :=
  s.c.held = none ∧ s.c.stq = [] ∧ s.c.log = [] ∧ s.c.gather = none ∧ s.c.ord.lost = none ∧ s.c.ord.marks = [] ∧
    ∀ i ∈ s.c.ord.covered, s.isPending i = false

/-- The word makes one command outstanding (R187): the tag's bit is cleared for the next bundle, and nothing else changes. The
command takes the next of the model's own serial numbers. -/
def State.makes (s : State) (i : Instr) (m : Cmd) : Prop :=
  exec i s = .next { s.after (({ s.c with cmds := s.c.cmds ++ [s.outstanding m] } : Core).clearTags (1 <<< m.tag.val)) with
    ids := s.ids + 1 }

/-- The addresses of a copy pass the last checks at issue (R188, R194): global ones are below 2^49, and rows by local offset lie
in the scratchpad and need no fill. -/
abbrev State.copyReaches (s : State) (m : Cmd) : Prop :=
  (m.copy.sspc = 2 → m.copy.src < 2 ^ 49) ∧ (m.copy.dspc = 2 → ∀ a ∈ m.dests, a < 2 ^ 49) ∧
  (m.copy.sspc = 0 → ∀ j < m.copy.rows, m.srcRow j + m.copy.len ≤ s.c.scratchSize ∧ s.c.needsFill (m.srcRow j) m.copy.len = false) ∧
  (m.copy.dspc = 0 → ∀ j < m.copy.rows,
    m.dstRow m.copy.dst j + m.copy.len ≤ s.c.scratchSize ∧ s.c.needsFill (m.dstRow m.copy.dst j) m.copy.len = false)

/-- The only box that a command of a resident task has still to start is b, and it may start (R190, R192, R250). -/
abbrev State.startsBox (s : State) (k : CoreId) (m : Cmd) (b : Nat) : Prop :=
  s.cmdAt (.core k) m.tag = some m ∧ m.hasBoxes = true ∧ (∀ a x, m.instr ≠ .xwb a x) ∧ m.fault = none ∧ m.inFlight < 8 ∧
    (s.core k).saving = none ∧ (s.core k).earlierSeen m = true ∧ s.engineFull m = false ∧ s.boxGuard k m b = none ∧ b < m.boxes ∧
    m.boxes ≤ 256 ∧ m.started.getLsbD b = false ∧ m.bitmap.getLsbD b = false ∧
    ∀ i < m.boxes, i ≠ b → m.started.getLsbD i = true

/-- Box b of a command with one destination is n whole lines of one row at either end, and each line has its place: a scratchpad of a core
that is not frozen, with no piece to fill there, global memory, or the host (R192, R194). -/
abbrev State.boxLines (s : State) (k : CoreId) (m : Cmd) (b n : Nat) (src dst : Nat → Loc) : Prop :=
  ∃ base, m.dests = [base] ∧ m.copy.rows = 1 ∧ 4096 * b < m.copy.len ∧ 64 * n = Nat.min 4096 (m.copy.len - 4096 * b) ∧
    m.srcRow 0 % 64 = 0 ∧ m.dstRow base 0 % 64 = 0 ∧ m.srcRow 0 + m.copy.len ≤ 2 ^ 64 ∧ m.dstRow base 0 + m.copy.len ≤ 2 ^ 64 ∧
    ∀ j < n, s.place k m m.copy.sspc (m.srcRow 0 + 4096 * b + 64 * j) false = .ok (src j) ∧
      s.place k m m.copy.dspc (m.dstRow base 0 + 4096 * b + 64 * j) true = .ok (dst j) ∧
      ∀ t off, src j = .scr t off ∨ dst j = .scr t off → (s.core t).needsFill off 64 = false ∧ (s.core t).freeze = 0

/-- A box has written n lines, line j with value `v j` and poison `p j`: into a scratchpad, as pending stores of the command's engine, or into
host memory; and no other byte of a scratchpad, of memory or of the host (R191, R192). -/
def State.boxWritten (s u : State) (k : CoreId) (m : Cmd) (n : Nat) (dst : Nat → Loc) (v : Nat → Nat) (p : Nat → Bool) : Prop :=
  u.mem = s.mem ∧
  (∀ t o, (∀ j < n, dst j = .scr t (o + 64 * j)) → o % 64 = 0 → (s.core t).id = t → Memory.wf (s.core t).scratch = true →
    u.stores = s.stores ∧ u.host = s.host ∧ (∀ t', t' ≠ t → (u.core t').scratch = (s.core t').scratch) ∧
    (∀ j < n, (u.core t).scratchRead (o + 64 * j) 64 = v j ∧ ((o + 64 * j) / 64 ∈ (u.core t).poison ↔ p j = true)) ∧
    ∀ y, (y < o ∨ o + 64 * n ≤ y) → (u.core t).byte y = (s.core t).byte y) ∧
  (∀ x : Nat → Xlat, (∀ j < n, dst j = .mem (x j) ∧ (x j).pa % 64 = 0 ∧ s.fenced (x j).pa = false) →
    (∀ i < n, ∀ j < n, (x i).pa = (x j).pa → i = j) →
    u.host = s.host ∧ (∀ t, (u.core t).scratch = (s.core t).scratch) ∧ u.stores.take s.stores.length = s.stores ∧
    u.stores.length = s.stores.length + n ∧
    ∀ j < n, ∃ i, ⟨i, k, some m.seq, (x j).pa, bytesOf 64 (v j), (x j).label, p j, .engine m.seq, false, []⟩ ∈ u.stores) ∧
  (∀ h, (∀ j < n, dst j = .host (h + 64 * j)) → h % 64 = 0 → Memory.wf s.host = true →
    u.stores = s.stores ∧ (∀ t, (u.core t).scratch = (s.core t).scratch) ∧ (∀ j < n, memRead u.host (h + 64 * j) 64 = v j))

end Sys2Proof.Machine
end

