-- ==== Sys2Proof/Certificates/Slice0/Obligations.lean ====
section
/-! DEFINITION. The statements for the provers, from the numbered rules of the manual. -/

open Sys2Proof Sys2Proof.Machine

/-- For every integer form of R111 whose word issues, exec answers the next state in which nothing changes but one pending write of its destination: the result of R111's table modulo 2^64, entered with latency 1, or 3 for MUL, MULHI and MULHN, and no flag. -/
def Obligations.IntegerFormsCompute : Prop :=
  ∀ (s : State) (i : Instr) (y : AB) (d : Reg) (lat : Nat) (r : Int),
    intResult s.c i = some (y, d, lat, r) → s.Issues i →
    exec i s = .next (s.entered y.code lat (.scalar d) (BitVec.ofInt 64 r).toNat 0)

/-- For each of the four division forms whose word issues, exec answers the next state in which nothing changes but one outstanding interlocked operation, whose value is the quotient or remainder of R112 modulo 2^64 (a divisor of 0 gives -1 and the dividend) and whose destination is the form's register, none for s0; an earlier interlocked operation of the same bundle on that register gives up its destination, since of two slots of one bundle that write one register the higher one's write stays (R30; that this holds of interlocked results is the model's reading, assumption log 23). -/
def Obligations.DivisionsAreInterlocked : Prop :=
  ∀ (s : State) (i : Instr) (d : Reg) (r : Int), divResult s.c i = some (d, r) → s.Issues i →
    exec i s = .next (s.after { s.c with
      ilk := s.c.ilk.map (fun o => if d ≠ 0 ∧ o.dest = some (.scalar d) ∧ o.age = s.c.age then { o with dest := none } else o) ++
        [⟨.value (BitVec.ofInt 64 r).toNat, if d = 0 then none else some (.scalar d), s.c.age⟩] })

/-- When its word issues, CMP enters 1 with latency 1 if x cc y holds under R79 and 0 otherwise, CMPI the same against its sign-extended immediate, and SEL enters x if bit 0 of the predicate is 1 and y otherwise; nothing else changes. -/
def Obligations.SelectAndCompareForms : Prop :=
  ∀ (s : State) (y : AB) (d a b : Reg) (cc : Cc) (v : BitVec 8) (p : PReg),
    (s.Issues (.cmp y d a b cc) → ∃ r : Nat, exec (.cmp y d a b cc) s = .next (s.entered y.code 1 (.scalar d) r 0) ∧
      (condHolds cc (s.c.rs a) (s.c.rs b) → r = 1) ∧ (¬condHolds cc (s.c.rs a) (s.c.rs b) → r = 0)) ∧
    (s.Issues (.cmpi y d a cc v) → ∃ r : Nat, exec (.cmpi y d a cc v) s = .next (s.entered y.code 1 (.scalar d) r 0) ∧
      (condHolds cc (s.c.rs a) (v.signExtend 64) → r = 1) ∧ (¬condHolds cc (s.c.rs a) (v.signExtend 64) → r = 0)) ∧
    (s.Issues (.sel y d a b p) → exec (.sel y d a b p) s =
      .next (s.entered y.code 1 (.scalar d) (if (s.c.rp p).getLsbD 0 then s.c.rs a else s.c.rs b).toNat 0))

/-- When its word issues, PLOG enters a predicate whose every bit is the table's bit for the bits of pa and pb; PMOV to a predicate sets bit j from bit j div 8 of the scalar; PMOV to a scalar sets bit e from bit 8e of the predicate; latency 1, and nothing else changes. -/
def Obligations.PredicateForms : Prop :=
  ∀ (s : State) (y : AB) (d a b : PReg) (f : BitVec 4) (x : Reg),
    (s.Issues (.plog y d a b f) → ∃ m : Pred, exec (.plog y d a b f) s = .next (s.entered y.code 1 (.pred d) m.toNat 0) ∧
      ∀ j < 512, m.getLsbD j = tableBit f (s.c.rp a) (s.c.rp b) j) ∧
    (s.Issues (.pmov y false x d) → ∃ m : Pred, exec (.pmov y false x d) s = .next (s.entered y.code 1 (.pred d) m.toNat 0) ∧
      ∀ j < 512, m.getLsbD j = (s.c.rs x).getLsbD (j / 8)) ∧
    (s.Issues (.pmov y true x d) → ∃ w : Word, exec (.pmov y true x d) s = .next (s.entered y.code 1 (.scalar x) w.toNat 0) ∧
      ∀ e < 64, w.getLsbD e = (s.c.rp d).getLsbD (8 * e))

/-- When its word issues, each of FADD, FSUB, FMUL, FFMA, FCMP, FMNX and FCVT enters one pending write of sd with latency 4: the result and the flags of the operation on the low bits of its sources at its format, under the rounding in force for the core; nothing else changes. The operations themselves are the model's fpAdd, fpSub, fpMul, fpFma, fpCompare, fpMinMax and convert. -/
def Obligations.ScalarFloatForms : Prop :=
  ∀ (s : State) (y : AB) (d a b e : Reg) (f : FD) (cc : Fcc) (m : Bool) (t u : Ty),
    let arg (r : Reg) : Nat := s.c.xn r % 2 ^ (fdFmt f).width
    let res (r : Nat × Flags) : Host.Outcome State Fault Refusal := .next (s.entered y.code 4 (.scalar d) r.1 r.2)
    (s.Issues (.fadd y d a b f) → exec (.fadd y d a b f) s = res (fpAdd (fdFmt f) s.c.rnd (arg a) (arg b))) ∧
    (s.Issues (.fsub y d a b f) → exec (.fsub y d a b f) s = res (fpSub (fdFmt f) s.c.rnd (arg a) (arg b))) ∧
    (s.Issues (.fmul y d a b f) → exec (.fmul y d a b f) s = res (fpMul (fdFmt f) s.c.rnd (arg a) (arg b))) ∧
    (s.Issues (.ffma y d a b e f) → exec (.ffma y d a b e f) s = res (fpFma (fdFmt f) s.c.rnd (arg a) (arg b) (arg e))) ∧
    (s.Issues (.fcmp y d a b cc f) → exec (.fcmp y d a b cc f) s =
      res ((fpCompare (fdFmt f) cc (arg a) (arg b)).1.toNat, (fpCompare (fdFmt f) cc (arg a) (arg b)).2)) ∧
    (s.Issues (.fmnx y d a b f m) → exec (.fmnx y d a b f m) s = res (fpMinMax (fdFmt f) s.c.rnd m (arg a) (arg b))) ∧
    (s.Issues (.fcvt y d a t u) → exec (.fcvt y d a t u) s =
      res (extendTy t (convert s.c.rnd t u (s.c.xn a % 2 ^ (tyKind u).bits)).1, (convert s.c.rnd t u (s.c.xn a % 2 ^ (tyKind u).bits)).2))

/-- For both scalar formats and any two patterns of the format's width of which at least one is a NaN, the compare of R117 gives 0 for eq, lt and le and 1 for un; lt and le set fi, and eq and un set fi exactly when an operand is a signalling NaN. Two zeros of any sign compare equal, and neither is less than the other. -/
def Obligations.ComparesOfNaN : Prop :=
  ∀ (f : FD) (x y : Nat), x < 2 ^ (fdFmt f).width → y < 2 ^ (fdFmt f).width →
    let nan (v : Nat) : Prop := ((fdFmt f).value v).isNaN = true
    let snan (v : Nat) : Prop := (fdFmt f).value v = .nan true
    let zero (v : Nat) : Prop := v % 2 ^ ((fdFmt f).width - 1) = 0
    (nan x ∨ nan y →
      (fpCompare (fdFmt f) .eq x y).1 = false ∧ fpCompare (fdFmt f) .lt x y = (false, flagI) ∧
      fpCompare (fdFmt f) .le x y = (false, flagI) ∧ (fpCompare (fdFmt f) .un x y).1 = true ∧
      (fpCompare (fdFmt f) .eq x y).2 = (if snan x ∨ snan y then flagI else 0) ∧
      (fpCompare (fdFmt f) .un x y).2 = (if snan x ∨ snan y then flagI else 0)) ∧
    (zero x → zero y → fpCompare (fdFmt f) .eq x y = (true, 0) ∧ fpCompare (fdFmt f) .lt x y = (false, 0))

/-- When its word issues, each of NOP, STALL, LBRK, TEND, TYIELD, TRAP, WTALL, WTANY, TCLR, QPOP, SYNC and GCUR answers the next state that differs only in what the bundle asks for at its end: n issue cycles, a level to disarm, the end or yield of the task, a trap with the code zero-extended, tags to clear for the next bundle, a pending QPOP, or a wait of the successor. GCUR is the X-slot form among them: what it asks is its successor's wait (R207, R209). -/
def Obligations.FlowRequestsStand : Prop :=
  ∀ (s : State) (i : Instr) (f : Flow), flowRequest s.c i = some f → s.Issues i →
    exec i s = .next (s.after { s.c with flow := f })

/-- When its word issues, J and CALL branch to a + 4 x offset; BR does so when its condition on a scalar or a predicate holds, and else changes nothing; JR, CALLR and RET branch to a register whose value is a multiple of 4 below 2^49; CALL and CALLR also enter the successor address for s31 with latency 1. That a relative target is taken modulo 2^49 is the model's reading (assumption log 24). -/
def Obligations.BranchTargets : Prop :=
  ∀ (s : State) (a : Reg) (p : PReg) (b : Bool) (o14 : BitVec 14) (o21 : BitVec 21),
    let link : Core := s.c.enter 0 1 (.scalar 31) (BitVec.ofNat 64 s.c.flow.succ).toNat 0
    (s.Issues (.j o21) → exec (.j o21) s = .next (s.after (s.c.branched false (wordTarget s.c.pc o21.toInt)))) ∧
    (s.Issues (.call o21) → exec (.call o21) s = .next (s.after (link.branched true (wordTarget s.c.pc o21.toInt)))) ∧
    (s.Issues (.brScalar b a o14) → exec (.brScalar b a o14) s =
      .next (s.after (if decide (s.c.rs a = 0) ≠ b then s.c.branched false (wordTarget s.c.pc o14.toInt) else s.c))) ∧
    (s.Issues (.brPredicate b p o14) →
      ((b = false ∧ ∃ j < 512, (s.c.rp p).getLsbD j = true) ∨ (b = true ∧ ∀ j < 512, (s.c.rp p).getLsbD j = false) →
        exec (.brPredicate b p o14) s = .next (s.after (s.c.branched false (wordTarget s.c.pc o14.toInt)))) ∧
      ((b = false ∧ ∀ j < 512, (s.c.rp p).getLsbD j = false) ∨ (b = true ∧ ∃ j < 512, (s.c.rp p).getLsbD j = true) →
        exec (.brPredicate b p o14) s = .next (s.after s.c))) ∧
    (s.Issues (.jr a) → goodTarget (s.c.rs a) → exec (.jr a) s = .next (s.after (s.c.branched false (s.c.rs a).toNat))) ∧
    (s.Issues (.callr a) → goodTarget (s.c.rs a) → exec (.callr a) s = .next (s.after (link.branched true (s.c.rs a).toNat))) ∧
    (s.Issues .ret → goodTarget (s.c.rs 31) → exec .ret s = .next (s.after (s.c.branched true (s.c.rs 31).toNat)))

/-- When the word of JR, CALLR or RET issues, a target whose bits [1:0] are not zero raises MISALIGNED at the bundle; one that is aligned and whose bits [63:49] are not zero raises TRANSLATION with trapinfo holding the target. In both cases the answer is the trap taken on the state before the word. -/
def Obligations.BadRegisterTargetsTrap : Prop :=
  ∀ (s : State) (i : Instr) (x : Word), s.Issues i →
    (∃ a, i = .jr a ∧ x = s.c.rs a) ∨ (∃ a, i = .callr a ∧ x = s.c.rs a) ∨ (i = .ret ∧ x = s.c.rs 31) →
    (x.toNat % 4 ≠ 0 → ∃ v, exec i s = .next (s.trapNow ⟨.misaligned, v⟩)) ∧
    (x.toNat % 4 = 0 → 2 ^ 49 ≤ x.toNat → exec i s = .next (s.trapNow ⟨.translation, x⟩))

/-- When its word issues, with the end address not inside the bundle and the level not already ending at this bundle, LOOP and LOOPS ask to arm the level with the count and the end address, or, for a count of 0, to skip to the end address; if either check fails the answer is ILLEGAL with reason 0x05 on the state before the word. At the end of a bundle that asks for nothing the end check of R97 is applied, level 1 first: the program counter and the two counts are as its pseudocode gives them. A taken branch goes to its target and sets to 0 the count of every level whose range does not hold the target; a call or return goes to its target and leaves the counts; a bundle that arms a level applies the end check and then enters the level's begin, end and count; one with LBRK applies the end check with the count of its level 0 (R99); and one that skips a body of count 0 applies the end check at the end address to the other level, with the successor of the bundle there, or, where no bundle starts there, goes to that address. No other control register changes. That the end address and the program counter wrap at 2^49 is the model's reading (assumption log 24). -/
def Obligations.LoopForms : Prop :=
  (∀ (s : State) (l : Fin 2) (cnt e : BitVec 10) (a : Reg) (i : Instr) (c : Nat),
    (i = .loop l cnt e ∧ c = cnt.toNat) ∨ (i = .loops l a e ∧ c = s.c.xn a) → s.Issues i →
    let endAt := wordTarget s.c.pc e.toNat
    let bad := s.c.pc.toNat + 4 * e.toNat < s.c.flow.succ ∨
      ((s.c.ctl[(if l = 0 then 6 else 10 : Fin 96)]).toNat > 0 ∧ (s.c.ctl[(if l = 0 then 5 else 9 : Fin 96)]).toNat = s.c.pc.toNat)
    (bad → exec i s = .next (s.trapNow s.illegal5)) ∧
    (¬bad → c = 0 → exec i s = .next (s.after { s.c with flow := { s.c.flow with skipTo := some (l, endAt) } })) ∧
    (¬bad → c ≠ 0 → exec i s = .next (s.after { s.c with flow := { s.c.flow with arm := some (l, c, endAt) } }))) ∧
  ∀ (c : Core) (x succ e y : Nat) (l : Fin 2) (n : Fin 96) (cnt : Nat),
    let f : Flow := { Flow.none with succ := succ }
    let v (n : Fin 96) : Nat := (c.cr n).toNat
    let after (f : Flow) : Core := ({ c with flow := f } : Core).bundleEnd (true, 0)
    let r := loopEnd (v 10) (v 9) (v 8) (v 6) (v 5) (v 4) c.pc.toNat succ
    let out (n e b : Fin 96) : Prop := 0 < v n ∧ (x < v b ∨ v e < x)
    ((after f).pc = BitVec.ofNat 49 r.1 ∧ (after f).cr 10 = BitVec.ofNat 64 r.2.1 ∧ (after f).cr 6 = BitVec.ofNat 64 r.2.2 ∧
      (n ≠ 10 → n ≠ 6 → (after f).cr n = c.cr n)) ∧
    (let d := after { f with branch := some x }
     d.pc = BitVec.ofNat 49 x ∧ (out 10 9 8 → d.cr 10 = 0) ∧ (¬out 10 9 8 → d.cr 10 = c.cr 10) ∧ (out 6 5 4 → d.cr 6 = 0) ∧
       (¬out 6 5 4 → d.cr 6 = c.cr 6) ∧ (n ≠ 10 → n ≠ 6 → d.cr n = c.cr n)) ∧
    (let d := after { f with branch := some x, isCall := true }
     d.pc = BitVec.ofNat 49 x ∧ d.cr n = c.cr n) ∧
    (let d := after { f with arm := some (l, cnt, e) }
     d.pc = BitVec.ofNat 49 r.1 ∧ d.cr (if l = 0 then 4 else 8) = BitVec.ofNat 64 succ ∧ d.cr (if l = 0 then 5 else 9) = BitVec.ofNat 64 e ∧
       d.cr (if l = 0 then 6 else 10) = BitVec.ofNat 64 cnt ∧ (l = 0 → d.cr 10 = BitVec.ofNat 64 r.2.1) ∧
       (l = 1 → d.cr 6 = BitVec.ofNat 64 r.2.2) ∧
       ((if l = 0 then n ≠ 4 ∧ n ≠ 5 else n ≠ 8 ∧ n ≠ 9) → n ≠ 10 → n ≠ 6 → d.cr n = c.cr n)) ∧
    (let d := after { f with lbrk := [l] }
     let w := loopEnd (if l = 1 then 0 else v 10) (v 9) (v 8) (if l = 0 then 0 else v 6) (v 5) (v 4) c.pc.toNat succ
     d.pc = BitVec.ofNat 49 w.1 ∧ d.cr 10 = BitVec.ofNat 64 w.2.1 ∧ d.cr 6 = BitVec.ofNat 64 w.2.2 ∧ (n ≠ 10 → n ≠ 6 → d.cr n = c.cr n)) ∧
    (let d (starts : Bool) : Core := ({ c with flow := { f with skipTo := some (l, e) } } : Core).bundleEnd (starts, y)
     let w := if l = 0 then loopEnd (v 10) (v 9) (v 8) 0 0 0 e y else loopEnd 0 0 0 (v 6) (v 5) (v 4) e y
     (d true).pc = BitVec.ofNat 49 w.1 ∧ (d true).cr 10 = (if l = 1 then c.cr 10 else BitVec.ofNat 64 w.2.1) ∧
       (d true).cr 6 = (if l = 0 then c.cr 6 else BitVec.ofNat 64 w.2.2) ∧ (n ≠ 10 → n ≠ 6 → (d true).cr n = c.cr n) ∧
       (d false).pc = BitVec.ofNat 49 e ∧ (d false).cr n = c.cr n)

/-- When its word issues, TFFR enters with latency 1 the index of the lowest 1 bit of tagbits AND the mask, or 64 if there is none; FENCE puts its order and scope in force beside those that already are, each once, from its own bundle on; CBAR with a count from 1 to 48, at a barrier that is open or filling for the same owner and count, asks for its arrival at the end of the bundle. Nothing else changes. -/
def Obligations.TagSearchAndFence : Prop :=
  ∀ (s : State) (d a : Reg) (os : OrdScope) (b : Fin 16),
    (s.Issues (.tffr d a) → ∃ n : Nat, exec (.tffr d a) s = .next (s.entered 0 1 (.scalar d) n 0) ∧
      (∀ j < n, (s.c.ctl[(0 : Fin 96)] &&& s.c.rs a).getLsbD j = false) ∧
      ((n < 64 ∧ (s.c.ctl[(0 : Fin 96)] &&& s.c.rs a).getLsbD n = true) ∨ n = 64)) ∧
    (s.Issues (.fence os) → exec (.fence os) s = .next (s.after { s.c with ord := { s.c.ord with
      fence := if (os, s.c.age) ∈ s.c.ord.fence then s.c.ord.fence else s.c.ord.fence ++ [(os, s.c.age)] } })) ∧
    (s.Issues (.cbar a b) → 1 ≤ s.c.xn a → s.c.xn a ≤ 48 →
      ((s.cluster (clusterOf s.c.id)).barrier b).arrived = 0 ∨
        (((s.cluster (clusterOf s.c.id)).barrier b).owner = s.c.owner ∧ ((s.cluster (clusterOf s.c.id)).barrier b).count = s.c.xn a) →
      exec (.cbar a b) s = .next (s.after { s.c with flow := { s.c.flow with cbar := some (b, s.c.xn a) } }))

/-- For a local load whose word issues and whose access passes R121 and meets no poison: LDS enters with latency 6 the little-endian value, sign-extended for .i and zero-extended for .n; LDV enters a vector whose byte j is the scratchpad's byte where bit j of the predicate is set and the old byte elsewhere; LDVB enters the element in every lane; LDPM enters the 64 bytes as a predicate. Nothing else changes. -/
def Obligations.LocalLoadsDeliver : Prop :=
  ∀ (s : State) (d a : Reg) (p q : PReg) (w : IntTy) (z : Size) (o : BitVec 8), Memory.wf s.c.scratch = true →
    let n := intTyBits w / 8
    let m := sizeBytes z
    (s.Issues (.lds d a w o) → s.c.reaches (s.c.effective a o n) n → s.c.scratchPoisoned (s.c.effective a o n) n = false →
      let x := s.c.scratchRead (s.c.effective a o n) n
      exec (.lds d a w o) s = .next (s.entered 3 6 (.scalar d)
        (if intTySigned w then (BitVec.ofNat (intTyBits w) x).signExtend 64 else BitVec.ofNat 64 x).toNat 0)) ∧
    (s.Issues (.ldv d a p o) → s.c.reaches (s.c.effective a o 512) 512 →
      (∀ j < 512, (s.c.rp p).getLsbD j = true → (s.c.effective a o 512 + j) / 64 ∉ s.c.poison) →
      ∃ v : Vec, exec (.ldv d a p o) s = .next (s.entered 3 6 (.vector d) v.toNat 0) ∧
        ∀ j < 512, vbyte v j = if (s.c.rp p).getLsbD j then s.c.byte (s.c.effective a o 512 + j) else vbyte (s.c.rv d) j) ∧
    (s.Issues (.ldvb d a z o) → s.c.reaches (s.c.effective a o m) m → s.c.scratchPoisoned (s.c.effective a o m) m = false →
      ∃ v : Vec, exec (.ldvb d a z o) s = .next (s.entered 3 6 (.vector d) v.toNat 0) ∧
        ∀ i < 512 / m, lane (8 * m) v i = s.c.scratchRead (s.c.effective a o m) m) ∧
    (s.Issues (.ldpm q a o) → s.c.reaches (s.c.effective a o 64) 64 → s.c.scratchPoisoned (s.c.effective a o 64) 64 = false →
      exec (.ldpm q a o) s = .next (s.entered 3 6 (.pred q) (s.c.scratchRead (s.c.effective a o 64) 64) 0))

/-- For a local store whose word issues and whose access passes R121: STS writes the low bytes of its scalar, STV the bytes of its vector whose predicate bit is set, and STPM the 64 bytes of its predicate, at the effective address; every other byte of the scratchpad reads as before; and nothing of the state changes but the scratchpad, its poison and the marks of its windows. -/
def Obligations.LocalStoresStore : Prop :=
  ∀ (s : State) (b a : Reg) (p q : PReg) (z : Size) (o : BitVec 8), Memory.wf s.c.scratch = true →
    let stores (i : Instr) (x : Nat) (n : Nat) (on : Nat → Bool) (v : Nat → BitVec 8) : Prop :=
      ∃ c : Core, exec i s = .next (s.after { s.c with scratch := c.scratch, poison := c.poison, wins := c.wins }) ∧
        ∀ y, c.byte y = if x ≤ y ∧ y < x + n ∧ on (y - x) then v (y - x) else s.c.byte y
    (s.Issues (.sts b a z o) → s.c.reaches (s.c.effective a o (sizeBytes z)) (sizeBytes z) →
      stores (.sts b a z o) (s.c.effective a o (sizeBytes z)) (sizeBytes z) (fun _ => true)
        (fun j => BitVec.ofNat 8 (s.c.xn b / 256 ^ j))) ∧
    (s.Issues (.stv b a p o) → s.c.reaches (s.c.effective a o 512) 512 →
      stores (.stv b a p o) (s.c.effective a o 512) 512 (fun j => (s.c.rp p).getLsbD j) (fun j => vbyte (s.c.rv b) j)) ∧
    (s.Issues (.stpm q a o) → s.c.reaches (s.c.effective a o 64) 64 →
      stores (.stpm q a o) (s.c.effective a o 64) 64 (fun _ => true) (fun j => BitVec.ofNat 8 ((s.c.rp q).toNat / 256 ^ j)))

/-- When the word of LDS, STS, LDV, STV, LDVB, LDPM or STPM issues, an effective address that is not a multiple of the access size raises MISALIGNED; else one whose bytes pass the end of the scratchpad raises SCRATCH_RANGE; else one in a group reserved by the core's own M slot raises BANK_CONFLICT. The answer is the trap taken on the state before the word, so nothing is loaded or stored. -/
def Obligations.LocalAccessTraps : Prop :=
  ∀ (s : State) (i : Instr) (a : Reg) (o : BitVec 8) (n : Nat), s.Issues i →
    (∃ d w, i = .lds d a w o ∧ n = intTyBits w / 8) ∨ (∃ b z, i = .sts b a z o ∧ n = sizeBytes z) ∨ (∃ d p, i = .ldv d a p o ∧ n = 512) ∨
      (∃ b p, i = .stv b a p o ∧ n = 512) ∨ (∃ d z, i = .ldvb d a z o ∧ n = sizeBytes z) ∨ (∃ d, i = .ldpm d a o ∧ n = 64) ∨
      (∃ b, i = .stpm b a o ∧ n = 64) →
    let ea := s.c.effective a o n
    (ea % n ≠ 0 → exec i s = .next (s.trapNow ⟨.misaligned, addrInfo ea⟩)) ∧
    (ea % n = 0 → s.c.scratchSize < ea + n → exec i s = .next (s.trapNow ⟨.scratchRange, addrInfo ea⟩)) ∧
    (ea % n = 0 → ea + n ≤ s.c.scratchSize → s.c.bankConflict ea n = true → exec i s = .next (s.trapNow ⟨.bankConflict, addrInfo ea⟩))

/-- When their word issues, LDVX and STVX answer the next state that differs only in the gather latch: the word, the direction, the base scalar, the index vector, the predicate, for STVX the data vector, for LDVX the image of the destination at issue, and no element done. -/
def Obligations.GatherLatchTakesOperands : Prop :=
  ∀ (s : State) (d a b : Reg) (p : PReg) (z : Size),
    (s.Issues (.ldvx d a b p z) → ∃ g : Gather, exec (.ldvx d a b p z) s = .next (s.after { s.c with gather := some g }) ∧
      g.word = s.word ∧ g.load = true ∧ g.dest = d ∧ g.size = z ∧ g.base = s.c.rs b ∧ g.idx = s.c.rv a ∧ g.pred = s.c.rp p ∧
      g.acc = s.c.rv d ∧ g.elem = 0) ∧
    (s.Issues (.stvx d a b p z) → ∃ g : Gather, exec (.stvx d a b p z) s = .next (s.after { s.c with gather := some g }) ∧
      g.word = s.word ∧ g.load = false ∧ g.size = z ∧ g.base = s.c.rs b ∧ g.idx = s.c.rv a ∧ g.pred = s.c.rp p ∧
      g.data = s.c.rv d ∧ g.elem = 0)

/-- When their word issues and the address is below 2^49 and a multiple of the access size, LDG, ATG and CASG answer the next state that differs only in one outstanding interlocked access of that address, with the operand and the expected value read at issue, whose destination is the register (none for s0); an acquiring order also asks for a FENCE.acq at its scope behind the bundle. A bad address raises TRANSLATION, else MISALIGNED. That ATG and CASG meet these checks at issue is the model's reading (assumption log 27; R140 gives them the alignment and order of LDG). -/
def Obligations.GlobalAccessesBecomeOutstanding : Prop :=
  ∀ (s : State) (d a b : Reg) (w : IntTy) (op : Aop) (wd : Bool) (os : OrdScope) (i : Instr) (data expect : Word),
    (i = .ldg d a w os ∧ data = 0 ∧ expect = 0) ∨ (i = .atg d a op wd os ∧ data = s.c.rs d ∧ expect = 0) ∨
      (i = .casg d a b wd os ∧ data = s.c.rs b ∧ expect = s.c.rs d) → s.Issues i →
    let x : Access := ⟨i, s.c.xn a, data, expect, s.c.age⟩
    let fence : Option OrdScope := if os.ord = .acq ∨ os.ord = .ar ∨ os.ord = .sc then some ⟨.acq, os.scope⟩ else s.c.flow.fence
    (s.c.xn a < 2 ^ 49 → s.c.xn a % x.size = 0 →
      exec i s = .next (s.after { s.c with
        ilk := s.c.ilk ++ [⟨.access x none, if d = 0 then none else some (.scalar d), s.c.age⟩]
        flow := { s.c.flow with fence := fence } })) ∧
    (2 ^ 49 ≤ s.c.xn a → ∃ v, exec i s = .next (s.trapNow ⟨.translation, v⟩)) ∧
    (s.c.xn a < 2 ^ 49 → s.c.xn a % x.size ≠ 0 → ∃ v, exec i s = .next (s.trapNow ⟨.misaligned, v⟩))

/-- When the word of STG issues, an address of 2^49 or more raises TRANSLATION and one below that is not a multiple of the access size MISALIGNED, on the state before the word. With an aligned address below 2^49 and no earlier global access, queued store or side-log entry of the core is outstanding, and with room in the fence counter (R250): if the address translates for writing, memory is as it was, and the answer adds one pending store of the low bytes of the data at the physical address, with the stores that a release covers beside it, or, where the home is fenced, notes that a store of the core is lost (R254); if it does not translate, the access stands in the core's queue to retire into the side log. In every case the scalar, vector, predicate and control registers of the core and its scratchpad are unchanged. That a store which cannot be performed stands in a queue until the end of its step is the model's choice (assumption log 12). A core with earlier accesses outstanding is left out here. -/
def Obligations.StoreBecomesPending : Prop :=
  ∀ (s : State) (b a : Reg) (z : Size) (os : OrdScope), s.Issues (.stg b a z os) →
    (2 ^ 49 ≤ s.c.xn a → ∃ v, exec (.stg b a z os) s = .next (s.trapNow ⟨.translation, v⟩)) ∧
    (s.c.xn a < 2 ^ 49 → s.c.xn a % sizeBytes z ≠ 0 → ∃ v, exec (.stg b a z os) s = .next (s.trapNow ⟨.misaligned, v⟩)) ∧
    (s.c.xn a < 2 ^ 49 → s.c.xn a % sizeBytes z = 0 → s.c.ilk = [] → s.c.stq = [] → s.c.log = [] →
    (∀ x, s.translate s.c.party (s.c.xn a) .write = .ok x → s.counted s.c.id none (homeOf x.pa) < 65535) →
    ∃ t : State, exec (.stg b a z os) s = .next t ∧ t.verdict = .issued ∧ t.mem = s.mem ∧
      t.c.s = s.c.s ∧ t.c.v = s.c.v ∧ t.c.p = s.c.p ∧ t.c.ctl = s.c.ctl ∧ t.c.scratch = s.c.scratch ∧
      (∀ x, s.translate s.c.party (s.c.xn a) .write = .ok x → t.c.stq = [] ∧
        if s.fenced x.pa then t.stores = s.stores ∧ t.c.ord.lost.isSome = true ∧ t.c.ord.lostOwn = true
        else t.stores = s.stores ++ [⟨s.ids, s.c.id, none, x.pa, bytesOf (sizeBytes z) (s.c.xn b), x.label, false,
          s.writer s.c.id (.access s.c.age), false, s.writeCarries s.c.ord (some os) s.c.age⟩]) ∧
      (∀ e, s.translate s.c.party (s.c.xn a) .write = .error e →
        t.stores = s.stores ∧ t.c.stq = [⟨.stg b a z os, s.c.xn a, s.c.rs b, 0, s.c.age⟩]))

/-- For each of ATG, ATS, CASG and CASS, and every old value of its width, what it stores is the operation of R138's table on the old value and the operand, or, for the two compares of R139, the new value where the old one equals the expected one and nothing elsewhere; its result is the old value sign-extended to 64 bits. When the word of ATS or CASS issues with a cluster address that R22 assigns, a multiple of the access size: if it reaches another core, the access becomes outstanding and nothing else changes but the fence that an acquiring order asks for; if it reaches the own core, which is not frozen, in no reserved group, no window to fill and no poisoned line, the scratchpad takes the new value at once (for CASS only where the old value equals the expected one), every other byte reads as before, the old value, sign-extended, is the result of the outstanding operation, and registers, global memory and other cores are unchanged. -/
def Obligations.ClusterAtomics : Prop :=
  (∀ (i : Instr) (d a b : Reg) (op : Aop) (wd : Bool) (os : OrdScope) (addr old age : Nat) (v e : Word),
    let w := if wd then 64 else 32
    let x : Access := ⟨i, addr, v, e, age⟩
    old < 2 ^ w →
    (i = .atg d a op wd os ∨ i = .ats d a op wd os → x.newValue old = some (atomicTable op w old (v.toNat % 2 ^ w))) ∧
    (i = .casg d a b wd os ∨ i = .cass d a b wd os → x.newValue old = if old = e.toNat % 2 ^ w then some (v.toNat % 2 ^ w) else none) ∧
    (i ∈ [.atg d a op wd os, .ats d a op wd os, .casg d a b wd os, .cass d a b wd os] → x.result old = (BitVec.ofNat w old).signExtend 64)) ∧
  ∀ (s : State) (d a b : Reg) (op : Aop) (wd : Bool) (os : OrdScope) (i : Instr) (x : Access) (new : Nat → Nat),
    let w := if wd then 64 else 32
    (i = .ats d a op wd os ∧ x = ⟨i, s.c.xn a, s.c.rs d, 0, s.c.age⟩ ∧ new = fun old => atomicTable op w old (s.c.xn d % 2 ^ w)) ∨
      (i = .cass d a b wd os ∧ x = ⟨i, s.c.xn a, s.c.rs b, s.c.rs d, s.c.age⟩ ∧ new = fun old => if old = s.c.xn d % 2 ^ w then s.c.xn b % 2 ^ w else old) →
    s.Issues i → caValid (s.c.xn a) = true → s.c.xn a % wdBytes wd = 0 →
    let k := caTarget s.c.id (s.c.xn a)
    let off := s.c.xn a % 2 ^ 20
    let fence : Option OrdScope := if os.ord = .acq ∨ os.ord = .ar ∨ os.ord = .sc then some ⟨.acq, os.scope⟩ else s.c.flow.fence
    let out (got : Option Nat) : Core := { s.c with
      ilk := s.c.ilk ++ [⟨.access x got, if d = 0 then none else some (.scalar d), s.c.age⟩], flow := { s.c.flow with fence := fence } }
    (k ≠ s.c.id → exec i s = .next (s.after (out none))) ∧
    (k = s.c.id → Memory.wf s.c.scratch = true → s.c.freeze = 0 → s.c.bankConflict off (wdBytes wd) = false →
      s.c.needsFill off (wdBytes wd) = false → s.c.scratchPoisoned off (wdBytes wd) = false →
      let old := s.c.scratchRead off (wdBytes wd)
      ∃ t : State, exec i s = .next t ∧ t.verdict = .issued ∧ t.mem = s.mem ∧ t.stores = s.stores ∧ t.others = s.others ∧
        t.c = { out (some ((BitVec.ofNat w old).signExtend 64).toNat) with scratch := t.c.scratch, poison := t.c.poison, wins := t.c.wins } ∧
        t.c.scratchRead off (wdBytes wd) = new old ∧ ∀ y, (y < off ∨ off + wdBytes wd ≤ y) → t.c.byte y = s.c.byte y)

/-- For each integer form of R145 whose word issues, the answer enters one pending write of vd with latency 2 and no flag, in which element k is the table's result modulo 2^w where the element's governing predicate bit is 1, and the element vd held at issue elsewhere; nothing else changes. -/
def Obligations.VectorIntegerLanes : Prop :=
  ∀ (s : State) (i : Instr) (d a b : Reg) (p : PReg) (t : IntTy) (f : Nat → Nat → Nat → Int),
    vecIntResult i = some (d, a, b, p, t, f) → s.Issues i →
    ∃ v : Vec, exec i s = .next (s.entered 4 2 (.vector d) v.toNat 0) ∧
      ∀ k < 4096 / intTyBits t,
        ((s.c.rp p).getLsbD (k * (intTyBits t / 8)) = true →
          (lane (intTyBits t) v k : Int) =
            f (lane (intTyBits t) (s.c.rv d) k) (lane (intTyBits t) (s.c.rv a) k) (lane (intTyBits t) (s.c.rv b) k) % 2 ^ intTyBits t) ∧
        ((s.c.rp p).getLsbD (k * (intTyBits t / 8)) = false → lane (intTyBits t) v k = lane (intTyBits t) (s.c.rv d) k)

/-- When its word issues, with latency 2 and no flag: VSEL takes each element from va where its governing bit is set and from vb elsewhere; VCMP sets every predicate bit of an element to whether the condition holds for it; VPERM, VBCST and VIOTA write on governed elements the element of va that vb names modulo n, the scalar, and the scalar plus the index, and keep the others; VCMPR packs the governed elements of va downwards and clears the rest; VMOVS moves one element, named by a scalar modulo n, to a scalar or from one. -/
def Obligations.VectorMovesAndCompares : Prop :=
  ∀ (s : State) (d a b : Reg) (p q : PReg) (cc : Cc) (t : IntTy),
    let w := intTyBits t
    let n := 4096 / w
    let on (k : Nat) : Bool := (s.c.rp p).getLsbD (k * (w / 8))
    let x (r : Reg) (k : Nat) : Nat := lane w (s.c.rv r) k
    let gives (i : Instr) (g : Nat → Nat) : Prop :=
      ∃ v : Vec, exec i s = .next (s.entered 4 2 (.vector d) v.toNat 0) ∧ ∀ k < n, lane w v k = g k
    (s.Issues (.vsel d a b p t) → gives (.vsel d a b p t) (fun k => if on k then x a k else x b k)) ∧
    (s.Issues (.vcmp q cc a b t) → ∃ m : Pred, exec (.vcmp q cc a b t) s = .next (s.entered 4 2 (.pred q) m.toNat 0) ∧
      ∀ j < 512, m.getLsbD j = ccHolds w cc (x a (j / (w / 8))) (x b (j / (w / 8)))) ∧
    (s.Issues (.vperm d a b p t) → gives (.vperm d a b p t) (fun k => if on k then x a (x b k % n) else x d k)) ∧
    (s.Issues (.vbcst d a p t) → gives (.vbcst d a p t) (fun k => if on k then s.c.xn a % 2 ^ w else x d k)) ∧
    (s.Issues (.viota d a p t) → gives (.viota d a p t) (fun k => if on k then (s.c.xn a + k) % 2 ^ w else x d k)) ∧
    (s.Issues (.vcmpr d a p t) → gives (.vcmpr d a p t) (fun k => (((List.range n).filter on).map (x a)).getD k 0)) ∧
    (s.Issues (.vmovs d a b true t) → gives (.vmovs d a b true t) (fun k => if k = s.c.xn b % n then s.c.xn a % 2 ^ w else x d k)) ∧
    (s.Issues (.vmovs d a b false t) → exec (.vmovs d a b false t) s = .next (s.entered 4 2 (.scalar d)
      (BitVec.ofInt 64 (typedLane t (x a (s.c.xn b % n)))).toNat 0))

/-- For each of the twelve floating-point forms by elements whose word issues, the answer enters one pending write of vd with the form's latency, in which element k is the operation's result where its governing bit is 1 and the old element elsewhere; a flag is set exactly if some governed element sets it. VFCMP enters the predicate of the condition for every element with latency 4, and sets a flag exactly if some element sets it. The operation on one element is the model's. -/
def Obligations.VectorFloatLanes : Prop :=
  (∀ (s : State) (i : Instr) (d a b : Reg) (p : PReg) (t : FpTy) (lat : Nat) (f : Fmt → RndCtl → Nat → Nat → Nat → Nat × Flags),
    vecFloatResult i = some (d, a, b, p, t, lat, f) → s.Issues i →
    let w := (fpFmt t).width
    let on (k : Nat) : Bool := (s.c.rp p).getLsbD (k * (w / 8))
    let r (k : Nat) : Nat × Flags := f (fpFmt t) s.c.rnd (lane w (s.c.rv d) k) (lane w (s.c.rv a) k) (lane w (s.c.rv b) k)
    ∃ (v : Vec) (g : Flags), exec i s = .next (s.entered 4 lat (.vector d) v.toNat g) ∧
      (∀ k < 4096 / w, (on k = true → lane w v k = (r k).1 % 2 ^ w) ∧ (on k = false → lane w v k = lane w (s.c.rv d) k)) ∧
      ∀ j < 5, g.getLsbD j = true ↔ ∃ k < 4096 / w, on k = true ∧ (r k).2.getLsbD j = true) ∧
  (∀ (s : State) (q : PReg) (cc : Fcc) (a b : Reg) (t : FpTy), s.Issues (.vfcmp q cc a b t) →
    let w := (fpFmt t).width
    let r (k : Nat) : Bool × Flags := fpCompare (fpFmt t) cc (lane w (s.c.rv a) k) (lane w (s.c.rv b) k)
    ∃ (m : Pred) (g : Flags), exec (.vfcmp q cc a b t) s = .next (s.entered 4 4 (.pred q) m.toNat g) ∧
      (∀ j < 512, m.getLsbD j = (r (j / (w / 8))).1) ∧ flagsJoin g (4096 / w) (fun _ => true) (fun k => (r k).2))

/-- When its word issues, each of VCVT, VQNT, VDQNT and VSCAN enters one pending write of vd with its flags, with latency 4, or 6 for VSCAN, and VRED one of sd with latency 6; nothing else changes. VCVT writes the n elements of R149, converted where governed and old elsewhere, and 0 above them; VQNT to FP8 likewise, always saturating, to the bytes below n; VQNT to a block type writes the codes, scales and last word of R150, each block by the model's quantMx4 or quantSq4, and 0 elsewhere; VDQNT writes on governed elements the rounded value of the packed element. VRED enters the value of the model's tree of R59 over the governed elements, and VSCAN on governed elements the model's scan of R60; for an integer type both are the plain reduction of the governed elements that take part. A flag is set exactly if a governed element, or a block, sets it. The layouts, the saturation of FP8, the unpacking and the scan are those of R149, R151, R154 and R60. -/
def Obligations.ConversionsAndReductions : Prop :=
  ∀ (s : State) (d a : Reg) (t u : Ty) (p : PReg) (r : Rop) (y : RedTy) (e : Bool) (it : IntTy),
    let gives (i : Instr) (lat : Nat) (P : Vec → Flags → Prop) : Prop :=
      ∃ (v : Vec) (g : Flags), exec i s = .next (s.entered 4 lat (.vector d) v.toNat g) ∧ P v g
    let on (w k : Nat) : Bool := (s.c.rp p).getLsbD (k * (w / 8))
    let wt := (tyKind t).bits
    let wu := (tyKind u).bits
    let m := Nat.max wt wu
    let n := 4096 / wu
    let src (k : Nat) : Nat := lane wu (s.c.rv a) k
    let wr := redTyBits y
    let nr := 4096 / wr
    let ins := redInputs (governs wr (s.c.rp p)) (vlanes wr (s.c.rv a))
    let kept (w k : Nat) : List Nat := ((List.range k).filter (on w)).map (lane w (s.c.rv a))
    (s.Issues (.vcvt d a t u p) → gives (.vcvt d a t u p) 4 (fun v g =>
      let x (k : Nat) := convert s.c.rnd t u (src k)
      (∀ k < 4096 / m, lane wt v k = if on m k then (x k).1 % 2 ^ wt else lane wt (s.c.rv d) k) ∧
      (∀ k < 4096 / wt, 4096 / m ≤ k → lane wt v k = 0) ∧ flagsJoin g (4096 / m) (on m) (fun k => (x k).2))) ∧
    (s.Issues (.vqnt d a t u p) → u.isWide = true →
      (t = .e4m3 ∨ t = .e5m2 → gives (.vqnt d a t u p) 4 (fun v g =>
        let x (k : Nat) := convert ⟨s.c.rnd.rm, true⟩ t u (src k)
        (∀ k < 512, lane 8 v k = if n ≤ k then 0 else if on wu k then (x k).1 % 2 ^ 8 else lane 8 (s.c.rv d) k) ∧
        flagsJoin g n (on wu) (fun k => (x k).2))) ∧
      (∀ f, tyKind u = .fp f →
        (t = .mx4 → gives (.vqnt d a t u p) 4 (fun v g =>
          let q (j : Nat) := quantMx4 s.c.rnd.rm f ((List.range 32).map (fun i => f.value (src (32 * j + i))))
          (∀ j < n / 32, lane 8 v (n / 2 + j) = (q j).1 % 2 ^ 8 ∧ ∀ i < 32, lane 4 v (32 * j + i) = (q j).2.1.getD i 0 % 2 ^ 4) ∧
          (∀ k < 512, n / 2 + n / 32 ≤ k → lane 8 v k = 0) ∧ flagsJoin g (n / 32) (fun _ => true) (fun j => (q j).2.2))) ∧
        (t = .sq4 → gives (.vqnt d a t u p) 4 (fun v g =>
          let sup := lane 32 (s.c.rv d) 127
          let q (j : Nat) := quantSq4 sup f ((List.range 64).map (fun i => f.value (src (64 * j + i))))
          (∀ j < n / 64, lane 8 v (n / 2 + j) = (q j).1 % 2 ^ 8 ∧ ∀ i < 64, lane 4 v (64 * j + i) = (q j).2.1.getD i 0 % 2 ^ 4) ∧
          (∀ k < 508, n / 2 + n / 64 ≤ k → lane 8 v k = 0) ∧ lane 32 v 127 = sup ∧ flagsJoin g (n / 64) (fun _ => true) (fun j => (q j).2.2))))) ∧
    (∀ f, s.Issues (.vdqnt d a t u p) → t.isWide = true → tyKind t = .fp f → gives (.vdqnt d a t u p) 4 (fun v g =>
      let x (k : Nat) := if u.isBlock then finishOp f s.c.rnd (unpackExt u (4096 / wt) (s.c.rv a).toNat k) else convert s.c.rnd t u (lane 8 (s.c.rv a) k)
      (∀ k < 4096 / wt, lane wt v k = if on wt k then (x k).1 % 2 ^ wt else lane wt (s.c.rv d) k) ∧
      flagsJoin g (4096 / wt) (on wt) (fun k => (x k).2))) ∧
    (s.Issues (.vred d a r p y) →
      let x := (redTree (redOp s.c.rnd r y) (Nat.log2 nr) ins).getD (redIdentity r y, 0)
      exec (.vred d a r p y) s = .next (s.entered 4 6 (.scalar d) (redScalar y x.1).toNat x.2)) ∧
    (s.Issues (.vred d a r p (.int it)) → exec (.vred d a r p (.int it)) s = .next (s.entered 4 6 (.scalar d)
      (BitVec.ofInt 64 (typedLane it (intReduction it r (kept (intTyBits it) (4096 / intTyBits it))))).toNat 0)) ∧
    (s.Issues (.vscan d a r p y e) → gives (.vscan d a r p y e) 6 (fun v g =>
      let x (k : Nat) : Nat × Flags := if e && decide (k = 0) then (redIdentity r y, 0)
        else ((scanIncl (redOp s.c.rnd r y) [] ins).getD (if e then k - 1 else k) none).getD (redIdentity r y, 0)
      (∀ k < nr, lane wr v k = if on wr k then (x k).1 % 2 ^ wr else lane wr (s.c.rv d) k) ∧ flagsJoin g nr (on wr) (fun k => (x k).2))) ∧
    (s.Issues (.vscan d a r p (.int it) e) → gives (.vscan d a r p (.int it) e) 6 (fun v g =>
      let w := intTyBits it
      (∀ k < 4096 / w, lane w v k = if on w k then intReduction it r (kept w (if e then k else k + 1)) else lane w (s.c.rv d) k) ∧ g = 0))

/-- When its word issues: VTOQ with fewer than eight entries in the return queue pushes the element it names, to land after 2 issue cycles. VDEFER with a legal queue and room for one entry of 16 bytes per governed 32-bit lane, in no reserved group and no window to fill, writes for the j-th governed lane i, at wheybase + (wi + 16 j) mod wheylen, the lane index i and element i of each value vector (0 for a vector it does not name); every other byte of the scratchpad is as before, and wi goes on by 16 bytes per entry modulo the length. VDRAIN with a legal queue, on the same conditions and no poisoned line, takes m entries (min(128, occupancy) where it closes, else 128 if the occupancy is at least 128 and 0 if not): ri goes on by 16 m bytes, and m, the predicate of the bits below 4 m and, where m is not 0, the vectors of the entries' words, with zeros from lane m on, are entered with latency 6. VSRED with an aligned range within the megabyte starts a stream of its vectors from the identity in every lane. The queue's other index is unchanged. -/
def Obligations.QueueVectorForms : Prop :=
  ∀ (s : State) (d a b e : Reg) (p : PReg) (t : IntTy) (n : Fin 4) (l : Bool) (r : Rop) (y : RedTy), Memory.wf s.c.scratch = true →
    let free (o k : Nat) : Prop := s.c.bankConflict o k = false ∧ s.c.needsFill o k = false
    let len := s.c.wheyLen
    let legal : Prop := s.c.wheyBase % 512 = 0 ∧ len % 512 = 0 ∧ 512 ≤ len ∧ len ≤ 65536 ∧ s.c.wheyBase + len ≤ 0x100000
    let occ := (((s.c.wi.toNat : Int) - s.c.ri.toNat) % len / 16).toNat
    let on := (List.range 128).filter (fun i => (s.c.rp p).getLsbD (4 * i))
    let k := on.length
    let put (j : Nat) : Nat := s.c.wheyBase + (s.c.wi.toNat + 16 * j) % len
    let m := if l then Nat.min 128 occ else if occ < 128 then 0 else 128
    let got (j : Nat) : Nat := s.c.wheyBase + (s.c.ri.toNat + 16 * j) % len
    (s.Issues (.vtoq a b t) → s.c.rq.length < 8 →
      exec (.vtoq a b t) s = .next (s.after { s.c with rq := s.c.rq ++
        [⟨BitVec.ofInt 64 (typedLane t (lane (intTyBits t) (s.c.rv a) (s.c.xn b % (4096 / intTyBits t)))), 2⟩] })) ∧
    (s.Issues (.vdefer a b e p n) → legal → occ + k ≤ len / 16 - 1 → (∀ j < k, free (put j) 16) →
      ∃ c : Core, exec (.vdefer a b e p n) s = .next (s.after { s.c with
          scratch := c.scratch, poison := c.poison, wins := c.wins, wi := BitVec.ofNat 16 ((s.c.wi.toNat + 16 * k) % len) }) ∧
        (∀ j < k, let i := on.getD j 0
          c.scratchRead (put j) 16 = i + (if 1 ≤ n.val then lane 32 (s.c.rv a) i * 2 ^ 32 else 0) +
            (if 2 ≤ n.val then lane 32 (s.c.rv b) i * 2 ^ 64 else 0) + (if 3 ≤ n.val then lane 32 (s.c.rv e) i * 2 ^ 96 else 0)) ∧
        (∀ x, (∀ j < k, x < put j ∨ put j + 16 ≤ x) → c.byte x = s.c.byte x)) ∧
    (s.Issues (.vdrain d a p l n) → legal → (∀ j < m, free (got j) 16 ∧ s.c.scratchPoisoned (got j) 16 = false) →
      ∃ vs : List Vec, vs.length = (if m = 0 then 0 else n.val + 1) ∧
        (∀ h < vs.length, ∀ i < 128, lane 32 (vs.getD h 0) i = if i < m then field (s.c.scratchRead (got i) 16) (4 * h) 4 else 0) ∧
        exec (.vdrain d a p l n) s = .next (s.after { s.c with
          ri := BitVec.ofNat 16 ((s.c.ri.toNat + 16 * m) % len)
          shadow := s.c.shadow ++ [⟨.scalar a, m, 0, 6, s.c.age, 4⟩, ⟨.pred p, 2 ^ (4 * m) - 1, 0, 6, s.c.age, 4⟩] ++
            (List.range vs.length).map (fun h => ⟨.vector (Fin.ofNat 32 (d.val + h)), (vs.getD h 0).toNat, 0, 6, s.c.age, 4⟩) })) ∧
    (s.Issues (.vsred d a b r y) → s.c.xn a % 512 = 0 → s.c.xn a + 512 * s.c.xn b ≤ 0x100000 →
      ∃ v : Vec, (∀ h < 4096 / redTyBits y, lane (redTyBits y) v h = redIdentity r y) ∧
        exec (.vsred d a b r y) s = .next (s.after { s.c with
          stream := some ⟨s.word, d, r, y, s.c.xn a, s.c.xn b, v, 0, s.c.rnd, 0, s.c.age⟩ }))

/-- When its word issues and its operands pass the checks its rule names, each array form answers a next state in which the array holds the instruction, with its scalar operand, what it captures at issue and its occupancy: 1 cycle for MZERO and for the first step of MPOLY, 128 for MLOAD and MMUL, 128, 64 or 32 for MDRAIN by its type, 128, or 384 with fb, for MTT, MADDT and the first phase of MITER, 32 for MSCL, MTRN and MNORM; MLDW enters the loader. From the weight store, MMUL and MLDW do so where the segment may be read and no journal transaction holds it. Tiles, scratchpad and registers are unchanged at issue, but for one entry of latency 6 for tstat that MDRAIN makes, with the count of rows that hold a NaN (0 for an INT8 pair) and the tile's flag set joined with the flags of the conversions of enabled rows. In an issue cycle MLOAD and MMUL read their next row, and MDRAIN writes the next 512 bytes of its region, enabled rows alone. When the last issue cycle has passed, the unit is free and the tile holds what the rule of the form gives for each element: +0, the bytes read, the pass added to the tile as it stood, the product of two tiles, the scaled or transposed tile, the polynomial, or, for MDRAIN, nothing but the clearing it asks for; MNORM writes its scalar, and MLDW its buffer, the rest of it 0. Floating-point sums are those of the model's operations for R53 and R55 to R58; the INT8 sum is that of R54. That MDRAIN writes 512 bytes in each of its cycles, and that a streaming MMUL reads no row of B in them, is the model's reading (assumption log 28); the rows of each cycle are R185's, the fields of tstat R179's, the layouts R170's. -/
def Obligations.ArrayTakesInstruction : Prop :=
  ∀ (s : State) (t u v : TileNo) (a b d : Reg) (p : PReg) (ty : Ty) (clr m : Bool) (g : Fin 4) (w : Fin 2) (k : Fin 8) (h : Fin 8)
    (id : CoreId) (o : ArrayOp) (ld : LoaderOp),
    let prod := if (s.c.capture.fmt).getLsbD 9 then 384 else 128
    let off := s.c.xn a
    let pass := if (s.c.capture.fmt).toNat / 8 % 8 = 6 then 8192 else 32768
    let enters (i : Instr) (total o b : Nat) : Prop :=
      ∃ x : Option ArrayOp, exec i s = .next (s.after { s.c with array := x }) ∧ ({ s.c with array := x } : Core).arrayHolds i total o b
    let streams (r : State) : Prop := r.verdict = .issued ∧ r.c.tiles = s.c.tiles ∧ r.c.scratch = s.c.scratch ∧ r.c.shadow = s.c.shadow ∧ r.mem = s.mem
    let z := drainWidth ty
    let drains : Prop := ty = .i32 ∨ ty = .f32 ∨ ty = .bf16 ∨ ty = .f16 ∨ ty = .e4m3 ∨ ty = .e5m2
    let c := s.core id
    let holds (i : Instr) : Prop := c.array = some o ∧ o.instr = i
    let ends (i : Instr) : Prop := holds i ∧ o.total ≤ o.cyc
    let fb := o.cap.fmt.getLsbD 9
    let was (t : TileNo) := tileElem o.tiles[t]
    let coef (n : Nat) : Nat := bits ((o.cap.mco.toList.getD n 0).toNat) 0 32
    (s.Issues (.mzero t) → enters (.mzero t) 1 0 0) ∧
    (s.Issues (.mload t a) → s.c.regionOk off 65536 → enters (.mload t a) 128 off 0) ∧
    (s.Issues (.mmul t a g h b) → pairOk ((s.c.capture.fmt).toNat % 8) ((s.c.capture.fmt).toNat / 8 % 8) = true →
      s.c.regionOk off 32768 → off / 2 ^ 18 = g.val →
      h.val ≤ 1 ∨ (3 ≤ h.val ∧ h.val ≤ 6 ∧ s.c.regionOk (s.c.xn b) pass ∧ s.c.xn b / 2 ^ 18 = h.val - 3 ∧ h.val - 3 ≠ g.val) →
      enters (.mmul t a g h b) 128 off (if h.val ≤ 1 then 0 else s.c.xn b)) ∧
    (s.Issues (.mmul t a g 2 b) → (s.c.capture.fmt).toNat % 64 = 48 ∨ (s.c.capture.fmt).toNat % 64 = 45 → s.c.regionOk off 32768 → off / 2 ^ 18 = g.val →
      s.wsTrap (s.c.xn b) pass = none → s.wsHeld (s.c.xn b) pass = false →
      ∃ r : State, exec (.mmul t a g 2 b) s = .next r ∧ r.c.arrayHolds (.mmul t a g 2 b) 128 off (s.c.xn b) ∧ streams r) ∧
    (s.Issues (.mldw w false a) → s.wsTrap off pass = none → s.wsHeld off pass = false →
      ∃ (r : State) (o : LoaderOp), exec (.mldw w false a) s = .next r ∧ r.c.loader = some o ∧ o.buf = w ∧ o.fromScratch = false ∧ o.off = off ∧ streams r) ∧
    (s.Issues (.mdrain t a ty p clr) → drains → s.c.regionOk off (16384 * z) →
      ∃ (o : ArrayOp) (st : Nat), exec (.mdrain t a ty p clr) s = .next (s.after { s.c with
          array := some o, shadow := s.c.shadow ++ [⟨.tstat t, st, 0, 6, s.c.age, 5⟩] }) ∧
        ({ s.c with array := some o } : Core).arrayHolds (.mdrain t a ty p clr) (32 * z) off 0 ∧ o.pred = s.c.rp p ∧
        st / 256 = (if (s.c.capture.fmt).toNat % 64 = 36 then 0 else
          ((List.range 128).filter (fun i => (List.range 128).any (fun j => (fp32.value (tileElem s.c.tiles[t] i j)).isNaN))).length) ∧
        st % 256 < 32 ∧
        ∀ x < 5, st.testBit x = true ↔ s.c.tflags[t].getLsbD x = true ∨ ∃ i < 128, (s.c.rp p).getLsbD (4 * i) = true ∧
          ∃ j < 128, (drained s.c.capture ty (tileElem s.c.tiles[t] i j)).2.getLsbD x = true) ∧
    (s.Issues (.mtt t u v) → enters (.mtt t u v) prod 0 0) ∧
    (s.Issues (.maddt t u v) → enters (.maddt t u v) prod 0 0) ∧
    (s.Issues (.mscl t u a) → enters (.mscl t u a) 32 0 (s.c.xn a % 2 ^ 32)) ∧
    (s.Issues (.mtrn t u) → enters (.mtrn t u) 32 0 0) ∧
    (s.Issues (.mnorm d u) → enters (.mnorm d u) 32 0 0) ∧
    (s.Issues (.mpoly t u k) → t ≠ u → enters (.mpoly t u k) 1 0 0) ∧
    (s.Issues (.miter t u m) → (m = false ∧ t = u) ∨ (m = true ∧ t ≠ u) → enters (.miter t u m) prod 0 0) ∧
    (s.Issues (.mldw w true a) → s.c.regionOk off pass → ∃ o : LoaderOp, exec (.mldw w true a) s = .next (s.after { s.c with loader := some o }) ∧
      o.buf = w ∧ o.fromScratch = true ∧ o.off = off ∧ o.cyc = 0 ∧ o.rows = [] ∧ (o.sq4 = true ↔ pass = 8192)) ∧
    (holds (.mload t a) → c.unitCycle.array = some { o with cyc := o.cyc + 1, aRows := o.aRows ++ [c.scratchRead (o.a + 512 * o.cyc) 512] }) ∧
    (holds (.mmul t a g h b) → c.unitCycle.array = some { o with
      cyc := o.cyc + 1, aRows := o.aRows ++ [c.scratchRead (o.a + 256 * o.cyc) 256]
      bRows := if h.val ≤ 2 then o.bRows else o.bRows ++
        [if o.cap.bfmt = 6 then c.scratchRead (o.b + 64 * o.cyc) 64 else c.scratchRead (o.b + 256 * o.cyc) 256] }) ∧
    (holds (.mdrain t a ty p clr) → drains → o.cyc < 32 * z → Memory.wf c.scratch = true → c.loader = none →
      (∀ i < 128, o.pred.getLsbD (4 * i) = true → i / (4 / z) = o.cyc →
        ∀ j < 128, c.unitCycle.scratchRead (o.a + 128 * z * i + z * j) z = (drained o.cap ty (was t i j)).1 % 256 ^ z) ∧
      ∀ x, x < o.a + 512 * o.cyc ∨ o.a + 512 * o.cyc + 512 ≤ x ∨ o.pred.getLsbD (4 * ((x - o.a) / (128 * z))) = false →
        c.unitCycle.byte x = c.byte x) ∧
    (ends (.mzero t) → s.leavesTile id t 0 true (fun _ _ => (0, 0))) ∧
    (ends (.mload t a) → o.aRows.length = 128 → s.leavesTile id t 0 true (fun i j => (bits (o.aRows.getD i 0) (32 * j) 32, 0))) ∧
    (ends (.mmul t a g h b) → o.aRows.length = 128 → h.val ≤ 1 ∨ o.bRows.length = 128 →
      s.leavesTile id t c.tflags[t] false (fun i j =>
        let w := if o.cap.bfmt = 6 then 512 else 2048
        passElem o.cap (if h.val = 1 then 1 else 0) (was t i j) (o.aRows.getD i 0)
          (if h.val ≤ 1 then bits (c.wbuf.toList.getD h.val 0).toNat (w * j) w else o.bRows.getD j 0) i j)) ∧
    (ends (.mdrain t a ty p clr) → ∃ c' : Core, exec (.mUnitCompletes id .array) s = .next (s.setCore c') ∧ c'.array = none ∧
      c'.tiles = (if clr then c.tiles.set t 0 else c.tiles) ∧ c'.tflags = (if clr then c.tflags.set t 0 else c.tflags) ∧ c'.scratch = c.scratch) ∧
    (ends (.mtt t u v) → s.leavesTile id t c.tflags[t] false (fun i j => feedDot fb 0 (partsRow fb o.tiles[u] i) (partsCol fb o.tiles[v] j))) ∧
    (ends (.maddt t u v) →
      s.leavesTile id t c.tflags[t] false (fun i j => feedDot fb (was t i j) (partsRow fb o.tiles[u] i) (partsCol fb o.tiles[v] j))) ∧
    (ends (.mscl t u a) → s.leavesTile id t c.tflags[t] false (fun i j => fpMul fp32 rneOff (was u i j) o.b)) ∧
    (ends (.mtrn t u) → s.leavesTile id t c.tflags[t] false (fun i j => (was u j i, 0))) ∧
    (ends (.mnorm d u) → ∃ c' : Core, exec (.mUnitCompletes id .array) s = .next (s.setCore c') ∧ c'.array = none ∧ c'.tiles = c.tiles ∧
      let r := frobenius ((List.range 128).map (fun i => (List.range 128).map (was u i)))
      c'.rs d = (if d = 0 then 0 else BitVec.ofNat 64 r.1) ∧ c'.tflags[u] = c.tflags[u] ||| r.2) ∧
    (ends (.mpoly t u k) → k.val = o.iter + 1 ∨ (k.val = 0 ∧ o.iter = 0) →
      s.leavesTile id t c.tflags[t] false (fun i j =>
        if k.val = 0 then (if i = j then coef 0 else 0, 0)
        else feedDot fb (if i = j then coef 0 else 0)
          (if o.iter = 0 then (List.range 128).map (fun x => wholeParts (if i = x then coef k.val else 0)) else partsRow fb c.tiles[t] i)
          (partsCol fb o.tiles[u] j))) ∧
    (c.loader = some ld → (if ld.sq4 then 16 else 64) ≤ ld.cyc →
      ∃ c' : Core, exec (.mUnitCompletes id .loader) s = .next (s.setCore c') ∧ c'.loader = none ∧
        (∀ x : Fin 2, x ≠ ld.buf → c'.wbuf[x] = c.wbuf[x]) ∧
        let n := if ld.fromScratch then 4096 else 512
        ∀ i, n * i < 262144 → bits c'.wbuf[ld.buf].toNat (n * i) n = ld.rows.getD i 0 % 2 ^ n)

/-- When its word issues, FMT and FMTS with no reserved format code enter the low ten bits for fmt with latency 5, and with one they raise ILLEGAL on the state before the word; SLA, SLB and SLQ from an aligned offset within the megabyte, in no reserved group, no window to fill and no poisoned line, enter their image of 4096, 4096 or 512 bytes with latency 3; SLZ enters the clearing of all three. -/
def Obligations.FormatAndLatchWrites : Prop :=
  ∀ (s : State) (f : BitVec 10) (a : Reg),
    let good (v : Nat) : Prop := v % 8 < 6 ∧ v / 8 % 8 < 7
    let ready (n : Nat) : Prop := s.c.xn a % 512 = 0 ∧ s.c.xn a + n ≤ 0x100000 ∧ s.c.bankConflict (s.c.xn a) n = false ∧
      s.c.needsFill (s.c.xn a) n = false ∧ s.c.scratchPoisoned (s.c.xn a) n = false
    (s.Issues (.fmt f) → (good f.toNat → exec (.fmt f) s = .next (s.entered 6 5 (.fmt false) f.toNat 0)) ∧
      (¬good f.toNat → exec (.fmt f) s = .next (s.trapNow s.illegal5))) ∧
    (s.Issues (.fmts a) → (good (s.c.xn a % 1024) → exec (.fmts a) s = .next (s.entered 6 5 (.fmt false) (s.c.xn a % 1024) 0)) ∧
      (¬good (s.c.xn a % 1024) → exec (.fmts a) s = .next (s.trapNow s.illegal5))) ∧
    (s.Issues (.sla a) → ready 4096 → exec (.sla a) s = .next (s.entered 6 3 (.latch 0) (s.c.scratchRead (s.c.xn a) 4096) 0)) ∧
    (s.Issues (.slb a) → ready 4096 → exec (.slb a) s = .next (s.entered 6 3 (.latch 1) (s.c.scratchRead (s.c.xn a) 4096) 0)) ∧
    (s.Issues (.slq a) → ready 512 → exec (.slq a) s = .next (s.entered 6 3 (.latch 2) (s.c.scratchRead (s.c.xn a) 512) 0)) ∧
    (s.Issues .slz → exec .slz s = .next (s.entered 6 3 (.latch 3) 0 0))

/-- When its word issues, on a compute core with the registers of R16 and on a partition core or the Umpire with those that R16 gives all cores, MFC of a register is answered: slice and decoupst with the value at issue and tick with no value yet as interlocked operations, any other with a pending write of latency 1 with the register's value, for coreno the fields of R19; MTC of a writable one enters a write of the bits that R16 gives its field, governing the next bundle (tagbits clears bits, fmt lands after 5 issue cycles), and one of fmt or corecfg that sets a reserved bit or code raises ILLEGAL; a register that the core lacks raises ILLEGAL, and MTC of a read-only one raises PRIVILEGE. -/
def Obligations.ControlRegisterForms : Prop :=
  ∀ (s : State) (d a : Reg) (n : BitVec 12),
    let k := n.toNat
    let held : Nat := if k = 0x11 then corenoFields s.umpire.standby s.c.id % 2 ^ 64 else (s.c.cr (Fin.ofNat 96 k)).toNat
    let own := isCompute s.c.id
    let ro : List Nat := if own then [2, 0x11, 0x14, 0x15, 0x16, 0x17, 0x38, 0x39, 0x40, 0x41, 0x42, 0x48, 0x49, 0x4A, 0x4C, 0x4D]
      else [0x11, 0x39, 0x48, 0x49]
    let rw : List Nat := if own then [0, 1, 4, 5, 6, 8, 9, 10, 0x10, 0x20, 0x21, 0x22, 0x23, 0x24, 0x25, 0x26, 0x27, 0x28, 0x29, 0x2A, 0x30, 0x31, 0x32, 0x50]
      else [0, 4, 5, 6, 8, 9, 10, 0x10, 0x38, 0x40, 0x41, 0x42]
    let dest : Option Dest := if d = 0 then none else some (.scalar d)
    (s.Issues (.mfc d n) →
      (k ∉ ro ++ rw → exec (.mfc d n) s = .next (s.trapNow s.illegal5)) ∧
      (k = 0x39 → exec (.mfc d n) s = .next (s.after { s.c with ilk := s.c.ilk ++ [⟨.tick, dest, s.c.age⟩] })) ∧
      (k = 0x38 ∨ (k = 0x32 ∧ own = true) →
        exec (.mfc d n) s = .next (s.after { s.c with ilk := s.c.ilk ++ [⟨.value held, dest, s.c.age⟩] })) ∧
      (k ∈ ro ++ rw → k ∉ [0x32, 0x38, 0x39] → exec (.mfc d n) s = .next (s.entered 0 1 (.scalar d) held 0))) ∧
    (s.Issues (.mtc a n) →
      (k ∉ ro ++ rw → exec (.mtc a n) s = .next (s.trapNow s.illegal5)) ∧
      (k ∈ ro → ∃ v, exec (.mtc a n) s = .next (s.trapNow ⟨.privilege, v⟩)) ∧
      (k = 0 → exec (.mtc a n) s = .next (s.after (s.c.clearTags (s.c.rs a)))) ∧
      (k = 1 → own = true → exec (.mtc a n) s = .next (if fmtBad (s.c.rs a) then s.trapNow s.illegal5 else s.entered 0 5 (.fmt true) (s.c.xn a) 0)) ∧
      (k = 0x10 → exec (.mtc a n) s = .next (if s.c.xn a < 4 then s.entered 0 1 (.ctl (Fin.ofNat 96 k)) (s.c.xn a) 0 else s.trapNow s.illegal5)) ∧
      (k ∈ rw → k ∉ [0, 1, 0x10] → exec (.mtc a n) s = .next (s.entered 0 1 (.ctl (Fin.ofNat 96 k)) (s.c.xn a % 2 ^ crBits k) 0)))

/-- When its word issues on a partition core or on the Umpire in its handler with a trappc that is a multiple of 4 below 2^49, TRET asks for a taken branch to trappc and for the end of the handler at the end of its bundle, and changes nothing else; outside the handler it raises ILLEGAL with reason 0x05, and on a compute core PRIVILEGE. -/
def Obligations.TrapReturnForms : Prop :=
  ∀ s : State, s.Issues .tret →
    (isCompute s.c.id = false → s.c.frozen.isSome = true → goodTarget (s.c.cr crTrappc) →
      exec .tret s = .next (s.after { s.c with flow :=
        { s.c.flow with branch := some (s.c.cr crTrappc).toNat, isCall := true, tret := true } })) ∧
    (isCompute s.c.id = false → s.c.frozen = none → exec .tret s = .next (s.trapNow s.illegal5)) ∧
    (isCompute s.c.id = true → ∃ v, exec .tret s = .next (s.trapNow ⟨.privilege, v⟩))

/-- When its word issues, its tag is free, its descriptor and its list can be read and keep the limits of R194 and of its own rule, and its addresses and local rows are in range, each copy form makes one command outstanding that holds the captured descriptor, scalars and list and one box for each 4096 bytes; the tag's bit is cleared for the next bundle and nothing else changes. COPY_BOX_COMPLETE of the one box that a resident command has still to start moves it and sets its bit: for a box of whole lines of one row at either end, to one destination and without reduction, each line of the destination holds what its source line showed, or, for XCPH, the AES-256-GCM text of the box under the link key, where the tag in host memory is that of the text or is written there; a poisoned source line poisons its destination line; in a scratchpad no other byte changes, global lines become pending stores of the command's engine, and memory is as it was. That a box moves in one event is the model's choice (assumption log 11). -/
def Obligations.CopyCommandsBecomeOutstanding : Prop :=
  ∀ (s : State) (a b : Reg) (x : Xc), s.takesTag x → s.c.operandOk (s.c.xn a) 64 64 →
    let d := s.c.scratchRead (s.c.xn a) 64
    let c := copyOf d
    let made (i : Instr) (m : Cmd) : Prop := s.copyReaches m → s.makes i { m with boxes := ceilDiv m.copy.total 4096 }
    (s.Issues (.xcp a x) → copyFieldsOk d = true → noHostFields d = true → noMultiFields d = true → c.sspc ≠ 3 → c.dspc ≠ 3 →
      made (.xcp a x) (s.cmd0 (.xcp a x) x d)) ∧
    (s.Issues (.xcph a b x) → b.val % 2 = 0 → copyFieldsOk d = true → noMultiFields d = true → d.testBit 335 = false →
      (c.sspc = 3 ∧ (c.dspc = 0 ∨ c.dspc = 2)) ∨ (c.dspc = 3 ∧ (c.sspc = 0 ∨ c.sspc = 2)) →
      (s.vf (field d 44 2)).part = some (s.partOf (clusterOf s.c.id)) → linkTrap s (field d 41 1) = none →
      made (.xcph a b x) { s.cmd0 (.xcph a b x) x d with opB := s.c.rs b, opB1 := s.c.rs (b + 1) }) ∧
    (s.Issues (.xmc a b x) → copyFieldsOk d = true → noHostFields d = true → c.dst = 0 → c.dspc = 2 → c.sspc ≠ 3 → field d 42 1 ≤ 5 →
      1 ≤ field d 43 1 → field d 43 1 ≤ 16 → s.c.operandOk (s.c.xn b) (8 * field d 43 1) 64 →
      let l := (List.range (field d 43 1)).map (fun j => field (s.c.scratchRead (s.c.xn b) (8 * field d 43 1)) (8 * j) 8)
      ropAligned d l = true → made (.xmc a b x) { s.cmd0 (.xmc a b x) x d with opB := s.c.rs b, list := l }) ∧
    (∀ i, (i = .xga a b x ∨ i = .xsc a b x) → s.Issues i → copyFieldsOk d = true → noHostFields d = true → noMultiFields d = true →
      c.sspc ≠ 3 → c.dspc ≠ 3 → s.c.operandOk (s.c.xn b) (4 * c.rows) 64 →
      made i { s.cmd0 i x d with opB := s.c.rs b, list := lanesOf 32 c.rows (s.c.scratchRead (s.c.xn b) (4 * c.rows)) }) ∧
    (s.Issues (.xgate a x) → field d 1 7 = 0 → field d 28 36 = 0 → 1 ≤ field d 24 4 → field d 24 4 ≤ 1048576 →
      field d 8 8 < 2 ^ 49 → field d 16 8 < 2 ^ 49 → s.gateOk s.c.party d = true →
      made (.xgate a x) { s.cmd0 (.xgate a x) x d with list := [(s.gate (s.ctx s.c.party.ctx).wld (field d 0 1)).epoch] }) ∧
    ∀ (k : CoreId) (m : Cmd) (b n : Nat) (src dst : Nat → Loc) (v : Nat),
      let read (j : Nat) : Nat × Bool := s.locRead k (src j) 64
      let ends (u : State) : Prop := exec (.copyBoxComplete (.core k) m.tag b) s = .next u ∧
        (u.cmdAt (.core k) m.tag).map (·.bitmap) = some (m.bitmap ||| 1 <<< b)
      (s.core k).id = k → s.startsBox k m b → s.boxLines k m b n src dst → m.reduces = false →
      ((∀ a b x, m.instr ≠ .xcph a b x) →
        ∃ u, ends u ∧ s.boxWritten u k m n dst (fun j => (read j).1) (fun j => (read j).2)) ∧
      ((∃ a b x, m.instr = .xcph a b x) → v < 256 ^ (64 * n) → (∀ j < n, bits v (512 * j) 512 = (read j).1) →
        let key := natBytes 32 (s.key (m.d 41 1)).key.toNat
        let text := natBytes (64 * n) v
        let moved := gcmCrypt key (m.iv b) text
        let tagAt := hostKey (m.d 44 2) ((m.d 48 8 + 16 * b) % 2 ^ 64)
        let line (j : Nat) : Nat := bits (natOfLE moved) (512 * j) 512
        (m.copy.sspc = 3 → gcmTag key (m.iv b) (natBytes 8 b) text = natBytes 16 (memRead s.host tagAt 16) →
          ∃ u, ends u ∧ s.boxWritten u k m n dst line (fun _ => false)) ∧
        (m.copy.sspc ≠ 3 → m.copy.dspc = 3 → (∀ j < n, (read j).2 = false) → Memory.wf s.host = true →
          (∀ h, (∀ j < n, dst j = .host (h + 64 * j)) → tagAt + 16 ≤ h ∨ h + 64 * n ≤ tagAt) →
          ∃ u, ends u ∧ s.boxWritten u k m n dst line (fun _ => false) ∧
            memRead u.host tagAt 16 = natOfLE (gcmTag key (m.iv b) (natBytes 8 b) moved)))

/-- When the word of a command with a descriptor issues, a tag that a command of the core holds, a scope above .sys or a scope without an order raises ILLEGAL with reason 0x05; else a descriptor offset that is not a multiple of 64 raises MISALIGNED, else one past the end of the scratchpad SCRATCH_RANGE, else one in a group reserved by the core's own M slot BANK_CONFLICT, else, where its windows are filled, one in a poisoned line POISON_CONSUMED. The answer is the trap taken on the state before the word. -/
def Obligations.CommandChecks : Prop :=
  ∀ (s : State) (i : Instr) (a b : Reg) (x : Xc), s.Issues i →
    i ∈ [.xcp a x, .xcph a b x, .xmc a b x, .xga a b x, .xsc a b x, .xgate a x, .launch a x, .wjw a x, .wjc a x, .wja a x, .wjd a x,
      .xhash a x, .xsign a x, .xvfy a x] →
    let off := s.c.xn a
    (¬ s.takesTag x → exec i s = .next (s.trapNow s.illegal5)) ∧
    (s.takesTag x → off % 64 ≠ 0 → exec i s = .next (s.trapNow ⟨.misaligned, addrInfo off⟩)) ∧
    (s.takesTag x → off % 64 = 0 → s.c.scratchSize < off + 64 → exec i s = .next (s.trapNow ⟨.scratchRange, addrInfo off⟩)) ∧
    (s.takesTag x → off % 64 = 0 → off + 64 ≤ s.c.scratchSize → s.c.bankConflict off 64 = true →
      exec i s = .next (s.trapNow ⟨.bankConflict, addrInfo off⟩)) ∧
    (s.takesTag x → off % 64 = 0 → off + 64 ≤ s.c.scratchSize → s.c.bankConflict off 64 = false → s.c.needsFill off 64 = false →
      s.c.scratchPoisoned off 64 = true → exec i s = .next (s.trapNow ⟨.poisonConsumed, addrInfo off⟩))

/-- When its word issues and its tag is free, each of GSMPL, GFORK, GTRUNC, GINS and GSNAP makes one command outstanding that holds its scalars (for GSMPL an address below 2^49 that is a multiple of 32, for GINS of 8); a misaligned address raises MISALIGNED. -/
def Obligations.StreamCommandsBecomeOutstanding : Prop :=
  ∀ (s : State) (a b : Reg) (x : Xc), s.takesTag x →
    let made (i : Instr) (y : Word) : Prop := s.makes i { s.cmd0 i x 0 with opA := s.c.rs a, opB := y }
    (s.Issues (.gsmpl a b x) → s.c.xn b < 2 ^ 49 →
      if s.c.xn b % 32 = 0 then made (.gsmpl a b x) (s.c.rs b)
      else exec (.gsmpl a b x) s = .next (s.trapNow ⟨.misaligned, addrInfo (s.c.xn b)⟩)) ∧
    (s.Issues (.gins a b x) → s.c.xn b < 2 ^ 49 →
      if s.c.xn b % 8 = 0 then made (.gins a b x) (s.c.rs b)
      else exec (.gins a b x) s = .next (s.trapNow ⟨.misaligned, addrInfo (s.c.xn b)⟩)) ∧
    (s.Issues (.gfork a b x) → made (.gfork a b x) (s.c.rs b)) ∧
    (s.Issues (.gtrunc a b x) → made (.gtrunc a b x) (s.c.rs b)) ∧
    (s.Issues (.gsnap a x) → made (.gsnap a x) 0)

/-- When its word issues, its tag is free and its descriptor can be read: LAUNCH with acceptable fields, addresses below 2^49 and clusters of its own partition makes a command and one launch of the descriptor's range, whose template is still to be read; WJW with acceptable fields, a transaction that admits it, segments that the task may write and a source in range makes a command; WJC and WJD do so for the open Staging transaction and WJA for the Committed one. The attempt of a form writes one unit, which is in error only where the attempt does not verify, and leaves every unit of another place as it was: of a WJW, behind the state that opens its transaction and its range record, the next 64 source bytes, exclusive-or the key stream of their target under the transaction's sequence, at the next data unit of the journal; of a WJA of a transaction with one range, the next target, which takes the staged bytes unchanged under that sequence. -/
def Obligations.LaunchAndJournalCommands : Prop :=
  ∀ (s : State) (a : Reg) (x : Xc), s.takesTag x → s.c.operandOk (s.c.xn a) 64 64 →
    let d := s.c.scratchRead (s.c.xn a) 64
    (s.Issues (.launch a x) → launchOk d = true → field d 0 8 < 2 ^ 49 → field d 24 8 < 2 ^ 49 →
      (∀ j < 32, d.testBit (128 + j) = true → (s.part (s.partOf (clusterOf s.c.id))).clusters.getLsbD j = true) →
      ∃ l : Launch, exec (.launch a x) s = .next
          { s.after (({ s.c with cmds := s.c.cmds ++ [s.outstanding (s.cmd0 (.launch a x) x d)] } : Core).clearTags (1 <<< x.tag.val)) with
            launches := s.launches ++ [l], ids := s.ids + 2 } ∧
        l.lo = field d 8 4 ∧ l.hi = field d 12 4 ∧ l.tmpl = field d 0 8 ∧ l.bitmap = field d 24 8 ∧ l.qn = field d 22 2 ∧
        l.cmask = BitVec.ofNat 32 (field d 16 4) ∧ l.tag = x.tag ∧ l.issuer = s.c.id ∧ l.seq = s.ids ∧ l.done = [] ∧ l.chunks = [] ∧
        l.ready = false ∧ l.dead = false) ∧
    (s.Issues (.wjw a x) → wjwOk d = true → s.wjwState d = true → field d 16 4 + field d 12 4 ≤ s.c.scratchSize →
      s.c.needsFill (field d 16 4) (field d 12 4) = false →
      (∀ n ∈ segsOf (field d 8 4) (field d 12 4), s.segWritable n = true) → s.makes (.wjw a x) (s.cmd0 (.wjw a x) x d)) ∧
    (s.Issues (.wjc a x) → s.journalNamed d 1 = true →
      (∀ r ∈ (s.journalNext s.c.id).ranges, ∀ n ∈ segsOf r.1 r.2.1, s.segWritable n = true) → s.makes (.wjc a x) (s.cmd0 (.wjc a x) x d)) ∧
    (s.Issues (.wja a x) → s.journalNamed d 2 = true → s.c.readsSet (field d 20 2) = false → s.makes (.wja a x) (s.cmd0 (.wja a x) x d)) ∧
    (s.Issues (.wjd a x) → s.journalNamed d 1 = true → s.makes (.wjd a x) (s.cmd0 (.wjd a x) x d)) ∧
    ∀ (k : CoreId) (m : Cmd) (r : TaskRef) (o n j0 p : Nat),
      let w := (s.core k).ws
      let j := w.jnl
      let j1 := if j.st = 0 then j.jhead % 2048 else (j.jstart + unitsOf j.ranges) % 2048
      let u := m.d 8 4 / 64 + p
      let wrote (t : State) (v : Nat) (x : WUnit) : Prop :=
        ((t.core k).ws.unit v = x ∨ (t.core k).ws.unit v = { x with bad := true }) ∧
        (Config.verifyPasses s.freeCtr w.tries = true → (t.core k).ws.unit v = x) ∧
        ∀ y, w.place y ≠ w.place v → (t.core k).ws.unit y = w.unit y
      (s.core k).id = k → w.tries < 5 →
      (s.journalHead k = some (.core k, m) → m.core = k → s.cmdAt (.core k) m.tag = some m → (∃ b y, m.instr = .wjw b y) → j.st ≤ 1 →
        m.fault = none → m.done = false → m.list[p]? = some n → w.pos = p + (if j.st = 0 then 2 else 1) →
        ∃ t : State, exec (.commandCompletes (.core k) m.tag) s = .next t ∧ wrote t (dataUnit (j1 + p))
          (unitOf (n ^^^ unitStream (s.key (w.seg (u / 1024)).slot).key (clusterOf k) (coreNumber k) u (BitVec.ofNat 64 (m.d 0 8)))
            (BitVec.ofNat 64 (m.d 0 8)).toNat)) ∧
      (s.journalHead k = some (r, m) → (∃ b y, m.instr = .wja b y) → j.st = 2 → w.running = true ∨ s.readers j.wset = 0 →
        j.ranges = [(o, n, j0)] → w.pos = p → p < n / 64 →
        ∃ t : State, exec (.wjaApply k) s = .next t ∧
          wrote t (o / 64 + p) (unitOf (w.unit (dataUnit (j0 + p))).data.toNat j.seq))

/-- When its word issues, its tag is free, its descriptor can be read with its reserved bytes 0, and every range that it names is a multiple of 64, lies in the scratchpad and needs no fill, XHASH, XSIGN (with the number of a device key) and XVFY make one command outstanding and change nothing else. When the engine takes such a command up, on a core that is not frozen, with every range filled, no line that it reads poisoned and the accesses before it performed, it leaves in the scratchpad the SHA-384 digest, the signature under the device key, or the result word of the verification, and every other byte as it was. That kid 1 always names a device key, and another number where Config.deviceKey is not 0, is the model's choice (assumption log 31; R424). -/
def Obligations.SecurityCommandsBecomeOutstanding : Prop :=
  ∀ (s : State) (a : Reg) (x : Xc) (i : Instr), s.takesTag x → s.c.operandOk (s.c.xn a) 64 64 →
    let d := s.c.scratchRead (s.c.xn a) 64
    let m := s.cmd0 i x d
    (i = .xhash a x ∧ field d 12 52 = 0 ∧ field d 4 4 ≤ s.c.scratchSize) ∨
      (i = .xsign a x ∧ field d 12 52 = 0 ∧ field d 4 4 < 16 ∧ (field d 4 4 = 1 ∨ Config.deviceKey (field d 4 4) ≠ 0)) ∨ (i = .xvfy a x ∧ field d 16 48 = 0) →
    (s.Issues i → (∀ r ∈ m.secReads ++ [m.secOut], r.1 % 64 = 0 ∧ r.1 + r.2 ≤ s.c.scratchSize ∧ s.c.needsFill r.1 r.2 = false) →
      s.makes i m) ∧
    ∀ (k : CoreId) (g : Cmd) (out : Nat) (bs : List (BitVec 8)),
      let c := s.core k
      let taken (off n : Nat) : List (BitVec 8) := bytesOf n (c.scratchRead off n)
      c.id = k → Memory.wf c.scratch = true → s.cmdAt (.core k) g.tag = some g → g.done = false → g.fault = none → c.earlierSeen g = true →
      c.freeze = 0 → (∀ r ∈ g.secReads ++ [g.secOut], c.needsFill r.1 r.2 = false) →
      (∀ r ∈ g.secReads, ∀ y, r.1 ≤ y → y < r.1 + r.2 → y / 64 ∉ c.poison) →
      (∃ b y, g.instr = .xhash b y ∧ out = g.d 8 4 ∧ bs = sha384 (taken (g.d 0 4) (g.d 4 4))) ∨
        (∃ b y, g.instr = .xsign b y ∧ out = g.d 8 4 ∧ bs = ecSign (Config.deviceKey (g.d 4 4)) (taken (g.d 0 4) 48)) ∨
        (∃ b y, g.instr = .xvfy b y ∧ out = g.d 12 4 ∧
          bs = bytesOf 8 (if ecVerify (taken (g.d 4 4) 96) (taken (g.d 0 4) 48) (taken (g.d 8 4) 96) then 1 else 0)) →
      ∃ t : State, exec (.commandCompletes (.core k) g.tag) s = .next t ∧ t.mem = s.mem ∧ t.stores = s.stores ∧
        (∀ j < bs.length, (t.core k).byte (out + j) = bs.getD j 0) ∧
        ∀ y, (y < out ∨ out + bs.length ≤ y) → (t.core k).byte y = c.byte y

/-- When its word issues: XWIN of a region of whole 4 KiB pieces within the megabyte that meets no other of fewer than 16 windows, on an aligned address below 2^49, adds a window of unfilled pieces, and XWIN .drop removes a window on which no command is outstanding; XWB of an existing window makes a command whose boxes are the window's pieces, those that are not dirty counting as complete, and leaves no piece dirty; XINV makes a command and leaves every piece of the window unfilled, but for one that is being filled; XCAN ends every named command that moves in boxes or has faulted, without its tag, with its launch, and with the later journal forms of the core that issued a faulted journal form, and its successor waits exactly if another named command is left. Nothing else changes. That the launch of a faulted LAUNCH ends with its command is the model's reading (assumption log 35), and that XWB's boxes are all pieces of the window, the clean ones complete, its choice (assumption log 33; R314). -/
def Obligations.WindowCommands : Prop :=
  ∀ (s : State) (a b : Reg) (x : Xc) (w : Window),
    let r := s.c.rs a
    let off := r.toNat % 2 ^ 20
    let n := r.toNat / 2 ^ 20
    let onPieces (f : Piece → Piece) : List Window :=
      s.c.wins.map (fun w => if w.region = r then { w with pieces := w.pieces.map f } else w)
    let made (i : Instr) (ws : List Window) (m : Cmd) : Prop := exec i s = .next
      { s.after (({ s.c with wins := ws, cmds := s.c.cmds ++ [s.outstanding m] } : Core).clearTags (1 <<< x.tag.val)) with ids := s.ids + 1 }
    let gone (m : Cmd) : Bool := r.getLsbD m.tag.val && (m.hasBoxes || m.fault.isSome)
    let lost (m : Cmd) : Bool := m.isJournal && s.c.cmds.any (fun g => gone g && g.isJournal && decide (g.core = m.core ∧ g.seq < m.seq))
    let waits := (s.c.cmds.filter (fun m => r.getLsbD m.tag.val && !gone m && !lost m)).map (·.tag)
    (s.Issues (.xwin a b false) → r.toNat < 2 ^ 32 → off % 4096 = 0 → 1 ≤ n → n ≤ 256 → off + 4096 * n ≤ 0x100000 → s.c.xn b % 4096 = 0 →
      s.c.xn b < 2 ^ 49 → s.c.wins.length < 16 → (∀ w ∈ s.c.wins, regionsMeet w.region r = false) →
      exec (.xwin a b false) s = .next (s.after { s.c with wins := s.c.wins ++ [⟨r, s.c.xn b, List.replicate n .unfilled⟩] })) ∧
    (s.Issues (.xwin a b true) → (∃ w ∈ s.c.wins, w.region = r) → s.c.windowBusy r = false →
      exec (.xwin a b true) s = .next (s.after { s.c with wins := s.c.wins.filter (fun w => decide (w.region ≠ r)) })) ∧
    (s.Issues (.xwb a x) → s.takesTag x → s.c.wins.find? (fun w => decide (w.region = r)) = some w → w.pieces.length ≤ 256 →
      ∃ bits : BitVec 256, made (.xwb a x) (onPieces (fun p => if p = .dirty then .clean else p))
          { s.cmd0 (.xwb a x) x 0 with opA := r, boxes := w.pieces.length, bitmap := bits } ∧
        ∀ j < 256, bits.getLsbD j = true ↔ w.pieces[j]? ≠ some .dirty) ∧
    (s.Issues (.xinv a x) → s.takesTag x → (∃ w ∈ s.c.wins, w.region = r) →
      made (.xinv a x) (onPieces (fun p => if p = .filling then .filling else .unfilled)) { s.cmd0 (.xinv a x) x 0 with opA := r }) ∧
    (s.Issues (.xcan a) → (∀ v ∈ s.tasks, ∀ m ∈ v.cmds, lost m = false) → exec (.xcan a) s = .next
      { s.after { s.c with
          cmds := s.c.cmds.filter (fun m => !(s.c.cmds.any (fun g => gone g && decide (g.seq = m.seq)) || lost m))
          flow := { s.c.flow with wait := if waits = [] then s.c.flow.wait else some (.xcan waits) } } with
        others := s.others.map (fun e => (e.1, { e.2 with cmds := e.2.cmds.filter (fun m => !lost m) }))
        launches := s.launches.filter (fun l => !(decide (l.issuer = s.c.id) && s.c.cmds.any (fun g => gone g && decide (g.seq = l.seq)))) })

/-- When its word issues with a handle that R203 accepts: QENQ, and TQPUSH of a record that R217 accepts and that it reads from the scratchpad, leave their append outstanding behind a release of the core's earlier accesses, with the predicate as its destination, none for p0; QDEQ joins the waiters of its queue behind those before it, as an interlocked operation with no value yet; nothing else changes. An append whose release is performed to a full queue delivers an all-zero predicate and changes nothing else; one to a queue with room whose slot can be written delivers an all-ones predicate, leaves memory with the item or record in the tail's slot, and advances the tail by one. That QENQ and TQPUSH issue at once, and their append follows when the release is performed, is the model's reading (assumption log 63). -/
def Obligations.QueueForms : Prop :=
  ∀ (s : State) (p : PReg) (d a b : Reg) (part qn off age : Nat) (v : Word) (rec' : BitVec 512) (kind : IlkKind),
    let here := s.partOf (clusterOf s.c.id)
    let own := s.queue here (s.c.xn a)
    let q := s.queue part qn
    let r := BitVec.ofNat 512 (s.c.scratchRead (s.c.xn b) 64)
    let pd : Option Dest := if p = 0 then none else some (.pred p)
    let ends (x : Pred) : Core := ({ s.c with ilk := [] } : Core).writeP p x
    let outstanding (i : Instr) (k : IlkKind) : Prop := exec i s = .next (s.after { s.c with ilk := s.c.ilk ++ [⟨k, pd, s.c.age⟩] })
    (s.Issues (.qenq p a b) → s.handleOk (s.c.rs a) false → outstanding (.qenq p a b) (.enq here (s.c.xn a) (s.c.rs b))) ∧
    (s.Issues (.tqpush p a b) → s.handleOk (s.c.rs a) true → s.c.operandOk (s.c.xn b) 64 64 → recResume r = false → recMalformed r = false →
      recFar r = none → (isCompute s.c.id = true → recField r 40 1 = s.c.party.comp) →
      outstanding (.tqpush p a b) (.push here (s.c.xn a) r (s.c.xn b))) ∧
    (s.Issues (.qdeq d a) → s.handleOk (s.c.rs a) false →
      exec (.qdeq d a) s = .next { s.after { s.c with ilk := s.c.ilk ++ [⟨.qdeq here (s.c.xn a) none, if d = 0 then none else some (.scalar d), s.c.age⟩] } with
        queues := put s.queues (here, s.c.xn a) { own with waiters := own.waiters ++ [.core s.c.id] } }) ∧
    (∀ x, (kind = .enq part qn v ∧ x = v.toNat) ∨ (kind = .push part qn rec' off ∧ recTooLarge rec' = false ∧ x = rec'.toNat) →
      s.c.ilk = [⟨kind, pd, age⟩] → s.released →
      (q.stopped = false → q.used = q.size → exec (.interlockedResultArrives s.c.id 0) s = .next { s with c := ends 0 }) ∧
      (∀ u, q.stopped = false → q.used ≠ q.size → s.writeRange (queueParty q) (q.slotAddr q.tail) q.slotBytes x = .ok u →
        ∃ t : State, exec (.interlockedResultArrives s.c.id 0) s = .next t ∧ t.mem = u.mem ∧ (t.queue part qn).tail = (q.tail + 1) % 2 ^ 32 ∧
          t.c.ilk = [] ∧ t.c.rp p = BitVec.allOnes 512))

/-- When its word issues: WWEAR of a segment below 1024 makes its counter the result of an interlocked operation and a higher number raises SCRATCH_RANGE; XHINT of 1 to 64 acceptable entries makes them the hints of the core, with counts of 0; XPWR of a value below 4 changes nothing; XEVT with a code of at least 0x80, or on the Umpire, leaves its entry outstanding behind a release of the earlier accesses, and elsewhere a lower code raises PRIVILEGE; when that release is performed the event is recorded with the scalar. That XEVT issues at once, and its entry follows, is the model's reading of R215 (assumption log 63). -/
def Obligations.WearHintPowerAndEventForms : Prop :=
  ∀ (s : State) (d a b : Reg) (code : BitVec 8) (n ctx age : Nat) (v : Word),
    (s.Issues (.wwear d a) →
      (s.c.xn a < 1024 → exec (.wwear d a) s = .next (s.after (s.c.await d (BitVec.ofNat 64 (look 0 s.c.ws.wear (s.c.xn a)))))) ∧
      (1024 ≤ s.c.xn a → exec (.wwear d a) s = .next (s.trapNow ⟨.scratchRange, addrInfo (s.c.xn a)⟩))) ∧
    (s.Issues (.xhint a b) → 1 ≤ s.c.xn b → s.c.xn b ≤ 64 → s.c.operandOk (s.c.xn a) (16 * s.c.xn b) 16 →
      let entry (j : Nat) : Nat := field (s.c.scratchRead (s.c.xn a) (16 * s.c.xn b)) (16 * j) 16
      (∀ j < s.c.xn b, field (entry j) 0 8 < 2 ^ 49 ∧ field (entry j) 12 1 ≤ 3 ∧ field (entry j) 13 3 = 0) →
      ∃ t : State, exec (.xhint a b) s = .next t ∧ t.verdict = .issued ∧
        t.c.hints = (List.range (s.c.xn b)).map (fun j => ⟨field (entry j) 0 8, field (entry j) 8 4, field (entry j) 12 1, 0, 0⟩)) ∧
    (s.Issues (.xpwr a) → (s.c.xn a < 4 → exec (.xpwr a) s = .next (s.after s.c)) ∧
      (4 ≤ s.c.xn a → exec (.xpwr a) s = .next (s.trapNow s.illegal5))) ∧
    (s.Issues (.xevt a code) →
      (128 ≤ code.toNat ∨ s.c.id = .umpire →
        exec (.xevt a code) s = .next (s.after { s.c with
          ilk := s.c.ilk ++ [⟨.evt code.toNat ((s.c.cr crCtxid).toNat % 2 ^ 9) (s.c.rs a), none, s.c.age⟩] })) ∧
      (code.toNat < 128 → s.c.id ≠ .umpire → ∃ v, exec (.xevt a code) s = .next (s.trapNow ⟨.privilege, v⟩))) ∧
    (s.c.ilk = [⟨.evt n ctx v, none, age⟩] → s.released → exec (.interlockedResultArrives s.c.id 0) s = .next
      ((s.observeTick.logEntry n (corenoOf s.umpire.standby s.c.id) ctx (s.ctx ctx).wld v.toNat 0).setCore { s.c with ilk := [] }))

/-- SHADOW_WRITE_LANDS of a compute core with one entry, whose count is 0, writes its scalar, sets its flags in fmt and empties the queue; of two entries whose count is 0, with one behind that counts on, both land, the later-issued one last and of one bundle the higher slot's, so that its value stands where both write one register, and the flags of both are joined in fmt; INTERLOCKED_RESULT_ARRIVES of a fixed result writes its scalar and removes the operation; VTOQ_PUSH_LANDS with a QPOP pending and a landed oldest entry writes the entry to its scalar and removes both; a write to s0 is discarded; CORRECTABLE_ERROR_FREEZE leaves its core frozen for 24 cycles and FREEZE_END leaves it going on, with nothing else changed. -/
def Obligations.ResultsLandAndFreezesEnd : Prop :=
  ∀ (s : State) (k : CoreId) (n v age slot : Nat) (d : Reg) (f : Flags) (e : RqEntry) (rest : List RqEntry),
    let c := s.core k
    let got (c' : Core) (x : Word) : Prop := c'.rs d = if d = 0 then 0 else x
    (c.shadow = [⟨.scalar d, v, f, 0, age, slot⟩] → isCompute c.id = true →
      ∃ c', exec (.shadowWriteLands k) s = .next (s.setCore c') ∧ c'.shadow = [] ∧ got c' (BitVec.ofNat 64 v) ∧
        c'.cr crFmt = c.cr crFmt ||| (f.zeroExtend 64 <<< 16)) ∧
    (∀ (x y z : Entry) (a b : Reg), c.shadow = [x, y, z] → isCompute c.id = true → x.dest = .scalar a → y.dest = .scalar b →
      x.remaining = 0 → y.remaining = 0 → z.remaining ≠ 0 → x.age ≠ y.age ∨ x.slot ≠ y.slot →
      let last := if x.age < y.age ∨ (x.age = y.age ∧ x.slot < y.slot) then y else x
      let first := if x.age < y.age ∨ (x.age = y.age ∧ x.slot < y.slot) then x else y
      ∃ c', exec (.shadowWriteLands k) s = .next (s.setCore c') ∧ c'.shadow = [z] ∧
        c'.cr crFmt = c.cr crFmt ||| ((x.flags ||| y.flags).zeroExtend 64 <<< 16) ∧
        ∀ r : Reg, c'.rs r = if r = 0 then 0 else if last.dest = .scalar r then BitVec.ofNat 64 last.value
          else if first.dest = .scalar r then BitVec.ofNat 64 first.value else c.rs r) ∧
    (c.ilk[n]? = some ⟨.value v, some (.scalar d), age⟩ →
      ∃ c', exec (.interlockedResultArrives k n) s = .next (s.setCore c') ∧ c'.ilk = dropNth c.ilk n ∧ got c' (BitVec.ofNat 64 v)) ∧
    (c.qpop = some d → c.rq = e :: rest → e.remaining = 0 →
      ∃ c', exec (.vtoqPushLands k) s = .next (s.setCore c') ∧ c'.qpop = none ∧ c'.rq = rest ∧ got c' e.value) ∧
    (k = s.c.id → ∃ t : State, exec (.correctableErrorFreeze k) s = .next t ∧ t.c.freeze = 24 ∧ t.c.pc = s.c.pc ∧ t.c.s = s.c.s) ∧
    exec (.freezeEnd k) s = .next (s.setCore { c with freeze := 0 })

/-- An array instruction other than MITER, and an MLDW, whose last issue cycle has passed leave their unit free; an array instruction whose operand is poisoned leaves the unit free with POISON_CONSUMED due at the offset; a MITER phase 0 that has had its cycles goes on to phase 1 or leaves the unit free with DIVERGENCE due; VSRED with more than one vector left, behind no gather or scatter, whose next one can be read, counts it; a gather or scatter element that passes the checks of R130 is performed, while its core saves no task, and the latch goes on behind it; beside the two cores it changes only what the module notes of release sequences (R243 to R245). -/
def Obligations.UnitEventsGoOn : Prop :=
  ∀ (s : State) (k : CoreId) (o : ArrayOp) (l : LoaderOp) (x : Nat) (t : Stream) (g : Gather),
    let c := s.core k
    (c.array = some o → o.isMiter = false → o.total ≤ o.cyc →
      ∃ c', exec (.mUnitCompletes k .array) s = .next (s.setCore c') ∧ c'.array = none) ∧
    (c.loader = some l → 64 ≤ l.cyc → ∃ c', exec (.mUnitCompletes k .loader) s = .next (s.setCore c') ∧ c'.loader = none) ∧
    (c.array = some o → c.arrayPoison o = some x → ∃ c', exec (.arrayPoisonDetected k .array) s = .next (s.setCore c') ∧
      c'.array = none ∧ c'.due = c.due ++ [⟨.poisonConsumed, addrInfo x⟩]) ∧
    (c.array = some o → (∃ d a m, o.instr = .miter d a m) → o.phase = 0 → o.total ≤ o.cyc →
      ∃ c', exec (.miterPhaseEnd k) s = .next (s.setCore c') ∧
        ((c'.array = none ∧ ∃ v, c'.due = c.due ++ [⟨.divergence, v⟩]) ∨ ∃ o', c'.array = some o' ∧ o'.phase = 1 ∧ o'.cyc = 0 ∧ o'.iter = o.iter)) ∧
    (c.stream = some t → c.gather = none → c.due = [] → c.saving = none → c.freeze = 0 → t.done + 1 < t.count → c.bankConflict (t.addr + 512 * t.done) 512 = false →
      c.needsFill (t.addr + 512 * t.done) 512 = false → c.scratchPoisoned (t.addr + 512 * t.done) 512 = false →
      ∃ c' t', exec (.vsredVectorRead k) s = .next (s.setCore c') ∧ c'.stream = some t' ∧ t'.done = t.done + 1 ∧ t'.count = t.count) ∧
    (c.gather = some g → c.due = [] → c.saving = none → g.next < g.count → s.elemCause k g (g.addr g.next) = none → c.ilk = [] →
      let n := sizeBytes g.size
      let off := g.addr g.next % 2 ^ 20
      let target := s.core (caTarget k (g.addr g.next))
      target.freeze = 0 → target.needsFill off n = false →
      (g.load = true → ∃ t : State, exec (.gatherScatterElement k) s = .next (t.setCore (c.gatherEnd
        { g with acc := setLane (8 * n) g.acc g.next (target.scratchRead off n), elem := g.next + 1 })) ∧
        t = { s with heard := t.heard }) ∧
      (g.load = false → ∃ t : State, t = { s with carry := t.carry } ∧
        let s' := t.setCore (target.scratchPut off n (lane (8 * n) g.data g.next))
        exec (.gatherScatterElement k) s = .next (s'.setCore ((s'.core k).gatherEnd { g with elem := g.next + 1 }))))

/-- A pending store with no earlier one of its cluster on its bytes is written home, or is a register write of its core where its address lies in a register page, and is pending no more; a store that its home has ordered loses its last stale copy; a fence marker of a vat on which no store of the core is pending is removed; the core's one outstanding load or atomic whose address does not translate is held, and its trap is due; a queued store whose address translates becomes pending, and one whose address does not enters an empty side log; the one entry of a side log that awaits its replay leaves the log as a pending store if its address translates; a remote atomic that reaches another core of the same task, not frozen, with no window to fill and no poisoned line there, leaves the new value at its target and the old one as the result of the operation; and a core's one outstanding LDG at an ordinary address gives its register the bytes that its cluster store shows there, extended, while ATG and CASG there, with no stale copy in the cluster and no pending store of it to those bytes, give the old value and leave at the home the new one, if there is one, in the line under the page's label, every other byte as it was where the line stands under that label. The stale copies of a store that its home has ordered rest on assumption log 64, the register write at acknowledgement on log 48, and the entry into the side log on log 12. What an operation leaves and gives is R138's table and R139's comparison, which ClusterAtomics states. -/
def Obligations.MemoryEventsGoOn : Prop :=
  ∀ (s : State) (k : CoreId) (cl n v m cp age : Nat) (x : PStore) (y : Stale) (a : Access) (f : Cause) (dest : Option Dest) (z : Xlat),
    let c := s.core k
    let own := s.stores.filter (fun y => decide (clusterOf y.src = cl))
    let isStg (a : Access) : Prop := ∃ b r w os, a.instr = .stg b r w os
    let pended (t : State) : Prop := t.mem = s.mem ∧
      t.stores = s.stores ++ [⟨s.ids, k, none, z.pa, bytesOf a.size a.data.toNat, z.label, false, s.writer k (.access a.age), false,
        s.writeCarries c.ord (osOf a.instr) a.age⟩]
    let got (t : State) (v : Nat) : Prop := (t.core k).ilk = [] ∧
      ∀ r : Reg, (t.core k).rs r = if r ≠ 0 ∧ dest = some (.scalar r) then a.result v else c.rs r
    (own.find? (fun y => decide (y.id = n)) = some x →
      (∀ y ∈ own.takeWhile (fun y => decide (y.id ≠ n)), overlap y.pa y.bytes.length x.pa x.bytes.length = false) →
      (s.registerPage x.pa = none →
        ∃ t : State, exec (.storeAcknowledged cl n) s = .next t ∧ t.stores = s.stores.filter (fun y => decide (y.id ≠ n)) ∧
          t.mem = (s.writeLine x.label x.pa x.bytes).mem) ∧
      (∀ page off, s.registerPage x.pa = some (page, off) → s.umpire.deepOff = false → exec (.storeAcknowledged cl n) s =
        .next (State.pageWrite { s with stores := s.stores.filter (fun y => decide (y.id ≠ n)) } (.core x.src) page off x.bytes.length
          (natOfBytes x.bytes)))) ∧
    ((∀ y ∈ s.stores, y.id ≠ n) → s.stale = [y] → y.id = n → y.cls = [cp] →
      exec (.storeAcknowledged cl n) s = .next { s with stale := [], freeCtr := s.freeCtr + 1 }) ∧
    ((∀ y ∈ s.stores, (y.src = k ∧ y.eng = none) ∨ y.id ∈ idsOf c.ord.own → homeOf y.pa ≠ v) → exec (.fenceMarkerAck k v) s =
      .next (s.setCore { c with ord := { c.ord with marks := c.ord.marks.filter (fun m => decide (m ≠ v)) } })) ∧
    (c.held = none → c.ilk = [⟨.access a none, dest, age⟩] → a.isRemote = false → a.isStore = false → c.log = [] →
      s.translate c.party a.addr a.need = .error f → exec (.heldAccessFault k) s =
        .next (s.setCore { c with ilk := [], held := some (a, dest), due := c.due ++ [⟨f, addrInfo a.addr⟩] })) ∧
    (c.id = k → c.held = none → c.log = [] → c.stq = [a] → isStg a →
      (s.translate c.party a.addr .write = .ok z → s.fenced z.pa = false →
        ∃ t : State, exec (.storeRetiresIntoSideLog k) s = .next t ∧ pended t ∧ (t.core k).stq = [] ∧ (t.core k).log = []) ∧
      (s.translate c.party a.addr .write = .error f → f.repairable = true →
        ∃ t : State, exec (.storeRetiresIntoSideLog k) s = .next t ∧ t.stores = s.stores ∧ (t.core k).stq = [] ∧
          (t.core k).log = [⟨{ a with instr := accessNorm a.instr }, 0⟩])) ∧
    (c.id = k → c.log = [⟨a, 1⟩] → isStg a → s.translate c.party a.addr .write = .ok z → s.fenced z.pa = false →
      ∃ t : State, exec (.sideLogReplay (.core k) 0) s = .next t ∧ pended t ∧ (t.core k).log = []) ∧
    (let j := caTarget k a.addr
     let old := (s.core j).scratchRead (a.addr % 2 ^ 20) a.size
     c.id = k → (s.core j).id = j → j ≠ k → c.ilk = [⟨.access a none, dest, age⟩] → a.isRemote = true → s.sameTask k j = true →
      (s.core j).freeze = 0 → (s.core j).needsFill (a.addr % 2 ^ 20) a.size = false → (s.core j).scratchPoisoned (a.addr % 2 ^ 20) a.size = false →
      a.newValue old = some m → ∃ t : State, exec (.remoteAccessArrives k 0) s = .next t ∧ t.mem = s.mem ∧
        t.core j = (s.core j).scratchPut (a.addr % 2 ^ 20) a.size m ∧
        t.core k = { c with ilk := [⟨.access a (some (a.result old).toNat), dest, age⟩] }) ∧
    (c.id = k → c.log = [] → c.ilk = [⟨.access a none, dest, age⟩] → dest = none ∨ (∃ r, dest = some (.scalar r)) →
      s.translate c.party a.addr a.need = .ok z → s.registerPage z.pa = none → z.psn = false →
      ((∃ d r w os, a.instr = .ldg d r w os) → (s.view (clusterOf k)).poisoned (z.pa / 64) = false →
        ∃ t : State, exec (.interlockedResultArrives k 0) s = .next t ∧ t.mem = s.mem ∧ t.stores = s.stores ∧
          got t ((s.view (clusterOf k)).plain z.label z.pa a.size)) ∧
      ((∃ d r op w os, a.instr = .atg d r op w os) ∨ (∃ d r b w os, a.instr = .casg d r b w os) → s.poisoned (z.pa / 64) = false →
        s.fenced z.pa = false → (∀ y ∈ s.stale, clusterOf k ∉ y.cls) →
        (∀ y ∈ s.stores, clusterOf y.src = clusterOf k → overlap y.pa y.bytes.length z.pa a.size = false) →
        let old := s.plain z.label z.pa a.size
        ∃ t : State, exec (.interlockedResultArrives k 0) s = .next t ∧ got t old ∧
          (a.newValue old = none → t.mem = s.mem) ∧
          ∀ v, a.newValue old = some v → t.mem = (s.writeLine z.label z.pa (bytesOf a.size v)).mem ∧
            (Memory.wf s.mem = true → s.labelOf (z.pa / 64) = z.label → ∀ b, memGet t.mem b =
              if z.pa ≤ b ∧ b < z.pa + a.size then BitVec.ofNat 8 (v / 256 ^ (b - z.pa)) else memGet s.mem b)))

/-- A box that has started and is not complete gets its bit, where its command is saved, or is resident with every box started; a command whose work is done, whose boxes are all complete, or that is an XINV, with no release to perform and no write of its engine pending, frees its tag and sets its bit in tagbits; a window piece whose every line translates takes the bytes that its cluster store shows and becomes clean, and one whose first line does not translate becomes unfilled with the fault noted for what waits for it; a dirty piece whose every line translates to a home that is not fenced becomes clean, its 64 lines pending stores with their poison; a faulted command with no box in flight is marked told and its trap is taken; the last read of a late mask is the sampler's turn with the deadline passed; an apply whose set has no reader, or that runs already, makes its next attempt, and one whose set has a reader waits until there is none; a roll-forward of a committed transaction is tried. That a box, a fill and a write-back are one event each is the model's choice (assumption log 11); the sampler's turn, the attempt and the roll-forward are the model's streamTurn, journalStep and rollForward. -/
def Obligations.CommandEventsGoOn : Prop :=
  ∀ (s : State) (k : CoreId) (tag : Fin 64) (ctx addr box n i : Nat) (m : Cmd) (w : Window) (t : Trap) (r : TaskRef) (f : Cause),
    let c := s.core k
    let va (j : Nat) : Nat := w.ga + 4096 * i + 64 * j
    let off (j : Nat) : Nat := w.off + 4096 * i + 64 * j
    let boxed (r : TaskRef) : Prop := ∃ u : State, exec (.copyBoxComplete r tag box) s = .next u ∧ u.queues = s.queues ∧ u.c.s = s.c.s ∧
      u.cmdAt r tag = some { m with bitmap := m.bitmap ||| 1 <<< box }
    let piece (u : State) : Option Piece := (u.core k).wins[n]?.bind (fun w => w.pieces[i]?)
    (s.cmdAt (.slot ctx addr) tag = some m → m.started.getLsbD box = true → m.bitmap.getLsbD box = false → boxed (.slot ctx addr)) ∧
    (c.id = k → s.cmdAt (.core k) tag = some m → (∀ b < m.boxes, m.started.getLsbD b = true) → m.started.getLsbD box = true →
      m.bitmap.getLsbD box = false → boxed (.core k)) ∧
    (c.id = k → s.cmdAt (.core k) tag = some m → m.fault = none →
      (m.done = true ∨ (m.hasBoxes = true ∧ ∀ b < m.boxes, m.bitmap.getLsbD b = true) ∨ ∃ a x, m.instr = .xinv a x) →
      m.releaseScope = none → s.engineStores m = [] →
      ∃ u : State, exec (.commandCompletes (.core k) tag) s = .next u ∧ u.mem = s.mem ∧ u.stores = s.stores ∧ u.core k = { c with
        cmds := c.cmds.filter (fun g => decide (g.tag ≠ tag)), ctl := c.ctl.set crTagbits (c.cr crTagbits ||| 1 <<< tag.val) }) ∧
    (c.id = k → Memory.wf c.scratch = true → c.fillingPiece = some (n, w, i) →
      ((∀ j < 64, ∃ x, s.translate c.party (va j) .read = .ok x ∧ x.psn = false ∧ (s.view (clusterOf k)).poisoned (x.pa / 64) = false) →
        ∃ u : State, exec (.windowFillCompletes k) s = .next u ∧ u.mem = s.mem ∧ piece u = some .clean ∧
          ∀ j < 64, ∀ x, s.translate c.party (va j) .read = .ok x →
            (u.core k).scratchRead (off j) 64 = (s.view (clusterOf k)).plain x.label x.pa 64 ∧ off j / 64 ∉ (u.core k).poison) ∧
      (s.translate c.party (va 0) .read = .error f → exec (.windowFillCompletes k) s =
        .next (s.setCore { (c.setPiece n i .unfilled) with badFills := c.badFills ++ [(w.off + 4096 * i, ⟨f, addrInfo (va 0)⟩)] }))) ∧
    (c.id = k → c.wins[n]? = some w → w.pieces[i]? = some .dirty →
      (∀ j < 64, ∃ x, s.translate c.party (va j) .write = .ok x ∧ s.fenced x.pa = false) →
      ∃ u : State, exec (.backgroundWriteback k n i) s = .next u ∧ u.mem = s.mem ∧ piece u = some .clean ∧ (u.core k).scratch = c.scratch ∧
        u.stores.take s.stores.length = s.stores ∧ u.stores.length = s.stores.length + 64 ∧
        ∀ j < 64, ∀ x, s.translate c.party (va j) .write = .ok x →
          ⟨s.ids + j, k, none, x.pa, bytesOf 64 (c.scratchRead (off j) 64), x.label, decide (off j / 64 ∈ c.poison), s.writer k .window, false,
            []⟩ ∈ u.stores) ∧
    (s.c.id = k → c.engineFault = some m → m.fault = some t → exec (.engineFaultDelivery k) s =
      .next (((s.putCmd (.core k) { m with told := true }).takeTrap t c.pc).switch k)) ∧
    (s.cmdAt (.core k) tag = some m → m.fault = none → m.done = false → m.fetched ≠ [] →
      exec (.maskDeadlineExpires k tag) s = .next (s.streamTurn (.core k) m m.fetched.head?)) ∧
    (s.journalHead k = some (r, m) → (∃ a x, m.instr = .wja a x) → exec (.wjaApply k) s = .next (
      if c.ws.running = true ∨ s.readers c.ws.jnl.wset = 0 then (s.onWs k WStore.begin).journalStep k r m else s)) ∧
    (c.ws.applying.isSome = true → c.ws.jnl.st = 2 → s.journalHead k = none → exec (.rollForwardRetry k) s = .next (s.rollForward k))

/-- QUEUE_START of a stopped queue with an entry that R276 accepts, its context one of the partition (the model's reading, assumption log 73), leaves it running and empty with the entry's fields in force, and of one with another entry writes its error word; a QDEQ that is first in line of a running queue with an item takes the oldest, whose slot can be read, and the head advances by one; a supervisor item whose release is performed goes into its running queue with room, whose slot can be written, and is the cluster's no more, and items whose queue is full wait; a distributor without its template reads it, and one with it pushes its chunks in order; a chunk whose tasks are all done gets its bit; a completed task's signals are sent once, and a record without counters and notification has none. Reading the template, pushing and setting the bit are the model's readTemplate, pushChunks and setChunkBit. -/
def Obligations.QueueEventsGoOn : Prop :=
  ∀ (s u : State) (part qn cl n x : Nat) (k : CoreId) (dest : Option Dest) (ws : List Waiter) (item : SupItem) (rest : List SupItem)
      (l : Launch) (c : Chunk) (g : Signal),
    let q := s.queue part qn
    let valid : Prop := bits q.kind.toNat 1 2 ≠ 3 ∧ bits q.kind.toNat 4 4 = 0 ∧ q.base.toNat % 4096 = 0 ∧ q.base.toNat < 2 ^ 49 ∧ 4 ≤ q.lgn ∧
      q.lgn ≤ 16 ∧ q.ctx.toNat < 512 ∧ (s.ctx q.ctx.toNat).part = some part ∧
      (if q.kind.getLsbD 0 then q.clu < 32 ∧ (s.part part).clusters.getLsbD q.clu = true else q.clu = 0)
    (part < 32 → qn < 4096 → q.stopped = true →
      (valid → exec (.queueStart part qn) s = .next (s.setQueue part qn { q with
        kind := q.kind &&& 0xF7, head := 0, tail := 0, rbase := q.base.toNat, rlgn := q.lgn, rkind := q.kind &&& 7, rctx := q.ctx.toNat
        rclu := q.clu, holes := [] })) ∧
      (¬valid → exec (.queueStart part qn) s = .next (s.setQueue part qn { q with err := errWord 1 (s.entryAddr part qn) }))) ∧
    (q.waiters = .core k :: ws → (s.core k).id = k → (s.core k).ilk = [⟨.qdeq part qn none, dest, n⟩] → q.stopped = false → q.used ≠ 0 →
      s.readRange (queueParty q) (q.slotAddr q.head) 8 = .ok x →
      ∃ t : State, exec (.qdeqItemDelivered part qn) s = .next t ∧ t.mem = s.mem ∧
        t.queue part qn = { q with head := (q.head + 1) % 2 ^ 32, waiters := ws } ∧
        t.core k = { s.core k with ilk := [⟨.qdeq part qn (some (BitVec.ofNat 64 x)), dest, n⟩] }) ∧
    ((s.cluster cl).items = item :: rest → (∀ i ∈ item.waits, s.isPending i = false) → item.task = none →
      let iq := s.queue item.part item.qn
      (iq.stopped = false → iq.used = iq.size → (∀ i ∈ rest, i.part = item.part ∧ i.qn = item.qn) →
        exec (.supqItemAppend cl) s = .next s) ∧
      (iq.stopped = false → iq.used ≠ iq.size → s.writeRange (queueParty iq) (iq.slotAddr iq.tail) iq.slotBytes item.item.toNat = .ok u →
        ∃ t : State, exec (.supqItemAppend cl) s = .next t ∧ t.mem = u.mem ∧ (t.cluster cl).items = rest ∧
          (t.queue item.part item.qn).tail = (iq.tail + 1) % 2 ^ 32)) ∧
    (s.launches.find? (fun x => decide (x.id = n)) = some l →
      exec (.distributorPushChunk n) s = .next (
        if l.ready then (s.pushChunks l [] l.chunks).1.setLaunch { l with chunks := (s.pushChunks l [] l.chunks).2 } else s.readTemplate l) ∧
      (l.chunks.find? (fun x => decide (x.num = c.num)) = some c → c.left = 0 → c.next = l.stop c.num →
        exec (.chunkComplete n c.num) s = .next (s.setChunkBit l c))) ∧
    (s.signals[n]? = some g →
      exec (.completionSignals n) s = .next (State.sendSignals { s with signals := dropNth s.signals n } g) ∧
      (recField g.record 48 8 = 0 → recField g.record 56 8 = 0 → recNtf g.record = false →
        exec (.completionSignals n) s = .next { s with signals := dropNth s.signals n }))

/-- SCHEDULER_BIND binds the chosen candidate to its core and moves the class's pointer behind its queue; SLICE_EXPIRY of a task whose slice has ended reloads the slice when nothing waits, there is no room for it or its minimum residency is not over, and begins the save of the task as eligible when work waits; PRIORITY_PREEMPTION and PARK_BOUND_EXPIRES begin the save of the task, and PARKED_CONDITION_HOLDS makes it eligible; PREEMPTED takes its trap in a handler; INSTRUCTION_FETCH_FAULT takes the fetch's trap; WAIT_CONDITION_HOLDS ends a SYNC with the context that pcsel chose in force (R340), counts a barrier arrival that its release has delayed (assumption log 39) or completes its generation, and ends a barrier and an XCAN wait; for a GCUR whose entry the sampler reads as Open, unlocked, with a cursor from p to g, and whose release is performed, it ends the wait and leaves the cursor in the field p of the entry, its bytes 132 to 135, written at the home under the page's label; TEND_WAIT_ENDS of a task with no window finishes it: where its slot takes the base lines, the core is free and its signals are due. Binding, the save and finishing are the model's bind, saveTask and finishTask; what a save does in one step is the model's choice (assumption log 52). -/
def Obligations.SchedulingEventsGoOn : Prop :=
  ∀ (s u : State) (k : CoreId) (cl g n : Nat) (x : Cand) (t : Task) (cond : Cond) (tr : Trap) (b : Fin 16) (tags : List (Fin 64)) (v : Saved)
      (num cursor : Word) (e : Strm) (y : Xlat),
    let c := s.core k
    let clu := s.cluster cl
    let part := s.partOf cl
    let free := s.freeCores cl
    let bar := (s.cluster (clusterOf k)).barrier b
    let ends (i : Instr) (d : Core) : Prop := ∃ r : State, exec i s = .next r ∧ r.core k = d ∧ r.mem = s.mem
    (s.brokenQueue cl = none → clu.dark = false → clu.halted = false → (s.part part).halted = false →
      chooseCand clu.ptr ((s.cands cl free ++ s.resumeCands cl free).filter (s.canBind part)) = some x → x.core = some k →
      exec (.schedulerBind cl) s = .next ((s.setCluster cl { clu with ptr := setNth clu.ptr x.cls ((x.pos + 1) % 4097) }).bind cl part x k)) ∧
    (c.task = some t → c.cr crSlice = 0 → c.trapDue = false → c.saving = none →
      (c.issued < 4096 ∨ s.waitingWork (clusterOf k) t.cls = false ∨ s.listRoom (clusterOf k) = false →
        exec (.sliceExpiry k) s = .next (s.setCore (c.setCr crSlice (BitVec.ofNat 64 (s.queue t.part t.qn).slc)))) ∧
      (4096 ≤ c.issued → s.waitingWork (clusterOf k) t.cls = true → s.listRoom (clusterOf k) = true →
        exec (.sliceExpiry k) s = .next (s.saveTask k t .ready))) ∧
    (s.victim cl = some (k, t) → free = [] → (s.cands cl []).any (fun y => decide (y.cls < t.cls)) = true → 4096 ≤ c.issued →
      s.listRoom cl = true → c.trapDue = false → exec (.priorityPreemption cl) s = .next (s.saveTask k t .ready)) ∧
    (c.task = some t → s.parkCond k = some cond → s.listRoom (clusterOf k) = true → c.trapDue = false → c.saving = none →
      exec (.parkBoundExpires k) s = .next (s.saveTask k t (.parked cond))) ∧
    (s.tasks = [v] → v.cl = cl → v.state = .parked cond → cond ≠ .met → s.condHolds v cond = true → s.listRoom cl = true →
      exec (.parkedConditionHolds cl v.task.slot) s = .next { s with tasks := [{ v with state := .ready, order := s.ids }], ids := s.ids + 1 }) ∧
    (s.c.id = .partition cl → s.c.frozen = none → s.c.due = [⟨.preempted, 0⟩] → ∃ t : State, exec (.preempted cl) s = .next t ∧
      t.c.pc = BitVec.ofNat 49 s.umpire.phandler ∧ t.c.cr crTrappc = s.c.pc.zeroExtend 64 ∧ t.c.frozen.isSome = true ∧ t.c.due = []) ∧
    (s.c.id = k → s.fetchWord k s.c.pc.toNat = .error tr →
      exec (.instructionFetchFault k) s = .next ((s.takeTrap tr s.c.pc).switch k)) ∧
    (c.id = k → c.ord.wait = some .sync → (∀ o ∈ c.ilk, ∀ a, o.kind = .access a none → a.isRemote = true) → c.held = none → c.stq = [] → c.log = [] →
      c.ord.lost = none → (∀ i ∈ idsOf c.ord.own, s.isPending i = false) →
      ends (.waitConditionHolds k) { c with
        pcselNext := none, ctl := match c.pcselNext with | some n => c.ctl.set crCtxid (BitVec.ofNat 64 n) | none => c.ctl
        ord := { c.ord with wait := none } }) ∧
    (c.id = k → c.ord.wait = some (.arrive b n) → c.log = [] → s.releaseReady c .clu = true →
      bar.arrived = 0 ∨ (bar.owner = c.owner ∧ bar.count = n) →
      ∃ r : State, exec (.waitConditionHolds k) s = .next r ∧
        (r.core k).ord.wait = (if bar.arrived + 1 = n then none else some (.cbar b bar.gen)) ∧
        (r.cluster (clusterOf k)).barrier b = { bar with
          owner := c.owner, count := n, arrived := (if bar.arrived + 1 = n then 0 else bar.arrived + 1)
          gen := (if bar.arrived + 1 = n then bar.gen + 1 else bar.gen) }) ∧
    (c.id = k → c.ord.wait = some (.cbar b g) → bar.gen ≠ g → ends (.waitConditionHolds k) { c with ord := { c.ord with wait := none } }) ∧
    (c.id = k → c.ord.wait = some (.xcan tags) → (∀ m ∈ c.cmds, m.tag ∉ tags) →
      ends (.waitConditionHolds k) { c with ord := { c.ord with wait := none } }) ∧
    (c.id = k → c.ord.wait = some (.gcur num cursor) → s.streamBusy k num.toNat s.ids = false → s.lockedBy k num.toNat = false →
      c.ilk = [] → c.held = none → c.stq = [] → c.log = [] → c.gather = none → c.ord.lost = none → c.ord.marks = [] →
      (∀ i ∈ c.ord.covered, s.isPending i = false) → s.rangeSeen k (s.strmAddr k num.toNat, 256) = [] →
      s.strm k num.toNat = .ok e → e.isOpen = true → e.raw.testBit 1 = false → e.p ≤ cursor.toNat → cursor.toNat ≤ e.g →
      s.translate (s.samplerParty k) (e.addr + 132) .write = .ok y → s.fenced y.pa = false →
      (∀ z ∈ s.stores, clusterOf z.src = clusterOf k → overlap z.pa z.bytes.length y.pa 4 = false) →
      ∃ r : State, exec (.waitConditionHolds k) s = .next r ∧ r.core k = { c with ord := { c.ord with wait := none } } ∧
        r.mem = (s.writeLine y.label y.pa (bytesOf 4 cursor.toNat)).mem ∧ r.stores = s.stores) ∧
    (c.task = some t → c.ord.wait = some .tend → c.ord.lost = none → s.tendReady c = true → c.wins = [] →
      exec (.tendWaitEnds k) s = .next (s.finishTask k t) ∧
      (c.id = k → c.hints = [] → s.flushBase k t = .ok u → ∃ r : State, exec (.tendWaitEnds k) s = .next r ∧ (r.core k).task = none ∧
        r.signals = u.signals ++ [⟨t.record, t.part, t.qn, clusterOf k, t.ctx⟩]))

/-- A doorbell within the ring's size moves the command tail and a larger one sets err; a write of the completion head within the entries moves it and a larger one sets err; enabling a ring that is off sets its head and tail to 0. A command of a VF is completed by one completion entry in host memory, with its identifier, its status and the ring's phase, one vector, and both indices moved: with 0x00 and the item in the queue where it pushes an item into a running item queue of the VF with room and a slot that can be written, with 0x01 where that queue is full, with 0x10 where the queue is another VF's, with 0x81 where it is of a kind the device does not know or has reserved bytes that are not 0; a record's status is that of the model's pushOutside. Outside deep off, a launch packet that no entry of the vat's table admits is acknowledged with 0x0B and counted, and one that an entry admits with the status of its push, counted where that is not 0. The codes under which answers stand in the replies, what counts as an unknown command, and that a packet pushes into the partition of the vat's first cluster, are the model's choice (assumption log 36). -/
def Obligations.HostRequestsAreServed : Prop :=
  ∀ (s u : State) (vf cmd vat smod wld qn : Nat) (val : Word) (rec' : BitVec 512),
    let v := s.vf vf
    let x := BitVec.ofNat 16 val.toNat
    let n := ringSize v.cpcfg
    let part := v.part.getD 32
    let q := s.queue part (field cmd 2 2)
    let answered (t : State) (st : Nat) : Prop :=
      (t.vf vf).cptail = v.cptail + 1 ∧ (t.vf vf).cqhead = v.cqhead + 1 ∧ t.replies = s.replies ++ [msix vf (bits v.cpcfg.toNat 8 8)] ∧
      t.hostRead (hostKey vf (v.cpbase.toNat + 16 * (v.cptail.toNat % n))) 16 = field cmd 16 8 + st * 2 ^ 64 +
        (if v.cptail.toNat / n % 2 = 0 then 1 else 0) * 2 ^ 72 + field cmd 2 2 * 2 ^ 80
    let answers (i : Instr) (st : Nat) : Prop := ∃ t : State, exec i s = .next t ∧ answered t st ∧ t.mem = s.mem ∧ t.queues = s.queues
    (if (x - v.cqhead).toNat ≤ ringSize v.cqcfg then exec (.cqtailDoorbell vf val) s = .next (s.setVf vf { v with cqtail := x })
      else exec (.cqtailDoorbell vf val) s = .next (s.setVf vf { v with cqcfg := v.cqcfg ||| 2 ^ 24 })) ∧
    (if (x - v.cphead).toNat ≤ (v.cptail - v.cphead).toNat then exec (.cpheadWrite vf val) s = .next (s.setVf vf { v with cphead := x })
      else exec (.cpheadWrite vf val) s = .next (s.setVf vf { v with cpcfg := v.cpcfg ||| 2 ^ 24 })) ∧
    (ringOn v.cqcfg = false → ∃ cfg, exec (.ringEnable vf false) s = .next (s.setVf vf { v with cqcfg := cfg, cqhead := 0, cqtail := 0 }) ∧
      ringOn cfg = true ∧ ringSize cfg = ringSize v.cqcfg) ∧
    (ringOn v.cpcfg = false → ∃ cfg, exec (.ringEnable vf true) s = .next (s.setVf vf { v with cpcfg := cfg, cphead := 0, cptail := 0 }) ∧
      ringOn cfg = true ∧ ringSize cfg = ringSize v.cpcfg) ∧
    (s.hostCommand vf = some cmd → Memory.wf s.host = true →
      (field cmd 0 1 = 2 → hostCommandOk cmd = true →
        (q.vfm ≠ vf → answers (.pushItem vf) 0x10) ∧
        (q.vfm = vf → s.queueShut part (field cmd 2 2) false = false →
          (q.used = q.size → answers (.pushItem vf) 0x01) ∧
          (q.used ≠ q.size → s.writeRange (queueParty q) (q.slotAddr q.tail) q.slotBytes (field cmd 8 8) = .ok u →
            ∃ t : State, exec (.pushItem vf) s = .next t ∧ answered t 0x00 ∧ t.mem = u.mem ∧
              (t.queue part (field cmd 2 2)).tail = (q.tail + 1) % 2 ^ 32))) ∧
      (field cmd 0 1 = 2 → hostCommandOk cmd = false → answers (.pushItem vf) 0x81) ∧
      (field cmd 0 1 ≠ 2 → field cmd 0 1 ≠ 1 ∨ hostCommandOk cmd = false → answers (.pushRecord vf) 0x81) ∧
      (field cmd 0 1 = 1 → hostCommandOk cmd = true →
        (q.vfm ≠ vf → answers (.pushRecord vf) 0x10) ∧
        (∀ (r : State) (st : Nat), q.vfm = vf → s.pushOutside part (field cmd 2 2) v.wld (BitVec.ofNat 512 (field cmd 64 64))
            (v.cqbase.toNat + 128 * (v.cqhead.toNat % ringSize v.cqcfg)) = (r, st) →
          ∃ t : State, exec (.pushRecord vf) s = .next t ∧ answered t st ∧ t.mem = r.mem ∧ t.queues = r.queues))) ∧
    (s.umpire.stopped = false → s.umpire.deepOff = false → (s.vat vat).state = .live →
      ((∀ e ∈ (s.vat vat).launch, e.admits smod wld qn = false) →
        exec (.gorqueLaunchPacket vat smod wld qn rec') s = .next { s.setVat vat { s.vat vat with rejects := (s.vat vat).rejects + 1 } with
          replies := s.replies ++ [packetReply vat 0x0B] }) ∧
      (∀ (r : State) (st : Nat), (∃ e ∈ (s.vat vat).launch, e.admits smod wld qn = true) → s.partOf (2 * vat) < 32 →
        s.pushOutside (s.partOf (2 * vat)) qn wld rec' 0 = (r, st) →
        ∃ t : State, exec (.gorqueLaunchPacket vat smod wld qn rec') s = .next t ∧ t.replies = s.replies ++ [packetReply vat st] ∧
          t.mem = r.mem ∧ t.queues = r.queues ∧ (t.vat vat).rejects = (s.vat vat).rejects + if st = 0 then 0 else 1))

/-- An untrusted read of a private page answers 0 and an untrusted write of one changes nothing but the log; other reads answer the page's value. A write of the doorbell of the PF page with a well-formed request and no request in hand sets busy; a write of stbase by a core that may map the context table page keeps bits [48:12]; other writes are those of the page. A page, context or partition invalidation joins the partition's queue; the oldest one, once every store of the partition is performed everywhere, removes the translations it names and leaves the queue. SLCMD changes the state-0 entries of a resident task's side log to replaying or unreplayable; pcsel takes a context of the core's own partition. A load of a global address in a queue or context table page, with no pending store of the cluster on its bytes, delivers what its core reads there and leaves memory, the pending stores, the queues and the other cores as they were. The code of a register read's reply, when an invalidation may complete, and what a core that may not map a page reads there are the model's choice (assumption logs 36 and 48). -/
def Obligations.RegisterPagesAreServed : Prop :=
  ∀ (s : State) (by' : Requester) (page : Page) (off n val part p ctx cl : Nat) (w : Word) (i : Nat × Nat × Nat) (rest : List (Nat × Nat × Nat)) (t : Task)
      (a : Access) (z : Xlat) (d x : Reg) (ty : IntTy) (os : OrdScope) (dest : Option Dest) (age : Nat),
    (isPrivate page = true → s.trusted by' page = false →
      exec (.registerRead by' page off) s = .next ((s.logAccess by' page off false).reply ⟨0x52454144, 0, []⟩) ∧
      exec (.registerWrite by' page off n val) s = .next (s.logAccess by' page off true)) ∧
    (isPrivate page = false ∨ s.trusted by' page = true →
      exec (.registerRead by' page off) s = .next (s.reply ⟨0x52454144, s.pageRead by' page off, []⟩) ∧
      exec (.registerWrite by' page off n val) s = .next (s.pageWrite by' page off n val)) ∧
    (s.mbBusy = false → s.mbOk = true → exec (.registerWrite by' .pf 0x1100 8 1) s =
      .next { s with umpire := { s.umpire with mbst := s.umpire.mbst ||| 1 } }) ∧
    (s.mayMapContexts by' part = true → exec (.registerWrite by' (.contextTable part) 0x8020 8 val) s =
      .next (s.setPart part { s.part part with stbase := BitVec.ofNat 64 (bits val 12 37 * 2 ^ 12) })) ∧
    exec (.invalPage part p ctx) s = .next (s.setPart part { s.part part with inval := (s.part part).inval ++ [(p, 0, ctx)] }) ∧
    exec (.invalContext part ctx) s = .next (s.setPart part { s.part part with inval := (s.part part).inval ++ [(0, 1, ctx)] }) ∧
    exec (.invalPartition part) s = .next (s.setPart part { s.part part with inval := (s.part part).inval ++ [(0, 2, 0)] }) ∧
    ((s.part part).inval = i :: rest → (∀ x ∈ s.stores, (s.part part).clusters.getLsbD (clusterOf x.src) = false) →
      (∀ y ∈ s.stale, (s.part part).clusters.getLsbD (clusterOf y.src) = false) →
      exec (.invalidationCompletes part) s = .next { s.setPart part { s.part part with inval := rest } with
        cached := s.cached.filter (fun c => !s.removes part i c) }) ∧
    (s.c.task = some t → t.ctx = ctx → t.slot = p →
      exec (.slcmdReplay ctx p) s = .next (s.setCore { s.c with log := s.c.log.map (fun e => if e.state = 0 then { e with state := 1 } else e) }) ∧
      exec (.slcmdUnreplayable ctx p) s = .next (s.setCore { s.c with log := s.c.log.map (fun e => if e.state = 0 then { e with state := 2 } else e) })) ∧
    (w.toNat < 512 → (s.ctx w.toNat).part = some part → s.partOf cl = part →
      exec (.pcselWrite (.core (.partition cl)) part w) s = .next (s.setCore { s.core (.partition cl) with pcselNext := some w.toNat })) ∧
    (s.c.ilk[n]? = some ⟨.access a none, dest, age⟩ → a.instr = .ldg d x ty os → s.c.log = [] → s.behind s.c.id a (s.c.ilk.take n) = false →
      s.translate s.c.party a.addr .read = .ok z → s.registerPage z.pa = some (page, off) →
      (∀ y ∈ s.stores, clusterOf y.src = clusterOf s.c.id → overlap y.pa y.bytes.length z.pa a.size = false) →
      ∃ u : State, u.mem = s.mem ∧ u.stores = s.stores ∧ u.queues = s.queues ∧ u.others = s.others ∧ u.c.s = s.c.s ∧
        exec (.interlockedResultArrives s.c.id n) s =
          .next (u.deliver s.c.id n dest (a.result (s.readTablePage (.core s.c.id) page off % 256 ^ a.size)).toNat))

/-- While the Umpire serves and its mailbox holds a request of the event's code: PART_CREATE that R292 does not refuse makes the partition with the clusters, tier, floor, sets, lanes and share of the request, the pointers of its clusters' schedulers at 0 and nothing invalid, halted or counted, and one that it refuses changes only the mailbox; PART_DESTROY, VF_ASSIGN and CTX_ASSIGN change the tables as R292 and R353 say, with 0xFF for no partition; VAT_FENCE fences a Live vat and VAT_READMIT readmits one that a repair record allows; deep off is entered when every cluster is dark, and left; each of them that R292 or R353 refuses changes only the mailbox. That PART_DESTROY and VF_ASSIGN of a partition that does not exist are refused is the model's reading (assumption log 47). -/
def Obligations.MailboxRequestsAreServed : Prop :=
  ∀ s : State, s.serves = true → s.mbBusy = true →
    let p := s.mb 1 1
    let n := s.mb 2 2
    let named : Option Nat := if p = 0xFF then none else some p
    let vfsOf := (s.vfs.filter (fun e => decide (e.1 ≠ n ∧ e.2.part = some p))).length
    (s.mb 0 1 = 1 → s.createRefused = false → ∃ t : State, exec .partCreate s = .next t ∧ (t.part p).exists' = true ∧
      (t.part p).clusters = BitVec.ofNat 32 (s.mb 4 4) ∧ (t.part p).tier = s.mb 8 1 ∧ (t.part p).floor = s.mb 10 2 ∧
      (t.part p).sets = BitVec.ofNat 256 (s.mb 16 32) ∧ (t.part p).lanes = BitVec.ofNat 144 (s.mb 48 18) ∧ (t.part p).share = s.mb 66 1 ∧
      (t.part p).inval = [] ∧ (t.part p).overrun = 0 ∧ (t.part p).halted = false ∧ (∀ q ≠ p, t.part q = s.part q) ∧
      (∀ cl < 32, (s.mb 4 4).testBit cl = true → (t.cluster cl).ptr = [0, 0, 0, 0]) ∧ t.mem = s.mem ∧ t.umpire.mbst.getLsbD 0 = false) ∧
    (s.mb 0 1 = 1 → s.createRefused = true → exec .partCreate s = .next (s.mbEnd 1)) ∧
    (s.mb 0 1 = 2 → (s.part p).exists' = true → (∀ e ∈ s.ctxs, e.2.part = some p → e.2.v = false) → (∀ e ∈ s.vfs, e.2.part ≠ some p) →
      exec .partDestroy s = .next (State.mbEnd { s with
        parts := del s.parts p, queues := s.queues.filter (fun e => decide (e.1.1 ≠ p))
        ctxs := s.ctxs.map (fun e => if e.2.part = some p then (e.1, { e.2 with part := none }) else e) } 0)) ∧
    (s.mb 0 1 = 2 → ((s.part p).exists' = false ∨ (∃ e ∈ s.ctxs, e.2.part = some p ∧ e.2.v = true) ∨ ∃ e ∈ s.vfs, e.2.part = some p) →
      exec .partDestroy s = .next (s.mbEnd 1)) ∧
    (s.mb 0 1 = 3 → (s.vf n).tdi = .unlocked → ((s.vf n).wld = 0 ∨ ∀ e ∈ s.ctxs, e.2.v = true → e.2.wld ≠ (s.vf n).wld) →
      (p ≠ 0xFF → (s.part p).exists' = true ∧ vfsOf < 12) → exec .vfAssign s = .next ((s.setVf n { s.vf n with part := named }).mbEnd 0)) ∧
    (s.mb 0 1 = 3 → ((s.vf n).tdi ≠ .unlocked ∨ ((s.vf n).wld ≠ 0 ∧ ∃ e ∈ s.ctxs, e.2.v = true ∧ e.2.wld = (s.vf n).wld) ∨
      (p ≠ 0xFF ∧ ((s.part p).exists' = false ∨ 12 ≤ vfsOf))) → exec .vfAssign s = .next (s.mbEnd 1)) ∧
    (s.mb 0 1 = 4 → ((s.ctx n).v = false ∨ (s.ctx n).part = none ∨ (s.ctx n).part = named) →
      exec .ctxAssign s = .next ((s.setCtx n { s.ctx n with part := named }).mbEnd 0)) ∧
    (s.mb 0 1 = 4 → (s.ctx n).v = true → (s.ctx n).part ≠ none → (s.ctx n).part ≠ named → exec .ctxAssign s = .next (s.mbEnd 1)) ∧
    (s.mb 0 1 = 5 → exec .vatFence s = .next (if (s.vat p).state = .live then (s.fenceVat p).mbEnd 0 else s.mbEnd 1)) ∧
    (s.mb 0 1 = 6 → exec .vatReadmit s = .next (if (s.vat p).state = .readmitting then (s.readmitVat p).mbEnd 0 else s.mbEnd 1)) ∧
    (s.mb 0 1 = 7 → p = 1 → (∃ cl < 32, (s.cluster cl).dark = false) → exec .deepOffEnter s = .next (s.mbEnd 1)) ∧
    (s.mb 0 1 = 7 → p = 1 → (∀ cl < 32, (s.cluster cl).dark = true) →
      exec .deepOffEnter s = .next (State.mbEnd { s with umpire := { s.umpire with deepOff := true } } 0)) ∧
    (s.mb 0 1 = 7 → p = 0 → exec .deepOffLeave s = .next (State.mbEnd { s with umpire := { s.umpire with deepOff := false } } 0))

/-- An idle core with nothing outstanding goes DARK and loses its scratchpad; a cluster whose cores are dark, whose partition core waits, and that has no command outstanding and no pending store goes dark, and one wakes whose partition core's wait can end or that has a candidate. POWER_LOSS empties memory, pending stores, sessions, translations, tasks and launches, and of every core the scratchpad, tiles, task, commands and outstanding operations; every core keeps its weight store, journal, version tables, wear counters and remap table (its counter cache written out), its disabled engines, and, where it ran, the image of R393; host memory, black box and configuration records stand, every context has v = 0 and every queue st = 1 with its other fields kept, and the module is not booted. COLD_BOOT with no journal left to scan after its first steps leaves the module booted in one step, and with several left goes on with the first of them. An image is delivered as a trapped task; a partition core resumes in its handler with POWER_LOSS, its loop registers restored and its pending writes frozen. The governor sets every partition's allotment from the draws of its clusters, a cluster's in proportion to its draw, and a dwell from 2,048 to 2^20. What a power loss keeps beyond R393, and the attempts of the boot's scans as steps, are the model's choice (assumption log 44); so are the demand and the shares of the governor, which works in microwatts, and the dwell, which is free (assumption log 43). -/
def Obligations.PowerEventsGoOn : Prop :=
  ∀ (s s' : State) (k : CoreId) (cl n draw p slot : Nat) (draws overrun : List (Nat × Nat)) (im : NvImage) (part : Part) (rest : List CoreId),
    let c := s.core k
    let clu := s.cluster cl
    (∃ t : State, exec (.governorPeriod draw draws overrun []) s = .next t ∧ t.mem = s.mem ∧ t.c = s.c ∧
      t.parts = s.parts.map (fun e =>
        (e.1, { e.2 with allot := look 0 (s.allot draw (s.partDemand draws)) e.1, overrun := e.2.overrun + look 0 overrun e.1 })) ∧
      (s.parts = [(p, part)] → part.exists' = true → cl ∈ part.clusterList →
        (t.cluster cl).allot = look 0 (s.allot draw (s.partDemand draws)) p * look 0 draws cl / look 0 (s.partDemand draws) p) ∧
      ∀ d ∈ draws, 2048 ≤ (t.cluster d.1).dwell ∧ (t.cluster d.1).dwell ≤ 2 ^ 20) ∧
    (isCompute k = true → c.task = none → c.power = .idle → (∀ m ∈ s.allCmds, m.core ≠ k) →
      exec (.darkDwellExpires k) s = .next (s.setCore { c with power := .dark, scratch := [], poison := [] })) ∧
    (clu.dark = false → s.partitionWaits cl = true →
      (∀ j ∈ s.cores, clusterOf j = cl → j ≠ .umpire → isCompute j = true → (s.core j).power = .dark) →
      (∀ m ∈ s.allCmds, clusterOf m.core ≠ cl) → (∀ x ∈ s.stores, clusterOf x.src ≠ cl) →
      ∃ t : State, exec (.clusterDark cl) s = .next (t.setCluster cl { clu with dark := true }) ∧ t.mem = s.mem ∧ t.stores = s.stores ∧
        t.c = s.c ∧ t.others = s.others ∧ ∀ y ∈ t.stale, cl ∉ y.cls) ∧
    (clu.dark = true → s.umpire.deepOff = false →
      s.cands cl (s.freeCores cl) ≠ [] ∨ s.resumeCands cl (s.freeCores cl) ≠ [] ∨
        s.partitionWaits cl = false →
      exec (.clusterWake cl) s = .next (s.setCluster cl { clu with dark := false })) ∧
    (∃ t : State, exec .powerLoss s = .next t ∧ t.mem = [] ∧ t.stores = [] ∧ t.stale = [] ∧ t.sessions = [] ∧ t.conns = [] ∧ t.cached = [] ∧
      t.tasks = [] ∧ t.launches = [] ∧ t.booted = false ∧ t.powerLost = true ∧ t.host = s.host ∧ t.records = s.records ∧ t.boxLog = s.boxLog ∧
      (∀ e ∈ t.keys, e.2.kind = 4 → e.2.st = 0) ∧ t.ctx n = { s.ctx n with v := false } ∧
      t.queue p n = { s.queue p n with kind := (s.queue p n).kind ||| 8, waiters := [] } ∧
      (∃ r, (t.core k).ws = { c.ws with
        wearCopy := c.ws.wear, wearMirror := c.ws.wear, report := r, tries := 0, pos := 0, applying := none, worn := false }) ∧
      (t.core k).off = c.off ∧ (t.core k).scratch = [] ∧ (t.core k).poison = [] ∧ (t.core k).tiles = Vector.replicate 4 0 ∧
      (t.core k).task = none ∧ (t.core k).cmds = [] ∧ (t.core k).ilk = [] ∧ (t.core k).shadow = [] ∧ (t.core k).power = .dark ∧
      let ran : Bool := if isCompute c.id then c.task.isSome else decide (c.power ≠ .dark)
      (ran = false → (t.core k).nv = c.nv) ∧
      (ran = true → ∃ x : NvImage, (t.core k).nv = some x ∧ x.pc = c.pc ∧ x.prog = progOf c ∧ x.tagbits = c.cr crTagbits ∧
        x.loops = [c.cr 4, c.cr 5, c.cr 6, c.cr 8, c.cr 9, c.cr 10] ∧ x.taskid = c.cr crTaskid ∧ x.ctx = c.party.ctx ∧ x.comp = c.party.comp ∧
        x.trap = [c.cr crTrapcause, c.cr crTrapinfo, c.cr crTrappc] ∧ (∀ y, c.task = some y → x.record = y.record) ∧
        x.shadow.map (fun e => (e.dest, e.value, e.flags, e.remaining)) =
          (((c.frozen.map (·.shadow)).getD []) ++ c.shadow).map (fun e => (e.dest, e.value, e.flags, e.remaining)))) ∧
    (s.booted = false → s.scans = none → s.bootBegin.scans = some [] →
      ∃ t : State, exec .coldBoot s = .next t ∧ t.booted = true ∧ t.powerLost = false ∧ t.scans = none) ∧
    (s.booted = false → s.scans = some (k :: rest) → rest ≠ [] →
      ∃ t : State, exec .coldBoot s = .next t ∧ t.booted = false ∧ (t.scans = some rest ∨ t.scans = some (k :: rest))) ∧
    (s.images[n]? = some (k, im) → (s.ctx im.ctx).part = some p → (s.ctx im.ctx).v = true → (s.queue p (s.ctx im.ctx).plq).stopped = false →
      (s.queue p (s.ctx im.ctx).supq).stopped = false → s.takeItem p (s.ctx im.ctx).plq = (s', some (BitVec.ofNat 64 slot)) → slot < 2 ^ 49 →
      (∃ u, s'.slotWrite im.ctx ((List.range (regSpaceSize im.record / 4096)).map (fun i =>
          (slot + 4096 * i, s'.imageSpace k im / 2 ^ (32768 * i) % 2 ^ 32768)) ++ [(slot + 0x7B000, headerBlock 0 0 im.record 0)]) = .ok u ∧
        u.tasks = s'.tasks ∧ u.images = s'.images) →
      ∃ (t : State) (v : Saved), exec (.imageDelivery n) s = .next t ∧ t.tasks = s'.tasks ++ [v] ∧ t.images = del s'.images k ∧
        v.task.record = im.record ∧ v.task.slot = slot ∧ v.state = .trapped false) ∧
    (let d := s.core (.partition cl)
     let ctx := match d.nv with | some x => x.pcsel.getD x.ctx | none => d.pcselNext.getD 0
     d.power = .dark → d.halted = false → s.partOf cl < 32 → clu.halted = false → (s.ctx ctx).v = true → s.umpire.pimage ≠ [] → s.booted = true →
      s.umpire.deepOff = false →
      ∃ e : Core, exec (.partitionCoreResume cl) s = .next ((s.setCore e).setCluster cl { clu with dark := false }) ∧
        e.id = .partition cl ∧ e.power = .run ∧ e.pc = BitVec.ofNat 49 s.umpire.phandler ∧ e.shadow = [] ∧
        e.frozen = some ⟨match d.nv with | some x => x.shadow | none => [], none, none, none⟩ ∧
        e.cr crTrapcause = 0x18 ∧ e.cr crTrappc = (match d.nv with | some x => x.pc.zeroExtend 64 | none => 0) ∧ e.cr crCtxid = BitVec.ofNat 64 ctx ∧
        ∀ x, d.nv = some x → x.loops.length = 6 → x.loops = [e.cr 4, e.cr 5, e.cr 6, e.cr 8, e.cr 9, e.cr 10])

/-- While the Umpire serves, a request with a whole header of 4 bytes in a state that accepts it is answered: GET_VERSION begins the transcripts anew, GET_CAPABILITIES and NEGOTIATE_ALGORITHMS move the connection on and end in the flags and selections of R423's table, GET_CERTIFICATE of slot 0 within the chain gives at most 1,024 bytes, CHALLENGE with a nonce authenticates, GET_MEASUREMENTS of an index that exists extends the running transcript, KEY_EXCHANGE opens a session below 64, FINISH finishes it and END_SESSION removes it. A shorter request gets an ERROR with InvalidRequest, one that the state does not accept UnexpectedRequest, and one that is not listed UnsupportedRequest. The message codes, the header, the flags and the selections are those of the SPDM standard, and the other reply bytes are free (assumption log 45). -/
def Obligations.SpdmRequestsAreAnswered : Prop :=
  ∀ (s : State) (conn off len idx ses cert : Nat) (req : List (BitVec 8)) (nonce : BitVec 256) (x : Session), s.serves = true →
    let c := s.conn conn
    let u := s.tickFree
    let gives (i : Instr) (f : List (BitVec 8) → Conn × Reply) : Prop := ∃ out, exec i s = .next ((u.setConn conn (f out).1).reply (f out).2)
    let asks (i : Instr) (code lo hi : Nat) : Prop := (req.length < 4 → exec i s = .next (s.spdmError code 1)) ∧
      (4 ≤ req.length → c.state < lo ∨ hi < c.state → exec i s = .next (s.spdmError code 4))
    (4 ≤ req.length →
      (c.state ≤ 4 → gives (.getVersion conn req) (fun out => (⟨1, req ++ out, [], []⟩, ⟨0x04, 0x13, out⟩))) ∧
      (c.state = 1 → gives (.getCapabilities conn req) (fun o => let out := o ++ bytesOf 4 0x2F6
        ({ c with state := 2, vca := c.vca ++ req ++ out }, ⟨0x61, 0, out⟩))) ∧
      (c.state = 2 → gives (.negotiateAlgorithms conn req) (fun o => let out := o ++ (bytesOf 4 0 ++ bytesOf 4 2 ++ bytesOf 2 2)
        ({ c with state := 3, vca := c.vca ++ req ++ out }, ⟨0x63, 0, out⟩))) ∧
      (c.state = 3 ∨ c.state = 4 →
        (off < certSize → gives (.getCertificate conn 0 off len req) (fun out =>
          ({ c with certs := c.certs ++ req ++ out }, ⟨0x02, Nat.min (Nat.min len 1024) (certSize - off), out⟩))) ∧
        gives (.challenge conn (some nonce) req) (fun out => ({ c with state := 4 }, ⟨0x03, 0, out ++ attest (c.vca ++ c.certs ++ req ++ out)⟩)) ∧
        (idx ≤ 16 ∨ idx = 0xFF → gives (.getMeasurements conn idx false none req) (fun out => ({ c with meas := c.meas ++ req ++ out }, ⟨0x60, idx, out⟩))) ∧
        (s.sessions.length < 64 → ∃ out, exec (.keyExchange conn req) s =
          .next (State.reply { u with sessions := put s.sessions s.ids ⟨false, 0, none⟩, ids := s.ids + 1 } ⟨0x64, s.ids, out⟩)) ∧
        (find? s.sessions ses = some x → x.finished = false → ∃ out, exec (.finish conn ses cert req) s =
          .next (State.reply { u with sessions := put s.sessions ses { x with finished := true, cert := cert } } ⟨0x65, ses, out⟩)))) ∧
    asks (.getVersion conn req) 0x84 0 4 ∧ asks (.getCapabilities conn req) 0xE1 1 1 ∧ asks (.negotiateAlgorithms conn req) 0xE3 2 2 ∧
    asks (.getCertificate conn off off len req) 0x82 3 4 ∧ asks (.challenge conn (some nonce) req) 0x83 3 4 ∧
    asks (.getMeasurements conn idx false none req) 0xE0 3 4 ∧ asks (.keyExchange conn req) 0xE4 3 4 ∧ asks (.finish conn ses cert req) 0xE5 3 4 ∧
    (find? s.sessions ses = some x → ∃ t : State, exec (.endSession ses) s = .next t ∧ t.sessions = del s.sessions ses ∧
      t.replies = s.replies ++ [⟨0x6C, ses, []⟩] ∧ ∀ e ∈ t.comps, e.2.owner ≠ some ses) ∧
    exec (.spdmUnsupportedRequest conn req) s = .next (s.spdmError (req.getD 1 0).toNat 7)

/-- While the Umpire serves, in a finished session: LOCK of an unlocked interface with a partition locks it to the session with a nonce; START with that nonce runs it and resumes its world; STOP suspends its world, retires its memory and host-link slots and unlocks it; the report and the state are answered; an IDE failure puts a running interface into ERROR; HOT_RESET and LINK_DOWN leave every interface unlocked with its rings off. LOCK of an interface that has no world gives it the lowest number that is free, which is the model's choice (assumption log 46); that STOP suspends its world's tasks is its reading of R351 (assumption log 47). That the rings go off is R286's. -/
def Obligations.DeviceInterfacesChangeState : Prop :=
  ∀ (s : State) (ses vf port part w : Nat) (x : Session), s.serves = true → s.session ses = some x →
    let v := s.vf vf
    let u := s.tickFree
    (1 ≤ vf → vf ≤ 384 → v.part.isSome = true → v.tdi = .unlocked → x.vf = none → v.wld = w → w ≠ 0 →
      ∃ nonce : BitVec 256, exec (.lockInterfaceRequest ses vf) s = .next (State.agree
        { u.setVf vf { v with tdi := .locked, session := some ses, nonce := nonce } with sessions := put s.sessions ses { x with vf := some vf } }
        vf (bytesOf 32 nonce.toNat))) ∧
    (1 ≤ vf → vf ≤ 384 → v.part.isSome = true → v.tdi = .unlocked → x.vf = none → v.wld = 0 → 1 ≤ w → w ≤ 255 → (∀ e ∈ s.vfs, e.2.wld ≠ w) →
      (∀ j, 1 ≤ j → j < w → ∃ e ∈ s.vfs, e.2.wld = j) →
      ∃ nonce : BitVec 256, exec (.lockInterfaceRequest ses vf) s = .next (State.agree
        { u.setVf vf { v with tdi := .locked, wld := w, session := some ses, nonce := nonce } with
          sessions := put s.sessions ses { x with vf := some vf } } vf (bytesOf 32 nonce.toNat))) ∧
    (x.vf = some vf → v.session = some ses → v.tdi = .locked → exec (.startInterfaceRequest ses vf v.nonce) s =
      .next (((u.setVf vf { v with tdi := .run }).resumeWorld v.wld).agree vf [])) ∧
    (x.vf = some vf → v.session = some ses →
      let t := (u.suspendWorld v.wld).retireSlots (some v.wld) [2, 4]
      exec (.stopInterfaceRequest ses vf) s = .next ((t.setVf vf { v with tdi := .unlocked, session := none }).agree vf [])) ∧
    (v.part = some part → ∃ qs, exec (.getDeviceInterfaceReport ses vf) s =
      .next (u.agree (part + v.wld * 2 ^ 8 + (s.part part).clusters.toNat * 2 ^ 16) qs)) ∧
    exec (.getDeviceInterfaceState ses vf) s =
      .next (u.agree (match v.tdi with | .unlocked => 0 | .locked => 1 | .run => 2 | .error => 3) []) ∧
    (v.tdi = .run → exec (.ideFailure vf) s = .next ((s.suspendWorld v.wld).setVf vf { v with tdi := .error })) ∧
    (∀ i, i = .hotReset port ∨ i = .linkDown port → ∃ t : State, exec i s = .next t ∧
      ∀ e ∈ t.vfs, e.2.tdi = .unlocked ∧ e.2.session = none ∧ ringOn e.2.cqcfg = false ∧ ringOn e.2.cpcfg = false)

/-- While the Umpire serves, in a finished session bound to a world: COMP_CREATE takes the lowest free number; COMP_CLAIM takes a compartment without an owner by its certificate; KEY_LOAD fills an empty slot with the next generation and KEY_RETIRE retires an active one, which is emptied once no store under it is pending; CODE_SEAL of a readable image of up to 16 MiB in pages of the world answers the lowest empty slot, now a code slot of the world, and M, the SHA-384 of base, length and bytes, and every line of the image reads under that slot as it read before under its own; GRANT_SET by the owner of the one compartment that holds the set's segments replaces its grants and the write grant of its segments on every core; GATE_SET by the owner of either compartment writes the fields, On where both owners have sent them and else Half, a length of 0 turns the gate Off, and a range that is not a multiple of 4,096 is refused. That a request takes the lowest free number or slot is the model's choice (assumption log 46); the one compartment of a weight set, the wait of a retired slot for its pending stores, who may turn a gate Off, and the count by which a passage tells a gate that left On are its reading (assumption log 47). -/
def Obligations.OwnerRequestsAreServed : Prop :=
  ∀ (s : State) (ses w n slot kind comp ctx base wset gate len src dst sva slen dva dlen : Nat) (pc write : Bool) (key : BitVec 256)
      (x : Session) (e : Comp) (ms : List (BitVec 384)) (ps : List (Xlat × Nat)),
    s.serves = true → s.session ses = some x → s.boundWorld ses x = some w →
    let u := s.tickFree
    let k := s.key slot
    let free (j : Nat) : Prop := find? s.comps j = none ∧ ∀ i, 1 ≤ i → i < j → find? s.comps i ≠ none
    let g := s.gate w gate
    let fields : Prop := g.src = src ∧ g.dst = dst ∧ g.sva = sva ∧ g.slen = slen ∧ g.dva = dva ∧ g.dlen = dlen
    let here (y : Nat) : Prop := ∃ c, find? s.comps y = some c ∧ c.wld = w
    let range (a n : Nat) : Prop := a % 4096 = 0 ∧ n % 4096 = 0 ∧ a + n ≤ 2 ^ 49
    let gates (y : Gate) : Prop := exec (.gateSet ses gate src dst sva slen dva dlen) s =
      .next (State.agree (State.measureTable { u with gates := put s.gates (w, gate) y } 7) gate [])
    ((s.comps.filter (fun e => decide (e.2.wld = w))).length < 16 → 1 ≤ n → n ≤ 255 → free n →
      exec (.compCreate ses) s = .next (State.agree { u with comps := put s.comps n ⟨w, some ses, x.cert⟩ } n [])) ∧
    (find? s.comps comp = some e → e.wld = w → e.owner = none → e.cert ≠ 0 → e.cert = x.cert →
      exec (.compClaim ses comp) s = .next (State.agree { u with comps := put s.comps comp { e with owner := some ses } } comp [])) ∧
    (s.owns ses w comp = true → 1 ≤ slot → slot < 128 → k.st = 0 → 2 ≤ kind → kind ≤ 4 → exec (.keyLoad ses slot kind comp pc key) s =
      .next (((u.setKey slot ⟨(k.gen + 1) % 2 ^ 16, w, comp, pc, kind, 1, key, 0⟩).measureTable 3).agree slot [])) ∧
    (1 ≤ slot → k.st = 1 → s.owns ses w k.comp = true →
      exec (.keyRetire ses slot) s = .next (((u.setKey slot { k with st := 2 }).measureTable 3).agree slot [])) ∧
    (k.st = 2 → (∀ y ∈ s.stores, y.label ≠ s.keyLabel slot) → exec (.keySlotDrained slot) s = .next (s.setKey slot { k with st := 0, key := 0, meas := 0 })) ∧
    (u.sealPlaces ctx base len = some ps → 1 ≤ len → len ≤ 2 ^ 24 → base + len ≤ 2 ^ 49 → (s.ctx ctx).wld = w → (s.ctx ctx).v = true →
      (∀ p ∈ ps, p.1.psn = false ∧ s.poisoned (p.1.pa / 64) = false) → 1 ≤ slot → slot ≤ 127 → k.st = 0 → (∀ j, 1 ≤ j → j < slot → (s.key j).st ≠ 0) →
      ∃ t : State, exec (.codeSeal ses ctx base len) s = .next t ∧
        (let m := BitVec.ofNat 384 (natOfBytes (sha384 (bytesOf 8 base ++ bytesOf 8 len ++
          ps.flatMap (fun p => bytesOf p.2 (s.plain p.1.label p.1.pa p.2)))))
         (t.key slot).kind = 5 ∧ (t.key slot).st = 1 ∧ (t.key slot).wld = w ∧ (t.key slot).gen = (k.gen + 1) % 2 ^ 16 ∧ (t.key slot).meas = m ∧
           t.umpire.sealed = (w, m) :: s.umpire.sealed ∧ t.replies = s.replies ++ [⟨0x7E, slot, bytesOf 48 m.toNat⟩]) ∧
        (Memory.wf s.mem = true → (ps.map (fun p => p.1.pa / 64)).Nodup → (∀ p ∈ ps, s.fenced p.1.pa = false) →
          ∀ p ∈ ps, t.plain (t.keyLabel slot) p.1.pa p.2 = s.plain p.1.label p.1.pa p.2)) ∧
    (s.setComps wset = [comp] → s.owns ses w comp = true → ms.length ≤ 16 → ∃ t : State, exec (.grantSet ses wset ms write) s = .next t ∧
      t.wsets = put s.wsets wset { look WSet.fresh s.wsets wset with comp := comp, grants := ms } ∧
      (∀ k ∈ s.cores, (s.core k).id = k → ∀ g ∈ (t.core k).ws.segs, g.2.role = 0 → g.2.wset = wset → g.2.write = write) ∧
      t.replies = s.replies ++ [⟨0x7E, wset, []⟩]) ∧
    (gate < 16 → s.owns ses w src = true ∨ s.owns ses w dst = true → here src → here dst → range sva slen → range dva dlen →
      (slen ≠ 0 → dlen ≠ 0 → fields → gates ⟨src, dst, sva, slen, dva, dlen, s.owns ses w src || g.bySrc, s.owns ses w dst || g.byDst, g.epoch⟩) ∧
      (slen ≠ 0 → dlen ≠ 0 → ¬fields → gates ⟨src, dst, sva, slen, dva, dlen, s.owns ses w src, s.owns ses w dst, g.epoch + g.on.toNat⟩) ∧
      (slen = 0 ∨ dlen = 0 → g.slen = 0 ∨ s.owns ses w g.src = true ∨ s.owns ses w g.dst = true →
        gates ⟨0, 0, 0, 0, 0, 0, false, false, g.epoch + g.on.toNat⟩)) ∧
    (¬(range sva slen ∧ range dva dlen) → exec (.gateSet ses gate src dst sva slen dva dlen) s = .next u.refuse) ∧
    (g.on = true ↔ g.bySrc = true ∧ g.byDst = true ∧ g.slen ≠ 0)

/-- An uncorrectable error poisons its line, marks the place of its weight unit bad, fences its vat, hands over to the standby where it is the Umpire's or its core's, or fails the standby; the first lapse of the heartbeat is counted and a second hands over. A repair record is written over the copy not in force, applied with event 0x59 where it is in force then, and written once the cores that freezes have flagged are disabled; its effects are these: spares convert an unused segment, an engine is turned off, a core is disabled, a fenced vat may return. A record that is delivered is written and applied in the same way. A Gorque port that fails is removed. A row's activation is counted, its count ends at the threshold, and in the hot state one beyond the cap waits for the next window, which begins with no activations but those that waited; the temperature is kept, the hot state begins above thot and ends below thot - 3, and 105 degrees fence the vat. rhcfg takes a value within its limits, with its thot at once, and another changes nothing. A receipt request that waits is answered. How a row is named, what a failed Gorque port leaves, and what a repair record's body says, are the model's choice (assumption logs 43, 49 and 69). -/
def Obligations.ErrorsAndRepairsAct : Prop :=
  ∀ (s : State) (k : CoreId) (pa off vat bank row celsius port ver seg unit : Nat) (slot : Fin 8) (val : Word) (r : Receipt)
    (engine : Option (Fin 8)),
    let d := s.disableFlagged
    let c := d.core k
    let v := s.vat vat
    let limits : Prop := 16 ≤ bits val.toNat 40 8 ∧ 512 ≤ bits val.toNat 16 16 ∧ 70 ≤ bits val.toNat 8 8 ∧ bits val.toNat 8 8 ≤ 94 ∧
      bits val.toNat 0 8 = 0 ∧ bits val.toNat 32 8 = 0 ∧ bits val.toNat 48 16 = 0
    let counted (v : Vat) : Vat := { v with
      acts := put v.acts bank (look 0 v.acts bank + 1)
      rows := if v.thr ≤ look 0 v.rows (bank, row) + 1 then del v.rows (bank, row) else put v.rows (bank, row) (look 0 v.rows (bank, row) + 1) }
    let repairs (i : Repair) (ty body : Nat) (f : State → State) : Prop :=
      exec (.repairRecord i) s = .next (d.recordRepair ty ver body f)
    (∃ t : State, exec (.uncorrectableError (.memLine pa)) s = .next t ∧ t.poisoned (pa / 64) = true ∧ t.mem = s.mem) ∧
    (∃ t : State, exec (.uncorrectableError (.scratchLine k off)) s = .next t ∧ ((s.core k).id = k → off / 64 ∈ (t.core k).poison)) ∧
    (∃ t : State, exec (.uncorrectableError (.weightUnit k unit)) s = .next t ∧ ((s.core k).id = k →
      let w := (s.core k).ws
      look ⟨0, 0, false⟩ (t.core k).ws.units (w.place unit) = { w.unit unit with bad := true } ∧
        ∀ p ≠ w.place unit, look ⟨0, 0, false⟩ (t.core k).ws.units p = look ⟨0, 0, false⟩ w.units p)) ∧
    exec (.uncorrectableError (.vat vat)) s = .next (s.fenceVat vat) ∧
    exec (.uncorrectableError .umpire) s = .next s.takeover ∧
    exec (.uncorrectableError (.coreState .umpire off engine)) s = .next s.takeover ∧
    exec (.uncorrectableError .standby) s =
      .next { s with umpire := { s.umpire with failed := true, stopped := s.umpire.stopped || s.umpire.standby } } ∧
    (s.umpire.standby = false → exec (.heartbeatCheck true) s = .next { s with umpire := { s.umpire with lapses := 0 } } ∧
      (s.umpire.lapses = 0 → exec (.heartbeatCheck false) s = .next { s with umpire := { s.umpire with lapses := 1 } }) ∧
      (s.umpire.lapses ≠ 0 → exec (.heartbeatCheck false) s = .next s.takeover)) ∧
    (c.ws.converted = false → seg < 1022 → (c.ws.seg seg).role = 0 → (c.ws.seg seg).comp = 0 → (c.ws.seg seg).wset = 0 →
      repairs (.spares k seg ver) 2 (d.recordBody 2) (fun s => s.onWs k (fun w => { w with
        converted := true, segs := put w.segs seg { Seg.fresh with role := 2 }
        applying := if w.worn then some w.jnl.wset else w.applying }))) ∧
    (4 ≤ slot.val → slot.val ≤ 6 →
      repairs (.disableEngine k slot ver) 2 (d.recordBody 2 ||| 2 ^ (3 * coreBit k + (slot.val - 4))) (fun s => s.disableEngine k slot)) ∧
    repairs (.disableCore k ver) 1 (d.recordBody 1 ||| 2 ^ coreBit k) (fun s => s.setCore { s.core k with enabled := false }) ∧
    ((d.vat vat).state = .fenced → repairs (.readmit vat ver) 2 (d.recordBody 2) (fun s => s.setVat vat { s.vat vat with state := .readmitting })) ∧
    (∀ ty body f, ∃ len sign,
      let i := if (d.inForce ty).map (·.1) = some 0 then 1 else 0
      let e : State := { d with records := put d.records (ty, i) ⟨ver, true, len, body, sign⟩ }
      ((e.inForce ty).map (·.1) ≠ some i → d.recordRepair ty ver body f = e) ∧
      ((e.inForce ty).map (·.1) = some i → ∃ m, d.recordRepair ty ver body f =
        ((f (e.applyRecord ty)).extend 8 m).logEvent 0x59 .umpire (ty % 2 ^ 16 + ver % 2 ^ 32 * 2 ^ 16))) ∧
    (∀ ty len body sign whole,
      let i := if (d.inForce ty).map (·.1) = some 0 then 1 else 0
      let e : State := { d with records := put d.records (ty, i) ⟨ver, whole, len, body, sign⟩ }
      ((e.inForce ty).map (·.1) ≠ some i → exec (.repairRecord (.record ty ver len body sign whole)) s = .next e) ∧
      ((e.inForce ty).map (·.1) = some i → ∃ m, exec (.repairRecord (.record ty ver len body sign whole)) s =
        .next (((e.applyRecord ty).extend 8 m).logEvent 0x59 .umpire (ty % 2 ^ 16 + ver % 2 ^ 32 * 2 ^ 16)))) ∧
    (∃ t : State, exec (.gorquePortLinkFailure port) s = .next t ∧ port ∈ t.portsDown ∧ ∀ x, x ∈ s.portsDown → x ∈ t.portsDown) ∧
    (v.hot = false ∨ look 0 v.acts bank < v.acap → exec (.rowRefreshManagement vat bank row) s = .next (s.setVat vat (counted v))) ∧
    (v.hot = true → v.acap ≤ look 0 v.acts bank → exec (.rowRefreshManagement vat bank row) s =
      .next (s.setVat vat { v with waiting := v.waiting ++ [(bank, row)] })) ∧
    (v.waiting = [] → exec (.activationWindow vat) s = .next (s.setVat vat { v with acts := [] })) ∧
    (v.waiting = [(bank, row)] → v.hot = false ∨ 1 ≤ v.acap →
      exec (.activationWindow vat) s = .next (s.setVat vat (counted { v with acts := [], waiting := [] }))) ∧
    (v.waiting = [] → ∃ hot : Bool, (v.thot < celsius → hot = true) ∧ (celsius + 3 < v.thot → hot = false) ∧
      (celsius ≤ v.thot → v.thot ≤ celsius + 3 → hot = v.hot) ∧ exec (.hbmTemperatureChange vat celsius) s =
        .next (let t := s.setVat vat { v with temp := celsius, hot := hot }; if 105 ≤ celsius then t.fenceVat vat else t)) ∧
    (limits → v.waiting = [] → exec (.rhcfgWrite vat val) s = .next (s.setVat vat { v with
      rhcfg := val
      hot := if bits val.toNat 8 8 < v.temp then true else if v.temp + 3 < bits val.toNat 8 8 then false else v.hot })) ∧
    (¬limits → exec (.rhcfgWrite vat val) s = .next s) ∧
    (s.serves = true → s.receipts = [r] → exec (.receiptRequest r.part) s = .next (State.answerReceipt { s with receipts := [] } r))

/-- What reset leaves: the values that R16, R390, R394 and R397 give. The general registers' values are the model's choice (assumption log 2) and are not stated here. That host memory reads 0 is the model's choice (assumption log 8). -/
def Obligations.ResetLeaves : Prop :=
  (∀ a, memGet State.reset.mem a = 0 ∧ memGet State.reset.host a = 0 ∧ State.reset.poisoned a = false) ∧
  (∀ (k : CoreId) (n : Fin 96) (a : Nat), (State.reset.core k).cr n = 0 ∧ (State.reset.core k).rp 0 = BitVec.allOnes 512 ∧
    memGet (State.reset.core k).scratch a = 0 ∧ (State.reset.core k).poison = [] ∧ (State.reset.core k).power = .dark ∧
    (State.reset.core k).task = none ∧ (State.reset.core k).shadow = [] ∧ (State.reset.core k).ilk = [] ∧ (State.reset.core k).cmds = []) ∧
  (∀ cl, (State.reset.cluster cl).dark = true) ∧ State.reset.tasks = [] ∧ State.reset.stores = [] ∧ State.reset.sessions = [] ∧
  State.reset.launches = [] ∧ State.reset.booted = false ∧ State.reset.tick = 0 ∧
  (∃ t : State, step State.reset = .next t ∧ t.booted = true)

/-- In a booted module with no outside event queued, where the turn is that of the core that steps (it is named for it, or no other core issues) and no internal event happens in its stead, and where that core runs, saves no task and waits for nothing: if the word at its program counter has its start bit, ends its bundle and decodes to an instruction of a slot that the core has, then the step is exec of that instruction with the bundle's successor noted: an issued word is followed by the end of its bundle, a trapped one by its trap, and a held one, where no fill of its has failed, leaves the bundle held. Fences whose condition holds are cleared before it, and stores left at issue retire after it. Which core and which event come next is free in the model, and `turns` is its own field (assumption logs 4 and 5). -/
def Obligations.StepRunsTheDecodedWord : Prop :=
  ∀ (s r : State) (i : Instr) (w : Nat), s.booted = true → s.agenda = [] →
    (s.turns = [s.c.id] ∨ (s.turns = [] ∧ s.tickFree.rivals = [])) →
    let o : State := { s.tickFree with turns := [] }
    (o.events = [] ∨ Config.pickEvent o.freeCtr % (o.events.length + 1) = 0) →
    s.runs = true → s.c.saving = none → s.c.redoing = false → s.c.tendDone = false → s.c.ord.wait = none → s.c.arrived = none →
    let t := o.clearFence
    let a := t.c.pc.toNat
    t.takeDue = none → t.preempt = t →
    t.get a = .ok w → w.testBit 31 = true → decodeWord w = .ok i →
    (a % 64 = 60 ∨ ∃ x, t.get (a + 4) = .ok x ∧ (x = 0 ∨ x.testBit 31 = true)) → a % 4 = 0 →
    (isCompute t.c.id = true ∨ bits w 28 3 < 4 ∨ bits w 28 3 = 7) → Fin.ofNat 8 (bits w 28 3) ∉ t.c.off →
    let u := { t with c := { t.c with flow := { Flow.none with succ := successorOf t.get a 1 } }, word := w }
    exec i u = .next r →
    (r.verdict = .issued → r.c.flow.skipTo = none → t.c.pendingAfter r.c ≤ 16 →
      step s = .next ((r.commit (true, 0)).remember t.c.party.ctx a).retireStores) ∧
    (∀ x, r.verdict = .trapped x → step s = .next (t.bundleTrap x u.c.lateStores).retireStores) ∧
    (∀ n, r.verdict = .held n → t.c.failedFill r.c = none →
      step s = .next (State.hold { t with c := t.c.heldAfter r.c } t n).retireStores)

/-- The words of R91's worked bundle and of R99's worked loop, and one further word for each slot written out from its map, decode to the instructions they stand for; a word of an unassigned opcode, one with a reserved bit set and one with a code that its form does not accept are refused with reasons 1, 2 and 5. -/
def Obligations.EncodedWordsDecode : Prop :=
  decodeWord 0x80200003 = .ok (.stall 3) ∧ decodeWord 0x10430FFE = .ok (.addi .a 3 1 0x7FE) ∧ decodeWord 0x30043203 = .ok (.lds 4 6 .i32 3) ∧
  decodeWord 0x422621C9 = .ok (.vfadd 6 4 7 1 .f32) ∧ decodeWord 0x81001402 = .ok (.loop 0 5 2) ∧
  decodeWord 0x80408002 = .ok (.brScalar false 2 2) ∧ decodeWord 0x104217FF = .ok (.addi .a 2 2 0x7FF) ∧ decodeWord 0x81600000 = .ok .tend ∧
  decodeWord 0x20221900 = .ok (.sub .b 2 3 4) ∧ decodeWord 0x50500000 = .ok (.mzero 2) ∧ decodeWord 0x60690000 = .ok (.slb 9) ∧
  decodeWord 0x73070800 = .ok (.wwear 7 1) ∧ decodeWord 0x0FE00000 = .error .unassigned ∧ decodeWord 0x00010000 = .error .reserved ∧
  decodeWord 0x50800000 = .error .notAccepted

/-- For every well-formed instruction that has an encoding, its word is below 2^31 and decodes to the instruction, and so does the word with its start bit set: no operand value is lost. An instruction without an encoding is one of the steps that the table gives no word. -/
def Obligations.DecodeOfEncode : Prop :=
  ∀ i : Instr, i.wf = true →
    (i.slot = none → encode i = none) ∧
    (∀ n, i.slot = some n → ∃ w, encode i = some w ∧ w < 2 ^ 31 ∧ bits w 28 3 = n ∧ decodeWord w = .ok i ∧ decodeWord (withStart w) = .ok i)

/-- For every 32-bit word that the decoder accepts, the instruction is well formed and its encoding is the word without its start bit: every bit of an accepted word is accounted for. -/
def Obligations.EncodeOfDecode : Prop :=
  ∀ (w : Nat) (i : Instr), w < 2 ^ 32 → decodeWord w = .ok i → i.wf = true ∧ encode i = some (w % 2 ^ 31)

/-- For a scratchpad in canonical form: after n bytes are written at an offset, reading them gives the number written modulo 256^n, reading bytes apart from them gives what it gave before, a line is poisoned after the write exactly if it was poisoned before and the write does not cover all its 64 bytes, and the canonical form is kept. -/
def Obligations.ScratchpadReadAfterWrite : Prop :=
  ∀ (c : Core) (off n v x m : Nat), Memory.wf c.scratch = true →
    (c.scratchPut off n v).scratchRead off n = v % 256 ^ n ∧
    (x + m ≤ off ∨ off + n ≤ x → (c.scratchPut off n v).scratchRead x m = c.scratchRead x m) ∧
    (∀ l, l ∈ (c.scratchPut off n v).poison ↔ l ∈ c.poison ∧ ¬ (off ≤ 64 * l ∧ 64 * l + 64 ≤ off + n)) ∧
    Memory.wf (c.scratchPut off n v).scratch = true

/-- From any state whose global memory is in canonical form (addresses strictly rising, no byte that equals what an unlisted address reads as), a step that answers a next state leaves it in canonical form, whatever instruction or event the step performs: equal memories stay equal data. The canonical form is the model's own (assumption log 8). -/
def Obligations.StepKeepsMemoryCanonical : Prop :=
  ∀ s t : State, Memory.wf s.mem = true → step s = .next t → Memory.wf t.mem = true

/-- Global memory, host memory and the scratchpad of every core are in canonical form in the state after reset. The canonical form is the model's own (assumption log 8). -/
def Obligations.ResetMemoryCanonical : Prop :=
  Memory.wf State.reset.mem = true ∧ Memory.wf State.reset.host = true ∧ ∀ k : CoreId, Memory.wf (State.reset.core k).scratch = true

/-- When any instruction of slots A and B issues, the state differs from before only in the core's shadow queue and its list of interlocked operations, each of which keeps its entries and gains entries for the instruction's own destinations (an operation of the same cycle on the same destination keeps its entry and loses its destination, since the later slot's write is the one that stays: R30, read so of interlocked results, assumption log 23): every register, flag, control register, the program counter, the scratchpad, all of memory and every other core are unchanged. In a bundle of several words each word executes on the state that the words before it leave, whose registers are those before the bundle: for two words in ascending slots, neither of them a gather or scatter, the bundle is formed of both and its successor follows the second; where both issue it is ready with what the second leaves, and where one traps the bundle traps, with the trap of the lower slot where both do. A second word whose slot is not above the first raises ILLEGAL with reason 4. -/
def Obligations.RegisterWordsFrame : Prop :=
  (∀ (s t : State) (i : Instr), i.slot = some 1 ∨ i.slot = some 2 → exec i s = .next t → t.verdict = .issued →
    ∃ (sh : List Entry) (ilk ops : List Ilk),
      t = s.after { s.c with shadow := s.c.shadow ++ sh, ilk := ilk ++ ops } ∧ ilk.length = s.c.ilk.length ∧
      (∀ (n : Nat) (o : Ilk), s.c.ilk[n]? = some o → ilk[n]? = some o ∨
        (ilk[n]? = some { o with dest := none } ∧ o.age = s.c.age ∧ ∃ p ∈ ops, p.dest = o.dest ∧ p.dest.isSome = true)) ∧
      (∀ e ∈ sh, e.dest ∈ (dsts s.c i).map (·.1)) ∧ ∀ o ∈ ops, ∀ d, o.dest = some d → d ∈ (dsts s.c i).map (·.1)) ∧
  ∀ (s r1 r2 r : State) (w1 w2 a succ : Nat) (i j : Instr) (t1 t2 : Trap),
    let n1 := bits w1 28 3
    let n2 := bits w2 28 3
    let has (n : Nat) : Prop := (isCompute s.c.id = true ∨ n < 4 ∨ n = 7) ∧ Fin.ofNat 8 n ∉ s.c.off
    let u : State := { s with c := { s.c with flow := { Flow.none with succ := succ } } }
    let both : Bundle := ⟨[(w1, i), (w2, j)], succ⟩
    (a % 64 < 60 → a % 4 = 0 → s.get a = .ok w1 → w1 ≠ 0 → s.get (a + 4) = .ok w2 → w2 ≠ 0 → w2.testBit 31 = false →
      (n1 < n2 → (a % 64 = 56 ∨ ∃ x, s.get (a + 8) = .ok x ∧ (x = 0 ∨ x.testBit 31 = true)) → decodeWord w1 = .ok i → decodeWord w2 = .ok j →
        has n1 → has n2 → s.formBundle a = .ok ⟨[(w1, i), (w2, j)], successorOf s.get a 2⟩) ∧
      (n2 ≤ n1 → s.formBundle a = .error ⟨.illegal, encInfo 4 w2 n2⟩)) ∧
    ((∀ d b x p z, i ≠ .ldvx d b x p z) → (∀ d b x p z, i ≠ .stvx d b x p z) →
      (exec i { u with word := w1 } = .next r1 → r1.verdict = .issued →
        (exec j { r1 with word := w2 } = .next r → r.verdict = .issued → s.c.pendingAfter (r.c.settleBundle both.words) ≤ 16 →
          r.c.flow.skipTo = none → s.tryBundle both = .ready { r with c := r.c.settleBundle both.words } (true, 0)) ∧
        (exec j { r1 with word := w2 } = .next r2 → r2.verdict = .trapped t2 → s.tryBundle both = .trap t2 r1.c.lateStores)) ∧
      (exec i { u with word := w1 } = .next r1 → r1.verdict = .trapped t1 → exec j { u with word := w2 } = .next r2 →
        (∀ n, r2.verdict ≠ .held n) → ∃ late, s.tryBundle both = .trap t1 late))

/-- When any instruction of slots C, V, M and F issues, all of memory, the pending stores, host memory, the other cores, and of its own core every scalar, vector and predicate register, every control register, the program counter, the tiles, weight buffers and scale latches are unchanged; so are the scratchpad and its poison, but for VDEFER, which stores its entries there. -/
def Obligations.ControlVectorMatrixFrame : Prop :=
  ∀ (s t : State) (i : Instr), i.slot = some 0 ∨ i.slot = some 4 ∨ i.slot = some 5 ∨ i.slot = some 6 →
    exec i s = .next t → t.verdict = .issued →
    t.mem = s.mem ∧ t.stores = s.stores ∧ t.host = s.host ∧ t.others = s.others ∧ t.c.s = s.c.s ∧ t.c.v = s.c.v ∧ t.c.p = s.c.p ∧
    t.c.ctl = s.c.ctl ∧ t.c.pc = s.c.pc ∧ t.c.tiles = s.c.tiles ∧ t.c.wbuf = s.c.wbuf ∧ t.c.sla = s.c.sla ∧ t.c.slb = s.c.slb ∧ t.c.slq = s.c.slq ∧
    ((∀ a b e p n, i ≠ .vdefer a b e p n) → t.c.scratch = s.c.scratch ∧ t.c.poison = s.c.poison)

/-- A trap on a partition core or the Umpire outside its handler writes trapcause, trapinfo and trappc, freezes the shadow queue, the pending QPOP, the held access and the wait, and goes on at the handler entry of its firmware, with every general register, memory and the other registers unchanged; one inside the handler halts a partition core; one on a compute core whose outstanding results have arrived and whose task can be saved leaves what that save leaves, with an item for the task's supervisor that carries trapcause. Leaving the handler puts the frozen entries back in front and the wait back; a held access is outstanding again and holds the next bundle until it is performed, but for a handler that wrote 0 to trapcause, after which it is dropped. Before its own work every word that nothing holds is checked: a V-, M- or F-slot word on a partition core or the Umpire raises ILLEGAL with reason 3; a form that R189 denies the kind of core raises what R189 says; a vector register outside the task's class, and a word of the M slot or of the scale latches with no tiles, raise ILLEGAL with reason 5; with chk = 1 a write that lands in the cycle of a pending one of the same register raises ILLEGAL, and else a read or write of a register with a pending entry of an earlier bundle raises STALL_SHORT. That the wait is set aside, and how a save goes on, are the model's choice (assumption logs 52 and 58). -/
def Obligations.TrapEntryAndReturn : Prop :=
  ∀ (s : State) (t : Trap) (i : Instr) (n : Nat) (f : Cause) (x : Reg) (y : Dest) (z : Dest × Nat),
    let r := s.trapNow t
    let traps (f : Cause) : Prop := ∃ v, exec i s = .next (s.trapNow ⟨f, v⟩)
    let held : BitVec 512 := (s.c.task.map (·.record)).getD 0
    let regs := if bits held.toNat 300 2 = 0 then 0 else 4 * 2 ^ bits held.toNat 300 2
    (i.slot = some n → s.preIssue n i = .go →
      (isCompute s.c.id = false → 4 ≤ n → n ≤ 6 → exec i s = .next (s.trapNow ⟨.illegal, encInfo 3 s.word n⟩)) ∧
      (lacksForm s.c.id i = some f → traps f) ∧
      (isCompute s.c.id = true → kindTrap s i = none → .vector x ∈ srcs i ++ (dsts s.c i).map (·.1) → regs ≤ x.val →
        exec i s = .next (s.trapNow s.illegal5)) ∧
      (isCompute s.c.id = true → bits held.toNat 296 3 = 0 → n = 5 ∨ i = .sla x ∨ i = .slb x ∨ i = .slq x ∨ i = .slz →
        exec i s = .next (s.trapNow s.illegal5)) ∧
      (kindTrap s i = none → classTrap s n i = none → s.c.chk = true →
        (z ∈ dsts s.c i → discards z.1 = false → z.2 ≠ 0 → (∃ e ∈ s.c.shadow, e.dest = z.1 ∧ e.remaining = z.2) → traps .illegal) ∧
        (y ∈ srcs i ++ (dsts s.c i).map (·.1) → (∃ q, y = .scalar q ∧ q ≠ 0) ∨ (∃ q, y = .vector q) ∨ (∃ q, y = .pred q ∧ q ≠ 0) ∨ (∃ q, y = .tstat q) →
          (∃ e ∈ s.c.shadow, e.dest = y ∧ e.age < s.c.age) →
          (∀ w ∈ dsts s.c i, (∀ e ∈ s.c.shadow, clash e.dest w.1 = true → e.remaining ≠ w.2) ∧ (∀ o ∈ s.c.ilk, o.dest ≠ some w.1)) →
          (∀ e ∈ s.c.shadow, e.age < s.c.age) → traps .stallShort))) ∧
    (∀ entry, ((∃ cl, s.c.id = .partition cl) ∧ entry = s.umpire.phandler) ∨ (s.c.id = .umpire ∧ entry = s.umpire.handler) → s.c.frozen = none →
      r.c.cr crTrapcause = BitVec.ofNat 64 t.cause.code ∧ r.c.cr crTrapinfo = t.info ∧ r.c.cr crTrappc = s.c.pc.zeroExtend 64 ∧
      (∀ n, n ≠ crTrapcause → n ≠ crTrapinfo → n ≠ crTrappc → r.c.cr n = s.c.cr n) ∧ r.c.pc = BitVec.ofNat 49 entry ∧
      r.c.shadow = [] ∧ r.c.qpop = none ∧ r.c.held = none ∧ r.c.ord.wait = none ∧
      r.c.frozen = some ⟨s.c.shadow, s.c.qpop, s.c.held.map (·.1), s.c.ord.wait⟩ ∧
      r.c.s = s.c.s ∧ r.c.p = s.c.p ∧ r.c.v = s.c.v ∧ r.c.scratch = s.c.scratch ∧ r.mem = s.mem ∧ r.stores = s.stores ∧ r.verdict = .trapped t) ∧
    ((∃ cl, s.c.id = .partition cl) → s.c.frozen.isSome = true → r.c.halted = true) ∧
    (∀ (k : Task) (u : State), isCompute s.c.id = true → s.c.task = some k → s.c.saving = none → s.c.freeze = 0 →
      let a := State.awaitResults { s with c := { s.c.setTrap t s.c.pc with
        flow := Flow.none, arrived := none, badFills := [], redo := none, saving := some (.trapped true) } } s.c.id
      a.saveWaits s.c.id = false → a.trySave s.c.id k (.trapped true) = .ok u →
      r = { u.postItem s.c.id k (supItem ((a.core s.c.id).cr crTrapcause).toNat false s.c.id k.slot)
        (a.openStores (a.core s.c.id)) (some (k.ctx, k.slot)) with verdict := .trapped t }) ∧
    (∀ f : Frozen, s.c.frozen = some f → s.c.shadow = [] →
      s.c.leaveHandler.frozen = none ∧ s.c.leaveHandler.shadow = f.shadow ∧ s.c.leaveHandler.qpop = f.qpop ∧
      s.c.leaveHandler.ord.wait = f.wait ∧ s.c.leaveHandler.s = s.c.s ∧
      ∀ a : Access, f.held = some a →
        (s.c.cr crTrapcause ≠ 0 → s.c.leaveHandler.redo = some a ∧
          if a.isStore then s.c.leaveHandler.stq = a :: s.c.stq else ∃ d, s.c.leaveHandler.ilk = ⟨.access a none, d, a.age⟩ :: s.c.ilk) ∧
        (s.c.cr crTrapcause = 0 → s.c.leaveHandler.stq = s.c.stq ∧ s.c.leaveHandler.ilk = s.c.ilk))
end

