-- ==== Sys2Proof/Laws/Memory.lean ====
section
/-! SUPPORT. Laws of the sparse memory: what each operation reads as, and that each keeps the canonical form. -/

namespace Sys2Proof.Laws

open Sys2Proof.Machine

/-! ### The canonical form -/

/-- The canonical form as a pairwise order and a condition on each cell. -/
theorem wf_iff : ∀ m : Mem, Memory.wf m = true ↔ m.Pairwise (fun c d => c.1 < d.1) ∧ ∀ c ∈ m, c.2 ≠ 0
  | [] => by simp [Memory.wf]
  | [(x, b)] => by simp [Memory.wf]
  | (x, b) :: (y, c) :: m => by
    have ih := wf_iff ((y, c) :: m)
    simp only [Memory.wf, Bool.and_eq_true, decide_eq_true_eq, ih, List.pairwise_cons, List.mem_cons, forall_eq_or_imp]
    constructor
    · rintro ⟨⟨hb, hxy⟩, ⟨hy, hp⟩, hc, hz⟩
      exact ⟨⟨⟨hxy, fun d hd => Nat.lt_trans hxy (hy d hd)⟩, hy, hp⟩, hb, hc, hz⟩
    · rintro ⟨⟨⟨hxy, -⟩, hy, hp⟩, hb, hc, hz⟩
      exact ⟨⟨hb, hxy⟩, ⟨hy, hp⟩, hc, hz⟩

/-- What follows the first cell is in canonical form. -/
theorem wf_tail {c : Nat × BitVec 8} {m : Mem} (h : Memory.wf (c :: m) = true) : Memory.wf m = true := by
  rw [wf_iff] at h ⊢
  exact ⟨(List.pairwise_cons.mp h.1).2, fun d hd => h.2 d (List.mem_cons_of_mem _ hd)⟩

/-- Addresses behind the first cell are above its own. -/
theorem wf_head_lt {x : Nat} {b : BitVec 8} {m : Mem} (h : Memory.wf ((x, b) :: m) = true) : ∀ d ∈ m, x < d.1 :=
  (List.pairwise_cons.mp ((wf_iff _).mp h).1).1

/-- Cells that a filter keeps stay in canonical form. -/
theorem wf_filter (p : Nat × BitVec 8 → Bool) {m : Mem} (h : Memory.wf m = true) : Memory.wf (m.filter p) = true := by
  rw [wf_iff] at h ⊢
  exact ⟨h.1.filter p, fun c hc => h.2 c (List.mem_filter.mp hc).1⟩

/-- Two memories in canonical form, the first below an address and the second from it on, join to one. -/
theorem wf_append {m n : Mem} (a : Nat) (hm : Memory.wf m = true) (hn : Memory.wf n = true) (lo : ∀ c ∈ m, c.1 < a)
    (hi : ∀ c ∈ n, a ≤ c.1) : Memory.wf (m ++ n) = true := by
  rw [wf_iff] at hm hn ⊢
  refine ⟨List.pairwise_append.mpr ⟨hm.1, hn.1, fun c hc d hd => Nat.lt_of_lt_of_le (lo c hc) (hi d hd)⟩, fun c hc => ?_⟩
  rcases List.mem_append.mp hc with h | h
  · exact hm.2 c h
  · exact hn.2 c h

/-! ### The parts of a memory -/

theorem memBelow_sublist (a : Nat) : ∀ m : Mem, (memBelow a m).Sublist m
  | [] => List.Sublist.refl _
  | (x, b) :: m => by
    unfold memBelow
    split
    · exact (memBelow_sublist a m).cons_cons _
    · exact List.nil_sublist _

theorem memFrom_sublist (a : Nat) : ∀ m : Mem, (memFrom a m).Sublist m
  | [] => List.Sublist.refl _
  | (x, b) :: m => by
    unfold memFrom
    split
    · exact (memFrom_sublist a m).cons _
    · exact List.Sublist.refl _

theorem memBelow_lt (a : Nat) : ∀ m : Mem, ∀ c ∈ memBelow a m, c.1 < a
  | [], c, h => nomatch h
  | (x, b) :: m, c, h => by
    unfold memBelow at h
    split at h
    · rcases List.mem_cons.mp h with rfl | h
      · assumption
      · exact memBelow_lt a m c h
    · exact nomatch h

theorem memFrom_le (a : Nat) : ∀ {m : Mem}, Memory.wf m = true → ∀ c ∈ memFrom a m, a ≤ c.1
  | [], _, c, h => nomatch h
  | (x, b) :: m, w, c, h => by
    unfold memFrom at h
    split at h
    · exact memFrom_le a (wf_tail w) c h
    · rcases List.mem_cons.mp h with rfl | h
      · omega
      · have := wf_head_lt w c h
        omega

theorem wf_sublist {m n : Mem} (h : m.Sublist n) (w : Memory.wf n = true) : Memory.wf m = true := by
  rw [wf_iff] at w ⊢
  exact ⟨w.1.sublist h, fun c hc => w.2 c (h.subset hc)⟩

theorem memBelow_wf (a : Nat) {m : Mem} (w : Memory.wf m = true) : Memory.wf (memBelow a m) = true :=
  wf_sublist (memBelow_sublist a m) w

theorem memFrom_wf (a : Nat) {m : Mem} (w : Memory.wf m = true) : Memory.wf (memFrom a m) = true :=
  wf_sublist (memFrom_sublist a m) w

/-! ### Cells -/

theorem cellsOf_range : ∀ (a : Nat) (bs : List (BitVec 8)), ∀ c ∈ cellsOf a bs, a ≤ c.1 ∧ c.1 < a + bs.length
  | _, [], c, h => nomatch h
  | a, b :: bs, c, h => by
    unfold cellsOf at h
    split at h
    · have := cellsOf_range (a + 1) bs c h
      simp only [List.length_cons]
      omega
    · rcases List.mem_cons.mp h with rfl | h
      · simp
      · have := cellsOf_range (a + 1) bs c h
        simp only [List.length_cons]
        omega

theorem cellsOf_wf : ∀ (a : Nat) (bs : List (BitVec 8)), Memory.wf (cellsOf a bs) = true
  | _, [] => rfl
  | a, b :: bs => by
    have ih := cellsOf_wf (a + 1) bs
    unfold cellsOf
    split
    · exact ih
    · rw [wf_iff] at ih ⊢
      refine ⟨List.pairwise_cons.mpr ⟨fun d hd => ?_, ih.1⟩, fun c hc => ?_⟩
      · have := cellsOf_range (a + 1) bs d hd
        simp only
        omega
      · rcases List.mem_cons.mp hc with rfl | hc
        · assumption
        · exact ih.2 c hc

theorem cellsPow_range : ∀ (d a v : Nat), ∀ c ∈ cellsPow d a v, a ≤ c.1 ∧ c.1 < a + 2 ^ d
  | 0, a, v, c, h => by
    unfold cellsPow at h
    split at h
    · exact nomatch h
    · rw [List.mem_singleton.mp h]
      simp
  | d + 1, a, v, c, h => by
    unfold cellsPow at h
    split at h
    · exact nomatch h
    · rw [Nat.pow_succ]
      rcases List.mem_append.mp h with h | h
      · have := cellsPow_range d _ _ c h
        omega
      · have := cellsPow_range d _ _ c h
        omega

theorem cellsPow_wf : ∀ d a v : Nat, Memory.wf (cellsPow d a v) = true
  | 0, a, v => by
    unfold cellsPow
    split
    · rfl
    · rename_i h
      simp only [Memory.wf, decide_eq_true_eq, ne_eq]
      intro e
      apply h
      have := congrArg BitVec.toNat e
      simpa using this
  | d + 1, a, v => by
    unfold cellsPow
    split
    · rfl
    · exact wf_append (a + 2 ^ d) (cellsPow_wf d _ _) (cellsPow_wf d _ _) (fun c hc => (cellsPow_range d _ _ c hc).2)
        (fun c hc => (cellsPow_range d _ _ c hc).1)

/-! ### Every write keeps the canonical form -/

theorem memSplice_wf {m cs : Mem} {a n : Nat} (w : Memory.wf m = true) (wc : Memory.wf cs = true)
    (r : ∀ c ∈ cs, a ≤ c.1 ∧ c.1 < a + n) : Memory.wf (memSplice m a n cs) = true := by
  refine wf_append a (memBelow_wf a w) (wf_append (a + n) wc (memFrom_wf _ w) (fun c hc => (r c hc).2) (memFrom_le _ w))
    (memBelow_lt a m) (fun c hc => ?_)
  rcases List.mem_append.mp hc with h | h
  · exact (r c h).1
  · have := memFrom_le _ w c h
    omega

theorem memWrite_wf {m : Mem} (a : Nat) (bs : List (BitVec 8)) (w : Memory.wf m = true) : Memory.wf (memWrite m a bs) = true :=
  memSplice_wf w (cellsOf_wf a bs) (cellsOf_range a bs)

theorem memPut_wf {m : Mem} (a n v : Nat) (w : Memory.wf m = true) : Memory.wf (memPut m a n v) = true := memWrite_wf a _ w

theorem memPow_wf {m : Mem} (a d v : Nat) (w : Memory.wf m = true) : Memory.wf (memPow m a d v) = true :=
  memSplice_wf w (cellsPow_wf d a v) (cellsPow_range d a v)

/-! ### What a write reads as -/

/-- An address that no cell has reads as 0. -/
theorem memGet_absent : ∀ {m : Mem} {x : Nat}, (∀ c ∈ m, c.1 ≠ x) → memGet m x = 0
  | [], _, _ => rfl
  | (y, b) :: m, x, h => by
    have hy : y ≠ x := h (y, b) List.mem_cons_self
    simp only [memGet, if_neg hy]
    exact memGet_absent fun c hc => h c (List.mem_cons_of_mem _ hc)

/-- In a join the first part decides where it has the address. -/
theorem memGet_append {n : Mem} {x : Nat} : ∀ m : Mem,
    memGet (m ++ n) x = if ∃ c ∈ m, c.1 = x then memGet m x else memGet n x
  | [] => by simp
  | (y, b) :: m => by
    have ih := memGet_append (n := n) (x := x) m
    by_cases h : y = x
    · subst h
      rw [if_pos ⟨(y, b), List.mem_cons_self, rfl⟩]
      simp [memGet]
    · simp [memGet, ih, h]

theorem memGet_memBelow {a x : Nat} (h : x < a) : ∀ {m : Mem}, Memory.wf m = true → memGet (memBelow a m) x = memGet m x
  | [], _ => rfl
  | (y, b) :: m, w => by
    unfold memBelow
    split
    · simp only [memGet, memGet_memBelow h (wf_tail w)]
    · rename_i hy
      rw [memGet_absent (m := (y, b) :: m)]
      · rfl
      · intro c hc
        rcases List.mem_cons.mp hc with rfl | hc
        · simp only
          omega
        · have := wf_head_lt w c hc
          omega

theorem memGet_memFrom {a x : Nat} (h : a ≤ x) : ∀ m : Mem, memGet (memFrom a m) x = memGet m x
  | [] => rfl
  | (y, b) :: m => by
    unfold memFrom
    split
    · have hy : y ≠ x := by omega
      simp only [memGet, if_neg hy, memGet_memFrom h m]
    · rfl

/-- A splice reads as its cells inside the range and as the old memory outside. -/
theorem memGet_memSplice {m cs : Mem} {a n x : Nat} (w : Memory.wf m = true) (r : ∀ c ∈ cs, a ≤ c.1 ∧ c.1 < a + n) :
    memGet (memSplice m a n cs) x = if a ≤ x ∧ x < a + n then memGet cs x else memGet m x := by
  unfold memSplice
  rw [memGet_append, memGet_append]
  by_cases h1 : x < a
  · rw [if_neg (show ¬(a ≤ x ∧ x < a + n) by omega)]
    split
    · exact memGet_memBelow h1 w
    · rename_i hb
      rw [← memGet_memBelow h1 w, memGet_absent (m := memBelow a m) (fun c hc e => hb ⟨c, hc, e⟩),
        if_neg (fun ⟨c, hc, e⟩ => by have := r c hc; omega), memGet_absent]
      intro c hc
      have := memFrom_le _ w c hc
      omega
  · rw [if_neg (fun ⟨c, hc, e⟩ => by have := memBelow_lt a m c hc; omega)]
    by_cases h2 : x < a + n
    · rw [if_pos (show a ≤ x ∧ x < a + n by omega)]
      split
      · rfl
      · rename_i hb
        rw [memGet_absent (m := cs) (fun c hc e => hb ⟨c, hc, e⟩), memGet_absent]
        intro c hc
        have := memFrom_le _ w c hc
        omega
    · have hc : ¬∃ c ∈ cs, c.1 = x := fun ⟨c, hc, e⟩ => by have := r c hc; omega
      rw [if_neg hc, if_neg (show ¬(a ≤ x ∧ x < a + n) by omega)]
      exact memGet_memFrom (by omega) m

theorem memGet_cellsOf : ∀ (a j : Nat) (bs : List (BitVec 8)), memGet (cellsOf a bs) (a + j) = bs.getD j 0
  | _, _, [] => rfl
  | a, 0, b :: bs => by
    unfold cellsOf
    split
    · rename_i h
      rw [memGet_absent]
      · simp [h]
      · intro c hc
        have := cellsOf_range (a + 1) bs c hc
        omega
    · simp [memGet]
  | a, j + 1, b :: bs => by
    have ih := memGet_cellsOf (a + 1) j bs
    rw [show a + 1 + j = a + (j + 1) by omega] at ih
    unfold cellsOf
    split
    · simpa using ih
    · simp only [memGet, if_neg (show a ≠ a + (j + 1) by omega), ih]
      simp

theorem cellsPow_low (a v : Nat) : ∀ d j : Nat, j < 2 ^ d → memGet (cellsPow d a v) (a + j) = BitVec.ofNat 8 (v / 256 ^ j) := by
  intro d
  induction d generalizing a v with
  | zero =>
    intro j hj
    have : j = 0 := by simpa using hj
    subst this
    unfold cellsPow
    split
    · rename_i h
      simp only [memGet, Nat.pow_zero, Nat.div_one]
      apply BitVec.eq_of_toNat_eq
      simpa using h.symm
    · simp [memGet]
  | succ d ih =>
    intro j hj
    unfold cellsPow
    split
    · rename_i h
      subst h
      simp [memGet]
    · rw [memGet_append]
      have hp : 2 ^ (d + 1) = 2 ^ d + 2 ^ d := by omega
      by_cases hlt : j < 2 ^ d
      · have low : BitVec.ofNat 8 (v % 256 ^ 2 ^ d / 256 ^ j) = BitVec.ofNat 8 (v / 256 ^ j) := by
          apply BitVec.eq_of_toNat_eq
          simp only [BitVec.toNat_ofNat]
          rw [show 2 ^ d = j + (2 ^ d - j) by omega, Nat.pow_add, Nat.mod_mul_right_div_self]
          refine Nat.mod_mod_of_dvd _ ?_
          obtain ⟨k, hk⟩ : ∃ k, 2 ^ d - j = k + 1 := ⟨2 ^ d - j - 1, by omega⟩
          rw [hk, Nat.pow_succ]
          exact Dvd.intro_left _ rfl
        split
        · rw [ih _ _ j hlt, low]
        · rename_i hb
          have := ih a (v % 256 ^ 2 ^ d) j hlt
          rw [memGet_absent (fun c hc e => hb ⟨c, hc, e⟩), low] at this
          rw [← this, memGet_absent]
          intro c hc
          have := cellsPow_range _ _ _ c hc
          omega
      · rw [if_neg (fun ⟨c, hc, e⟩ => by have := cellsPow_range _ _ _ c hc; omega)]
        have := ih (a + 2 ^ d) (v / 256 ^ 2 ^ d) (j - 2 ^ d) (by omega)
        rw [show a + 2 ^ d + (j - 2 ^ d) = a + j by omega, Nat.div_div_eq_div_mul, ← Nat.pow_add,
          show 2 ^ d + (j - 2 ^ d) = j by omega] at this
        exact this

/-- A byte after a write of bytes: the byte written, or the old one. -/
theorem memGet_memWrite {m : Mem} (w : Memory.wf m = true) (a x : Nat) (bs : List (BitVec 8)) :
    memGet (memWrite m a bs) x = if a ≤ x ∧ x < a + bs.length then bs.getD (x - a) 0 else memGet m x := by
  rw [memWrite, memGet_memSplice w (cellsOf_range a bs)]
  split
  · rename_i h
    have := memGet_cellsOf a (x - a) bs
    rwa [show a + (x - a) = x by omega] at this
  · rfl

theorem bytesOf_length : ∀ n v : Nat, (bytesOf n v).length = n
  | 0, _ => rfl
  | n + 1, v => by simp [bytesOf, bytesOf_length n]

theorem bytesOf_getD : ∀ n v j : Nat, j < n → (bytesOf n v).getD j 0 = BitVec.ofNat 8 (v / 256 ^ j)
  | n + 1, v, 0, _ => by simp [bytesOf]
  | n + 1, v, j + 1, h => by
    have := bytesOf_getD n (v / 256) j (by omega)
    rw [Nat.div_div_eq_div_mul, ← Nat.pow_succ'] at this
    simpa [bytesOf] using this

/-- A byte after a write of a number (R5). -/
theorem memGet_memPut {m : Mem} (w : Memory.wf m = true) (a n v x : Nat) :
    memGet (memPut m a n v) x = if a ≤ x ∧ x < a + n then BitVec.ofNat 8 (v / 256 ^ (x - a)) else memGet m x := by
  rw [memPut, memGet_memWrite w, bytesOf_length]
  split
  · exact bytesOf_getD _ _ _ (by omega)
  · rfl

/-- A byte after a write of 2^d bytes of a number (R5). -/
theorem memGet_memPow {m : Mem} (w : Memory.wf m = true) (a d v x : Nat) :
    memGet (memPow m a d v) x = if a ≤ x ∧ x < a + 2 ^ d then BitVec.ofNat 8 (v / 256 ^ (x - a)) else memGet m x := by
  rw [memPow, memGet_memSplice w (cellsPow_range d a v)]
  split
  · have := cellsPow_low a v d (x - a) (by omega)
    rwa [show a + (x - a) = x by omega] at this
  · rfl

/-- A byte that a filter drops reads as 0, and any other as before. -/
theorem memGet_filter (p : Nat → Bool) (x : Nat) : ∀ m : Mem,
    memGet (m.filter (fun c => p c.1)) x = if p x then memGet m x else 0
  | [] => by simp [memGet]
  | (y, b) :: m => by
    have ih := memGet_filter p x m
    by_cases hp : p y
    · simp only [List.filter_cons, hp, if_true, memGet, ih]
      by_cases h : y = x
      · subst h
        simp [hp]
      · simp [h]
    · rw [List.filter_cons_of_neg (by simpa using hp), ih]
      by_cases h : y = x
      · subst h
        simp [hp]
      · simp [memGet, h]

/-! ### Numbers read from memory -/

/-- The bytes of a range as a number, one byte more at the top. -/
theorem natOfBytes_range_succ (f : Nat → BitVec 8) : ∀ n : Nat,
    natOfBytes ((List.range (n + 1)).map f) = natOfBytes ((List.range n).map f) + (f n).toNat * 256 ^ n := by
  have app : ∀ (l : List (BitVec 8)) (b : BitVec 8), natOfBytes (l ++ [b]) = natOfBytes l + b.toNat * 256 ^ l.length := by
    intro l b
    induction l with
    | nil => simp [natOfBytes]
    | cons c l ih =>
      simp only [List.cons_append, natOfBytes, ih, List.length_cons, Nat.pow_succ]
      ring
  intro n
  rw [List.range_succ, List.map_append, List.map_singleton, app]
  simp

theorem memValue_eq (a : Nat) : ∀ (n : Nat) {m : Mem}, Memory.wf m = true → (∀ c ∈ m, a ≤ c.1 ∧ c.1 < a + n) →
    memValue a m = natOfBytes ((List.range n).map (fun j => memGet m (a + j)))
  | 0, m, _, r => by
    cases m with
    | nil => rfl
    | cons c m => have := r c List.mem_cons_self; omega
  | n + 1, m, w, r => by
    have split_last : ∀ m : Mem, Memory.wf m = true → (∀ c ∈ m, a ≤ c.1 ∧ c.1 < a + (n + 1)) →
        memValue a m = memValue a (memBelow (a + n) m) + (memGet m (a + n)).toNat * 256 ^ n := by
      intro m
      induction m with
      | nil => intros; simp [memValue, memBelow, memGet]
      | cons c m ih =>
        obtain ⟨x, b⟩ := c
        intro w r
        have hx := r (x, b) List.mem_cons_self
        simp only at hx
        by_cases hlt : x < a + n
        · have := ih (wf_tail w) (fun c hc => r c (List.mem_cons_of_mem _ hc))
          simp only [memValue, memBelow, hlt, if_true, memGet, if_neg (show x ≠ a + n by omega), this]
          omega
        · have hx' : x = a + n := by omega
          subst hx'
          have hm : m = [] := by
            cases m with
            | nil => rfl
            | cons d m =>
              have h1 := wf_head_lt w d List.mem_cons_self
              have h2 := r d (List.mem_cons_of_mem _ List.mem_cons_self)
              omega
          subst hm
          simp [memValue, memBelow, memGet]
    rw [natOfBytes_range_succ, split_last m w r, memValue_eq a n (memBelow_wf _ w)
      (fun c hc => ⟨(r c ((memBelow_sublist _ m).subset hc)).1, memBelow_lt _ m c hc⟩)]
    congr 2
    refine List.map_congr_left fun j hj => ?_
    exact memGet_memBelow (by have := List.mem_range.mp hj; omega) w

/-- A number read from memory, from its bytes (R5). -/
theorem memRead_eq {m : Mem} (w : Memory.wf m = true) (a n : Nat) :
    memRead m a n = natOfBytes ((List.range n).map (fun j => memGet m (a + j))) := by
  rw [memRead, memValue_eq a n (memBelow_wf _ (memFrom_wf _ w))
    (fun c hc => ⟨memFrom_le _ w c ((memBelow_sublist _ _).subset hc), memBelow_lt _ _ c hc⟩)]
  congr 1
  refine List.map_congr_left fun j hj => ?_
  rw [memGet_memBelow (by have := List.mem_range.mp hj; omega) (memFrom_wf _ w)]
  exact memGet_memFrom (by omega) m

/-- Memories that agree on a range read the same number there. -/
theorem memRead_congr {m m' : Mem} (w : Memory.wf m = true) (w' : Memory.wf m' = true) {a n : Nat}
    (h : ∀ j < n, memGet m (a + j) = memGet m' (a + j)) : memRead m a n = memRead m' a n := by
  rw [memRead_eq w, memRead_eq w']
  congr 1
  exact List.map_congr_left fun j hj => h j (List.mem_range.mp hj)

/-! ### Tables -/

variable {κ α : Type} [DecidableEq κ]

@[simp] theorem look_put_same (d : α) (k : κ) (b : α) : ∀ t : List (κ × α), look d (put t k b) k = b
  | [] => by simp [put, look]
  | (x, c) :: t => by
    unfold put
    split
    · simp [look]
    · rename_i h
      simp [look, h, look_put_same d k b t]

theorem look_put_other (d : α) {k x : κ} (b : α) (h : x ≠ k) : ∀ t : List (κ × α), look d (put t k b) x = look d t x
  | [] => by simp [put, look, h.symm]
  | (y, c) :: t => by
    unfold put
    split
    · rename_i e
      subst e
      simp [look, h.symm]
    · simp [look, look_put_other d b h t]

@[simp] theorem find?_put_same (k : κ) (b : α) : ∀ t : List (κ × α), find? (put t k b) k = some b
  | [] => by simp [put, Machine.find?]
  | (x, c) :: t => by
    unfold put
    split
    · simp [Machine.find?]
    · rename_i h
      simp [Machine.find?, h, find?_put_same k b t]

theorem find?_put_other {k x : κ} (b : α) (h : x ≠ k) : ∀ t : List (κ × α), find? (put t k b) x = Machine.find? t x
  | [] => by simp [put, Machine.find?, h.symm]
  | (y, c) :: t => by
    unfold put
    split
    · rename_i e
      subst e
      simp [Machine.find?, h.symm]
    · simp [Machine.find?, find?_put_other b h t]

end Sys2Proof.Laws
end

