-- ==== Sys2Proof/Laws/State.lean ====
section
/-! SUPPORT. One lemma per field per update: what each named update of a core and of the module leaves in every field. -/

namespace Sys2Proof.Machine

/-! ### Core.setCr -/

@[simp] theorem Core.setCr_id (c : Core) (n : Fin 96) (x : Word) : (c.setCr n x).id = c.id := rfl
@[simp] theorem Core.setCr_s (c : Core) (n : Fin 96) (x : Word) : (c.setCr n x).s = c.s := rfl
@[simp] theorem Core.setCr_v (c : Core) (n : Fin 96) (x : Word) : (c.setCr n x).v = c.v := rfl
@[simp] theorem Core.setCr_p (c : Core) (n : Fin 96) (x : Word) : (c.setCr n x).p = c.p := rfl
@[simp] theorem Core.setCr_tiles (c : Core) (n : Fin 96) (x : Word) : (c.setCr n x).tiles = c.tiles := rfl
@[simp] theorem Core.setCr_tflags (c : Core) (n : Fin 96) (x : Word) : (c.setCr n x).tflags = c.tflags := rfl
@[simp] theorem Core.setCr_wbuf (c : Core) (n : Fin 96) (x : Word) : (c.setCr n x).wbuf = c.wbuf := rfl
@[simp] theorem Core.setCr_sla (c : Core) (n : Fin 96) (x : Word) : (c.setCr n x).sla = c.sla := rfl
@[simp] theorem Core.setCr_slb (c : Core) (n : Fin 96) (x : Word) : (c.setCr n x).slb = c.slb := rfl
@[simp] theorem Core.setCr_slq (c : Core) (n : Fin 96) (x : Word) : (c.setCr n x).slq = c.slq := rfl
@[simp] theorem Core.setCr_ctl (c : Core) (n : Fin 96) (x : Word) : (c.setCr n x).ctl = c.ctl.set n x := rfl
@[simp] theorem Core.setCr_pc (c : Core) (n : Fin 96) (x : Word) : (c.setCr n x).pc = c.pc := rfl
@[simp] theorem Core.setCr_wi (c : Core) (n : Fin 96) (x : Word) : (c.setCr n x).wi = c.wi := rfl
@[simp] theorem Core.setCr_ri (c : Core) (n : Fin 96) (x : Word) : (c.setCr n x).ri = c.ri := rfl
@[simp] theorem Core.setCr_rq (c : Core) (n : Fin 96) (x : Word) : (c.setCr n x).rq = c.rq := rfl
@[simp] theorem Core.setCr_shadow (c : Core) (n : Fin 96) (x : Word) : (c.setCr n x).shadow = c.shadow := rfl
@[simp] theorem Core.setCr_age (c : Core) (n : Fin 96) (x : Word) : (c.setCr n x).age = c.age := rfl
@[simp] theorem Core.setCr_ilk (c : Core) (n : Fin 96) (x : Word) : (c.setCr n x).ilk = c.ilk := rfl
@[simp] theorem Core.setCr_stq (c : Core) (n : Fin 96) (x : Word) : (c.setCr n x).stq = c.stq := rfl
@[simp] theorem Core.setCr_held (c : Core) (n : Fin 96) (x : Word) : (c.setCr n x).held = c.held := rfl
@[simp] theorem Core.setCr_redo (c : Core) (n : Fin 96) (x : Word) : (c.setCr n x).redo = c.redo := rfl
@[simp] theorem Core.setCr_saving (c : Core) (n : Fin 96) (x : Word) : (c.setCr n x).saving = c.saving := rfl
@[simp] theorem Core.setCr_qpop (c : Core) (n : Fin 96) (x : Word) : (c.setCr n x).qpop = c.qpop := rfl
@[simp] theorem Core.setCr_gather (c : Core) (n : Fin 96) (x : Word) : (c.setCr n x).gather = c.gather := rfl
@[simp] theorem Core.setCr_stream (c : Core) (n : Fin 96) (x : Word) : (c.setCr n x).stream = c.stream := rfl
@[simp] theorem Core.setCr_array (c : Core) (n : Fin 96) (x : Word) : (c.setCr n x).array = c.array := rfl
@[simp] theorem Core.setCr_loader (c : Core) (n : Fin 96) (x : Word) : (c.setCr n x).loader = c.loader := rfl
@[simp] theorem Core.setCr_log (c : Core) (n : Fin 96) (x : Word) : (c.setCr n x).log = c.log := rfl
@[simp] theorem Core.setCr_wins (c : Core) (n : Fin 96) (x : Word) : (c.setCr n x).wins = c.wins := rfl
@[simp] theorem Core.setCr_cmds (c : Core) (n : Fin 96) (x : Word) : (c.setCr n x).cmds = c.cmds := rfl
@[simp] theorem Core.setCr_due (c : Core) (n : Fin 96) (x : Word) : (c.setCr n x).due = c.due := rfl
@[simp] theorem Core.setCr_pending (c : Core) (n : Fin 96) (x : Word) : (c.setCr n x).pending = c.pending := rfl
@[simp] theorem Core.setCr_badFills (c : Core) (n : Fin 96) (x : Word) : (c.setCr n x).badFills = c.badFills := rfl
@[simp] theorem Core.setCr_ord (c : Core) (n : Fin 96) (x : Word) : (c.setCr n x).ord = c.ord := rfl
@[simp] theorem Core.setCr_flow (c : Core) (n : Fin 96) (x : Word) : (c.setCr n x).flow = c.flow := rfl
@[simp] theorem Core.setCr_scratch (c : Core) (n : Fin 96) (x : Word) : (c.setCr n x).scratch = c.scratch := rfl
@[simp] theorem Core.setCr_poison (c : Core) (n : Fin 96) (x : Word) : (c.setCr n x).poison = c.poison := rfl
@[simp] theorem Core.setCr_hints (c : Core) (n : Fin 96) (x : Word) : (c.setCr n x).hints = c.hints := rfl
@[simp] theorem Core.setCr_issued (c : Core) (n : Fin 96) (x : Word) : (c.setCr n x).issued = c.issued := rfl
@[simp] theorem Core.setCr_arrived (c : Core) (n : Fin 96) (x : Word) : (c.setCr n x).arrived = c.arrived := rfl
@[simp] theorem Core.setCr_heldTags (c : Core) (n : Fin 96) (x : Word) : (c.setCr n x).heldTags = c.heldTags := rfl
@[simp] theorem Core.setCr_tendDone (c : Core) (n : Fin 96) (x : Word) : (c.setCr n x).tendDone = c.tendDone := rfl
@[simp] theorem Core.setCr_task (c : Core) (n : Fin 96) (x : Word) : (c.setCr n x).task = c.task := rfl
@[simp] theorem Core.setCr_lastCtx (c : Core) (n : Fin 96) (x : Word) : (c.setCr n x).lastCtx = c.lastCtx := rfl
@[simp] theorem Core.setCr_frozen (c : Core) (n : Fin 96) (x : Word) : (c.setCr n x).frozen = c.frozen := rfl
@[simp] theorem Core.setCr_pcselNext (c : Core) (n : Fin 96) (x : Word) : (c.setCr n x).pcselNext = c.pcselNext := rfl
@[simp] theorem Core.setCr_halted (c : Core) (n : Fin 96) (x : Word) : (c.setCr n x).halted = c.halted := rfl
@[simp] theorem Core.setCr_power (c : Core) (n : Fin 96) (x : Word) : (c.setCr n x).power = c.power := rfl
@[simp] theorem Core.setCr_off (c : Core) (n : Fin 96) (x : Word) : (c.setCr n x).off = c.off := rfl
@[simp] theorem Core.setCr_enabled (c : Core) (n : Fin 96) (x : Word) : (c.setCr n x).enabled = c.enabled := rfl
@[simp] theorem Core.setCr_freeze (c : Core) (n : Fin 96) (x : Word) : (c.setCr n x).freeze = c.freeze := rfl
@[simp] theorem Core.setCr_corrected (c : Core) (n : Fin 96) (x : Word) : (c.setCr n x).corrected = c.corrected := rfl
@[simp] theorem Core.setCr_freezeTicks (c : Core) (n : Fin 96) (x : Word) : (c.setCr n x).freezeTicks = c.freezeTicks := rfl
@[simp] theorem Core.setCr_nv (c : Core) (n : Fin 96) (x : Word) : (c.setCr n x).nv = c.nv := rfl
@[simp] theorem Core.setCr_ws (c : Core) (n : Fin 96) (x : Word) : (c.setCr n x).ws = c.ws := rfl

/-! ### Core.enter -/

@[simp] theorem Core.enter_id (c : Core) (slot lat : Nat) (d : Dest) (value : Nat) (f : Flags) : (c.enter slot lat d value f).id = c.id := rfl
@[simp] theorem Core.enter_s (c : Core) (slot lat : Nat) (d : Dest) (value : Nat) (f : Flags) : (c.enter slot lat d value f).s = c.s := rfl
@[simp] theorem Core.enter_v (c : Core) (slot lat : Nat) (d : Dest) (value : Nat) (f : Flags) : (c.enter slot lat d value f).v = c.v := rfl
@[simp] theorem Core.enter_p (c : Core) (slot lat : Nat) (d : Dest) (value : Nat) (f : Flags) : (c.enter slot lat d value f).p = c.p := rfl
@[simp] theorem Core.enter_tiles (c : Core) (slot lat : Nat) (d : Dest) (value : Nat) (f : Flags) : (c.enter slot lat d value f).tiles = c.tiles := rfl
@[simp] theorem Core.enter_tflags (c : Core) (slot lat : Nat) (d : Dest) (value : Nat) (f : Flags) : (c.enter slot lat d value f).tflags = c.tflags := rfl
@[simp] theorem Core.enter_wbuf (c : Core) (slot lat : Nat) (d : Dest) (value : Nat) (f : Flags) : (c.enter slot lat d value f).wbuf = c.wbuf := rfl
@[simp] theorem Core.enter_sla (c : Core) (slot lat : Nat) (d : Dest) (value : Nat) (f : Flags) : (c.enter slot lat d value f).sla = c.sla := rfl
@[simp] theorem Core.enter_slb (c : Core) (slot lat : Nat) (d : Dest) (value : Nat) (f : Flags) : (c.enter slot lat d value f).slb = c.slb := rfl
@[simp] theorem Core.enter_slq (c : Core) (slot lat : Nat) (d : Dest) (value : Nat) (f : Flags) : (c.enter slot lat d value f).slq = c.slq := rfl
@[simp] theorem Core.enter_ctl (c : Core) (slot lat : Nat) (d : Dest) (value : Nat) (f : Flags) : (c.enter slot lat d value f).ctl = c.ctl := rfl
@[simp] theorem Core.enter_pc (c : Core) (slot lat : Nat) (d : Dest) (value : Nat) (f : Flags) : (c.enter slot lat d value f).pc = c.pc := rfl
@[simp] theorem Core.enter_wi (c : Core) (slot lat : Nat) (d : Dest) (value : Nat) (f : Flags) : (c.enter slot lat d value f).wi = c.wi := rfl
@[simp] theorem Core.enter_ri (c : Core) (slot lat : Nat) (d : Dest) (value : Nat) (f : Flags) : (c.enter slot lat d value f).ri = c.ri := rfl
@[simp] theorem Core.enter_rq (c : Core) (slot lat : Nat) (d : Dest) (value : Nat) (f : Flags) : (c.enter slot lat d value f).rq = c.rq := rfl
@[simp] theorem Core.enter_shadow (c : Core) (slot lat : Nat) (d : Dest) (value : Nat) (f : Flags) : (c.enter slot lat d value f).shadow = c.shadow ++ [⟨d, value, f, lat, c.age, slot⟩] := rfl
@[simp] theorem Core.enter_age (c : Core) (slot lat : Nat) (d : Dest) (value : Nat) (f : Flags) : (c.enter slot lat d value f).age = c.age := rfl
@[simp] theorem Core.enter_ilk (c : Core) (slot lat : Nat) (d : Dest) (value : Nat) (f : Flags) : (c.enter slot lat d value f).ilk = c.ilk := rfl
@[simp] theorem Core.enter_stq (c : Core) (slot lat : Nat) (d : Dest) (value : Nat) (f : Flags) : (c.enter slot lat d value f).stq = c.stq := rfl
@[simp] theorem Core.enter_held (c : Core) (slot lat : Nat) (d : Dest) (value : Nat) (f : Flags) : (c.enter slot lat d value f).held = c.held := rfl
@[simp] theorem Core.enter_redo (c : Core) (slot lat : Nat) (d : Dest) (value : Nat) (f : Flags) : (c.enter slot lat d value f).redo = c.redo := rfl
@[simp] theorem Core.enter_saving (c : Core) (slot lat : Nat) (d : Dest) (value : Nat) (f : Flags) : (c.enter slot lat d value f).saving = c.saving := rfl
@[simp] theorem Core.enter_qpop (c : Core) (slot lat : Nat) (d : Dest) (value : Nat) (f : Flags) : (c.enter slot lat d value f).qpop = c.qpop := rfl
@[simp] theorem Core.enter_gather (c : Core) (slot lat : Nat) (d : Dest) (value : Nat) (f : Flags) : (c.enter slot lat d value f).gather = c.gather := rfl
@[simp] theorem Core.enter_stream (c : Core) (slot lat : Nat) (d : Dest) (value : Nat) (f : Flags) : (c.enter slot lat d value f).stream = c.stream := rfl
@[simp] theorem Core.enter_array (c : Core) (slot lat : Nat) (d : Dest) (value : Nat) (f : Flags) : (c.enter slot lat d value f).array = c.array := rfl
@[simp] theorem Core.enter_loader (c : Core) (slot lat : Nat) (d : Dest) (value : Nat) (f : Flags) : (c.enter slot lat d value f).loader = c.loader := rfl
@[simp] theorem Core.enter_log (c : Core) (slot lat : Nat) (d : Dest) (value : Nat) (f : Flags) : (c.enter slot lat d value f).log = c.log := rfl
@[simp] theorem Core.enter_wins (c : Core) (slot lat : Nat) (d : Dest) (value : Nat) (f : Flags) : (c.enter slot lat d value f).wins = c.wins := rfl
@[simp] theorem Core.enter_cmds (c : Core) (slot lat : Nat) (d : Dest) (value : Nat) (f : Flags) : (c.enter slot lat d value f).cmds = c.cmds := rfl
@[simp] theorem Core.enter_due (c : Core) (slot lat : Nat) (d : Dest) (value : Nat) (f : Flags) : (c.enter slot lat d value f).due = c.due := rfl
@[simp] theorem Core.enter_pending (c : Core) (slot lat : Nat) (d : Dest) (value : Nat) (f : Flags) : (c.enter slot lat d value f).pending = c.pending := rfl
@[simp] theorem Core.enter_badFills (c : Core) (slot lat : Nat) (d : Dest) (value : Nat) (f : Flags) : (c.enter slot lat d value f).badFills = c.badFills := rfl
@[simp] theorem Core.enter_ord (c : Core) (slot lat : Nat) (d : Dest) (value : Nat) (f : Flags) : (c.enter slot lat d value f).ord = c.ord := rfl
@[simp] theorem Core.enter_flow (c : Core) (slot lat : Nat) (d : Dest) (value : Nat) (f : Flags) : (c.enter slot lat d value f).flow = c.flow := rfl
@[simp] theorem Core.enter_scratch (c : Core) (slot lat : Nat) (d : Dest) (value : Nat) (f : Flags) : (c.enter slot lat d value f).scratch = c.scratch := rfl
@[simp] theorem Core.enter_poison (c : Core) (slot lat : Nat) (d : Dest) (value : Nat) (f : Flags) : (c.enter slot lat d value f).poison = c.poison := rfl
@[simp] theorem Core.enter_hints (c : Core) (slot lat : Nat) (d : Dest) (value : Nat) (f : Flags) : (c.enter slot lat d value f).hints = c.hints := rfl
@[simp] theorem Core.enter_issued (c : Core) (slot lat : Nat) (d : Dest) (value : Nat) (f : Flags) : (c.enter slot lat d value f).issued = c.issued := rfl
@[simp] theorem Core.enter_arrived (c : Core) (slot lat : Nat) (d : Dest) (value : Nat) (f : Flags) : (c.enter slot lat d value f).arrived = c.arrived := rfl
@[simp] theorem Core.enter_heldTags (c : Core) (slot lat : Nat) (d : Dest) (value : Nat) (f : Flags) : (c.enter slot lat d value f).heldTags = c.heldTags := rfl
@[simp] theorem Core.enter_tendDone (c : Core) (slot lat : Nat) (d : Dest) (value : Nat) (f : Flags) : (c.enter slot lat d value f).tendDone = c.tendDone := rfl
@[simp] theorem Core.enter_task (c : Core) (slot lat : Nat) (d : Dest) (value : Nat) (f : Flags) : (c.enter slot lat d value f).task = c.task := rfl
@[simp] theorem Core.enter_lastCtx (c : Core) (slot lat : Nat) (d : Dest) (value : Nat) (f : Flags) : (c.enter slot lat d value f).lastCtx = c.lastCtx := rfl
@[simp] theorem Core.enter_frozen (c : Core) (slot lat : Nat) (d : Dest) (value : Nat) (f : Flags) : (c.enter slot lat d value f).frozen = c.frozen := rfl
@[simp] theorem Core.enter_pcselNext (c : Core) (slot lat : Nat) (d : Dest) (value : Nat) (f : Flags) : (c.enter slot lat d value f).pcselNext = c.pcselNext := rfl
@[simp] theorem Core.enter_halted (c : Core) (slot lat : Nat) (d : Dest) (value : Nat) (f : Flags) : (c.enter slot lat d value f).halted = c.halted := rfl
@[simp] theorem Core.enter_power (c : Core) (slot lat : Nat) (d : Dest) (value : Nat) (f : Flags) : (c.enter slot lat d value f).power = c.power := rfl
@[simp] theorem Core.enter_off (c : Core) (slot lat : Nat) (d : Dest) (value : Nat) (f : Flags) : (c.enter slot lat d value f).off = c.off := rfl
@[simp] theorem Core.enter_enabled (c : Core) (slot lat : Nat) (d : Dest) (value : Nat) (f : Flags) : (c.enter slot lat d value f).enabled = c.enabled := rfl
@[simp] theorem Core.enter_freeze (c : Core) (slot lat : Nat) (d : Dest) (value : Nat) (f : Flags) : (c.enter slot lat d value f).freeze = c.freeze := rfl
@[simp] theorem Core.enter_corrected (c : Core) (slot lat : Nat) (d : Dest) (value : Nat) (f : Flags) : (c.enter slot lat d value f).corrected = c.corrected := rfl
@[simp] theorem Core.enter_freezeTicks (c : Core) (slot lat : Nat) (d : Dest) (value : Nat) (f : Flags) : (c.enter slot lat d value f).freezeTicks = c.freezeTicks := rfl
@[simp] theorem Core.enter_nv (c : Core) (slot lat : Nat) (d : Dest) (value : Nat) (f : Flags) : (c.enter slot lat d value f).nv = c.nv := rfl
@[simp] theorem Core.enter_ws (c : Core) (slot lat : Nat) (d : Dest) (value : Nat) (f : Flags) : (c.enter slot lat d value f).ws = c.ws := rfl

/-! ### Core.await -/

@[simp] theorem Core.await_id (c : Core) (d : Reg) (x : Word) : (c.await d x).id = c.id := rfl
@[simp] theorem Core.await_s (c : Core) (d : Reg) (x : Word) : (c.await d x).s = c.s := rfl
@[simp] theorem Core.await_v (c : Core) (d : Reg) (x : Word) : (c.await d x).v = c.v := rfl
@[simp] theorem Core.await_p (c : Core) (d : Reg) (x : Word) : (c.await d x).p = c.p := rfl
@[simp] theorem Core.await_tiles (c : Core) (d : Reg) (x : Word) : (c.await d x).tiles = c.tiles := rfl
@[simp] theorem Core.await_tflags (c : Core) (d : Reg) (x : Word) : (c.await d x).tflags = c.tflags := rfl
@[simp] theorem Core.await_wbuf (c : Core) (d : Reg) (x : Word) : (c.await d x).wbuf = c.wbuf := rfl
@[simp] theorem Core.await_sla (c : Core) (d : Reg) (x : Word) : (c.await d x).sla = c.sla := rfl
@[simp] theorem Core.await_slb (c : Core) (d : Reg) (x : Word) : (c.await d x).slb = c.slb := rfl
@[simp] theorem Core.await_slq (c : Core) (d : Reg) (x : Word) : (c.await d x).slq = c.slq := rfl
@[simp] theorem Core.await_ctl (c : Core) (d : Reg) (x : Word) : (c.await d x).ctl = c.ctl := rfl
@[simp] theorem Core.await_pc (c : Core) (d : Reg) (x : Word) : (c.await d x).pc = c.pc := rfl
@[simp] theorem Core.await_wi (c : Core) (d : Reg) (x : Word) : (c.await d x).wi = c.wi := rfl
@[simp] theorem Core.await_ri (c : Core) (d : Reg) (x : Word) : (c.await d x).ri = c.ri := rfl
@[simp] theorem Core.await_rq (c : Core) (d : Reg) (x : Word) : (c.await d x).rq = c.rq := rfl
@[simp] theorem Core.await_shadow (c : Core) (d : Reg) (x : Word) : (c.await d x).shadow = c.shadow := rfl
@[simp] theorem Core.await_age (c : Core) (d : Reg) (x : Word) : (c.await d x).age = c.age := rfl
@[simp] theorem Core.await_ilk (c : Core) (d : Reg) (x : Word) : (c.await d x).ilk = c.ilk.map (fun o => if (if d = 0 then none else some (Dest.scalar d)).isSome ∧ o.dest = (if d = 0 then none else some (Dest.scalar d)) ∧ o.age = c.age then { o with dest := none } else o) ++ [⟨.value x.toNat, if d = 0 then none else some (.scalar d), c.age⟩] := rfl
@[simp] theorem Core.await_stq (c : Core) (d : Reg) (x : Word) : (c.await d x).stq = c.stq := rfl
@[simp] theorem Core.await_held (c : Core) (d : Reg) (x : Word) : (c.await d x).held = c.held := rfl
@[simp] theorem Core.await_redo (c : Core) (d : Reg) (x : Word) : (c.await d x).redo = c.redo := rfl
@[simp] theorem Core.await_saving (c : Core) (d : Reg) (x : Word) : (c.await d x).saving = c.saving := rfl
@[simp] theorem Core.await_qpop (c : Core) (d : Reg) (x : Word) : (c.await d x).qpop = c.qpop := rfl
@[simp] theorem Core.await_gather (c : Core) (d : Reg) (x : Word) : (c.await d x).gather = c.gather := rfl
@[simp] theorem Core.await_stream (c : Core) (d : Reg) (x : Word) : (c.await d x).stream = c.stream := rfl
@[simp] theorem Core.await_array (c : Core) (d : Reg) (x : Word) : (c.await d x).array = c.array := rfl
@[simp] theorem Core.await_loader (c : Core) (d : Reg) (x : Word) : (c.await d x).loader = c.loader := rfl
@[simp] theorem Core.await_log (c : Core) (d : Reg) (x : Word) : (c.await d x).log = c.log := rfl
@[simp] theorem Core.await_wins (c : Core) (d : Reg) (x : Word) : (c.await d x).wins = c.wins := rfl
@[simp] theorem Core.await_cmds (c : Core) (d : Reg) (x : Word) : (c.await d x).cmds = c.cmds := rfl
@[simp] theorem Core.await_due (c : Core) (d : Reg) (x : Word) : (c.await d x).due = c.due := rfl
@[simp] theorem Core.await_pending (c : Core) (d : Reg) (x : Word) : (c.await d x).pending = c.pending := rfl
@[simp] theorem Core.await_badFills (c : Core) (d : Reg) (x : Word) : (c.await d x).badFills = c.badFills := rfl
@[simp] theorem Core.await_ord (c : Core) (d : Reg) (x : Word) : (c.await d x).ord = c.ord := rfl
@[simp] theorem Core.await_flow (c : Core) (d : Reg) (x : Word) : (c.await d x).flow = c.flow := rfl
@[simp] theorem Core.await_scratch (c : Core) (d : Reg) (x : Word) : (c.await d x).scratch = c.scratch := rfl
@[simp] theorem Core.await_poison (c : Core) (d : Reg) (x : Word) : (c.await d x).poison = c.poison := rfl
@[simp] theorem Core.await_hints (c : Core) (d : Reg) (x : Word) : (c.await d x).hints = c.hints := rfl
@[simp] theorem Core.await_issued (c : Core) (d : Reg) (x : Word) : (c.await d x).issued = c.issued := rfl
@[simp] theorem Core.await_arrived (c : Core) (d : Reg) (x : Word) : (c.await d x).arrived = c.arrived := rfl
@[simp] theorem Core.await_heldTags (c : Core) (d : Reg) (x : Word) : (c.await d x).heldTags = c.heldTags := rfl
@[simp] theorem Core.await_tendDone (c : Core) (d : Reg) (x : Word) : (c.await d x).tendDone = c.tendDone := rfl
@[simp] theorem Core.await_task (c : Core) (d : Reg) (x : Word) : (c.await d x).task = c.task := rfl
@[simp] theorem Core.await_lastCtx (c : Core) (d : Reg) (x : Word) : (c.await d x).lastCtx = c.lastCtx := rfl
@[simp] theorem Core.await_frozen (c : Core) (d : Reg) (x : Word) : (c.await d x).frozen = c.frozen := rfl
@[simp] theorem Core.await_pcselNext (c : Core) (d : Reg) (x : Word) : (c.await d x).pcselNext = c.pcselNext := rfl
@[simp] theorem Core.await_halted (c : Core) (d : Reg) (x : Word) : (c.await d x).halted = c.halted := rfl
@[simp] theorem Core.await_power (c : Core) (d : Reg) (x : Word) : (c.await d x).power = c.power := rfl
@[simp] theorem Core.await_off (c : Core) (d : Reg) (x : Word) : (c.await d x).off = c.off := rfl
@[simp] theorem Core.await_enabled (c : Core) (d : Reg) (x : Word) : (c.await d x).enabled = c.enabled := rfl
@[simp] theorem Core.await_freeze (c : Core) (d : Reg) (x : Word) : (c.await d x).freeze = c.freeze := rfl
@[simp] theorem Core.await_corrected (c : Core) (d : Reg) (x : Word) : (c.await d x).corrected = c.corrected := rfl
@[simp] theorem Core.await_freezeTicks (c : Core) (d : Reg) (x : Word) : (c.await d x).freezeTicks = c.freezeTicks := rfl
@[simp] theorem Core.await_nv (c : Core) (d : Reg) (x : Word) : (c.await d x).nv = c.nv := rfl
@[simp] theorem Core.await_ws (c : Core) (d : Reg) (x : Word) : (c.await d x).ws = c.ws := rfl

/-! ### Core.writeV -/

@[simp] theorem Core.writeV_id (c : Core) (r : Reg) (x : Vec) : (c.writeV r x).id = c.id := rfl
@[simp] theorem Core.writeV_s (c : Core) (r : Reg) (x : Vec) : (c.writeV r x).s = c.s := rfl
@[simp] theorem Core.writeV_v (c : Core) (r : Reg) (x : Vec) : (c.writeV r x).v = c.v.set r x := rfl
@[simp] theorem Core.writeV_p (c : Core) (r : Reg) (x : Vec) : (c.writeV r x).p = c.p := rfl
@[simp] theorem Core.writeV_tiles (c : Core) (r : Reg) (x : Vec) : (c.writeV r x).tiles = c.tiles := rfl
@[simp] theorem Core.writeV_tflags (c : Core) (r : Reg) (x : Vec) : (c.writeV r x).tflags = c.tflags := rfl
@[simp] theorem Core.writeV_wbuf (c : Core) (r : Reg) (x : Vec) : (c.writeV r x).wbuf = c.wbuf := rfl
@[simp] theorem Core.writeV_sla (c : Core) (r : Reg) (x : Vec) : (c.writeV r x).sla = c.sla := rfl
@[simp] theorem Core.writeV_slb (c : Core) (r : Reg) (x : Vec) : (c.writeV r x).slb = c.slb := rfl
@[simp] theorem Core.writeV_slq (c : Core) (r : Reg) (x : Vec) : (c.writeV r x).slq = c.slq := rfl
@[simp] theorem Core.writeV_ctl (c : Core) (r : Reg) (x : Vec) : (c.writeV r x).ctl = c.ctl := rfl
@[simp] theorem Core.writeV_pc (c : Core) (r : Reg) (x : Vec) : (c.writeV r x).pc = c.pc := rfl
@[simp] theorem Core.writeV_wi (c : Core) (r : Reg) (x : Vec) : (c.writeV r x).wi = c.wi := rfl
@[simp] theorem Core.writeV_ri (c : Core) (r : Reg) (x : Vec) : (c.writeV r x).ri = c.ri := rfl
@[simp] theorem Core.writeV_rq (c : Core) (r : Reg) (x : Vec) : (c.writeV r x).rq = c.rq := rfl
@[simp] theorem Core.writeV_shadow (c : Core) (r : Reg) (x : Vec) : (c.writeV r x).shadow = c.shadow := rfl
@[simp] theorem Core.writeV_age (c : Core) (r : Reg) (x : Vec) : (c.writeV r x).age = c.age := rfl
@[simp] theorem Core.writeV_ilk (c : Core) (r : Reg) (x : Vec) : (c.writeV r x).ilk = c.ilk := rfl
@[simp] theorem Core.writeV_stq (c : Core) (r : Reg) (x : Vec) : (c.writeV r x).stq = c.stq := rfl
@[simp] theorem Core.writeV_held (c : Core) (r : Reg) (x : Vec) : (c.writeV r x).held = c.held := rfl
@[simp] theorem Core.writeV_redo (c : Core) (r : Reg) (x : Vec) : (c.writeV r x).redo = c.redo := rfl
@[simp] theorem Core.writeV_saving (c : Core) (r : Reg) (x : Vec) : (c.writeV r x).saving = c.saving := rfl
@[simp] theorem Core.writeV_qpop (c : Core) (r : Reg) (x : Vec) : (c.writeV r x).qpop = c.qpop := rfl
@[simp] theorem Core.writeV_gather (c : Core) (r : Reg) (x : Vec) : (c.writeV r x).gather = c.gather := rfl
@[simp] theorem Core.writeV_stream (c : Core) (r : Reg) (x : Vec) : (c.writeV r x).stream = c.stream := rfl
@[simp] theorem Core.writeV_array (c : Core) (r : Reg) (x : Vec) : (c.writeV r x).array = c.array := rfl
@[simp] theorem Core.writeV_loader (c : Core) (r : Reg) (x : Vec) : (c.writeV r x).loader = c.loader := rfl
@[simp] theorem Core.writeV_log (c : Core) (r : Reg) (x : Vec) : (c.writeV r x).log = c.log := rfl
@[simp] theorem Core.writeV_wins (c : Core) (r : Reg) (x : Vec) : (c.writeV r x).wins = c.wins := rfl
@[simp] theorem Core.writeV_cmds (c : Core) (r : Reg) (x : Vec) : (c.writeV r x).cmds = c.cmds := rfl
@[simp] theorem Core.writeV_due (c : Core) (r : Reg) (x : Vec) : (c.writeV r x).due = c.due := rfl
@[simp] theorem Core.writeV_pending (c : Core) (r : Reg) (x : Vec) : (c.writeV r x).pending = c.pending := rfl
@[simp] theorem Core.writeV_badFills (c : Core) (r : Reg) (x : Vec) : (c.writeV r x).badFills = c.badFills := rfl
@[simp] theorem Core.writeV_ord (c : Core) (r : Reg) (x : Vec) : (c.writeV r x).ord = c.ord := rfl
@[simp] theorem Core.writeV_flow (c : Core) (r : Reg) (x : Vec) : (c.writeV r x).flow = c.flow := rfl
@[simp] theorem Core.writeV_scratch (c : Core) (r : Reg) (x : Vec) : (c.writeV r x).scratch = c.scratch := rfl
@[simp] theorem Core.writeV_poison (c : Core) (r : Reg) (x : Vec) : (c.writeV r x).poison = c.poison := rfl
@[simp] theorem Core.writeV_hints (c : Core) (r : Reg) (x : Vec) : (c.writeV r x).hints = c.hints := rfl
@[simp] theorem Core.writeV_issued (c : Core) (r : Reg) (x : Vec) : (c.writeV r x).issued = c.issued := rfl
@[simp] theorem Core.writeV_arrived (c : Core) (r : Reg) (x : Vec) : (c.writeV r x).arrived = c.arrived := rfl
@[simp] theorem Core.writeV_heldTags (c : Core) (r : Reg) (x : Vec) : (c.writeV r x).heldTags = c.heldTags := rfl
@[simp] theorem Core.writeV_tendDone (c : Core) (r : Reg) (x : Vec) : (c.writeV r x).tendDone = c.tendDone := rfl
@[simp] theorem Core.writeV_task (c : Core) (r : Reg) (x : Vec) : (c.writeV r x).task = c.task := rfl
@[simp] theorem Core.writeV_lastCtx (c : Core) (r : Reg) (x : Vec) : (c.writeV r x).lastCtx = c.lastCtx := rfl
@[simp] theorem Core.writeV_frozen (c : Core) (r : Reg) (x : Vec) : (c.writeV r x).frozen = c.frozen := rfl
@[simp] theorem Core.writeV_pcselNext (c : Core) (r : Reg) (x : Vec) : (c.writeV r x).pcselNext = c.pcselNext := rfl
@[simp] theorem Core.writeV_halted (c : Core) (r : Reg) (x : Vec) : (c.writeV r x).halted = c.halted := rfl
@[simp] theorem Core.writeV_power (c : Core) (r : Reg) (x : Vec) : (c.writeV r x).power = c.power := rfl
@[simp] theorem Core.writeV_off (c : Core) (r : Reg) (x : Vec) : (c.writeV r x).off = c.off := rfl
@[simp] theorem Core.writeV_enabled (c : Core) (r : Reg) (x : Vec) : (c.writeV r x).enabled = c.enabled := rfl
@[simp] theorem Core.writeV_freeze (c : Core) (r : Reg) (x : Vec) : (c.writeV r x).freeze = c.freeze := rfl
@[simp] theorem Core.writeV_corrected (c : Core) (r : Reg) (x : Vec) : (c.writeV r x).corrected = c.corrected := rfl
@[simp] theorem Core.writeV_freezeTicks (c : Core) (r : Reg) (x : Vec) : (c.writeV r x).freezeTicks = c.freezeTicks := rfl
@[simp] theorem Core.writeV_nv (c : Core) (r : Reg) (x : Vec) : (c.writeV r x).nv = c.nv := rfl
@[simp] theorem Core.writeV_ws (c : Core) (r : Reg) (x : Vec) : (c.writeV r x).ws = c.ws := rfl

/-! ### Core.withFlow -/

@[simp] theorem Core.withFlow_id (c : Core) (f : Flow → Flow) : (c.withFlow f).id = c.id := rfl
@[simp] theorem Core.withFlow_s (c : Core) (f : Flow → Flow) : (c.withFlow f).s = c.s := rfl
@[simp] theorem Core.withFlow_v (c : Core) (f : Flow → Flow) : (c.withFlow f).v = c.v := rfl
@[simp] theorem Core.withFlow_p (c : Core) (f : Flow → Flow) : (c.withFlow f).p = c.p := rfl
@[simp] theorem Core.withFlow_tiles (c : Core) (f : Flow → Flow) : (c.withFlow f).tiles = c.tiles := rfl
@[simp] theorem Core.withFlow_tflags (c : Core) (f : Flow → Flow) : (c.withFlow f).tflags = c.tflags := rfl
@[simp] theorem Core.withFlow_wbuf (c : Core) (f : Flow → Flow) : (c.withFlow f).wbuf = c.wbuf := rfl
@[simp] theorem Core.withFlow_sla (c : Core) (f : Flow → Flow) : (c.withFlow f).sla = c.sla := rfl
@[simp] theorem Core.withFlow_slb (c : Core) (f : Flow → Flow) : (c.withFlow f).slb = c.slb := rfl
@[simp] theorem Core.withFlow_slq (c : Core) (f : Flow → Flow) : (c.withFlow f).slq = c.slq := rfl
@[simp] theorem Core.withFlow_ctl (c : Core) (f : Flow → Flow) : (c.withFlow f).ctl = c.ctl := rfl
@[simp] theorem Core.withFlow_pc (c : Core) (f : Flow → Flow) : (c.withFlow f).pc = c.pc := rfl
@[simp] theorem Core.withFlow_wi (c : Core) (f : Flow → Flow) : (c.withFlow f).wi = c.wi := rfl
@[simp] theorem Core.withFlow_ri (c : Core) (f : Flow → Flow) : (c.withFlow f).ri = c.ri := rfl
@[simp] theorem Core.withFlow_rq (c : Core) (f : Flow → Flow) : (c.withFlow f).rq = c.rq := rfl
@[simp] theorem Core.withFlow_shadow (c : Core) (f : Flow → Flow) : (c.withFlow f).shadow = c.shadow := rfl
@[simp] theorem Core.withFlow_age (c : Core) (f : Flow → Flow) : (c.withFlow f).age = c.age := rfl
@[simp] theorem Core.withFlow_ilk (c : Core) (f : Flow → Flow) : (c.withFlow f).ilk = c.ilk := rfl
@[simp] theorem Core.withFlow_stq (c : Core) (f : Flow → Flow) : (c.withFlow f).stq = c.stq := rfl
@[simp] theorem Core.withFlow_held (c : Core) (f : Flow → Flow) : (c.withFlow f).held = c.held := rfl
@[simp] theorem Core.withFlow_redo (c : Core) (f : Flow → Flow) : (c.withFlow f).redo = c.redo := rfl
@[simp] theorem Core.withFlow_saving (c : Core) (f : Flow → Flow) : (c.withFlow f).saving = c.saving := rfl
@[simp] theorem Core.withFlow_qpop (c : Core) (f : Flow → Flow) : (c.withFlow f).qpop = c.qpop := rfl
@[simp] theorem Core.withFlow_gather (c : Core) (f : Flow → Flow) : (c.withFlow f).gather = c.gather := rfl
@[simp] theorem Core.withFlow_stream (c : Core) (f : Flow → Flow) : (c.withFlow f).stream = c.stream := rfl
@[simp] theorem Core.withFlow_array (c : Core) (f : Flow → Flow) : (c.withFlow f).array = c.array := rfl
@[simp] theorem Core.withFlow_loader (c : Core) (f : Flow → Flow) : (c.withFlow f).loader = c.loader := rfl
@[simp] theorem Core.withFlow_log (c : Core) (f : Flow → Flow) : (c.withFlow f).log = c.log := rfl
@[simp] theorem Core.withFlow_wins (c : Core) (f : Flow → Flow) : (c.withFlow f).wins = c.wins := rfl
@[simp] theorem Core.withFlow_cmds (c : Core) (f : Flow → Flow) : (c.withFlow f).cmds = c.cmds := rfl
@[simp] theorem Core.withFlow_due (c : Core) (f : Flow → Flow) : (c.withFlow f).due = c.due := rfl
@[simp] theorem Core.withFlow_pending (c : Core) (f : Flow → Flow) : (c.withFlow f).pending = c.pending := rfl
@[simp] theorem Core.withFlow_badFills (c : Core) (f : Flow → Flow) : (c.withFlow f).badFills = c.badFills := rfl
@[simp] theorem Core.withFlow_ord (c : Core) (f : Flow → Flow) : (c.withFlow f).ord = c.ord := rfl
@[simp] theorem Core.withFlow_flow (c : Core) (f : Flow → Flow) : (c.withFlow f).flow = f c.flow := rfl
@[simp] theorem Core.withFlow_scratch (c : Core) (f : Flow → Flow) : (c.withFlow f).scratch = c.scratch := rfl
@[simp] theorem Core.withFlow_poison (c : Core) (f : Flow → Flow) : (c.withFlow f).poison = c.poison := rfl
@[simp] theorem Core.withFlow_hints (c : Core) (f : Flow → Flow) : (c.withFlow f).hints = c.hints := rfl
@[simp] theorem Core.withFlow_issued (c : Core) (f : Flow → Flow) : (c.withFlow f).issued = c.issued := rfl
@[simp] theorem Core.withFlow_arrived (c : Core) (f : Flow → Flow) : (c.withFlow f).arrived = c.arrived := rfl
@[simp] theorem Core.withFlow_heldTags (c : Core) (f : Flow → Flow) : (c.withFlow f).heldTags = c.heldTags := rfl
@[simp] theorem Core.withFlow_tendDone (c : Core) (f : Flow → Flow) : (c.withFlow f).tendDone = c.tendDone := rfl
@[simp] theorem Core.withFlow_task (c : Core) (f : Flow → Flow) : (c.withFlow f).task = c.task := rfl
@[simp] theorem Core.withFlow_lastCtx (c : Core) (f : Flow → Flow) : (c.withFlow f).lastCtx = c.lastCtx := rfl
@[simp] theorem Core.withFlow_frozen (c : Core) (f : Flow → Flow) : (c.withFlow f).frozen = c.frozen := rfl
@[simp] theorem Core.withFlow_pcselNext (c : Core) (f : Flow → Flow) : (c.withFlow f).pcselNext = c.pcselNext := rfl
@[simp] theorem Core.withFlow_halted (c : Core) (f : Flow → Flow) : (c.withFlow f).halted = c.halted := rfl
@[simp] theorem Core.withFlow_power (c : Core) (f : Flow → Flow) : (c.withFlow f).power = c.power := rfl
@[simp] theorem Core.withFlow_off (c : Core) (f : Flow → Flow) : (c.withFlow f).off = c.off := rfl
@[simp] theorem Core.withFlow_enabled (c : Core) (f : Flow → Flow) : (c.withFlow f).enabled = c.enabled := rfl
@[simp] theorem Core.withFlow_freeze (c : Core) (f : Flow → Flow) : (c.withFlow f).freeze = c.freeze := rfl
@[simp] theorem Core.withFlow_corrected (c : Core) (f : Flow → Flow) : (c.withFlow f).corrected = c.corrected := rfl
@[simp] theorem Core.withFlow_freezeTicks (c : Core) (f : Flow → Flow) : (c.withFlow f).freezeTicks = c.freezeTicks := rfl
@[simp] theorem Core.withFlow_nv (c : Core) (f : Flow → Flow) : (c.withFlow f).nv = c.nv := rfl
@[simp] theorem Core.withFlow_ws (c : Core) (f : Flow → Flow) : (c.withFlow f).ws = c.ws := rfl

/-! ### Core.clearTags -/

@[simp] theorem Core.clearTags_id (c : Core) (m : Word) : (c.clearTags m).id = c.id := rfl
@[simp] theorem Core.clearTags_s (c : Core) (m : Word) : (c.clearTags m).s = c.s := rfl
@[simp] theorem Core.clearTags_v (c : Core) (m : Word) : (c.clearTags m).v = c.v := rfl
@[simp] theorem Core.clearTags_p (c : Core) (m : Word) : (c.clearTags m).p = c.p := rfl
@[simp] theorem Core.clearTags_tiles (c : Core) (m : Word) : (c.clearTags m).tiles = c.tiles := rfl
@[simp] theorem Core.clearTags_tflags (c : Core) (m : Word) : (c.clearTags m).tflags = c.tflags := rfl
@[simp] theorem Core.clearTags_wbuf (c : Core) (m : Word) : (c.clearTags m).wbuf = c.wbuf := rfl
@[simp] theorem Core.clearTags_sla (c : Core) (m : Word) : (c.clearTags m).sla = c.sla := rfl
@[simp] theorem Core.clearTags_slb (c : Core) (m : Word) : (c.clearTags m).slb = c.slb := rfl
@[simp] theorem Core.clearTags_slq (c : Core) (m : Word) : (c.clearTags m).slq = c.slq := rfl
@[simp] theorem Core.clearTags_ctl (c : Core) (m : Word) : (c.clearTags m).ctl = c.ctl := rfl
@[simp] theorem Core.clearTags_pc (c : Core) (m : Word) : (c.clearTags m).pc = c.pc := rfl
@[simp] theorem Core.clearTags_wi (c : Core) (m : Word) : (c.clearTags m).wi = c.wi := rfl
@[simp] theorem Core.clearTags_ri (c : Core) (m : Word) : (c.clearTags m).ri = c.ri := rfl
@[simp] theorem Core.clearTags_rq (c : Core) (m : Word) : (c.clearTags m).rq = c.rq := rfl
@[simp] theorem Core.clearTags_shadow (c : Core) (m : Word) : (c.clearTags m).shadow = c.shadow := rfl
@[simp] theorem Core.clearTags_age (c : Core) (m : Word) : (c.clearTags m).age = c.age := rfl
@[simp] theorem Core.clearTags_ilk (c : Core) (m : Word) : (c.clearTags m).ilk = c.ilk := rfl
@[simp] theorem Core.clearTags_stq (c : Core) (m : Word) : (c.clearTags m).stq = c.stq := rfl
@[simp] theorem Core.clearTags_held (c : Core) (m : Word) : (c.clearTags m).held = c.held := rfl
@[simp] theorem Core.clearTags_redo (c : Core) (m : Word) : (c.clearTags m).redo = c.redo := rfl
@[simp] theorem Core.clearTags_saving (c : Core) (m : Word) : (c.clearTags m).saving = c.saving := rfl
@[simp] theorem Core.clearTags_qpop (c : Core) (m : Word) : (c.clearTags m).qpop = c.qpop := rfl
@[simp] theorem Core.clearTags_gather (c : Core) (m : Word) : (c.clearTags m).gather = c.gather := rfl
@[simp] theorem Core.clearTags_stream (c : Core) (m : Word) : (c.clearTags m).stream = c.stream := rfl
@[simp] theorem Core.clearTags_array (c : Core) (m : Word) : (c.clearTags m).array = c.array := rfl
@[simp] theorem Core.clearTags_loader (c : Core) (m : Word) : (c.clearTags m).loader = c.loader := rfl
@[simp] theorem Core.clearTags_log (c : Core) (m : Word) : (c.clearTags m).log = c.log := rfl
@[simp] theorem Core.clearTags_wins (c : Core) (m : Word) : (c.clearTags m).wins = c.wins := rfl
@[simp] theorem Core.clearTags_cmds (c : Core) (m : Word) : (c.clearTags m).cmds = c.cmds := rfl
@[simp] theorem Core.clearTags_due (c : Core) (m : Word) : (c.clearTags m).due = c.due := rfl
@[simp] theorem Core.clearTags_pending (c : Core) (m : Word) : (c.clearTags m).pending = c.pending := rfl
@[simp] theorem Core.clearTags_badFills (c : Core) (m : Word) : (c.clearTags m).badFills = c.badFills := rfl
@[simp] theorem Core.clearTags_ord (c : Core) (m : Word) : (c.clearTags m).ord = c.ord := rfl
@[simp] theorem Core.clearTags_flow (c : Core) (m : Word) : (c.clearTags m).flow = { c.flow with clear := c.flow.clear ||| m } := rfl
@[simp] theorem Core.clearTags_scratch (c : Core) (m : Word) : (c.clearTags m).scratch = c.scratch := rfl
@[simp] theorem Core.clearTags_poison (c : Core) (m : Word) : (c.clearTags m).poison = c.poison := rfl
@[simp] theorem Core.clearTags_hints (c : Core) (m : Word) : (c.clearTags m).hints = c.hints := rfl
@[simp] theorem Core.clearTags_issued (c : Core) (m : Word) : (c.clearTags m).issued = c.issued := rfl
@[simp] theorem Core.clearTags_arrived (c : Core) (m : Word) : (c.clearTags m).arrived = c.arrived := rfl
@[simp] theorem Core.clearTags_heldTags (c : Core) (m : Word) : (c.clearTags m).heldTags = c.heldTags := rfl
@[simp] theorem Core.clearTags_tendDone (c : Core) (m : Word) : (c.clearTags m).tendDone = c.tendDone := rfl
@[simp] theorem Core.clearTags_task (c : Core) (m : Word) : (c.clearTags m).task = c.task := rfl
@[simp] theorem Core.clearTags_lastCtx (c : Core) (m : Word) : (c.clearTags m).lastCtx = c.lastCtx := rfl
@[simp] theorem Core.clearTags_frozen (c : Core) (m : Word) : (c.clearTags m).frozen = c.frozen := rfl
@[simp] theorem Core.clearTags_pcselNext (c : Core) (m : Word) : (c.clearTags m).pcselNext = c.pcselNext := rfl
@[simp] theorem Core.clearTags_halted (c : Core) (m : Word) : (c.clearTags m).halted = c.halted := rfl
@[simp] theorem Core.clearTags_power (c : Core) (m : Word) : (c.clearTags m).power = c.power := rfl
@[simp] theorem Core.clearTags_off (c : Core) (m : Word) : (c.clearTags m).off = c.off := rfl
@[simp] theorem Core.clearTags_enabled (c : Core) (m : Word) : (c.clearTags m).enabled = c.enabled := rfl
@[simp] theorem Core.clearTags_freeze (c : Core) (m : Word) : (c.clearTags m).freeze = c.freeze := rfl
@[simp] theorem Core.clearTags_corrected (c : Core) (m : Word) : (c.clearTags m).corrected = c.corrected := rfl
@[simp] theorem Core.clearTags_freezeTicks (c : Core) (m : Word) : (c.clearTags m).freezeTicks = c.freezeTicks := rfl
@[simp] theorem Core.clearTags_nv (c : Core) (m : Word) : (c.clearTags m).nv = c.nv := rfl
@[simp] theorem Core.clearTags_ws (c : Core) (m : Word) : (c.clearTags m).ws = c.ws := rfl

/-! ### Core.setFence -/

@[simp] theorem Core.setFence_id (c : Core) (os : OrdScope) (age : Nat) : (c.setFence os age).id = c.id := rfl
@[simp] theorem Core.setFence_s (c : Core) (os : OrdScope) (age : Nat) : (c.setFence os age).s = c.s := rfl
@[simp] theorem Core.setFence_v (c : Core) (os : OrdScope) (age : Nat) : (c.setFence os age).v = c.v := rfl
@[simp] theorem Core.setFence_p (c : Core) (os : OrdScope) (age : Nat) : (c.setFence os age).p = c.p := rfl
@[simp] theorem Core.setFence_tiles (c : Core) (os : OrdScope) (age : Nat) : (c.setFence os age).tiles = c.tiles := rfl
@[simp] theorem Core.setFence_tflags (c : Core) (os : OrdScope) (age : Nat) : (c.setFence os age).tflags = c.tflags := rfl
@[simp] theorem Core.setFence_wbuf (c : Core) (os : OrdScope) (age : Nat) : (c.setFence os age).wbuf = c.wbuf := rfl
@[simp] theorem Core.setFence_sla (c : Core) (os : OrdScope) (age : Nat) : (c.setFence os age).sla = c.sla := rfl
@[simp] theorem Core.setFence_slb (c : Core) (os : OrdScope) (age : Nat) : (c.setFence os age).slb = c.slb := rfl
@[simp] theorem Core.setFence_slq (c : Core) (os : OrdScope) (age : Nat) : (c.setFence os age).slq = c.slq := rfl
@[simp] theorem Core.setFence_ctl (c : Core) (os : OrdScope) (age : Nat) : (c.setFence os age).ctl = c.ctl := rfl
@[simp] theorem Core.setFence_pc (c : Core) (os : OrdScope) (age : Nat) : (c.setFence os age).pc = c.pc := rfl
@[simp] theorem Core.setFence_wi (c : Core) (os : OrdScope) (age : Nat) : (c.setFence os age).wi = c.wi := rfl
@[simp] theorem Core.setFence_ri (c : Core) (os : OrdScope) (age : Nat) : (c.setFence os age).ri = c.ri := rfl
@[simp] theorem Core.setFence_rq (c : Core) (os : OrdScope) (age : Nat) : (c.setFence os age).rq = c.rq := rfl
@[simp] theorem Core.setFence_shadow (c : Core) (os : OrdScope) (age : Nat) : (c.setFence os age).shadow = c.shadow := rfl
@[simp] theorem Core.setFence_age (c : Core) (os : OrdScope) (age : Nat) : (c.setFence os age).age = c.age := rfl
@[simp] theorem Core.setFence_ilk (c : Core) (os : OrdScope) (age : Nat) : (c.setFence os age).ilk = c.ilk := rfl
@[simp] theorem Core.setFence_stq (c : Core) (os : OrdScope) (age : Nat) : (c.setFence os age).stq = c.stq := rfl
@[simp] theorem Core.setFence_held (c : Core) (os : OrdScope) (age : Nat) : (c.setFence os age).held = c.held := rfl
@[simp] theorem Core.setFence_redo (c : Core) (os : OrdScope) (age : Nat) : (c.setFence os age).redo = c.redo := rfl
@[simp] theorem Core.setFence_saving (c : Core) (os : OrdScope) (age : Nat) : (c.setFence os age).saving = c.saving := rfl
@[simp] theorem Core.setFence_qpop (c : Core) (os : OrdScope) (age : Nat) : (c.setFence os age).qpop = c.qpop := rfl
@[simp] theorem Core.setFence_gather (c : Core) (os : OrdScope) (age : Nat) : (c.setFence os age).gather = c.gather := rfl
@[simp] theorem Core.setFence_stream (c : Core) (os : OrdScope) (age : Nat) : (c.setFence os age).stream = c.stream := rfl
@[simp] theorem Core.setFence_array (c : Core) (os : OrdScope) (age : Nat) : (c.setFence os age).array = c.array := rfl
@[simp] theorem Core.setFence_loader (c : Core) (os : OrdScope) (age : Nat) : (c.setFence os age).loader = c.loader := rfl
@[simp] theorem Core.setFence_log (c : Core) (os : OrdScope) (age : Nat) : (c.setFence os age).log = c.log := rfl
@[simp] theorem Core.setFence_wins (c : Core) (os : OrdScope) (age : Nat) : (c.setFence os age).wins = c.wins := rfl
@[simp] theorem Core.setFence_cmds (c : Core) (os : OrdScope) (age : Nat) : (c.setFence os age).cmds = c.cmds := rfl
@[simp] theorem Core.setFence_due (c : Core) (os : OrdScope) (age : Nat) : (c.setFence os age).due = c.due := rfl
@[simp] theorem Core.setFence_pending (c : Core) (os : OrdScope) (age : Nat) : (c.setFence os age).pending = c.pending := rfl
@[simp] theorem Core.setFence_badFills (c : Core) (os : OrdScope) (age : Nat) : (c.setFence os age).badFills = c.badFills := rfl
@[simp] theorem Core.setFence_flow (c : Core) (os : OrdScope) (age : Nat) : (c.setFence os age).flow = c.flow := rfl
@[simp] theorem Core.setFence_scratch (c : Core) (os : OrdScope) (age : Nat) : (c.setFence os age).scratch = c.scratch := rfl
@[simp] theorem Core.setFence_poison (c : Core) (os : OrdScope) (age : Nat) : (c.setFence os age).poison = c.poison := rfl
@[simp] theorem Core.setFence_hints (c : Core) (os : OrdScope) (age : Nat) : (c.setFence os age).hints = c.hints := rfl
@[simp] theorem Core.setFence_issued (c : Core) (os : OrdScope) (age : Nat) : (c.setFence os age).issued = c.issued := rfl
@[simp] theorem Core.setFence_arrived (c : Core) (os : OrdScope) (age : Nat) : (c.setFence os age).arrived = c.arrived := rfl
@[simp] theorem Core.setFence_heldTags (c : Core) (os : OrdScope) (age : Nat) : (c.setFence os age).heldTags = c.heldTags := rfl
@[simp] theorem Core.setFence_tendDone (c : Core) (os : OrdScope) (age : Nat) : (c.setFence os age).tendDone = c.tendDone := rfl
@[simp] theorem Core.setFence_task (c : Core) (os : OrdScope) (age : Nat) : (c.setFence os age).task = c.task := rfl
@[simp] theorem Core.setFence_lastCtx (c : Core) (os : OrdScope) (age : Nat) : (c.setFence os age).lastCtx = c.lastCtx := rfl
@[simp] theorem Core.setFence_frozen (c : Core) (os : OrdScope) (age : Nat) : (c.setFence os age).frozen = c.frozen := rfl
@[simp] theorem Core.setFence_pcselNext (c : Core) (os : OrdScope) (age : Nat) : (c.setFence os age).pcselNext = c.pcselNext := rfl
@[simp] theorem Core.setFence_halted (c : Core) (os : OrdScope) (age : Nat) : (c.setFence os age).halted = c.halted := rfl
@[simp] theorem Core.setFence_power (c : Core) (os : OrdScope) (age : Nat) : (c.setFence os age).power = c.power := rfl
@[simp] theorem Core.setFence_off (c : Core) (os : OrdScope) (age : Nat) : (c.setFence os age).off = c.off := rfl
@[simp] theorem Core.setFence_enabled (c : Core) (os : OrdScope) (age : Nat) : (c.setFence os age).enabled = c.enabled := rfl
@[simp] theorem Core.setFence_freeze (c : Core) (os : OrdScope) (age : Nat) : (c.setFence os age).freeze = c.freeze := rfl
@[simp] theorem Core.setFence_corrected (c : Core) (os : OrdScope) (age : Nat) : (c.setFence os age).corrected = c.corrected := rfl
@[simp] theorem Core.setFence_freezeTicks (c : Core) (os : OrdScope) (age : Nat) : (c.setFence os age).freezeTicks = c.freezeTicks := rfl
@[simp] theorem Core.setFence_nv (c : Core) (os : OrdScope) (age : Nat) : (c.setFence os age).nv = c.nv := rfl
@[simp] theorem Core.setFence_ws (c : Core) (os : OrdScope) (age : Nat) : (c.setFence os age).ws = c.ws := rfl

/-! ### Core.setTrap -/

@[simp] theorem Core.setTrap_id (c : Core) (t : Trap) (a : BitVec 49) : (c.setTrap t a).id = c.id := rfl
@[simp] theorem Core.setTrap_s (c : Core) (t : Trap) (a : BitVec 49) : (c.setTrap t a).s = c.s := rfl
@[simp] theorem Core.setTrap_v (c : Core) (t : Trap) (a : BitVec 49) : (c.setTrap t a).v = c.v := rfl
@[simp] theorem Core.setTrap_p (c : Core) (t : Trap) (a : BitVec 49) : (c.setTrap t a).p = c.p := rfl
@[simp] theorem Core.setTrap_tiles (c : Core) (t : Trap) (a : BitVec 49) : (c.setTrap t a).tiles = c.tiles := rfl
@[simp] theorem Core.setTrap_tflags (c : Core) (t : Trap) (a : BitVec 49) : (c.setTrap t a).tflags = c.tflags := rfl
@[simp] theorem Core.setTrap_wbuf (c : Core) (t : Trap) (a : BitVec 49) : (c.setTrap t a).wbuf = c.wbuf := rfl
@[simp] theorem Core.setTrap_sla (c : Core) (t : Trap) (a : BitVec 49) : (c.setTrap t a).sla = c.sla := rfl
@[simp] theorem Core.setTrap_slb (c : Core) (t : Trap) (a : BitVec 49) : (c.setTrap t a).slb = c.slb := rfl
@[simp] theorem Core.setTrap_slq (c : Core) (t : Trap) (a : BitVec 49) : (c.setTrap t a).slq = c.slq := rfl
@[simp] theorem Core.setTrap_pc (c : Core) (t : Trap) (a : BitVec 49) : (c.setTrap t a).pc = c.pc := rfl
@[simp] theorem Core.setTrap_wi (c : Core) (t : Trap) (a : BitVec 49) : (c.setTrap t a).wi = c.wi := rfl
@[simp] theorem Core.setTrap_ri (c : Core) (t : Trap) (a : BitVec 49) : (c.setTrap t a).ri = c.ri := rfl
@[simp] theorem Core.setTrap_rq (c : Core) (t : Trap) (a : BitVec 49) : (c.setTrap t a).rq = c.rq := rfl
@[simp] theorem Core.setTrap_shadow (c : Core) (t : Trap) (a : BitVec 49) : (c.setTrap t a).shadow = c.shadow := rfl
@[simp] theorem Core.setTrap_age (c : Core) (t : Trap) (a : BitVec 49) : (c.setTrap t a).age = c.age := rfl
@[simp] theorem Core.setTrap_ilk (c : Core) (t : Trap) (a : BitVec 49) : (c.setTrap t a).ilk = c.ilk := rfl
@[simp] theorem Core.setTrap_stq (c : Core) (t : Trap) (a : BitVec 49) : (c.setTrap t a).stq = c.stq := rfl
@[simp] theorem Core.setTrap_held (c : Core) (t : Trap) (a : BitVec 49) : (c.setTrap t a).held = c.held := rfl
@[simp] theorem Core.setTrap_redo (c : Core) (t : Trap) (a : BitVec 49) : (c.setTrap t a).redo = c.redo := rfl
@[simp] theorem Core.setTrap_saving (c : Core) (t : Trap) (a : BitVec 49) : (c.setTrap t a).saving = c.saving := rfl
@[simp] theorem Core.setTrap_qpop (c : Core) (t : Trap) (a : BitVec 49) : (c.setTrap t a).qpop = c.qpop := rfl
@[simp] theorem Core.setTrap_gather (c : Core) (t : Trap) (a : BitVec 49) : (c.setTrap t a).gather = c.gather := rfl
@[simp] theorem Core.setTrap_stream (c : Core) (t : Trap) (a : BitVec 49) : (c.setTrap t a).stream = c.stream := rfl
@[simp] theorem Core.setTrap_array (c : Core) (t : Trap) (a : BitVec 49) : (c.setTrap t a).array = c.array := rfl
@[simp] theorem Core.setTrap_loader (c : Core) (t : Trap) (a : BitVec 49) : (c.setTrap t a).loader = c.loader := rfl
@[simp] theorem Core.setTrap_log (c : Core) (t : Trap) (a : BitVec 49) : (c.setTrap t a).log = c.log := rfl
@[simp] theorem Core.setTrap_wins (c : Core) (t : Trap) (a : BitVec 49) : (c.setTrap t a).wins = c.wins := rfl
@[simp] theorem Core.setTrap_cmds (c : Core) (t : Trap) (a : BitVec 49) : (c.setTrap t a).cmds = c.cmds := rfl
@[simp] theorem Core.setTrap_due (c : Core) (t : Trap) (a : BitVec 49) : (c.setTrap t a).due = c.due := rfl
@[simp] theorem Core.setTrap_pending (c : Core) (t : Trap) (a : BitVec 49) : (c.setTrap t a).pending = c.pending := rfl
@[simp] theorem Core.setTrap_badFills (c : Core) (t : Trap) (a : BitVec 49) : (c.setTrap t a).badFills = c.badFills := rfl
@[simp] theorem Core.setTrap_ord (c : Core) (t : Trap) (a : BitVec 49) : (c.setTrap t a).ord = c.ord := rfl
@[simp] theorem Core.setTrap_flow (c : Core) (t : Trap) (a : BitVec 49) : (c.setTrap t a).flow = c.flow := rfl
@[simp] theorem Core.setTrap_scratch (c : Core) (t : Trap) (a : BitVec 49) : (c.setTrap t a).scratch = c.scratch := rfl
@[simp] theorem Core.setTrap_poison (c : Core) (t : Trap) (a : BitVec 49) : (c.setTrap t a).poison = c.poison := rfl
@[simp] theorem Core.setTrap_hints (c : Core) (t : Trap) (a : BitVec 49) : (c.setTrap t a).hints = c.hints := rfl
@[simp] theorem Core.setTrap_issued (c : Core) (t : Trap) (a : BitVec 49) : (c.setTrap t a).issued = c.issued := rfl
@[simp] theorem Core.setTrap_arrived (c : Core) (t : Trap) (a : BitVec 49) : (c.setTrap t a).arrived = c.arrived := rfl
@[simp] theorem Core.setTrap_heldTags (c : Core) (t : Trap) (a : BitVec 49) : (c.setTrap t a).heldTags = c.heldTags := rfl
@[simp] theorem Core.setTrap_tendDone (c : Core) (t : Trap) (a : BitVec 49) : (c.setTrap t a).tendDone = c.tendDone := rfl
@[simp] theorem Core.setTrap_task (c : Core) (t : Trap) (a : BitVec 49) : (c.setTrap t a).task = c.task := rfl
@[simp] theorem Core.setTrap_lastCtx (c : Core) (t : Trap) (a : BitVec 49) : (c.setTrap t a).lastCtx = c.lastCtx := rfl
@[simp] theorem Core.setTrap_frozen (c : Core) (t : Trap) (a : BitVec 49) : (c.setTrap t a).frozen = c.frozen := rfl
@[simp] theorem Core.setTrap_pcselNext (c : Core) (t : Trap) (a : BitVec 49) : (c.setTrap t a).pcselNext = c.pcselNext := rfl
@[simp] theorem Core.setTrap_halted (c : Core) (t : Trap) (a : BitVec 49) : (c.setTrap t a).halted = c.halted := rfl
@[simp] theorem Core.setTrap_power (c : Core) (t : Trap) (a : BitVec 49) : (c.setTrap t a).power = c.power := rfl
@[simp] theorem Core.setTrap_off (c : Core) (t : Trap) (a : BitVec 49) : (c.setTrap t a).off = c.off := rfl
@[simp] theorem Core.setTrap_enabled (c : Core) (t : Trap) (a : BitVec 49) : (c.setTrap t a).enabled = c.enabled := rfl
@[simp] theorem Core.setTrap_freeze (c : Core) (t : Trap) (a : BitVec 49) : (c.setTrap t a).freeze = c.freeze := rfl
@[simp] theorem Core.setTrap_corrected (c : Core) (t : Trap) (a : BitVec 49) : (c.setTrap t a).corrected = c.corrected := rfl
@[simp] theorem Core.setTrap_freezeTicks (c : Core) (t : Trap) (a : BitVec 49) : (c.setTrap t a).freezeTicks = c.freezeTicks := rfl
@[simp] theorem Core.setTrap_nv (c : Core) (t : Trap) (a : BitVec 49) : (c.setTrap t a).nv = c.nv := rfl
@[simp] theorem Core.setTrap_ws (c : Core) (t : Trap) (a : BitVec 49) : (c.setTrap t a).ws = c.ws := rfl

/-! ### Core.countDown -/

@[simp] theorem Core.countDown_id (c : Core) : c.countDown.id = c.id := rfl
@[simp] theorem Core.countDown_s (c : Core) : c.countDown.s = c.s := rfl
@[simp] theorem Core.countDown_v (c : Core) : c.countDown.v = c.v := rfl
@[simp] theorem Core.countDown_p (c : Core) : c.countDown.p = c.p := rfl
@[simp] theorem Core.countDown_tiles (c : Core) : c.countDown.tiles = c.tiles := rfl
@[simp] theorem Core.countDown_tflags (c : Core) : c.countDown.tflags = c.tflags := rfl
@[simp] theorem Core.countDown_wbuf (c : Core) : c.countDown.wbuf = c.wbuf := rfl
@[simp] theorem Core.countDown_sla (c : Core) : c.countDown.sla = c.sla := rfl
@[simp] theorem Core.countDown_slb (c : Core) : c.countDown.slb = c.slb := rfl
@[simp] theorem Core.countDown_slq (c : Core) : c.countDown.slq = c.slq := rfl
@[simp] theorem Core.countDown_ctl (c : Core) : c.countDown.ctl = c.ctl := rfl
@[simp] theorem Core.countDown_pc (c : Core) : c.countDown.pc = c.pc := rfl
@[simp] theorem Core.countDown_wi (c : Core) : c.countDown.wi = c.wi := rfl
@[simp] theorem Core.countDown_ri (c : Core) : c.countDown.ri = c.ri := rfl
@[simp] theorem Core.countDown_rq (c : Core) : c.countDown.rq = c.rq := rfl
@[simp] theorem Core.countDown_shadow (c : Core) : c.countDown.shadow = c.shadow.map (fun e => { e with remaining := e.remaining - 1 }) := rfl
@[simp] theorem Core.countDown_age (c : Core) : c.countDown.age = c.age := rfl
@[simp] theorem Core.countDown_ilk (c : Core) : c.countDown.ilk = c.ilk := rfl
@[simp] theorem Core.countDown_stq (c : Core) : c.countDown.stq = c.stq := rfl
@[simp] theorem Core.countDown_held (c : Core) : c.countDown.held = c.held := rfl
@[simp] theorem Core.countDown_redo (c : Core) : c.countDown.redo = c.redo := rfl
@[simp] theorem Core.countDown_saving (c : Core) : c.countDown.saving = c.saving := rfl
@[simp] theorem Core.countDown_qpop (c : Core) : c.countDown.qpop = c.qpop := rfl
@[simp] theorem Core.countDown_gather (c : Core) : c.countDown.gather = c.gather := rfl
@[simp] theorem Core.countDown_stream (c : Core) : c.countDown.stream = c.stream := rfl
@[simp] theorem Core.countDown_array (c : Core) : c.countDown.array = c.array := rfl
@[simp] theorem Core.countDown_loader (c : Core) : c.countDown.loader = c.loader := rfl
@[simp] theorem Core.countDown_log (c : Core) : c.countDown.log = c.log := rfl
@[simp] theorem Core.countDown_wins (c : Core) : c.countDown.wins = c.wins := rfl
@[simp] theorem Core.countDown_cmds (c : Core) : c.countDown.cmds = c.cmds := rfl
@[simp] theorem Core.countDown_due (c : Core) : c.countDown.due = c.due := rfl
@[simp] theorem Core.countDown_pending (c : Core) : c.countDown.pending = c.pending := rfl
@[simp] theorem Core.countDown_badFills (c : Core) : c.countDown.badFills = c.badFills := rfl
@[simp] theorem Core.countDown_ord (c : Core) : c.countDown.ord = c.ord := rfl
@[simp] theorem Core.countDown_flow (c : Core) : c.countDown.flow = c.flow := rfl
@[simp] theorem Core.countDown_scratch (c : Core) : c.countDown.scratch = c.scratch := rfl
@[simp] theorem Core.countDown_poison (c : Core) : c.countDown.poison = c.poison := rfl
@[simp] theorem Core.countDown_hints (c : Core) : c.countDown.hints = c.hints := rfl
@[simp] theorem Core.countDown_issued (c : Core) : c.countDown.issued = c.issued := rfl
@[simp] theorem Core.countDown_arrived (c : Core) : c.countDown.arrived = c.arrived := rfl
@[simp] theorem Core.countDown_heldTags (c : Core) : c.countDown.heldTags = c.heldTags := rfl
@[simp] theorem Core.countDown_tendDone (c : Core) : c.countDown.tendDone = c.tendDone := rfl
@[simp] theorem Core.countDown_task (c : Core) : c.countDown.task = c.task := rfl
@[simp] theorem Core.countDown_lastCtx (c : Core) : c.countDown.lastCtx = c.lastCtx := rfl
@[simp] theorem Core.countDown_frozen (c : Core) : c.countDown.frozen = c.frozen := rfl
@[simp] theorem Core.countDown_pcselNext (c : Core) : c.countDown.pcselNext = c.pcselNext := rfl
@[simp] theorem Core.countDown_halted (c : Core) : c.countDown.halted = c.halted := rfl
@[simp] theorem Core.countDown_power (c : Core) : c.countDown.power = c.power := rfl
@[simp] theorem Core.countDown_off (c : Core) : c.countDown.off = c.off := rfl
@[simp] theorem Core.countDown_enabled (c : Core) : c.countDown.enabled = c.enabled := rfl
@[simp] theorem Core.countDown_freeze (c : Core) : c.countDown.freeze = c.freeze := rfl
@[simp] theorem Core.countDown_corrected (c : Core) : c.countDown.corrected = c.corrected := rfl
@[simp] theorem Core.countDown_freezeTicks (c : Core) : c.countDown.freezeTicks = c.freezeTicks := rfl
@[simp] theorem Core.countDown_nv (c : Core) : c.countDown.nv = c.nv := rfl
@[simp] theorem Core.countDown_ws (c : Core) : c.countDown.ws = c.ws := rfl

/-! ### Core.rqCount -/

@[simp] theorem Core.rqCount_id (c : Core) : c.rqCount.id = c.id := rfl
@[simp] theorem Core.rqCount_s (c : Core) : c.rqCount.s = c.s := rfl
@[simp] theorem Core.rqCount_v (c : Core) : c.rqCount.v = c.v := rfl
@[simp] theorem Core.rqCount_p (c : Core) : c.rqCount.p = c.p := rfl
@[simp] theorem Core.rqCount_tiles (c : Core) : c.rqCount.tiles = c.tiles := rfl
@[simp] theorem Core.rqCount_tflags (c : Core) : c.rqCount.tflags = c.tflags := rfl
@[simp] theorem Core.rqCount_wbuf (c : Core) : c.rqCount.wbuf = c.wbuf := rfl
@[simp] theorem Core.rqCount_sla (c : Core) : c.rqCount.sla = c.sla := rfl
@[simp] theorem Core.rqCount_slb (c : Core) : c.rqCount.slb = c.slb := rfl
@[simp] theorem Core.rqCount_slq (c : Core) : c.rqCount.slq = c.slq := rfl
@[simp] theorem Core.rqCount_ctl (c : Core) : c.rqCount.ctl = c.ctl := rfl
@[simp] theorem Core.rqCount_pc (c : Core) : c.rqCount.pc = c.pc := rfl
@[simp] theorem Core.rqCount_wi (c : Core) : c.rqCount.wi = c.wi := rfl
@[simp] theorem Core.rqCount_ri (c : Core) : c.rqCount.ri = c.ri := rfl
@[simp] theorem Core.rqCount_rq (c : Core) : c.rqCount.rq = c.rq.map (fun e => { e with remaining := e.remaining - 1 }) := rfl
@[simp] theorem Core.rqCount_shadow (c : Core) : c.rqCount.shadow = c.shadow := rfl
@[simp] theorem Core.rqCount_age (c : Core) : c.rqCount.age = c.age := rfl
@[simp] theorem Core.rqCount_ilk (c : Core) : c.rqCount.ilk = c.ilk := rfl
@[simp] theorem Core.rqCount_stq (c : Core) : c.rqCount.stq = c.stq := rfl
@[simp] theorem Core.rqCount_held (c : Core) : c.rqCount.held = c.held := rfl
@[simp] theorem Core.rqCount_redo (c : Core) : c.rqCount.redo = c.redo := rfl
@[simp] theorem Core.rqCount_saving (c : Core) : c.rqCount.saving = c.saving := rfl
@[simp] theorem Core.rqCount_qpop (c : Core) : c.rqCount.qpop = c.qpop := rfl
@[simp] theorem Core.rqCount_gather (c : Core) : c.rqCount.gather = c.gather := rfl
@[simp] theorem Core.rqCount_stream (c : Core) : c.rqCount.stream = c.stream := rfl
@[simp] theorem Core.rqCount_array (c : Core) : c.rqCount.array = c.array := rfl
@[simp] theorem Core.rqCount_loader (c : Core) : c.rqCount.loader = c.loader := rfl
@[simp] theorem Core.rqCount_log (c : Core) : c.rqCount.log = c.log := rfl
@[simp] theorem Core.rqCount_wins (c : Core) : c.rqCount.wins = c.wins := rfl
@[simp] theorem Core.rqCount_cmds (c : Core) : c.rqCount.cmds = c.cmds := rfl
@[simp] theorem Core.rqCount_due (c : Core) : c.rqCount.due = c.due := rfl
@[simp] theorem Core.rqCount_pending (c : Core) : c.rqCount.pending = c.pending := rfl
@[simp] theorem Core.rqCount_badFills (c : Core) : c.rqCount.badFills = c.badFills := rfl
@[simp] theorem Core.rqCount_ord (c : Core) : c.rqCount.ord = c.ord := rfl
@[simp] theorem Core.rqCount_flow (c : Core) : c.rqCount.flow = c.flow := rfl
@[simp] theorem Core.rqCount_scratch (c : Core) : c.rqCount.scratch = c.scratch := rfl
@[simp] theorem Core.rqCount_poison (c : Core) : c.rqCount.poison = c.poison := rfl
@[simp] theorem Core.rqCount_hints (c : Core) : c.rqCount.hints = c.hints := rfl
@[simp] theorem Core.rqCount_issued (c : Core) : c.rqCount.issued = c.issued := rfl
@[simp] theorem Core.rqCount_arrived (c : Core) : c.rqCount.arrived = c.arrived := rfl
@[simp] theorem Core.rqCount_heldTags (c : Core) : c.rqCount.heldTags = c.heldTags := rfl
@[simp] theorem Core.rqCount_tendDone (c : Core) : c.rqCount.tendDone = c.tendDone := rfl
@[simp] theorem Core.rqCount_task (c : Core) : c.rqCount.task = c.task := rfl
@[simp] theorem Core.rqCount_lastCtx (c : Core) : c.rqCount.lastCtx = c.lastCtx := rfl
@[simp] theorem Core.rqCount_frozen (c : Core) : c.rqCount.frozen = c.frozen := rfl
@[simp] theorem Core.rqCount_pcselNext (c : Core) : c.rqCount.pcselNext = c.pcselNext := rfl
@[simp] theorem Core.rqCount_halted (c : Core) : c.rqCount.halted = c.halted := rfl
@[simp] theorem Core.rqCount_power (c : Core) : c.rqCount.power = c.power := rfl
@[simp] theorem Core.rqCount_off (c : Core) : c.rqCount.off = c.off := rfl
@[simp] theorem Core.rqCount_enabled (c : Core) : c.rqCount.enabled = c.enabled := rfl
@[simp] theorem Core.rqCount_freeze (c : Core) : c.rqCount.freeze = c.freeze := rfl
@[simp] theorem Core.rqCount_corrected (c : Core) : c.rqCount.corrected = c.corrected := rfl
@[simp] theorem Core.rqCount_freezeTicks (c : Core) : c.rqCount.freezeTicks = c.freezeTicks := rfl
@[simp] theorem Core.rqCount_nv (c : Core) : c.rqCount.nv = c.nv := rfl
@[simp] theorem Core.rqCount_ws (c : Core) : c.rqCount.ws = c.ws := rfl

/-! ### Core.joinTflags -/

@[simp] theorem Core.joinTflags_id (c : Core) (t : TileNo) (f : Flags) : (c.joinTflags t f).id = c.id := rfl
@[simp] theorem Core.joinTflags_s (c : Core) (t : TileNo) (f : Flags) : (c.joinTflags t f).s = c.s := rfl
@[simp] theorem Core.joinTflags_v (c : Core) (t : TileNo) (f : Flags) : (c.joinTflags t f).v = c.v := rfl
@[simp] theorem Core.joinTflags_p (c : Core) (t : TileNo) (f : Flags) : (c.joinTflags t f).p = c.p := rfl
@[simp] theorem Core.joinTflags_tiles (c : Core) (t : TileNo) (f : Flags) : (c.joinTflags t f).tiles = c.tiles := rfl
@[simp] theorem Core.joinTflags_wbuf (c : Core) (t : TileNo) (f : Flags) : (c.joinTflags t f).wbuf = c.wbuf := rfl
@[simp] theorem Core.joinTflags_sla (c : Core) (t : TileNo) (f : Flags) : (c.joinTflags t f).sla = c.sla := rfl
@[simp] theorem Core.joinTflags_slb (c : Core) (t : TileNo) (f : Flags) : (c.joinTflags t f).slb = c.slb := rfl
@[simp] theorem Core.joinTflags_slq (c : Core) (t : TileNo) (f : Flags) : (c.joinTflags t f).slq = c.slq := rfl
@[simp] theorem Core.joinTflags_ctl (c : Core) (t : TileNo) (f : Flags) : (c.joinTflags t f).ctl = c.ctl := rfl
@[simp] theorem Core.joinTflags_pc (c : Core) (t : TileNo) (f : Flags) : (c.joinTflags t f).pc = c.pc := rfl
@[simp] theorem Core.joinTflags_wi (c : Core) (t : TileNo) (f : Flags) : (c.joinTflags t f).wi = c.wi := rfl
@[simp] theorem Core.joinTflags_ri (c : Core) (t : TileNo) (f : Flags) : (c.joinTflags t f).ri = c.ri := rfl
@[simp] theorem Core.joinTflags_rq (c : Core) (t : TileNo) (f : Flags) : (c.joinTflags t f).rq = c.rq := rfl
@[simp] theorem Core.joinTflags_shadow (c : Core) (t : TileNo) (f : Flags) : (c.joinTflags t f).shadow = c.shadow := rfl
@[simp] theorem Core.joinTflags_age (c : Core) (t : TileNo) (f : Flags) : (c.joinTflags t f).age = c.age := rfl
@[simp] theorem Core.joinTflags_ilk (c : Core) (t : TileNo) (f : Flags) : (c.joinTflags t f).ilk = c.ilk := rfl
@[simp] theorem Core.joinTflags_stq (c : Core) (t : TileNo) (f : Flags) : (c.joinTflags t f).stq = c.stq := rfl
@[simp] theorem Core.joinTflags_held (c : Core) (t : TileNo) (f : Flags) : (c.joinTflags t f).held = c.held := rfl
@[simp] theorem Core.joinTflags_redo (c : Core) (t : TileNo) (f : Flags) : (c.joinTflags t f).redo = c.redo := rfl
@[simp] theorem Core.joinTflags_saving (c : Core) (t : TileNo) (f : Flags) : (c.joinTflags t f).saving = c.saving := rfl
@[simp] theorem Core.joinTflags_qpop (c : Core) (t : TileNo) (f : Flags) : (c.joinTflags t f).qpop = c.qpop := rfl
@[simp] theorem Core.joinTflags_gather (c : Core) (t : TileNo) (f : Flags) : (c.joinTflags t f).gather = c.gather := rfl
@[simp] theorem Core.joinTflags_stream (c : Core) (t : TileNo) (f : Flags) : (c.joinTflags t f).stream = c.stream := rfl
@[simp] theorem Core.joinTflags_array (c : Core) (t : TileNo) (f : Flags) : (c.joinTflags t f).array = c.array := rfl
@[simp] theorem Core.joinTflags_loader (c : Core) (t : TileNo) (f : Flags) : (c.joinTflags t f).loader = c.loader := rfl
@[simp] theorem Core.joinTflags_log (c : Core) (t : TileNo) (f : Flags) : (c.joinTflags t f).log = c.log := rfl
@[simp] theorem Core.joinTflags_wins (c : Core) (t : TileNo) (f : Flags) : (c.joinTflags t f).wins = c.wins := rfl
@[simp] theorem Core.joinTflags_cmds (c : Core) (t : TileNo) (f : Flags) : (c.joinTflags t f).cmds = c.cmds := rfl
@[simp] theorem Core.joinTflags_due (c : Core) (t : TileNo) (f : Flags) : (c.joinTflags t f).due = c.due := rfl
@[simp] theorem Core.joinTflags_pending (c : Core) (t : TileNo) (f : Flags) : (c.joinTflags t f).pending = c.pending := rfl
@[simp] theorem Core.joinTflags_badFills (c : Core) (t : TileNo) (f : Flags) : (c.joinTflags t f).badFills = c.badFills := rfl
@[simp] theorem Core.joinTflags_ord (c : Core) (t : TileNo) (f : Flags) : (c.joinTflags t f).ord = c.ord := rfl
@[simp] theorem Core.joinTflags_flow (c : Core) (t : TileNo) (f : Flags) : (c.joinTflags t f).flow = c.flow := rfl
@[simp] theorem Core.joinTflags_scratch (c : Core) (t : TileNo) (f : Flags) : (c.joinTflags t f).scratch = c.scratch := rfl
@[simp] theorem Core.joinTflags_poison (c : Core) (t : TileNo) (f : Flags) : (c.joinTflags t f).poison = c.poison := rfl
@[simp] theorem Core.joinTflags_hints (c : Core) (t : TileNo) (f : Flags) : (c.joinTflags t f).hints = c.hints := rfl
@[simp] theorem Core.joinTflags_issued (c : Core) (t : TileNo) (f : Flags) : (c.joinTflags t f).issued = c.issued := rfl
@[simp] theorem Core.joinTflags_arrived (c : Core) (t : TileNo) (f : Flags) : (c.joinTflags t f).arrived = c.arrived := rfl
@[simp] theorem Core.joinTflags_heldTags (c : Core) (t : TileNo) (f : Flags) : (c.joinTflags t f).heldTags = c.heldTags := rfl
@[simp] theorem Core.joinTflags_tendDone (c : Core) (t : TileNo) (f : Flags) : (c.joinTflags t f).tendDone = c.tendDone := rfl
@[simp] theorem Core.joinTflags_task (c : Core) (t : TileNo) (f : Flags) : (c.joinTflags t f).task = c.task := rfl
@[simp] theorem Core.joinTflags_lastCtx (c : Core) (t : TileNo) (f : Flags) : (c.joinTflags t f).lastCtx = c.lastCtx := rfl
@[simp] theorem Core.joinTflags_frozen (c : Core) (t : TileNo) (f : Flags) : (c.joinTflags t f).frozen = c.frozen := rfl
@[simp] theorem Core.joinTflags_pcselNext (c : Core) (t : TileNo) (f : Flags) : (c.joinTflags t f).pcselNext = c.pcselNext := rfl
@[simp] theorem Core.joinTflags_halted (c : Core) (t : TileNo) (f : Flags) : (c.joinTflags t f).halted = c.halted := rfl
@[simp] theorem Core.joinTflags_power (c : Core) (t : TileNo) (f : Flags) : (c.joinTflags t f).power = c.power := rfl
@[simp] theorem Core.joinTflags_off (c : Core) (t : TileNo) (f : Flags) : (c.joinTflags t f).off = c.off := rfl
@[simp] theorem Core.joinTflags_enabled (c : Core) (t : TileNo) (f : Flags) : (c.joinTflags t f).enabled = c.enabled := rfl
@[simp] theorem Core.joinTflags_freeze (c : Core) (t : TileNo) (f : Flags) : (c.joinTflags t f).freeze = c.freeze := rfl
@[simp] theorem Core.joinTflags_corrected (c : Core) (t : TileNo) (f : Flags) : (c.joinTflags t f).corrected = c.corrected := rfl
@[simp] theorem Core.joinTflags_freezeTicks (c : Core) (t : TileNo) (f : Flags) : (c.joinTflags t f).freezeTicks = c.freezeTicks := rfl
@[simp] theorem Core.joinTflags_nv (c : Core) (t : TileNo) (f : Flags) : (c.joinTflags t f).nv = c.nv := rfl
@[simp] theorem Core.joinTflags_ws (c : Core) (t : TileNo) (f : Flags) : (c.joinTflags t f).ws = c.ws := rfl

/-! ### Core.clearTile -/

@[simp] theorem Core.clearTile_id (c : Core) (t : TileNo) (x : TileBits) : (c.clearTile t x).id = c.id := rfl
@[simp] theorem Core.clearTile_s (c : Core) (t : TileNo) (x : TileBits) : (c.clearTile t x).s = c.s := rfl
@[simp] theorem Core.clearTile_v (c : Core) (t : TileNo) (x : TileBits) : (c.clearTile t x).v = c.v := rfl
@[simp] theorem Core.clearTile_p (c : Core) (t : TileNo) (x : TileBits) : (c.clearTile t x).p = c.p := rfl
@[simp] theorem Core.clearTile_tiles (c : Core) (t : TileNo) (x : TileBits) : (c.clearTile t x).tiles = c.tiles.set t x := rfl
@[simp] theorem Core.clearTile_tflags (c : Core) (t : TileNo) (x : TileBits) : (c.clearTile t x).tflags = c.tflags.set t 0 := rfl
@[simp] theorem Core.clearTile_wbuf (c : Core) (t : TileNo) (x : TileBits) : (c.clearTile t x).wbuf = c.wbuf := rfl
@[simp] theorem Core.clearTile_sla (c : Core) (t : TileNo) (x : TileBits) : (c.clearTile t x).sla = c.sla := rfl
@[simp] theorem Core.clearTile_slb (c : Core) (t : TileNo) (x : TileBits) : (c.clearTile t x).slb = c.slb := rfl
@[simp] theorem Core.clearTile_slq (c : Core) (t : TileNo) (x : TileBits) : (c.clearTile t x).slq = c.slq := rfl
@[simp] theorem Core.clearTile_ctl (c : Core) (t : TileNo) (x : TileBits) : (c.clearTile t x).ctl = c.ctl := rfl
@[simp] theorem Core.clearTile_pc (c : Core) (t : TileNo) (x : TileBits) : (c.clearTile t x).pc = c.pc := rfl
@[simp] theorem Core.clearTile_wi (c : Core) (t : TileNo) (x : TileBits) : (c.clearTile t x).wi = c.wi := rfl
@[simp] theorem Core.clearTile_ri (c : Core) (t : TileNo) (x : TileBits) : (c.clearTile t x).ri = c.ri := rfl
@[simp] theorem Core.clearTile_rq (c : Core) (t : TileNo) (x : TileBits) : (c.clearTile t x).rq = c.rq := rfl
@[simp] theorem Core.clearTile_shadow (c : Core) (t : TileNo) (x : TileBits) : (c.clearTile t x).shadow = c.shadow := rfl
@[simp] theorem Core.clearTile_age (c : Core) (t : TileNo) (x : TileBits) : (c.clearTile t x).age = c.age := rfl
@[simp] theorem Core.clearTile_ilk (c : Core) (t : TileNo) (x : TileBits) : (c.clearTile t x).ilk = c.ilk := rfl
@[simp] theorem Core.clearTile_stq (c : Core) (t : TileNo) (x : TileBits) : (c.clearTile t x).stq = c.stq := rfl
@[simp] theorem Core.clearTile_held (c : Core) (t : TileNo) (x : TileBits) : (c.clearTile t x).held = c.held := rfl
@[simp] theorem Core.clearTile_redo (c : Core) (t : TileNo) (x : TileBits) : (c.clearTile t x).redo = c.redo := rfl
@[simp] theorem Core.clearTile_saving (c : Core) (t : TileNo) (x : TileBits) : (c.clearTile t x).saving = c.saving := rfl
@[simp] theorem Core.clearTile_qpop (c : Core) (t : TileNo) (x : TileBits) : (c.clearTile t x).qpop = c.qpop := rfl
@[simp] theorem Core.clearTile_gather (c : Core) (t : TileNo) (x : TileBits) : (c.clearTile t x).gather = c.gather := rfl
@[simp] theorem Core.clearTile_stream (c : Core) (t : TileNo) (x : TileBits) : (c.clearTile t x).stream = c.stream := rfl
@[simp] theorem Core.clearTile_array (c : Core) (t : TileNo) (x : TileBits) : (c.clearTile t x).array = c.array := rfl
@[simp] theorem Core.clearTile_loader (c : Core) (t : TileNo) (x : TileBits) : (c.clearTile t x).loader = c.loader := rfl
@[simp] theorem Core.clearTile_log (c : Core) (t : TileNo) (x : TileBits) : (c.clearTile t x).log = c.log := rfl
@[simp] theorem Core.clearTile_wins (c : Core) (t : TileNo) (x : TileBits) : (c.clearTile t x).wins = c.wins := rfl
@[simp] theorem Core.clearTile_cmds (c : Core) (t : TileNo) (x : TileBits) : (c.clearTile t x).cmds = c.cmds := rfl
@[simp] theorem Core.clearTile_due (c : Core) (t : TileNo) (x : TileBits) : (c.clearTile t x).due = c.due := rfl
@[simp] theorem Core.clearTile_pending (c : Core) (t : TileNo) (x : TileBits) : (c.clearTile t x).pending = c.pending := rfl
@[simp] theorem Core.clearTile_badFills (c : Core) (t : TileNo) (x : TileBits) : (c.clearTile t x).badFills = c.badFills := rfl
@[simp] theorem Core.clearTile_ord (c : Core) (t : TileNo) (x : TileBits) : (c.clearTile t x).ord = c.ord := rfl
@[simp] theorem Core.clearTile_flow (c : Core) (t : TileNo) (x : TileBits) : (c.clearTile t x).flow = c.flow := rfl
@[simp] theorem Core.clearTile_scratch (c : Core) (t : TileNo) (x : TileBits) : (c.clearTile t x).scratch = c.scratch := rfl
@[simp] theorem Core.clearTile_poison (c : Core) (t : TileNo) (x : TileBits) : (c.clearTile t x).poison = c.poison := rfl
@[simp] theorem Core.clearTile_hints (c : Core) (t : TileNo) (x : TileBits) : (c.clearTile t x).hints = c.hints := rfl
@[simp] theorem Core.clearTile_issued (c : Core) (t : TileNo) (x : TileBits) : (c.clearTile t x).issued = c.issued := rfl
@[simp] theorem Core.clearTile_arrived (c : Core) (t : TileNo) (x : TileBits) : (c.clearTile t x).arrived = c.arrived := rfl
@[simp] theorem Core.clearTile_heldTags (c : Core) (t : TileNo) (x : TileBits) : (c.clearTile t x).heldTags = c.heldTags := rfl
@[simp] theorem Core.clearTile_tendDone (c : Core) (t : TileNo) (x : TileBits) : (c.clearTile t x).tendDone = c.tendDone := rfl
@[simp] theorem Core.clearTile_task (c : Core) (t : TileNo) (x : TileBits) : (c.clearTile t x).task = c.task := rfl
@[simp] theorem Core.clearTile_lastCtx (c : Core) (t : TileNo) (x : TileBits) : (c.clearTile t x).lastCtx = c.lastCtx := rfl
@[simp] theorem Core.clearTile_frozen (c : Core) (t : TileNo) (x : TileBits) : (c.clearTile t x).frozen = c.frozen := rfl
@[simp] theorem Core.clearTile_pcselNext (c : Core) (t : TileNo) (x : TileBits) : (c.clearTile t x).pcselNext = c.pcselNext := rfl
@[simp] theorem Core.clearTile_halted (c : Core) (t : TileNo) (x : TileBits) : (c.clearTile t x).halted = c.halted := rfl
@[simp] theorem Core.clearTile_power (c : Core) (t : TileNo) (x : TileBits) : (c.clearTile t x).power = c.power := rfl
@[simp] theorem Core.clearTile_off (c : Core) (t : TileNo) (x : TileBits) : (c.clearTile t x).off = c.off := rfl
@[simp] theorem Core.clearTile_enabled (c : Core) (t : TileNo) (x : TileBits) : (c.clearTile t x).enabled = c.enabled := rfl
@[simp] theorem Core.clearTile_freeze (c : Core) (t : TileNo) (x : TileBits) : (c.clearTile t x).freeze = c.freeze := rfl
@[simp] theorem Core.clearTile_corrected (c : Core) (t : TileNo) (x : TileBits) : (c.clearTile t x).corrected = c.corrected := rfl
@[simp] theorem Core.clearTile_freezeTicks (c : Core) (t : TileNo) (x : TileBits) : (c.clearTile t x).freezeTicks = c.freezeTicks := rfl
@[simp] theorem Core.clearTile_nv (c : Core) (t : TileNo) (x : TileBits) : (c.clearTile t x).nv = c.nv := rfl
@[simp] theorem Core.clearTile_ws (c : Core) (t : TileNo) (x : TileBits) : (c.clearTile t x).ws = c.ws := rfl

/-! ### Core.branched -/

@[simp] theorem Core.branched_id (c : Core) (call : Bool) (x : Nat) : (c.branched call x).id = c.id := rfl
@[simp] theorem Core.branched_s (c : Core) (call : Bool) (x : Nat) : (c.branched call x).s = c.s := rfl
@[simp] theorem Core.branched_v (c : Core) (call : Bool) (x : Nat) : (c.branched call x).v = c.v := rfl
@[simp] theorem Core.branched_p (c : Core) (call : Bool) (x : Nat) : (c.branched call x).p = c.p := rfl
@[simp] theorem Core.branched_tiles (c : Core) (call : Bool) (x : Nat) : (c.branched call x).tiles = c.tiles := rfl
@[simp] theorem Core.branched_tflags (c : Core) (call : Bool) (x : Nat) : (c.branched call x).tflags = c.tflags := rfl
@[simp] theorem Core.branched_wbuf (c : Core) (call : Bool) (x : Nat) : (c.branched call x).wbuf = c.wbuf := rfl
@[simp] theorem Core.branched_sla (c : Core) (call : Bool) (x : Nat) : (c.branched call x).sla = c.sla := rfl
@[simp] theorem Core.branched_slb (c : Core) (call : Bool) (x : Nat) : (c.branched call x).slb = c.slb := rfl
@[simp] theorem Core.branched_slq (c : Core) (call : Bool) (x : Nat) : (c.branched call x).slq = c.slq := rfl
@[simp] theorem Core.branched_ctl (c : Core) (call : Bool) (x : Nat) : (c.branched call x).ctl = c.ctl := rfl
@[simp] theorem Core.branched_pc (c : Core) (call : Bool) (x : Nat) : (c.branched call x).pc = c.pc := rfl
@[simp] theorem Core.branched_wi (c : Core) (call : Bool) (x : Nat) : (c.branched call x).wi = c.wi := rfl
@[simp] theorem Core.branched_ri (c : Core) (call : Bool) (x : Nat) : (c.branched call x).ri = c.ri := rfl
@[simp] theorem Core.branched_rq (c : Core) (call : Bool) (x : Nat) : (c.branched call x).rq = c.rq := rfl
@[simp] theorem Core.branched_shadow (c : Core) (call : Bool) (x : Nat) : (c.branched call x).shadow = c.shadow := rfl
@[simp] theorem Core.branched_age (c : Core) (call : Bool) (x : Nat) : (c.branched call x).age = c.age := rfl
@[simp] theorem Core.branched_ilk (c : Core) (call : Bool) (x : Nat) : (c.branched call x).ilk = c.ilk := rfl
@[simp] theorem Core.branched_stq (c : Core) (call : Bool) (x : Nat) : (c.branched call x).stq = c.stq := rfl
@[simp] theorem Core.branched_held (c : Core) (call : Bool) (x : Nat) : (c.branched call x).held = c.held := rfl
@[simp] theorem Core.branched_redo (c : Core) (call : Bool) (x : Nat) : (c.branched call x).redo = c.redo := rfl
@[simp] theorem Core.branched_saving (c : Core) (call : Bool) (x : Nat) : (c.branched call x).saving = c.saving := rfl
@[simp] theorem Core.branched_qpop (c : Core) (call : Bool) (x : Nat) : (c.branched call x).qpop = c.qpop := rfl
@[simp] theorem Core.branched_gather (c : Core) (call : Bool) (x : Nat) : (c.branched call x).gather = c.gather := rfl
@[simp] theorem Core.branched_stream (c : Core) (call : Bool) (x : Nat) : (c.branched call x).stream = c.stream := rfl
@[simp] theorem Core.branched_array (c : Core) (call : Bool) (x : Nat) : (c.branched call x).array = c.array := rfl
@[simp] theorem Core.branched_loader (c : Core) (call : Bool) (x : Nat) : (c.branched call x).loader = c.loader := rfl
@[simp] theorem Core.branched_log (c : Core) (call : Bool) (x : Nat) : (c.branched call x).log = c.log := rfl
@[simp] theorem Core.branched_wins (c : Core) (call : Bool) (x : Nat) : (c.branched call x).wins = c.wins := rfl
@[simp] theorem Core.branched_cmds (c : Core) (call : Bool) (x : Nat) : (c.branched call x).cmds = c.cmds := rfl
@[simp] theorem Core.branched_due (c : Core) (call : Bool) (x : Nat) : (c.branched call x).due = c.due := rfl
@[simp] theorem Core.branched_pending (c : Core) (call : Bool) (x : Nat) : (c.branched call x).pending = c.pending := rfl
@[simp] theorem Core.branched_badFills (c : Core) (call : Bool) (x : Nat) : (c.branched call x).badFills = c.badFills := rfl
@[simp] theorem Core.branched_ord (c : Core) (call : Bool) (x : Nat) : (c.branched call x).ord = c.ord := rfl
@[simp] theorem Core.branched_flow (c : Core) (call : Bool) (x : Nat) : (c.branched call x).flow = { c.flow with branch := some x, isCall := call } := rfl
@[simp] theorem Core.branched_scratch (c : Core) (call : Bool) (x : Nat) : (c.branched call x).scratch = c.scratch := rfl
@[simp] theorem Core.branched_poison (c : Core) (call : Bool) (x : Nat) : (c.branched call x).poison = c.poison := rfl
@[simp] theorem Core.branched_hints (c : Core) (call : Bool) (x : Nat) : (c.branched call x).hints = c.hints := rfl
@[simp] theorem Core.branched_issued (c : Core) (call : Bool) (x : Nat) : (c.branched call x).issued = c.issued := rfl
@[simp] theorem Core.branched_arrived (c : Core) (call : Bool) (x : Nat) : (c.branched call x).arrived = c.arrived := rfl
@[simp] theorem Core.branched_heldTags (c : Core) (call : Bool) (x : Nat) : (c.branched call x).heldTags = c.heldTags := rfl
@[simp] theorem Core.branched_tendDone (c : Core) (call : Bool) (x : Nat) : (c.branched call x).tendDone = c.tendDone := rfl
@[simp] theorem Core.branched_task (c : Core) (call : Bool) (x : Nat) : (c.branched call x).task = c.task := rfl
@[simp] theorem Core.branched_lastCtx (c : Core) (call : Bool) (x : Nat) : (c.branched call x).lastCtx = c.lastCtx := rfl
@[simp] theorem Core.branched_frozen (c : Core) (call : Bool) (x : Nat) : (c.branched call x).frozen = c.frozen := rfl
@[simp] theorem Core.branched_pcselNext (c : Core) (call : Bool) (x : Nat) : (c.branched call x).pcselNext = c.pcselNext := rfl
@[simp] theorem Core.branched_halted (c : Core) (call : Bool) (x : Nat) : (c.branched call x).halted = c.halted := rfl
@[simp] theorem Core.branched_power (c : Core) (call : Bool) (x : Nat) : (c.branched call x).power = c.power := rfl
@[simp] theorem Core.branched_off (c : Core) (call : Bool) (x : Nat) : (c.branched call x).off = c.off := rfl
@[simp] theorem Core.branched_enabled (c : Core) (call : Bool) (x : Nat) : (c.branched call x).enabled = c.enabled := rfl
@[simp] theorem Core.branched_freeze (c : Core) (call : Bool) (x : Nat) : (c.branched call x).freeze = c.freeze := rfl
@[simp] theorem Core.branched_corrected (c : Core) (call : Bool) (x : Nat) : (c.branched call x).corrected = c.corrected := rfl
@[simp] theorem Core.branched_freezeTicks (c : Core) (call : Bool) (x : Nat) : (c.branched call x).freezeTicks = c.freezeTicks := rfl
@[simp] theorem Core.branched_nv (c : Core) (call : Bool) (x : Nat) : (c.branched call x).nv = c.nv := rfl
@[simp] theorem Core.branched_ws (c : Core) (call : Bool) (x : Nat) : (c.branched call x).ws = c.ws := rfl

/-! ### Core.writeS -/

@[simp] theorem Core.writeS_id (c : Core) (r : Reg) (x : Word) : (c.writeS r x).id = c.id := by unfold Core.writeS; split <;> rfl
@[simp] theorem Core.writeS_v (c : Core) (r : Reg) (x : Word) : (c.writeS r x).v = c.v := by unfold Core.writeS; split <;> rfl
@[simp] theorem Core.writeS_p (c : Core) (r : Reg) (x : Word) : (c.writeS r x).p = c.p := by unfold Core.writeS; split <;> rfl
@[simp] theorem Core.writeS_tiles (c : Core) (r : Reg) (x : Word) : (c.writeS r x).tiles = c.tiles := by unfold Core.writeS; split <;> rfl
@[simp] theorem Core.writeS_tflags (c : Core) (r : Reg) (x : Word) : (c.writeS r x).tflags = c.tflags := by unfold Core.writeS; split <;> rfl
@[simp] theorem Core.writeS_wbuf (c : Core) (r : Reg) (x : Word) : (c.writeS r x).wbuf = c.wbuf := by unfold Core.writeS; split <;> rfl
@[simp] theorem Core.writeS_sla (c : Core) (r : Reg) (x : Word) : (c.writeS r x).sla = c.sla := by unfold Core.writeS; split <;> rfl
@[simp] theorem Core.writeS_slb (c : Core) (r : Reg) (x : Word) : (c.writeS r x).slb = c.slb := by unfold Core.writeS; split <;> rfl
@[simp] theorem Core.writeS_slq (c : Core) (r : Reg) (x : Word) : (c.writeS r x).slq = c.slq := by unfold Core.writeS; split <;> rfl
@[simp] theorem Core.writeS_ctl (c : Core) (r : Reg) (x : Word) : (c.writeS r x).ctl = c.ctl := by unfold Core.writeS; split <;> rfl
@[simp] theorem Core.writeS_pc (c : Core) (r : Reg) (x : Word) : (c.writeS r x).pc = c.pc := by unfold Core.writeS; split <;> rfl
@[simp] theorem Core.writeS_wi (c : Core) (r : Reg) (x : Word) : (c.writeS r x).wi = c.wi := by unfold Core.writeS; split <;> rfl
@[simp] theorem Core.writeS_ri (c : Core) (r : Reg) (x : Word) : (c.writeS r x).ri = c.ri := by unfold Core.writeS; split <;> rfl
@[simp] theorem Core.writeS_rq (c : Core) (r : Reg) (x : Word) : (c.writeS r x).rq = c.rq := by unfold Core.writeS; split <;> rfl
@[simp] theorem Core.writeS_shadow (c : Core) (r : Reg) (x : Word) : (c.writeS r x).shadow = c.shadow := by unfold Core.writeS; split <;> rfl
@[simp] theorem Core.writeS_age (c : Core) (r : Reg) (x : Word) : (c.writeS r x).age = c.age := by unfold Core.writeS; split <;> rfl
@[simp] theorem Core.writeS_ilk (c : Core) (r : Reg) (x : Word) : (c.writeS r x).ilk = c.ilk := by unfold Core.writeS; split <;> rfl
@[simp] theorem Core.writeS_stq (c : Core) (r : Reg) (x : Word) : (c.writeS r x).stq = c.stq := by unfold Core.writeS; split <;> rfl
@[simp] theorem Core.writeS_held (c : Core) (r : Reg) (x : Word) : (c.writeS r x).held = c.held := by unfold Core.writeS; split <;> rfl
@[simp] theorem Core.writeS_redo (c : Core) (r : Reg) (x : Word) : (c.writeS r x).redo = c.redo := by unfold Core.writeS; split <;> rfl
@[simp] theorem Core.writeS_saving (c : Core) (r : Reg) (x : Word) : (c.writeS r x).saving = c.saving := by unfold Core.writeS; split <;> rfl
@[simp] theorem Core.writeS_qpop (c : Core) (r : Reg) (x : Word) : (c.writeS r x).qpop = c.qpop := by unfold Core.writeS; split <;> rfl
@[simp] theorem Core.writeS_gather (c : Core) (r : Reg) (x : Word) : (c.writeS r x).gather = c.gather := by unfold Core.writeS; split <;> rfl
@[simp] theorem Core.writeS_stream (c : Core) (r : Reg) (x : Word) : (c.writeS r x).stream = c.stream := by unfold Core.writeS; split <;> rfl
@[simp] theorem Core.writeS_array (c : Core) (r : Reg) (x : Word) : (c.writeS r x).array = c.array := by unfold Core.writeS; split <;> rfl
@[simp] theorem Core.writeS_loader (c : Core) (r : Reg) (x : Word) : (c.writeS r x).loader = c.loader := by unfold Core.writeS; split <;> rfl
@[simp] theorem Core.writeS_log (c : Core) (r : Reg) (x : Word) : (c.writeS r x).log = c.log := by unfold Core.writeS; split <;> rfl
@[simp] theorem Core.writeS_wins (c : Core) (r : Reg) (x : Word) : (c.writeS r x).wins = c.wins := by unfold Core.writeS; split <;> rfl
@[simp] theorem Core.writeS_cmds (c : Core) (r : Reg) (x : Word) : (c.writeS r x).cmds = c.cmds := by unfold Core.writeS; split <;> rfl
@[simp] theorem Core.writeS_due (c : Core) (r : Reg) (x : Word) : (c.writeS r x).due = c.due := by unfold Core.writeS; split <;> rfl
@[simp] theorem Core.writeS_pending (c : Core) (r : Reg) (x : Word) : (c.writeS r x).pending = c.pending := by unfold Core.writeS; split <;> rfl
@[simp] theorem Core.writeS_badFills (c : Core) (r : Reg) (x : Word) : (c.writeS r x).badFills = c.badFills := by unfold Core.writeS; split <;> rfl
@[simp] theorem Core.writeS_ord (c : Core) (r : Reg) (x : Word) : (c.writeS r x).ord = c.ord := by unfold Core.writeS; split <;> rfl
@[simp] theorem Core.writeS_flow (c : Core) (r : Reg) (x : Word) : (c.writeS r x).flow = c.flow := by unfold Core.writeS; split <;> rfl
@[simp] theorem Core.writeS_scratch (c : Core) (r : Reg) (x : Word) : (c.writeS r x).scratch = c.scratch := by unfold Core.writeS; split <;> rfl
@[simp] theorem Core.writeS_poison (c : Core) (r : Reg) (x : Word) : (c.writeS r x).poison = c.poison := by unfold Core.writeS; split <;> rfl
@[simp] theorem Core.writeS_hints (c : Core) (r : Reg) (x : Word) : (c.writeS r x).hints = c.hints := by unfold Core.writeS; split <;> rfl
@[simp] theorem Core.writeS_issued (c : Core) (r : Reg) (x : Word) : (c.writeS r x).issued = c.issued := by unfold Core.writeS; split <;> rfl
@[simp] theorem Core.writeS_arrived (c : Core) (r : Reg) (x : Word) : (c.writeS r x).arrived = c.arrived := by unfold Core.writeS; split <;> rfl
@[simp] theorem Core.writeS_heldTags (c : Core) (r : Reg) (x : Word) : (c.writeS r x).heldTags = c.heldTags := by unfold Core.writeS; split <;> rfl
@[simp] theorem Core.writeS_tendDone (c : Core) (r : Reg) (x : Word) : (c.writeS r x).tendDone = c.tendDone := by unfold Core.writeS; split <;> rfl
@[simp] theorem Core.writeS_task (c : Core) (r : Reg) (x : Word) : (c.writeS r x).task = c.task := by unfold Core.writeS; split <;> rfl
@[simp] theorem Core.writeS_lastCtx (c : Core) (r : Reg) (x : Word) : (c.writeS r x).lastCtx = c.lastCtx := by unfold Core.writeS; split <;> rfl
@[simp] theorem Core.writeS_frozen (c : Core) (r : Reg) (x : Word) : (c.writeS r x).frozen = c.frozen := by unfold Core.writeS; split <;> rfl
@[simp] theorem Core.writeS_pcselNext (c : Core) (r : Reg) (x : Word) : (c.writeS r x).pcselNext = c.pcselNext := by unfold Core.writeS; split <;> rfl
@[simp] theorem Core.writeS_halted (c : Core) (r : Reg) (x : Word) : (c.writeS r x).halted = c.halted := by unfold Core.writeS; split <;> rfl
@[simp] theorem Core.writeS_power (c : Core) (r : Reg) (x : Word) : (c.writeS r x).power = c.power := by unfold Core.writeS; split <;> rfl
@[simp] theorem Core.writeS_off (c : Core) (r : Reg) (x : Word) : (c.writeS r x).off = c.off := by unfold Core.writeS; split <;> rfl
@[simp] theorem Core.writeS_enabled (c : Core) (r : Reg) (x : Word) : (c.writeS r x).enabled = c.enabled := by unfold Core.writeS; split <;> rfl
@[simp] theorem Core.writeS_freeze (c : Core) (r : Reg) (x : Word) : (c.writeS r x).freeze = c.freeze := by unfold Core.writeS; split <;> rfl
@[simp] theorem Core.writeS_corrected (c : Core) (r : Reg) (x : Word) : (c.writeS r x).corrected = c.corrected := by unfold Core.writeS; split <;> rfl
@[simp] theorem Core.writeS_freezeTicks (c : Core) (r : Reg) (x : Word) : (c.writeS r x).freezeTicks = c.freezeTicks := by unfold Core.writeS; split <;> rfl
@[simp] theorem Core.writeS_nv (c : Core) (r : Reg) (x : Word) : (c.writeS r x).nv = c.nv := by unfold Core.writeS; split <;> rfl
@[simp] theorem Core.writeS_ws (c : Core) (r : Reg) (x : Word) : (c.writeS r x).ws = c.ws := by unfold Core.writeS; split <;> rfl

/-! ### Core.writeP -/

@[simp] theorem Core.writeP_id (c : Core) (r : PReg) (x : Pred) : (c.writeP r x).id = c.id := by unfold Core.writeP; split <;> rfl
@[simp] theorem Core.writeP_s (c : Core) (r : PReg) (x : Pred) : (c.writeP r x).s = c.s := by unfold Core.writeP; split <;> rfl
@[simp] theorem Core.writeP_v (c : Core) (r : PReg) (x : Pred) : (c.writeP r x).v = c.v := by unfold Core.writeP; split <;> rfl
@[simp] theorem Core.writeP_tiles (c : Core) (r : PReg) (x : Pred) : (c.writeP r x).tiles = c.tiles := by unfold Core.writeP; split <;> rfl
@[simp] theorem Core.writeP_tflags (c : Core) (r : PReg) (x : Pred) : (c.writeP r x).tflags = c.tflags := by unfold Core.writeP; split <;> rfl
@[simp] theorem Core.writeP_wbuf (c : Core) (r : PReg) (x : Pred) : (c.writeP r x).wbuf = c.wbuf := by unfold Core.writeP; split <;> rfl
@[simp] theorem Core.writeP_sla (c : Core) (r : PReg) (x : Pred) : (c.writeP r x).sla = c.sla := by unfold Core.writeP; split <;> rfl
@[simp] theorem Core.writeP_slb (c : Core) (r : PReg) (x : Pred) : (c.writeP r x).slb = c.slb := by unfold Core.writeP; split <;> rfl
@[simp] theorem Core.writeP_slq (c : Core) (r : PReg) (x : Pred) : (c.writeP r x).slq = c.slq := by unfold Core.writeP; split <;> rfl
@[simp] theorem Core.writeP_ctl (c : Core) (r : PReg) (x : Pred) : (c.writeP r x).ctl = c.ctl := by unfold Core.writeP; split <;> rfl
@[simp] theorem Core.writeP_pc (c : Core) (r : PReg) (x : Pred) : (c.writeP r x).pc = c.pc := by unfold Core.writeP; split <;> rfl
@[simp] theorem Core.writeP_wi (c : Core) (r : PReg) (x : Pred) : (c.writeP r x).wi = c.wi := by unfold Core.writeP; split <;> rfl
@[simp] theorem Core.writeP_ri (c : Core) (r : PReg) (x : Pred) : (c.writeP r x).ri = c.ri := by unfold Core.writeP; split <;> rfl
@[simp] theorem Core.writeP_rq (c : Core) (r : PReg) (x : Pred) : (c.writeP r x).rq = c.rq := by unfold Core.writeP; split <;> rfl
@[simp] theorem Core.writeP_shadow (c : Core) (r : PReg) (x : Pred) : (c.writeP r x).shadow = c.shadow := by unfold Core.writeP; split <;> rfl
@[simp] theorem Core.writeP_age (c : Core) (r : PReg) (x : Pred) : (c.writeP r x).age = c.age := by unfold Core.writeP; split <;> rfl
@[simp] theorem Core.writeP_ilk (c : Core) (r : PReg) (x : Pred) : (c.writeP r x).ilk = c.ilk := by unfold Core.writeP; split <;> rfl
@[simp] theorem Core.writeP_stq (c : Core) (r : PReg) (x : Pred) : (c.writeP r x).stq = c.stq := by unfold Core.writeP; split <;> rfl
@[simp] theorem Core.writeP_held (c : Core) (r : PReg) (x : Pred) : (c.writeP r x).held = c.held := by unfold Core.writeP; split <;> rfl
@[simp] theorem Core.writeP_redo (c : Core) (r : PReg) (x : Pred) : (c.writeP r x).redo = c.redo := by unfold Core.writeP; split <;> rfl
@[simp] theorem Core.writeP_saving (c : Core) (r : PReg) (x : Pred) : (c.writeP r x).saving = c.saving := by unfold Core.writeP; split <;> rfl
@[simp] theorem Core.writeP_qpop (c : Core) (r : PReg) (x : Pred) : (c.writeP r x).qpop = c.qpop := by unfold Core.writeP; split <;> rfl
@[simp] theorem Core.writeP_gather (c : Core) (r : PReg) (x : Pred) : (c.writeP r x).gather = c.gather := by unfold Core.writeP; split <;> rfl
@[simp] theorem Core.writeP_stream (c : Core) (r : PReg) (x : Pred) : (c.writeP r x).stream = c.stream := by unfold Core.writeP; split <;> rfl
@[simp] theorem Core.writeP_array (c : Core) (r : PReg) (x : Pred) : (c.writeP r x).array = c.array := by unfold Core.writeP; split <;> rfl
@[simp] theorem Core.writeP_loader (c : Core) (r : PReg) (x : Pred) : (c.writeP r x).loader = c.loader := by unfold Core.writeP; split <;> rfl
@[simp] theorem Core.writeP_log (c : Core) (r : PReg) (x : Pred) : (c.writeP r x).log = c.log := by unfold Core.writeP; split <;> rfl
@[simp] theorem Core.writeP_wins (c : Core) (r : PReg) (x : Pred) : (c.writeP r x).wins = c.wins := by unfold Core.writeP; split <;> rfl
@[simp] theorem Core.writeP_cmds (c : Core) (r : PReg) (x : Pred) : (c.writeP r x).cmds = c.cmds := by unfold Core.writeP; split <;> rfl
@[simp] theorem Core.writeP_due (c : Core) (r : PReg) (x : Pred) : (c.writeP r x).due = c.due := by unfold Core.writeP; split <;> rfl
@[simp] theorem Core.writeP_pending (c : Core) (r : PReg) (x : Pred) : (c.writeP r x).pending = c.pending := by unfold Core.writeP; split <;> rfl
@[simp] theorem Core.writeP_badFills (c : Core) (r : PReg) (x : Pred) : (c.writeP r x).badFills = c.badFills := by unfold Core.writeP; split <;> rfl
@[simp] theorem Core.writeP_ord (c : Core) (r : PReg) (x : Pred) : (c.writeP r x).ord = c.ord := by unfold Core.writeP; split <;> rfl
@[simp] theorem Core.writeP_flow (c : Core) (r : PReg) (x : Pred) : (c.writeP r x).flow = c.flow := by unfold Core.writeP; split <;> rfl
@[simp] theorem Core.writeP_scratch (c : Core) (r : PReg) (x : Pred) : (c.writeP r x).scratch = c.scratch := by unfold Core.writeP; split <;> rfl
@[simp] theorem Core.writeP_poison (c : Core) (r : PReg) (x : Pred) : (c.writeP r x).poison = c.poison := by unfold Core.writeP; split <;> rfl
@[simp] theorem Core.writeP_hints (c : Core) (r : PReg) (x : Pred) : (c.writeP r x).hints = c.hints := by unfold Core.writeP; split <;> rfl
@[simp] theorem Core.writeP_issued (c : Core) (r : PReg) (x : Pred) : (c.writeP r x).issued = c.issued := by unfold Core.writeP; split <;> rfl
@[simp] theorem Core.writeP_arrived (c : Core) (r : PReg) (x : Pred) : (c.writeP r x).arrived = c.arrived := by unfold Core.writeP; split <;> rfl
@[simp] theorem Core.writeP_heldTags (c : Core) (r : PReg) (x : Pred) : (c.writeP r x).heldTags = c.heldTags := by unfold Core.writeP; split <;> rfl
@[simp] theorem Core.writeP_tendDone (c : Core) (r : PReg) (x : Pred) : (c.writeP r x).tendDone = c.tendDone := by unfold Core.writeP; split <;> rfl
@[simp] theorem Core.writeP_task (c : Core) (r : PReg) (x : Pred) : (c.writeP r x).task = c.task := by unfold Core.writeP; split <;> rfl
@[simp] theorem Core.writeP_lastCtx (c : Core) (r : PReg) (x : Pred) : (c.writeP r x).lastCtx = c.lastCtx := by unfold Core.writeP; split <;> rfl
@[simp] theorem Core.writeP_frozen (c : Core) (r : PReg) (x : Pred) : (c.writeP r x).frozen = c.frozen := by unfold Core.writeP; split <;> rfl
@[simp] theorem Core.writeP_pcselNext (c : Core) (r : PReg) (x : Pred) : (c.writeP r x).pcselNext = c.pcselNext := by unfold Core.writeP; split <;> rfl
@[simp] theorem Core.writeP_halted (c : Core) (r : PReg) (x : Pred) : (c.writeP r x).halted = c.halted := by unfold Core.writeP; split <;> rfl
@[simp] theorem Core.writeP_power (c : Core) (r : PReg) (x : Pred) : (c.writeP r x).power = c.power := by unfold Core.writeP; split <;> rfl
@[simp] theorem Core.writeP_off (c : Core) (r : PReg) (x : Pred) : (c.writeP r x).off = c.off := by unfold Core.writeP; split <;> rfl
@[simp] theorem Core.writeP_enabled (c : Core) (r : PReg) (x : Pred) : (c.writeP r x).enabled = c.enabled := by unfold Core.writeP; split <;> rfl
@[simp] theorem Core.writeP_freeze (c : Core) (r : PReg) (x : Pred) : (c.writeP r x).freeze = c.freeze := by unfold Core.writeP; split <;> rfl
@[simp] theorem Core.writeP_corrected (c : Core) (r : PReg) (x : Pred) : (c.writeP r x).corrected = c.corrected := by unfold Core.writeP; split <;> rfl
@[simp] theorem Core.writeP_freezeTicks (c : Core) (r : PReg) (x : Pred) : (c.writeP r x).freezeTicks = c.freezeTicks := by unfold Core.writeP; split <;> rfl
@[simp] theorem Core.writeP_nv (c : Core) (r : PReg) (x : Pred) : (c.writeP r x).nv = c.nv := by unfold Core.writeP; split <;> rfl
@[simp] theorem Core.writeP_ws (c : Core) (r : PReg) (x : Pred) : (c.writeP r x).ws = c.ws := by unfold Core.writeP; split <;> rfl

/-! ### State.after -/

@[simp] theorem State.after_c (s : State) (c : Core) : (s.after c).c = c := rfl
@[simp] theorem State.after_others (s : State) (c : Core) : (s.after c).others = s.others := rfl
@[simp] theorem State.after_clusters (s : State) (c : Core) : (s.after c).clusters = s.clusters := rfl
@[simp] theorem State.after_parts (s : State) (c : Core) : (s.after c).parts = s.parts := rfl
@[simp] theorem State.after_queues (s : State) (c : Core) : (s.after c).queues = s.queues := rfl
@[simp] theorem State.after_ctxs (s : State) (c : Core) : (s.after c).ctxs = s.ctxs := rfl
@[simp] theorem State.after_cached (s : State) (c : Core) : (s.after c).cached = s.cached := rfl
@[simp] theorem State.after_keys (s : State) (c : Core) : (s.after c).keys = s.keys := rfl
@[simp] theorem State.after_comps (s : State) (c : Core) : (s.after c).comps = s.comps := rfl
@[simp] theorem State.after_gates (s : State) (c : Core) : (s.after c).gates = s.gates := rfl
@[simp] theorem State.after_wsets (s : State) (c : Core) : (s.after c).wsets = s.wsets := rfl
@[simp] theorem State.after_vfs (s : State) (c : Core) : (s.after c).vfs = s.vfs := rfl
@[simp] theorem State.after_vats (s : State) (c : Core) : (s.after c).vats = s.vats := rfl
@[simp] theorem State.after_tasks (s : State) (c : Core) : (s.after c).tasks = s.tasks := rfl
@[simp] theorem State.after_launches (s : State) (c : Core) : (s.after c).launches = s.launches := rfl
@[simp] theorem State.after_signals (s : State) (c : Core) : (s.after c).signals = s.signals := rfl
@[simp] theorem State.after_mem (s : State) (c : Core) : (s.after c).mem = s.mem := rfl
@[simp] theorem State.after_host (s : State) (c : Core) : (s.after c).host = s.host := rfl
@[simp] theorem State.after_poison (s : State) (c : Core) : (s.after c).poison = s.poison := rfl
@[simp] theorem State.after_labels (s : State) (c : Core) : (s.after c).labels = s.labels := rfl
@[simp] theorem State.after_stores (s : State) (c : Core) : (s.after c).stores = s.stores := rfl
@[simp] theorem State.after_stale (s : State) (c : Core) : (s.after c).stale = s.stale := rfl
@[simp] theorem State.after_suspended (s : State) (c : Core) : (s.after c).suspended = s.suspended := rfl
@[simp] theorem State.after_carry (s : State) (c : Core) : (s.after c).carry = s.carry := rfl
@[simp] theorem State.after_heard (s : State) (c : Core) : (s.after c).heard = s.heard := rfl
@[simp] theorem State.after_conns (s : State) (c : Core) : (s.after c).conns = s.conns := rfl
@[simp] theorem State.after_sessions (s : State) (c : Core) : (s.after c).sessions = s.sessions := rfl
@[simp] theorem State.after_mrs (s : State) (c : Core) : (s.after c).mrs = s.mrs := rfl
@[simp] theorem State.after_boxLog (s : State) (c : Core) : (s.after c).boxLog = s.boxLog := rfl
@[simp] theorem State.after_replies (s : State) (c : Core) : (s.after c).replies = s.replies := rfl
@[simp] theorem State.after_receipts (s : State) (c : Core) : (s.after c).receipts = s.receipts := rfl
@[simp] theorem State.after_umpire (s : State) (c : Core) : (s.after c).umpire = s.umpire := rfl
@[simp] theorem State.after_records (s : State) (c : Core) : (s.after c).records = s.records := rfl
@[simp] theorem State.after_images (s : State) (c : Core) : (s.after c).images = s.images := rfl
@[simp] theorem State.after_powerLost (s : State) (c : Core) : (s.after c).powerLost = s.powerLost := rfl
@[simp] theorem State.after_portsDown (s : State) (c : Core) : (s.after c).portsDown = s.portsDown := rfl
@[simp] theorem State.after_tick (s : State) (c : Core) : (s.after c).tick = s.tick := rfl
@[simp] theorem State.after_ids (s : State) (c : Core) : (s.after c).ids = s.ids := rfl
@[simp] theorem State.after_freeCtr (s : State) (c : Core) : (s.after c).freeCtr = s.freeCtr := rfl
@[simp] theorem State.after_agenda (s : State) (c : Core) : (s.after c).agenda = s.agenda := rfl
@[simp] theorem State.after_turns (s : State) (c : Core) : (s.after c).turns = s.turns := rfl
@[simp] theorem State.after_booted (s : State) (c : Core) : (s.after c).booted = s.booted := rfl
@[simp] theorem State.after_scans (s : State) (c : Core) : (s.after c).scans = s.scans := rfl
@[simp] theorem State.after_verdict (s : State) (c : Core) : (s.after c).verdict = .issued := rfl
@[simp] theorem State.after_word (s : State) (c : Core) : (s.after c).word = s.word := rfl

/-! ### State.entered -/

@[simp] theorem State.entered_c (s : State) (slot lat : Nat) (d : Dest) (value : Nat) (f : Flags) : (s.entered slot lat d value f).c = s.c.enter slot lat d value f := rfl
@[simp] theorem State.entered_others (s : State) (slot lat : Nat) (d : Dest) (value : Nat) (f : Flags) : (s.entered slot lat d value f).others = s.others := rfl
@[simp] theorem State.entered_clusters (s : State) (slot lat : Nat) (d : Dest) (value : Nat) (f : Flags) : (s.entered slot lat d value f).clusters = s.clusters := rfl
@[simp] theorem State.entered_parts (s : State) (slot lat : Nat) (d : Dest) (value : Nat) (f : Flags) : (s.entered slot lat d value f).parts = s.parts := rfl
@[simp] theorem State.entered_queues (s : State) (slot lat : Nat) (d : Dest) (value : Nat) (f : Flags) : (s.entered slot lat d value f).queues = s.queues := rfl
@[simp] theorem State.entered_ctxs (s : State) (slot lat : Nat) (d : Dest) (value : Nat) (f : Flags) : (s.entered slot lat d value f).ctxs = s.ctxs := rfl
@[simp] theorem State.entered_cached (s : State) (slot lat : Nat) (d : Dest) (value : Nat) (f : Flags) : (s.entered slot lat d value f).cached = s.cached := rfl
@[simp] theorem State.entered_keys (s : State) (slot lat : Nat) (d : Dest) (value : Nat) (f : Flags) : (s.entered slot lat d value f).keys = s.keys := rfl
@[simp] theorem State.entered_comps (s : State) (slot lat : Nat) (d : Dest) (value : Nat) (f : Flags) : (s.entered slot lat d value f).comps = s.comps := rfl
@[simp] theorem State.entered_gates (s : State) (slot lat : Nat) (d : Dest) (value : Nat) (f : Flags) : (s.entered slot lat d value f).gates = s.gates := rfl
@[simp] theorem State.entered_wsets (s : State) (slot lat : Nat) (d : Dest) (value : Nat) (f : Flags) : (s.entered slot lat d value f).wsets = s.wsets := rfl
@[simp] theorem State.entered_vfs (s : State) (slot lat : Nat) (d : Dest) (value : Nat) (f : Flags) : (s.entered slot lat d value f).vfs = s.vfs := rfl
@[simp] theorem State.entered_vats (s : State) (slot lat : Nat) (d : Dest) (value : Nat) (f : Flags) : (s.entered slot lat d value f).vats = s.vats := rfl
@[simp] theorem State.entered_tasks (s : State) (slot lat : Nat) (d : Dest) (value : Nat) (f : Flags) : (s.entered slot lat d value f).tasks = s.tasks := rfl
@[simp] theorem State.entered_launches (s : State) (slot lat : Nat) (d : Dest) (value : Nat) (f : Flags) : (s.entered slot lat d value f).launches = s.launches := rfl
@[simp] theorem State.entered_signals (s : State) (slot lat : Nat) (d : Dest) (value : Nat) (f : Flags) : (s.entered slot lat d value f).signals = s.signals := rfl
@[simp] theorem State.entered_mem (s : State) (slot lat : Nat) (d : Dest) (value : Nat) (f : Flags) : (s.entered slot lat d value f).mem = s.mem := rfl
@[simp] theorem State.entered_host (s : State) (slot lat : Nat) (d : Dest) (value : Nat) (f : Flags) : (s.entered slot lat d value f).host = s.host := rfl
@[simp] theorem State.entered_poison (s : State) (slot lat : Nat) (d : Dest) (value : Nat) (f : Flags) : (s.entered slot lat d value f).poison = s.poison := rfl
@[simp] theorem State.entered_labels (s : State) (slot lat : Nat) (d : Dest) (value : Nat) (f : Flags) : (s.entered slot lat d value f).labels = s.labels := rfl
@[simp] theorem State.entered_stores (s : State) (slot lat : Nat) (d : Dest) (value : Nat) (f : Flags) : (s.entered slot lat d value f).stores = s.stores := rfl
@[simp] theorem State.entered_stale (s : State) (slot lat : Nat) (d : Dest) (value : Nat) (f : Flags) : (s.entered slot lat d value f).stale = s.stale := rfl
@[simp] theorem State.entered_suspended (s : State) (slot lat : Nat) (d : Dest) (value : Nat) (f : Flags) : (s.entered slot lat d value f).suspended = s.suspended := rfl
@[simp] theorem State.entered_carry (s : State) (slot lat : Nat) (d : Dest) (value : Nat) (f : Flags) : (s.entered slot lat d value f).carry = s.carry := rfl
@[simp] theorem State.entered_heard (s : State) (slot lat : Nat) (d : Dest) (value : Nat) (f : Flags) : (s.entered slot lat d value f).heard = s.heard := rfl
@[simp] theorem State.entered_conns (s : State) (slot lat : Nat) (d : Dest) (value : Nat) (f : Flags) : (s.entered slot lat d value f).conns = s.conns := rfl
@[simp] theorem State.entered_sessions (s : State) (slot lat : Nat) (d : Dest) (value : Nat) (f : Flags) : (s.entered slot lat d value f).sessions = s.sessions := rfl
@[simp] theorem State.entered_mrs (s : State) (slot lat : Nat) (d : Dest) (value : Nat) (f : Flags) : (s.entered slot lat d value f).mrs = s.mrs := rfl
@[simp] theorem State.entered_boxLog (s : State) (slot lat : Nat) (d : Dest) (value : Nat) (f : Flags) : (s.entered slot lat d value f).boxLog = s.boxLog := rfl
@[simp] theorem State.entered_replies (s : State) (slot lat : Nat) (d : Dest) (value : Nat) (f : Flags) : (s.entered slot lat d value f).replies = s.replies := rfl
@[simp] theorem State.entered_receipts (s : State) (slot lat : Nat) (d : Dest) (value : Nat) (f : Flags) : (s.entered slot lat d value f).receipts = s.receipts := rfl
@[simp] theorem State.entered_umpire (s : State) (slot lat : Nat) (d : Dest) (value : Nat) (f : Flags) : (s.entered slot lat d value f).umpire = s.umpire := rfl
@[simp] theorem State.entered_records (s : State) (slot lat : Nat) (d : Dest) (value : Nat) (f : Flags) : (s.entered slot lat d value f).records = s.records := rfl
@[simp] theorem State.entered_images (s : State) (slot lat : Nat) (d : Dest) (value : Nat) (f : Flags) : (s.entered slot lat d value f).images = s.images := rfl
@[simp] theorem State.entered_powerLost (s : State) (slot lat : Nat) (d : Dest) (value : Nat) (f : Flags) : (s.entered slot lat d value f).powerLost = s.powerLost := rfl
@[simp] theorem State.entered_portsDown (s : State) (slot lat : Nat) (d : Dest) (value : Nat) (f : Flags) : (s.entered slot lat d value f).portsDown = s.portsDown := rfl
@[simp] theorem State.entered_tick (s : State) (slot lat : Nat) (d : Dest) (value : Nat) (f : Flags) : (s.entered slot lat d value f).tick = s.tick := rfl
@[simp] theorem State.entered_ids (s : State) (slot lat : Nat) (d : Dest) (value : Nat) (f : Flags) : (s.entered slot lat d value f).ids = s.ids := rfl
@[simp] theorem State.entered_freeCtr (s : State) (slot lat : Nat) (d : Dest) (value : Nat) (f : Flags) : (s.entered slot lat d value f).freeCtr = s.freeCtr := rfl
@[simp] theorem State.entered_agenda (s : State) (slot lat : Nat) (d : Dest) (value : Nat) (f : Flags) : (s.entered slot lat d value f).agenda = s.agenda := rfl
@[simp] theorem State.entered_turns (s : State) (slot lat : Nat) (d : Dest) (value : Nat) (f : Flags) : (s.entered slot lat d value f).turns = s.turns := rfl
@[simp] theorem State.entered_booted (s : State) (slot lat : Nat) (d : Dest) (value : Nat) (f : Flags) : (s.entered slot lat d value f).booted = s.booted := rfl
@[simp] theorem State.entered_scans (s : State) (slot lat : Nat) (d : Dest) (value : Nat) (f : Flags) : (s.entered slot lat d value f).scans = s.scans := rfl
@[simp] theorem State.entered_verdict (s : State) (slot lat : Nat) (d : Dest) (value : Nat) (f : Flags) : (s.entered slot lat d value f).verdict = .issued := rfl
@[simp] theorem State.entered_word (s : State) (slot lat : Nat) (d : Dest) (value : Nat) (f : Flags) : (s.entered slot lat d value f).word = s.word := rfl

/-! ### State.setQueue -/

@[simp] theorem State.setQueue_c (s : State) (part qn : Nat) (q : Queue) : (s.setQueue part qn q).c = s.c := rfl
@[simp] theorem State.setQueue_others (s : State) (part qn : Nat) (q : Queue) : (s.setQueue part qn q).others = s.others := rfl
@[simp] theorem State.setQueue_clusters (s : State) (part qn : Nat) (q : Queue) : (s.setQueue part qn q).clusters = s.clusters := rfl
@[simp] theorem State.setQueue_parts (s : State) (part qn : Nat) (q : Queue) : (s.setQueue part qn q).parts = s.parts := rfl
@[simp] theorem State.setQueue_queues (s : State) (part qn : Nat) (q : Queue) : (s.setQueue part qn q).queues = put s.queues (part, qn) q := rfl
@[simp] theorem State.setQueue_ctxs (s : State) (part qn : Nat) (q : Queue) : (s.setQueue part qn q).ctxs = s.ctxs := rfl
@[simp] theorem State.setQueue_cached (s : State) (part qn : Nat) (q : Queue) : (s.setQueue part qn q).cached = s.cached := rfl
@[simp] theorem State.setQueue_keys (s : State) (part qn : Nat) (q : Queue) : (s.setQueue part qn q).keys = s.keys := rfl
@[simp] theorem State.setQueue_comps (s : State) (part qn : Nat) (q : Queue) : (s.setQueue part qn q).comps = s.comps := rfl
@[simp] theorem State.setQueue_gates (s : State) (part qn : Nat) (q : Queue) : (s.setQueue part qn q).gates = s.gates := rfl
@[simp] theorem State.setQueue_wsets (s : State) (part qn : Nat) (q : Queue) : (s.setQueue part qn q).wsets = s.wsets := rfl
@[simp] theorem State.setQueue_vfs (s : State) (part qn : Nat) (q : Queue) : (s.setQueue part qn q).vfs = s.vfs := rfl
@[simp] theorem State.setQueue_vats (s : State) (part qn : Nat) (q : Queue) : (s.setQueue part qn q).vats = s.vats := rfl
@[simp] theorem State.setQueue_tasks (s : State) (part qn : Nat) (q : Queue) : (s.setQueue part qn q).tasks = s.tasks := rfl
@[simp] theorem State.setQueue_launches (s : State) (part qn : Nat) (q : Queue) : (s.setQueue part qn q).launches = s.launches := rfl
@[simp] theorem State.setQueue_signals (s : State) (part qn : Nat) (q : Queue) : (s.setQueue part qn q).signals = s.signals := rfl
@[simp] theorem State.setQueue_mem (s : State) (part qn : Nat) (q : Queue) : (s.setQueue part qn q).mem = s.mem := rfl
@[simp] theorem State.setQueue_host (s : State) (part qn : Nat) (q : Queue) : (s.setQueue part qn q).host = s.host := rfl
@[simp] theorem State.setQueue_poison (s : State) (part qn : Nat) (q : Queue) : (s.setQueue part qn q).poison = s.poison := rfl
@[simp] theorem State.setQueue_labels (s : State) (part qn : Nat) (q : Queue) : (s.setQueue part qn q).labels = s.labels := rfl
@[simp] theorem State.setQueue_stores (s : State) (part qn : Nat) (q : Queue) : (s.setQueue part qn q).stores = s.stores := rfl
@[simp] theorem State.setQueue_stale (s : State) (part qn : Nat) (q : Queue) : (s.setQueue part qn q).stale = s.stale := rfl
@[simp] theorem State.setQueue_suspended (s : State) (part qn : Nat) (q : Queue) : (s.setQueue part qn q).suspended = s.suspended := rfl
@[simp] theorem State.setQueue_carry (s : State) (part qn : Nat) (q : Queue) : (s.setQueue part qn q).carry = s.carry := rfl
@[simp] theorem State.setQueue_heard (s : State) (part qn : Nat) (q : Queue) : (s.setQueue part qn q).heard = s.heard := rfl
@[simp] theorem State.setQueue_conns (s : State) (part qn : Nat) (q : Queue) : (s.setQueue part qn q).conns = s.conns := rfl
@[simp] theorem State.setQueue_sessions (s : State) (part qn : Nat) (q : Queue) : (s.setQueue part qn q).sessions = s.sessions := rfl
@[simp] theorem State.setQueue_mrs (s : State) (part qn : Nat) (q : Queue) : (s.setQueue part qn q).mrs = s.mrs := rfl
@[simp] theorem State.setQueue_boxLog (s : State) (part qn : Nat) (q : Queue) : (s.setQueue part qn q).boxLog = s.boxLog := rfl
@[simp] theorem State.setQueue_replies (s : State) (part qn : Nat) (q : Queue) : (s.setQueue part qn q).replies = s.replies := rfl
@[simp] theorem State.setQueue_receipts (s : State) (part qn : Nat) (q : Queue) : (s.setQueue part qn q).receipts = s.receipts := rfl
@[simp] theorem State.setQueue_umpire (s : State) (part qn : Nat) (q : Queue) : (s.setQueue part qn q).umpire = s.umpire := rfl
@[simp] theorem State.setQueue_records (s : State) (part qn : Nat) (q : Queue) : (s.setQueue part qn q).records = s.records := rfl
@[simp] theorem State.setQueue_images (s : State) (part qn : Nat) (q : Queue) : (s.setQueue part qn q).images = s.images := rfl
@[simp] theorem State.setQueue_powerLost (s : State) (part qn : Nat) (q : Queue) : (s.setQueue part qn q).powerLost = s.powerLost := rfl
@[simp] theorem State.setQueue_portsDown (s : State) (part qn : Nat) (q : Queue) : (s.setQueue part qn q).portsDown = s.portsDown := rfl
@[simp] theorem State.setQueue_tick (s : State) (part qn : Nat) (q : Queue) : (s.setQueue part qn q).tick = s.tick := rfl
@[simp] theorem State.setQueue_ids (s : State) (part qn : Nat) (q : Queue) : (s.setQueue part qn q).ids = s.ids := rfl
@[simp] theorem State.setQueue_freeCtr (s : State) (part qn : Nat) (q : Queue) : (s.setQueue part qn q).freeCtr = s.freeCtr := rfl
@[simp] theorem State.setQueue_agenda (s : State) (part qn : Nat) (q : Queue) : (s.setQueue part qn q).agenda = s.agenda := rfl
@[simp] theorem State.setQueue_turns (s : State) (part qn : Nat) (q : Queue) : (s.setQueue part qn q).turns = s.turns := rfl
@[simp] theorem State.setQueue_booted (s : State) (part qn : Nat) (q : Queue) : (s.setQueue part qn q).booted = s.booted := rfl
@[simp] theorem State.setQueue_scans (s : State) (part qn : Nat) (q : Queue) : (s.setQueue part qn q).scans = s.scans := rfl
@[simp] theorem State.setQueue_verdict (s : State) (part qn : Nat) (q : Queue) : (s.setQueue part qn q).verdict = s.verdict := rfl
@[simp] theorem State.setQueue_word (s : State) (part qn : Nat) (q : Queue) : (s.setQueue part qn q).word = s.word := rfl

/-! ### State.setCluster -/

@[simp] theorem State.setCluster_c (s : State) (n : Nat) (x : Cluster) : (s.setCluster n x).c = s.c := rfl
@[simp] theorem State.setCluster_others (s : State) (n : Nat) (x : Cluster) : (s.setCluster n x).others = s.others := rfl
@[simp] theorem State.setCluster_clusters (s : State) (n : Nat) (x : Cluster) : (s.setCluster n x).clusters = put s.clusters n x := rfl
@[simp] theorem State.setCluster_parts (s : State) (n : Nat) (x : Cluster) : (s.setCluster n x).parts = s.parts := rfl
@[simp] theorem State.setCluster_queues (s : State) (n : Nat) (x : Cluster) : (s.setCluster n x).queues = s.queues := rfl
@[simp] theorem State.setCluster_ctxs (s : State) (n : Nat) (x : Cluster) : (s.setCluster n x).ctxs = s.ctxs := rfl
@[simp] theorem State.setCluster_cached (s : State) (n : Nat) (x : Cluster) : (s.setCluster n x).cached = s.cached := rfl
@[simp] theorem State.setCluster_keys (s : State) (n : Nat) (x : Cluster) : (s.setCluster n x).keys = s.keys := rfl
@[simp] theorem State.setCluster_comps (s : State) (n : Nat) (x : Cluster) : (s.setCluster n x).comps = s.comps := rfl
@[simp] theorem State.setCluster_gates (s : State) (n : Nat) (x : Cluster) : (s.setCluster n x).gates = s.gates := rfl
@[simp] theorem State.setCluster_wsets (s : State) (n : Nat) (x : Cluster) : (s.setCluster n x).wsets = s.wsets := rfl
@[simp] theorem State.setCluster_vfs (s : State) (n : Nat) (x : Cluster) : (s.setCluster n x).vfs = s.vfs := rfl
@[simp] theorem State.setCluster_vats (s : State) (n : Nat) (x : Cluster) : (s.setCluster n x).vats = s.vats := rfl
@[simp] theorem State.setCluster_tasks (s : State) (n : Nat) (x : Cluster) : (s.setCluster n x).tasks = s.tasks := rfl
@[simp] theorem State.setCluster_launches (s : State) (n : Nat) (x : Cluster) : (s.setCluster n x).launches = s.launches := rfl
@[simp] theorem State.setCluster_signals (s : State) (n : Nat) (x : Cluster) : (s.setCluster n x).signals = s.signals := rfl
@[simp] theorem State.setCluster_mem (s : State) (n : Nat) (x : Cluster) : (s.setCluster n x).mem = s.mem := rfl
@[simp] theorem State.setCluster_host (s : State) (n : Nat) (x : Cluster) : (s.setCluster n x).host = s.host := rfl
@[simp] theorem State.setCluster_poison (s : State) (n : Nat) (x : Cluster) : (s.setCluster n x).poison = s.poison := rfl
@[simp] theorem State.setCluster_labels (s : State) (n : Nat) (x : Cluster) : (s.setCluster n x).labels = s.labels := rfl
@[simp] theorem State.setCluster_stores (s : State) (n : Nat) (x : Cluster) : (s.setCluster n x).stores = s.stores := rfl
@[simp] theorem State.setCluster_stale (s : State) (n : Nat) (x : Cluster) : (s.setCluster n x).stale = s.stale := rfl
@[simp] theorem State.setCluster_suspended (s : State) (n : Nat) (x : Cluster) : (s.setCluster n x).suspended = s.suspended := rfl
@[simp] theorem State.setCluster_carry (s : State) (n : Nat) (x : Cluster) : (s.setCluster n x).carry = s.carry := rfl
@[simp] theorem State.setCluster_heard (s : State) (n : Nat) (x : Cluster) : (s.setCluster n x).heard = s.heard := rfl
@[simp] theorem State.setCluster_conns (s : State) (n : Nat) (x : Cluster) : (s.setCluster n x).conns = s.conns := rfl
@[simp] theorem State.setCluster_sessions (s : State) (n : Nat) (x : Cluster) : (s.setCluster n x).sessions = s.sessions := rfl
@[simp] theorem State.setCluster_mrs (s : State) (n : Nat) (x : Cluster) : (s.setCluster n x).mrs = s.mrs := rfl
@[simp] theorem State.setCluster_boxLog (s : State) (n : Nat) (x : Cluster) : (s.setCluster n x).boxLog = s.boxLog := rfl
@[simp] theorem State.setCluster_replies (s : State) (n : Nat) (x : Cluster) : (s.setCluster n x).replies = s.replies := rfl
@[simp] theorem State.setCluster_receipts (s : State) (n : Nat) (x : Cluster) : (s.setCluster n x).receipts = s.receipts := rfl
@[simp] theorem State.setCluster_umpire (s : State) (n : Nat) (x : Cluster) : (s.setCluster n x).umpire = s.umpire := rfl
@[simp] theorem State.setCluster_records (s : State) (n : Nat) (x : Cluster) : (s.setCluster n x).records = s.records := rfl
@[simp] theorem State.setCluster_images (s : State) (n : Nat) (x : Cluster) : (s.setCluster n x).images = s.images := rfl
@[simp] theorem State.setCluster_powerLost (s : State) (n : Nat) (x : Cluster) : (s.setCluster n x).powerLost = s.powerLost := rfl
@[simp] theorem State.setCluster_portsDown (s : State) (n : Nat) (x : Cluster) : (s.setCluster n x).portsDown = s.portsDown := rfl
@[simp] theorem State.setCluster_tick (s : State) (n : Nat) (x : Cluster) : (s.setCluster n x).tick = s.tick := rfl
@[simp] theorem State.setCluster_ids (s : State) (n : Nat) (x : Cluster) : (s.setCluster n x).ids = s.ids := rfl
@[simp] theorem State.setCluster_freeCtr (s : State) (n : Nat) (x : Cluster) : (s.setCluster n x).freeCtr = s.freeCtr := rfl
@[simp] theorem State.setCluster_agenda (s : State) (n : Nat) (x : Cluster) : (s.setCluster n x).agenda = s.agenda := rfl
@[simp] theorem State.setCluster_turns (s : State) (n : Nat) (x : Cluster) : (s.setCluster n x).turns = s.turns := rfl
@[simp] theorem State.setCluster_booted (s : State) (n : Nat) (x : Cluster) : (s.setCluster n x).booted = s.booted := rfl
@[simp] theorem State.setCluster_scans (s : State) (n : Nat) (x : Cluster) : (s.setCluster n x).scans = s.scans := rfl
@[simp] theorem State.setCluster_verdict (s : State) (n : Nat) (x : Cluster) : (s.setCluster n x).verdict = s.verdict := rfl
@[simp] theorem State.setCluster_word (s : State) (n : Nat) (x : Cluster) : (s.setCluster n x).word = s.word := rfl

/-! ### State.setPart -/

@[simp] theorem State.setPart_c (s : State) (n : Nat) (x : Part) : (s.setPart n x).c = s.c := rfl
@[simp] theorem State.setPart_others (s : State) (n : Nat) (x : Part) : (s.setPart n x).others = s.others := rfl
@[simp] theorem State.setPart_clusters (s : State) (n : Nat) (x : Part) : (s.setPart n x).clusters = s.clusters := rfl
@[simp] theorem State.setPart_parts (s : State) (n : Nat) (x : Part) : (s.setPart n x).parts = put s.parts n x := rfl
@[simp] theorem State.setPart_queues (s : State) (n : Nat) (x : Part) : (s.setPart n x).queues = s.queues := rfl
@[simp] theorem State.setPart_ctxs (s : State) (n : Nat) (x : Part) : (s.setPart n x).ctxs = s.ctxs := rfl
@[simp] theorem State.setPart_cached (s : State) (n : Nat) (x : Part) : (s.setPart n x).cached = s.cached := rfl
@[simp] theorem State.setPart_keys (s : State) (n : Nat) (x : Part) : (s.setPart n x).keys = s.keys := rfl
@[simp] theorem State.setPart_comps (s : State) (n : Nat) (x : Part) : (s.setPart n x).comps = s.comps := rfl
@[simp] theorem State.setPart_gates (s : State) (n : Nat) (x : Part) : (s.setPart n x).gates = s.gates := rfl
@[simp] theorem State.setPart_wsets (s : State) (n : Nat) (x : Part) : (s.setPart n x).wsets = s.wsets := rfl
@[simp] theorem State.setPart_vfs (s : State) (n : Nat) (x : Part) : (s.setPart n x).vfs = s.vfs := rfl
@[simp] theorem State.setPart_vats (s : State) (n : Nat) (x : Part) : (s.setPart n x).vats = s.vats := rfl
@[simp] theorem State.setPart_tasks (s : State) (n : Nat) (x : Part) : (s.setPart n x).tasks = s.tasks := rfl
@[simp] theorem State.setPart_launches (s : State) (n : Nat) (x : Part) : (s.setPart n x).launches = s.launches := rfl
@[simp] theorem State.setPart_signals (s : State) (n : Nat) (x : Part) : (s.setPart n x).signals = s.signals := rfl
@[simp] theorem State.setPart_mem (s : State) (n : Nat) (x : Part) : (s.setPart n x).mem = s.mem := rfl
@[simp] theorem State.setPart_host (s : State) (n : Nat) (x : Part) : (s.setPart n x).host = s.host := rfl
@[simp] theorem State.setPart_poison (s : State) (n : Nat) (x : Part) : (s.setPart n x).poison = s.poison := rfl
@[simp] theorem State.setPart_labels (s : State) (n : Nat) (x : Part) : (s.setPart n x).labels = s.labels := rfl
@[simp] theorem State.setPart_stores (s : State) (n : Nat) (x : Part) : (s.setPart n x).stores = s.stores := rfl
@[simp] theorem State.setPart_stale (s : State) (n : Nat) (x : Part) : (s.setPart n x).stale = s.stale := rfl
@[simp] theorem State.setPart_suspended (s : State) (n : Nat) (x : Part) : (s.setPart n x).suspended = s.suspended := rfl
@[simp] theorem State.setPart_carry (s : State) (n : Nat) (x : Part) : (s.setPart n x).carry = s.carry := rfl
@[simp] theorem State.setPart_heard (s : State) (n : Nat) (x : Part) : (s.setPart n x).heard = s.heard := rfl
@[simp] theorem State.setPart_conns (s : State) (n : Nat) (x : Part) : (s.setPart n x).conns = s.conns := rfl
@[simp] theorem State.setPart_sessions (s : State) (n : Nat) (x : Part) : (s.setPart n x).sessions = s.sessions := rfl
@[simp] theorem State.setPart_mrs (s : State) (n : Nat) (x : Part) : (s.setPart n x).mrs = s.mrs := rfl
@[simp] theorem State.setPart_boxLog (s : State) (n : Nat) (x : Part) : (s.setPart n x).boxLog = s.boxLog := rfl
@[simp] theorem State.setPart_replies (s : State) (n : Nat) (x : Part) : (s.setPart n x).replies = s.replies := rfl
@[simp] theorem State.setPart_receipts (s : State) (n : Nat) (x : Part) : (s.setPart n x).receipts = s.receipts := rfl
@[simp] theorem State.setPart_umpire (s : State) (n : Nat) (x : Part) : (s.setPart n x).umpire = s.umpire := rfl
@[simp] theorem State.setPart_records (s : State) (n : Nat) (x : Part) : (s.setPart n x).records = s.records := rfl
@[simp] theorem State.setPart_images (s : State) (n : Nat) (x : Part) : (s.setPart n x).images = s.images := rfl
@[simp] theorem State.setPart_powerLost (s : State) (n : Nat) (x : Part) : (s.setPart n x).powerLost = s.powerLost := rfl
@[simp] theorem State.setPart_portsDown (s : State) (n : Nat) (x : Part) : (s.setPart n x).portsDown = s.portsDown := rfl
@[simp] theorem State.setPart_tick (s : State) (n : Nat) (x : Part) : (s.setPart n x).tick = s.tick := rfl
@[simp] theorem State.setPart_ids (s : State) (n : Nat) (x : Part) : (s.setPart n x).ids = s.ids := rfl
@[simp] theorem State.setPart_freeCtr (s : State) (n : Nat) (x : Part) : (s.setPart n x).freeCtr = s.freeCtr := rfl
@[simp] theorem State.setPart_agenda (s : State) (n : Nat) (x : Part) : (s.setPart n x).agenda = s.agenda := rfl
@[simp] theorem State.setPart_turns (s : State) (n : Nat) (x : Part) : (s.setPart n x).turns = s.turns := rfl
@[simp] theorem State.setPart_booted (s : State) (n : Nat) (x : Part) : (s.setPart n x).booted = s.booted := rfl
@[simp] theorem State.setPart_scans (s : State) (n : Nat) (x : Part) : (s.setPart n x).scans = s.scans := rfl
@[simp] theorem State.setPart_verdict (s : State) (n : Nat) (x : Part) : (s.setPart n x).verdict = s.verdict := rfl
@[simp] theorem State.setPart_word (s : State) (n : Nat) (x : Part) : (s.setPart n x).word = s.word := rfl

/-! ### State.setVf -/

@[simp] theorem State.setVf_c (s : State) (n : Nat) (x : Vf) : (s.setVf n x).c = s.c := rfl
@[simp] theorem State.setVf_others (s : State) (n : Nat) (x : Vf) : (s.setVf n x).others = s.others := rfl
@[simp] theorem State.setVf_clusters (s : State) (n : Nat) (x : Vf) : (s.setVf n x).clusters = s.clusters := rfl
@[simp] theorem State.setVf_parts (s : State) (n : Nat) (x : Vf) : (s.setVf n x).parts = s.parts := rfl
@[simp] theorem State.setVf_queues (s : State) (n : Nat) (x : Vf) : (s.setVf n x).queues = s.queues := rfl
@[simp] theorem State.setVf_ctxs (s : State) (n : Nat) (x : Vf) : (s.setVf n x).ctxs = s.ctxs := rfl
@[simp] theorem State.setVf_cached (s : State) (n : Nat) (x : Vf) : (s.setVf n x).cached = s.cached := rfl
@[simp] theorem State.setVf_keys (s : State) (n : Nat) (x : Vf) : (s.setVf n x).keys = s.keys := rfl
@[simp] theorem State.setVf_comps (s : State) (n : Nat) (x : Vf) : (s.setVf n x).comps = s.comps := rfl
@[simp] theorem State.setVf_gates (s : State) (n : Nat) (x : Vf) : (s.setVf n x).gates = s.gates := rfl
@[simp] theorem State.setVf_wsets (s : State) (n : Nat) (x : Vf) : (s.setVf n x).wsets = s.wsets := rfl
@[simp] theorem State.setVf_vfs (s : State) (n : Nat) (x : Vf) : (s.setVf n x).vfs = put s.vfs n x := rfl
@[simp] theorem State.setVf_vats (s : State) (n : Nat) (x : Vf) : (s.setVf n x).vats = s.vats := rfl
@[simp] theorem State.setVf_tasks (s : State) (n : Nat) (x : Vf) : (s.setVf n x).tasks = s.tasks := rfl
@[simp] theorem State.setVf_launches (s : State) (n : Nat) (x : Vf) : (s.setVf n x).launches = s.launches := rfl
@[simp] theorem State.setVf_signals (s : State) (n : Nat) (x : Vf) : (s.setVf n x).signals = s.signals := rfl
@[simp] theorem State.setVf_mem (s : State) (n : Nat) (x : Vf) : (s.setVf n x).mem = s.mem := rfl
@[simp] theorem State.setVf_host (s : State) (n : Nat) (x : Vf) : (s.setVf n x).host = s.host := rfl
@[simp] theorem State.setVf_poison (s : State) (n : Nat) (x : Vf) : (s.setVf n x).poison = s.poison := rfl
@[simp] theorem State.setVf_labels (s : State) (n : Nat) (x : Vf) : (s.setVf n x).labels = s.labels := rfl
@[simp] theorem State.setVf_stores (s : State) (n : Nat) (x : Vf) : (s.setVf n x).stores = s.stores := rfl
@[simp] theorem State.setVf_stale (s : State) (n : Nat) (x : Vf) : (s.setVf n x).stale = s.stale := rfl
@[simp] theorem State.setVf_suspended (s : State) (n : Nat) (x : Vf) : (s.setVf n x).suspended = s.suspended := rfl
@[simp] theorem State.setVf_carry (s : State) (n : Nat) (x : Vf) : (s.setVf n x).carry = s.carry := rfl
@[simp] theorem State.setVf_heard (s : State) (n : Nat) (x : Vf) : (s.setVf n x).heard = s.heard := rfl
@[simp] theorem State.setVf_conns (s : State) (n : Nat) (x : Vf) : (s.setVf n x).conns = s.conns := rfl
@[simp] theorem State.setVf_sessions (s : State) (n : Nat) (x : Vf) : (s.setVf n x).sessions = s.sessions := rfl
@[simp] theorem State.setVf_mrs (s : State) (n : Nat) (x : Vf) : (s.setVf n x).mrs = s.mrs := rfl
@[simp] theorem State.setVf_boxLog (s : State) (n : Nat) (x : Vf) : (s.setVf n x).boxLog = s.boxLog := rfl
@[simp] theorem State.setVf_replies (s : State) (n : Nat) (x : Vf) : (s.setVf n x).replies = s.replies := rfl
@[simp] theorem State.setVf_receipts (s : State) (n : Nat) (x : Vf) : (s.setVf n x).receipts = s.receipts := rfl
@[simp] theorem State.setVf_umpire (s : State) (n : Nat) (x : Vf) : (s.setVf n x).umpire = s.umpire := rfl
@[simp] theorem State.setVf_records (s : State) (n : Nat) (x : Vf) : (s.setVf n x).records = s.records := rfl
@[simp] theorem State.setVf_images (s : State) (n : Nat) (x : Vf) : (s.setVf n x).images = s.images := rfl
@[simp] theorem State.setVf_powerLost (s : State) (n : Nat) (x : Vf) : (s.setVf n x).powerLost = s.powerLost := rfl
@[simp] theorem State.setVf_portsDown (s : State) (n : Nat) (x : Vf) : (s.setVf n x).portsDown = s.portsDown := rfl
@[simp] theorem State.setVf_tick (s : State) (n : Nat) (x : Vf) : (s.setVf n x).tick = s.tick := rfl
@[simp] theorem State.setVf_ids (s : State) (n : Nat) (x : Vf) : (s.setVf n x).ids = s.ids := rfl
@[simp] theorem State.setVf_freeCtr (s : State) (n : Nat) (x : Vf) : (s.setVf n x).freeCtr = s.freeCtr := rfl
@[simp] theorem State.setVf_agenda (s : State) (n : Nat) (x : Vf) : (s.setVf n x).agenda = s.agenda := rfl
@[simp] theorem State.setVf_turns (s : State) (n : Nat) (x : Vf) : (s.setVf n x).turns = s.turns := rfl
@[simp] theorem State.setVf_booted (s : State) (n : Nat) (x : Vf) : (s.setVf n x).booted = s.booted := rfl
@[simp] theorem State.setVf_scans (s : State) (n : Nat) (x : Vf) : (s.setVf n x).scans = s.scans := rfl
@[simp] theorem State.setVf_verdict (s : State) (n : Nat) (x : Vf) : (s.setVf n x).verdict = s.verdict := rfl
@[simp] theorem State.setVf_word (s : State) (n : Nat) (x : Vf) : (s.setVf n x).word = s.word := rfl

/-! ### State.setCtx -/

@[simp] theorem State.setCtx_c (s : State) (n : Nat) (x : Ctx) : (s.setCtx n x).c = s.c := rfl
@[simp] theorem State.setCtx_others (s : State) (n : Nat) (x : Ctx) : (s.setCtx n x).others = s.others := rfl
@[simp] theorem State.setCtx_clusters (s : State) (n : Nat) (x : Ctx) : (s.setCtx n x).clusters = s.clusters := rfl
@[simp] theorem State.setCtx_parts (s : State) (n : Nat) (x : Ctx) : (s.setCtx n x).parts = s.parts := rfl
@[simp] theorem State.setCtx_queues (s : State) (n : Nat) (x : Ctx) : (s.setCtx n x).queues = s.queues := rfl
@[simp] theorem State.setCtx_ctxs (s : State) (n : Nat) (x : Ctx) : (s.setCtx n x).ctxs = put s.ctxs n x := rfl
@[simp] theorem State.setCtx_cached (s : State) (n : Nat) (x : Ctx) : (s.setCtx n x).cached = s.cached := rfl
@[simp] theorem State.setCtx_keys (s : State) (n : Nat) (x : Ctx) : (s.setCtx n x).keys = s.keys := rfl
@[simp] theorem State.setCtx_comps (s : State) (n : Nat) (x : Ctx) : (s.setCtx n x).comps = s.comps := rfl
@[simp] theorem State.setCtx_gates (s : State) (n : Nat) (x : Ctx) : (s.setCtx n x).gates = s.gates := rfl
@[simp] theorem State.setCtx_wsets (s : State) (n : Nat) (x : Ctx) : (s.setCtx n x).wsets = s.wsets := rfl
@[simp] theorem State.setCtx_vfs (s : State) (n : Nat) (x : Ctx) : (s.setCtx n x).vfs = s.vfs := rfl
@[simp] theorem State.setCtx_vats (s : State) (n : Nat) (x : Ctx) : (s.setCtx n x).vats = s.vats := rfl
@[simp] theorem State.setCtx_tasks (s : State) (n : Nat) (x : Ctx) : (s.setCtx n x).tasks = s.tasks := rfl
@[simp] theorem State.setCtx_launches (s : State) (n : Nat) (x : Ctx) : (s.setCtx n x).launches = s.launches := rfl
@[simp] theorem State.setCtx_signals (s : State) (n : Nat) (x : Ctx) : (s.setCtx n x).signals = s.signals := rfl
@[simp] theorem State.setCtx_mem (s : State) (n : Nat) (x : Ctx) : (s.setCtx n x).mem = s.mem := rfl
@[simp] theorem State.setCtx_host (s : State) (n : Nat) (x : Ctx) : (s.setCtx n x).host = s.host := rfl
@[simp] theorem State.setCtx_poison (s : State) (n : Nat) (x : Ctx) : (s.setCtx n x).poison = s.poison := rfl
@[simp] theorem State.setCtx_labels (s : State) (n : Nat) (x : Ctx) : (s.setCtx n x).labels = s.labels := rfl
@[simp] theorem State.setCtx_stores (s : State) (n : Nat) (x : Ctx) : (s.setCtx n x).stores = s.stores := rfl
@[simp] theorem State.setCtx_stale (s : State) (n : Nat) (x : Ctx) : (s.setCtx n x).stale = s.stale := rfl
@[simp] theorem State.setCtx_suspended (s : State) (n : Nat) (x : Ctx) : (s.setCtx n x).suspended = s.suspended := rfl
@[simp] theorem State.setCtx_carry (s : State) (n : Nat) (x : Ctx) : (s.setCtx n x).carry = s.carry := rfl
@[simp] theorem State.setCtx_heard (s : State) (n : Nat) (x : Ctx) : (s.setCtx n x).heard = s.heard := rfl
@[simp] theorem State.setCtx_conns (s : State) (n : Nat) (x : Ctx) : (s.setCtx n x).conns = s.conns := rfl
@[simp] theorem State.setCtx_sessions (s : State) (n : Nat) (x : Ctx) : (s.setCtx n x).sessions = s.sessions := rfl
@[simp] theorem State.setCtx_mrs (s : State) (n : Nat) (x : Ctx) : (s.setCtx n x).mrs = s.mrs := rfl
@[simp] theorem State.setCtx_boxLog (s : State) (n : Nat) (x : Ctx) : (s.setCtx n x).boxLog = s.boxLog := rfl
@[simp] theorem State.setCtx_replies (s : State) (n : Nat) (x : Ctx) : (s.setCtx n x).replies = s.replies := rfl
@[simp] theorem State.setCtx_receipts (s : State) (n : Nat) (x : Ctx) : (s.setCtx n x).receipts = s.receipts := rfl
@[simp] theorem State.setCtx_umpire (s : State) (n : Nat) (x : Ctx) : (s.setCtx n x).umpire = s.umpire := rfl
@[simp] theorem State.setCtx_records (s : State) (n : Nat) (x : Ctx) : (s.setCtx n x).records = s.records := rfl
@[simp] theorem State.setCtx_images (s : State) (n : Nat) (x : Ctx) : (s.setCtx n x).images = s.images := rfl
@[simp] theorem State.setCtx_powerLost (s : State) (n : Nat) (x : Ctx) : (s.setCtx n x).powerLost = s.powerLost := rfl
@[simp] theorem State.setCtx_portsDown (s : State) (n : Nat) (x : Ctx) : (s.setCtx n x).portsDown = s.portsDown := rfl
@[simp] theorem State.setCtx_tick (s : State) (n : Nat) (x : Ctx) : (s.setCtx n x).tick = s.tick := rfl
@[simp] theorem State.setCtx_ids (s : State) (n : Nat) (x : Ctx) : (s.setCtx n x).ids = s.ids := rfl
@[simp] theorem State.setCtx_freeCtr (s : State) (n : Nat) (x : Ctx) : (s.setCtx n x).freeCtr = s.freeCtr := rfl
@[simp] theorem State.setCtx_agenda (s : State) (n : Nat) (x : Ctx) : (s.setCtx n x).agenda = s.agenda := rfl
@[simp] theorem State.setCtx_turns (s : State) (n : Nat) (x : Ctx) : (s.setCtx n x).turns = s.turns := rfl
@[simp] theorem State.setCtx_booted (s : State) (n : Nat) (x : Ctx) : (s.setCtx n x).booted = s.booted := rfl
@[simp] theorem State.setCtx_scans (s : State) (n : Nat) (x : Ctx) : (s.setCtx n x).scans = s.scans := rfl
@[simp] theorem State.setCtx_verdict (s : State) (n : Nat) (x : Ctx) : (s.setCtx n x).verdict = s.verdict := rfl
@[simp] theorem State.setCtx_word (s : State) (n : Nat) (x : Ctx) : (s.setCtx n x).word = s.word := rfl

/-! ### State.setVat -/

@[simp] theorem State.setVat_c (s : State) (n : Nat) (x : Vat) : (s.setVat n x).c = s.c := rfl
@[simp] theorem State.setVat_others (s : State) (n : Nat) (x : Vat) : (s.setVat n x).others = s.others := rfl
@[simp] theorem State.setVat_clusters (s : State) (n : Nat) (x : Vat) : (s.setVat n x).clusters = s.clusters := rfl
@[simp] theorem State.setVat_parts (s : State) (n : Nat) (x : Vat) : (s.setVat n x).parts = s.parts := rfl
@[simp] theorem State.setVat_queues (s : State) (n : Nat) (x : Vat) : (s.setVat n x).queues = s.queues := rfl
@[simp] theorem State.setVat_ctxs (s : State) (n : Nat) (x : Vat) : (s.setVat n x).ctxs = s.ctxs := rfl
@[simp] theorem State.setVat_cached (s : State) (n : Nat) (x : Vat) : (s.setVat n x).cached = s.cached := rfl
@[simp] theorem State.setVat_keys (s : State) (n : Nat) (x : Vat) : (s.setVat n x).keys = s.keys := rfl
@[simp] theorem State.setVat_comps (s : State) (n : Nat) (x : Vat) : (s.setVat n x).comps = s.comps := rfl
@[simp] theorem State.setVat_gates (s : State) (n : Nat) (x : Vat) : (s.setVat n x).gates = s.gates := rfl
@[simp] theorem State.setVat_wsets (s : State) (n : Nat) (x : Vat) : (s.setVat n x).wsets = s.wsets := rfl
@[simp] theorem State.setVat_vfs (s : State) (n : Nat) (x : Vat) : (s.setVat n x).vfs = s.vfs := rfl
@[simp] theorem State.setVat_vats (s : State) (n : Nat) (x : Vat) : (s.setVat n x).vats = put s.vats n x := rfl
@[simp] theorem State.setVat_tasks (s : State) (n : Nat) (x : Vat) : (s.setVat n x).tasks = s.tasks := rfl
@[simp] theorem State.setVat_launches (s : State) (n : Nat) (x : Vat) : (s.setVat n x).launches = s.launches := rfl
@[simp] theorem State.setVat_signals (s : State) (n : Nat) (x : Vat) : (s.setVat n x).signals = s.signals := rfl
@[simp] theorem State.setVat_mem (s : State) (n : Nat) (x : Vat) : (s.setVat n x).mem = s.mem := rfl
@[simp] theorem State.setVat_host (s : State) (n : Nat) (x : Vat) : (s.setVat n x).host = s.host := rfl
@[simp] theorem State.setVat_poison (s : State) (n : Nat) (x : Vat) : (s.setVat n x).poison = s.poison := rfl
@[simp] theorem State.setVat_labels (s : State) (n : Nat) (x : Vat) : (s.setVat n x).labels = s.labels := rfl
@[simp] theorem State.setVat_stores (s : State) (n : Nat) (x : Vat) : (s.setVat n x).stores = s.stores := rfl
@[simp] theorem State.setVat_stale (s : State) (n : Nat) (x : Vat) : (s.setVat n x).stale = s.stale := rfl
@[simp] theorem State.setVat_suspended (s : State) (n : Nat) (x : Vat) : (s.setVat n x).suspended = s.suspended := rfl
@[simp] theorem State.setVat_carry (s : State) (n : Nat) (x : Vat) : (s.setVat n x).carry = s.carry := rfl
@[simp] theorem State.setVat_heard (s : State) (n : Nat) (x : Vat) : (s.setVat n x).heard = s.heard := rfl
@[simp] theorem State.setVat_conns (s : State) (n : Nat) (x : Vat) : (s.setVat n x).conns = s.conns := rfl
@[simp] theorem State.setVat_sessions (s : State) (n : Nat) (x : Vat) : (s.setVat n x).sessions = s.sessions := rfl
@[simp] theorem State.setVat_mrs (s : State) (n : Nat) (x : Vat) : (s.setVat n x).mrs = s.mrs := rfl
@[simp] theorem State.setVat_boxLog (s : State) (n : Nat) (x : Vat) : (s.setVat n x).boxLog = s.boxLog := rfl
@[simp] theorem State.setVat_replies (s : State) (n : Nat) (x : Vat) : (s.setVat n x).replies = s.replies := rfl
@[simp] theorem State.setVat_receipts (s : State) (n : Nat) (x : Vat) : (s.setVat n x).receipts = s.receipts := rfl
@[simp] theorem State.setVat_umpire (s : State) (n : Nat) (x : Vat) : (s.setVat n x).umpire = s.umpire := rfl
@[simp] theorem State.setVat_records (s : State) (n : Nat) (x : Vat) : (s.setVat n x).records = s.records := rfl
@[simp] theorem State.setVat_images (s : State) (n : Nat) (x : Vat) : (s.setVat n x).images = s.images := rfl
@[simp] theorem State.setVat_powerLost (s : State) (n : Nat) (x : Vat) : (s.setVat n x).powerLost = s.powerLost := rfl
@[simp] theorem State.setVat_portsDown (s : State) (n : Nat) (x : Vat) : (s.setVat n x).portsDown = s.portsDown := rfl
@[simp] theorem State.setVat_tick (s : State) (n : Nat) (x : Vat) : (s.setVat n x).tick = s.tick := rfl
@[simp] theorem State.setVat_ids (s : State) (n : Nat) (x : Vat) : (s.setVat n x).ids = s.ids := rfl
@[simp] theorem State.setVat_freeCtr (s : State) (n : Nat) (x : Vat) : (s.setVat n x).freeCtr = s.freeCtr := rfl
@[simp] theorem State.setVat_agenda (s : State) (n : Nat) (x : Vat) : (s.setVat n x).agenda = s.agenda := rfl
@[simp] theorem State.setVat_turns (s : State) (n : Nat) (x : Vat) : (s.setVat n x).turns = s.turns := rfl
@[simp] theorem State.setVat_booted (s : State) (n : Nat) (x : Vat) : (s.setVat n x).booted = s.booted := rfl
@[simp] theorem State.setVat_scans (s : State) (n : Nat) (x : Vat) : (s.setVat n x).scans = s.scans := rfl
@[simp] theorem State.setVat_verdict (s : State) (n : Nat) (x : Vat) : (s.setVat n x).verdict = s.verdict := rfl
@[simp] theorem State.setVat_word (s : State) (n : Nat) (x : Vat) : (s.setVat n x).word = s.word := rfl

/-! ### State.setKey -/

@[simp] theorem State.setKey_c (s : State) (n : Nat) (x : KeySlot) : (s.setKey n x).c = s.c := rfl
@[simp] theorem State.setKey_others (s : State) (n : Nat) (x : KeySlot) : (s.setKey n x).others = s.others := rfl
@[simp] theorem State.setKey_clusters (s : State) (n : Nat) (x : KeySlot) : (s.setKey n x).clusters = s.clusters := rfl
@[simp] theorem State.setKey_parts (s : State) (n : Nat) (x : KeySlot) : (s.setKey n x).parts = s.parts := rfl
@[simp] theorem State.setKey_queues (s : State) (n : Nat) (x : KeySlot) : (s.setKey n x).queues = s.queues := rfl
@[simp] theorem State.setKey_ctxs (s : State) (n : Nat) (x : KeySlot) : (s.setKey n x).ctxs = s.ctxs := rfl
@[simp] theorem State.setKey_cached (s : State) (n : Nat) (x : KeySlot) : (s.setKey n x).cached = s.cached := rfl
@[simp] theorem State.setKey_keys (s : State) (n : Nat) (x : KeySlot) : (s.setKey n x).keys = put s.keys n x := rfl
@[simp] theorem State.setKey_comps (s : State) (n : Nat) (x : KeySlot) : (s.setKey n x).comps = s.comps := rfl
@[simp] theorem State.setKey_gates (s : State) (n : Nat) (x : KeySlot) : (s.setKey n x).gates = s.gates := rfl
@[simp] theorem State.setKey_wsets (s : State) (n : Nat) (x : KeySlot) : (s.setKey n x).wsets = s.wsets := rfl
@[simp] theorem State.setKey_vfs (s : State) (n : Nat) (x : KeySlot) : (s.setKey n x).vfs = s.vfs := rfl
@[simp] theorem State.setKey_vats (s : State) (n : Nat) (x : KeySlot) : (s.setKey n x).vats = s.vats := rfl
@[simp] theorem State.setKey_tasks (s : State) (n : Nat) (x : KeySlot) : (s.setKey n x).tasks = s.tasks := rfl
@[simp] theorem State.setKey_launches (s : State) (n : Nat) (x : KeySlot) : (s.setKey n x).launches = s.launches := rfl
@[simp] theorem State.setKey_signals (s : State) (n : Nat) (x : KeySlot) : (s.setKey n x).signals = s.signals := rfl
@[simp] theorem State.setKey_mem (s : State) (n : Nat) (x : KeySlot) : (s.setKey n x).mem = s.mem := rfl
@[simp] theorem State.setKey_host (s : State) (n : Nat) (x : KeySlot) : (s.setKey n x).host = s.host := rfl
@[simp] theorem State.setKey_poison (s : State) (n : Nat) (x : KeySlot) : (s.setKey n x).poison = s.poison := rfl
@[simp] theorem State.setKey_labels (s : State) (n : Nat) (x : KeySlot) : (s.setKey n x).labels = s.labels := rfl
@[simp] theorem State.setKey_stores (s : State) (n : Nat) (x : KeySlot) : (s.setKey n x).stores = s.stores := rfl
@[simp] theorem State.setKey_stale (s : State) (n : Nat) (x : KeySlot) : (s.setKey n x).stale = s.stale := rfl
@[simp] theorem State.setKey_suspended (s : State) (n : Nat) (x : KeySlot) : (s.setKey n x).suspended = s.suspended := rfl
@[simp] theorem State.setKey_carry (s : State) (n : Nat) (x : KeySlot) : (s.setKey n x).carry = s.carry := rfl
@[simp] theorem State.setKey_heard (s : State) (n : Nat) (x : KeySlot) : (s.setKey n x).heard = s.heard := rfl
@[simp] theorem State.setKey_conns (s : State) (n : Nat) (x : KeySlot) : (s.setKey n x).conns = s.conns := rfl
@[simp] theorem State.setKey_sessions (s : State) (n : Nat) (x : KeySlot) : (s.setKey n x).sessions = s.sessions := rfl
@[simp] theorem State.setKey_mrs (s : State) (n : Nat) (x : KeySlot) : (s.setKey n x).mrs = s.mrs := rfl
@[simp] theorem State.setKey_boxLog (s : State) (n : Nat) (x : KeySlot) : (s.setKey n x).boxLog = s.boxLog := rfl
@[simp] theorem State.setKey_replies (s : State) (n : Nat) (x : KeySlot) : (s.setKey n x).replies = s.replies := rfl
@[simp] theorem State.setKey_receipts (s : State) (n : Nat) (x : KeySlot) : (s.setKey n x).receipts = s.receipts := rfl
@[simp] theorem State.setKey_umpire (s : State) (n : Nat) (x : KeySlot) : (s.setKey n x).umpire = s.umpire := rfl
@[simp] theorem State.setKey_records (s : State) (n : Nat) (x : KeySlot) : (s.setKey n x).records = s.records := rfl
@[simp] theorem State.setKey_images (s : State) (n : Nat) (x : KeySlot) : (s.setKey n x).images = s.images := rfl
@[simp] theorem State.setKey_powerLost (s : State) (n : Nat) (x : KeySlot) : (s.setKey n x).powerLost = s.powerLost := rfl
@[simp] theorem State.setKey_portsDown (s : State) (n : Nat) (x : KeySlot) : (s.setKey n x).portsDown = s.portsDown := rfl
@[simp] theorem State.setKey_tick (s : State) (n : Nat) (x : KeySlot) : (s.setKey n x).tick = s.tick := rfl
@[simp] theorem State.setKey_ids (s : State) (n : Nat) (x : KeySlot) : (s.setKey n x).ids = s.ids := rfl
@[simp] theorem State.setKey_freeCtr (s : State) (n : Nat) (x : KeySlot) : (s.setKey n x).freeCtr = s.freeCtr := rfl
@[simp] theorem State.setKey_agenda (s : State) (n : Nat) (x : KeySlot) : (s.setKey n x).agenda = s.agenda := rfl
@[simp] theorem State.setKey_turns (s : State) (n : Nat) (x : KeySlot) : (s.setKey n x).turns = s.turns := rfl
@[simp] theorem State.setKey_booted (s : State) (n : Nat) (x : KeySlot) : (s.setKey n x).booted = s.booted := rfl
@[simp] theorem State.setKey_scans (s : State) (n : Nat) (x : KeySlot) : (s.setKey n x).scans = s.scans := rfl
@[simp] theorem State.setKey_verdict (s : State) (n : Nat) (x : KeySlot) : (s.setKey n x).verdict = s.verdict := rfl
@[simp] theorem State.setKey_word (s : State) (n : Nat) (x : KeySlot) : (s.setKey n x).word = s.word := rfl

/-! ### State.setConn -/

@[simp] theorem State.setConn_c (s : State) (n : Nat) (x : Conn) : (s.setConn n x).c = s.c := rfl
@[simp] theorem State.setConn_others (s : State) (n : Nat) (x : Conn) : (s.setConn n x).others = s.others := rfl
@[simp] theorem State.setConn_clusters (s : State) (n : Nat) (x : Conn) : (s.setConn n x).clusters = s.clusters := rfl
@[simp] theorem State.setConn_parts (s : State) (n : Nat) (x : Conn) : (s.setConn n x).parts = s.parts := rfl
@[simp] theorem State.setConn_queues (s : State) (n : Nat) (x : Conn) : (s.setConn n x).queues = s.queues := rfl
@[simp] theorem State.setConn_ctxs (s : State) (n : Nat) (x : Conn) : (s.setConn n x).ctxs = s.ctxs := rfl
@[simp] theorem State.setConn_cached (s : State) (n : Nat) (x : Conn) : (s.setConn n x).cached = s.cached := rfl
@[simp] theorem State.setConn_keys (s : State) (n : Nat) (x : Conn) : (s.setConn n x).keys = s.keys := rfl
@[simp] theorem State.setConn_comps (s : State) (n : Nat) (x : Conn) : (s.setConn n x).comps = s.comps := rfl
@[simp] theorem State.setConn_gates (s : State) (n : Nat) (x : Conn) : (s.setConn n x).gates = s.gates := rfl
@[simp] theorem State.setConn_wsets (s : State) (n : Nat) (x : Conn) : (s.setConn n x).wsets = s.wsets := rfl
@[simp] theorem State.setConn_vfs (s : State) (n : Nat) (x : Conn) : (s.setConn n x).vfs = s.vfs := rfl
@[simp] theorem State.setConn_vats (s : State) (n : Nat) (x : Conn) : (s.setConn n x).vats = s.vats := rfl
@[simp] theorem State.setConn_tasks (s : State) (n : Nat) (x : Conn) : (s.setConn n x).tasks = s.tasks := rfl
@[simp] theorem State.setConn_launches (s : State) (n : Nat) (x : Conn) : (s.setConn n x).launches = s.launches := rfl
@[simp] theorem State.setConn_signals (s : State) (n : Nat) (x : Conn) : (s.setConn n x).signals = s.signals := rfl
@[simp] theorem State.setConn_mem (s : State) (n : Nat) (x : Conn) : (s.setConn n x).mem = s.mem := rfl
@[simp] theorem State.setConn_host (s : State) (n : Nat) (x : Conn) : (s.setConn n x).host = s.host := rfl
@[simp] theorem State.setConn_poison (s : State) (n : Nat) (x : Conn) : (s.setConn n x).poison = s.poison := rfl
@[simp] theorem State.setConn_labels (s : State) (n : Nat) (x : Conn) : (s.setConn n x).labels = s.labels := rfl
@[simp] theorem State.setConn_stores (s : State) (n : Nat) (x : Conn) : (s.setConn n x).stores = s.stores := rfl
@[simp] theorem State.setConn_stale (s : State) (n : Nat) (x : Conn) : (s.setConn n x).stale = s.stale := rfl
@[simp] theorem State.setConn_suspended (s : State) (n : Nat) (x : Conn) : (s.setConn n x).suspended = s.suspended := rfl
@[simp] theorem State.setConn_carry (s : State) (n : Nat) (x : Conn) : (s.setConn n x).carry = s.carry := rfl
@[simp] theorem State.setConn_heard (s : State) (n : Nat) (x : Conn) : (s.setConn n x).heard = s.heard := rfl
@[simp] theorem State.setConn_conns (s : State) (n : Nat) (x : Conn) : (s.setConn n x).conns = put s.conns n x := rfl
@[simp] theorem State.setConn_sessions (s : State) (n : Nat) (x : Conn) : (s.setConn n x).sessions = s.sessions := rfl
@[simp] theorem State.setConn_mrs (s : State) (n : Nat) (x : Conn) : (s.setConn n x).mrs = s.mrs := rfl
@[simp] theorem State.setConn_boxLog (s : State) (n : Nat) (x : Conn) : (s.setConn n x).boxLog = s.boxLog := rfl
@[simp] theorem State.setConn_replies (s : State) (n : Nat) (x : Conn) : (s.setConn n x).replies = s.replies := rfl
@[simp] theorem State.setConn_receipts (s : State) (n : Nat) (x : Conn) : (s.setConn n x).receipts = s.receipts := rfl
@[simp] theorem State.setConn_umpire (s : State) (n : Nat) (x : Conn) : (s.setConn n x).umpire = s.umpire := rfl
@[simp] theorem State.setConn_records (s : State) (n : Nat) (x : Conn) : (s.setConn n x).records = s.records := rfl
@[simp] theorem State.setConn_images (s : State) (n : Nat) (x : Conn) : (s.setConn n x).images = s.images := rfl
@[simp] theorem State.setConn_powerLost (s : State) (n : Nat) (x : Conn) : (s.setConn n x).powerLost = s.powerLost := rfl
@[simp] theorem State.setConn_portsDown (s : State) (n : Nat) (x : Conn) : (s.setConn n x).portsDown = s.portsDown := rfl
@[simp] theorem State.setConn_tick (s : State) (n : Nat) (x : Conn) : (s.setConn n x).tick = s.tick := rfl
@[simp] theorem State.setConn_ids (s : State) (n : Nat) (x : Conn) : (s.setConn n x).ids = s.ids := rfl
@[simp] theorem State.setConn_freeCtr (s : State) (n : Nat) (x : Conn) : (s.setConn n x).freeCtr = s.freeCtr := rfl
@[simp] theorem State.setConn_agenda (s : State) (n : Nat) (x : Conn) : (s.setConn n x).agenda = s.agenda := rfl
@[simp] theorem State.setConn_turns (s : State) (n : Nat) (x : Conn) : (s.setConn n x).turns = s.turns := rfl
@[simp] theorem State.setConn_booted (s : State) (n : Nat) (x : Conn) : (s.setConn n x).booted = s.booted := rfl
@[simp] theorem State.setConn_scans (s : State) (n : Nat) (x : Conn) : (s.setConn n x).scans = s.scans := rfl
@[simp] theorem State.setConn_verdict (s : State) (n : Nat) (x : Conn) : (s.setConn n x).verdict = s.verdict := rfl
@[simp] theorem State.setConn_word (s : State) (n : Nat) (x : Conn) : (s.setConn n x).word = s.word := rfl

/-! ### State.reply -/

@[simp] theorem State.reply_c (s : State) (r : Reply) : (s.reply r).c = s.c := rfl
@[simp] theorem State.reply_others (s : State) (r : Reply) : (s.reply r).others = s.others := rfl
@[simp] theorem State.reply_clusters (s : State) (r : Reply) : (s.reply r).clusters = s.clusters := rfl
@[simp] theorem State.reply_parts (s : State) (r : Reply) : (s.reply r).parts = s.parts := rfl
@[simp] theorem State.reply_queues (s : State) (r : Reply) : (s.reply r).queues = s.queues := rfl
@[simp] theorem State.reply_ctxs (s : State) (r : Reply) : (s.reply r).ctxs = s.ctxs := rfl
@[simp] theorem State.reply_cached (s : State) (r : Reply) : (s.reply r).cached = s.cached := rfl
@[simp] theorem State.reply_keys (s : State) (r : Reply) : (s.reply r).keys = s.keys := rfl
@[simp] theorem State.reply_comps (s : State) (r : Reply) : (s.reply r).comps = s.comps := rfl
@[simp] theorem State.reply_gates (s : State) (r : Reply) : (s.reply r).gates = s.gates := rfl
@[simp] theorem State.reply_wsets (s : State) (r : Reply) : (s.reply r).wsets = s.wsets := rfl
@[simp] theorem State.reply_vfs (s : State) (r : Reply) : (s.reply r).vfs = s.vfs := rfl
@[simp] theorem State.reply_vats (s : State) (r : Reply) : (s.reply r).vats = s.vats := rfl
@[simp] theorem State.reply_tasks (s : State) (r : Reply) : (s.reply r).tasks = s.tasks := rfl
@[simp] theorem State.reply_launches (s : State) (r : Reply) : (s.reply r).launches = s.launches := rfl
@[simp] theorem State.reply_signals (s : State) (r : Reply) : (s.reply r).signals = s.signals := rfl
@[simp] theorem State.reply_mem (s : State) (r : Reply) : (s.reply r).mem = s.mem := rfl
@[simp] theorem State.reply_host (s : State) (r : Reply) : (s.reply r).host = s.host := rfl
@[simp] theorem State.reply_poison (s : State) (r : Reply) : (s.reply r).poison = s.poison := rfl
@[simp] theorem State.reply_labels (s : State) (r : Reply) : (s.reply r).labels = s.labels := rfl
@[simp] theorem State.reply_stores (s : State) (r : Reply) : (s.reply r).stores = s.stores := rfl
@[simp] theorem State.reply_stale (s : State) (r : Reply) : (s.reply r).stale = s.stale := rfl
@[simp] theorem State.reply_suspended (s : State) (r : Reply) : (s.reply r).suspended = s.suspended := rfl
@[simp] theorem State.reply_carry (s : State) (r : Reply) : (s.reply r).carry = s.carry := rfl
@[simp] theorem State.reply_heard (s : State) (r : Reply) : (s.reply r).heard = s.heard := rfl
@[simp] theorem State.reply_conns (s : State) (r : Reply) : (s.reply r).conns = s.conns := rfl
@[simp] theorem State.reply_sessions (s : State) (r : Reply) : (s.reply r).sessions = s.sessions := rfl
@[simp] theorem State.reply_mrs (s : State) (r : Reply) : (s.reply r).mrs = s.mrs := rfl
@[simp] theorem State.reply_boxLog (s : State) (r : Reply) : (s.reply r).boxLog = s.boxLog := rfl
@[simp] theorem State.reply_replies (s : State) (r : Reply) : (s.reply r).replies = s.replies ++ [r] := rfl
@[simp] theorem State.reply_receipts (s : State) (r : Reply) : (s.reply r).receipts = s.receipts := rfl
@[simp] theorem State.reply_umpire (s : State) (r : Reply) : (s.reply r).umpire = s.umpire := rfl
@[simp] theorem State.reply_records (s : State) (r : Reply) : (s.reply r).records = s.records := rfl
@[simp] theorem State.reply_images (s : State) (r : Reply) : (s.reply r).images = s.images := rfl
@[simp] theorem State.reply_powerLost (s : State) (r : Reply) : (s.reply r).powerLost = s.powerLost := rfl
@[simp] theorem State.reply_portsDown (s : State) (r : Reply) : (s.reply r).portsDown = s.portsDown := rfl
@[simp] theorem State.reply_tick (s : State) (r : Reply) : (s.reply r).tick = s.tick := rfl
@[simp] theorem State.reply_ids (s : State) (r : Reply) : (s.reply r).ids = s.ids := rfl
@[simp] theorem State.reply_freeCtr (s : State) (r : Reply) : (s.reply r).freeCtr = s.freeCtr := rfl
@[simp] theorem State.reply_agenda (s : State) (r : Reply) : (s.reply r).agenda = s.agenda := rfl
@[simp] theorem State.reply_turns (s : State) (r : Reply) : (s.reply r).turns = s.turns := rfl
@[simp] theorem State.reply_booted (s : State) (r : Reply) : (s.reply r).booted = s.booted := rfl
@[simp] theorem State.reply_scans (s : State) (r : Reply) : (s.reply r).scans = s.scans := rfl
@[simp] theorem State.reply_verdict (s : State) (r : Reply) : (s.reply r).verdict = s.verdict := rfl
@[simp] theorem State.reply_word (s : State) (r : Reply) : (s.reply r).word = s.word := rfl

/-! ### State.tickFree -/

@[simp] theorem State.tickFree_c (s : State) : s.tickFree.c = s.c := rfl
@[simp] theorem State.tickFree_others (s : State) : s.tickFree.others = s.others := rfl
@[simp] theorem State.tickFree_clusters (s : State) : s.tickFree.clusters = s.clusters := rfl
@[simp] theorem State.tickFree_parts (s : State) : s.tickFree.parts = s.parts := rfl
@[simp] theorem State.tickFree_queues (s : State) : s.tickFree.queues = s.queues := rfl
@[simp] theorem State.tickFree_ctxs (s : State) : s.tickFree.ctxs = s.ctxs := rfl
@[simp] theorem State.tickFree_cached (s : State) : s.tickFree.cached = s.cached := rfl
@[simp] theorem State.tickFree_keys (s : State) : s.tickFree.keys = s.keys := rfl
@[simp] theorem State.tickFree_comps (s : State) : s.tickFree.comps = s.comps := rfl
@[simp] theorem State.tickFree_gates (s : State) : s.tickFree.gates = s.gates := rfl
@[simp] theorem State.tickFree_wsets (s : State) : s.tickFree.wsets = s.wsets := rfl
@[simp] theorem State.tickFree_vfs (s : State) : s.tickFree.vfs = s.vfs := rfl
@[simp] theorem State.tickFree_vats (s : State) : s.tickFree.vats = s.vats := rfl
@[simp] theorem State.tickFree_tasks (s : State) : s.tickFree.tasks = s.tasks := rfl
@[simp] theorem State.tickFree_launches (s : State) : s.tickFree.launches = s.launches := rfl
@[simp] theorem State.tickFree_signals (s : State) : s.tickFree.signals = s.signals := rfl
@[simp] theorem State.tickFree_mem (s : State) : s.tickFree.mem = s.mem := rfl
@[simp] theorem State.tickFree_host (s : State) : s.tickFree.host = s.host := rfl
@[simp] theorem State.tickFree_poison (s : State) : s.tickFree.poison = s.poison := rfl
@[simp] theorem State.tickFree_labels (s : State) : s.tickFree.labels = s.labels := rfl
@[simp] theorem State.tickFree_stores (s : State) : s.tickFree.stores = s.stores := rfl
@[simp] theorem State.tickFree_stale (s : State) : s.tickFree.stale = s.stale := rfl
@[simp] theorem State.tickFree_suspended (s : State) : s.tickFree.suspended = s.suspended := rfl
@[simp] theorem State.tickFree_carry (s : State) : s.tickFree.carry = s.carry := rfl
@[simp] theorem State.tickFree_heard (s : State) : s.tickFree.heard = s.heard := rfl
@[simp] theorem State.tickFree_conns (s : State) : s.tickFree.conns = s.conns := rfl
@[simp] theorem State.tickFree_sessions (s : State) : s.tickFree.sessions = s.sessions := rfl
@[simp] theorem State.tickFree_mrs (s : State) : s.tickFree.mrs = s.mrs := rfl
@[simp] theorem State.tickFree_boxLog (s : State) : s.tickFree.boxLog = s.boxLog := rfl
@[simp] theorem State.tickFree_replies (s : State) : s.tickFree.replies = s.replies := rfl
@[simp] theorem State.tickFree_receipts (s : State) : s.tickFree.receipts = s.receipts := rfl
@[simp] theorem State.tickFree_umpire (s : State) : s.tickFree.umpire = s.umpire := rfl
@[simp] theorem State.tickFree_records (s : State) : s.tickFree.records = s.records := rfl
@[simp] theorem State.tickFree_images (s : State) : s.tickFree.images = s.images := rfl
@[simp] theorem State.tickFree_powerLost (s : State) : s.tickFree.powerLost = s.powerLost := rfl
@[simp] theorem State.tickFree_portsDown (s : State) : s.tickFree.portsDown = s.portsDown := rfl
@[simp] theorem State.tickFree_tick (s : State) : s.tickFree.tick = s.tick := rfl
@[simp] theorem State.tickFree_ids (s : State) : s.tickFree.ids = s.ids := rfl
@[simp] theorem State.tickFree_freeCtr (s : State) : s.tickFree.freeCtr = s.freeCtr + 1 := rfl
@[simp] theorem State.tickFree_agenda (s : State) : s.tickFree.agenda = s.agenda := rfl
@[simp] theorem State.tickFree_turns (s : State) : s.tickFree.turns = s.turns := rfl
@[simp] theorem State.tickFree_booted (s : State) : s.tickFree.booted = s.booted := rfl
@[simp] theorem State.tickFree_scans (s : State) : s.tickFree.scans = s.scans := rfl
@[simp] theorem State.tickFree_verdict (s : State) : s.tickFree.verdict = s.verdict := rfl
@[simp] theorem State.tickFree_word (s : State) : s.tickFree.word = s.word := rfl

/-! ### State.poisonLine -/

@[simp] theorem State.poisonLine_c (s : State) (line : Nat) : (s.poisonLine line).c = s.c := rfl
@[simp] theorem State.poisonLine_others (s : State) (line : Nat) : (s.poisonLine line).others = s.others := rfl
@[simp] theorem State.poisonLine_clusters (s : State) (line : Nat) : (s.poisonLine line).clusters = s.clusters := rfl
@[simp] theorem State.poisonLine_parts (s : State) (line : Nat) : (s.poisonLine line).parts = s.parts := rfl
@[simp] theorem State.poisonLine_queues (s : State) (line : Nat) : (s.poisonLine line).queues = s.queues := rfl
@[simp] theorem State.poisonLine_ctxs (s : State) (line : Nat) : (s.poisonLine line).ctxs = s.ctxs := rfl
@[simp] theorem State.poisonLine_cached (s : State) (line : Nat) : (s.poisonLine line).cached = s.cached := rfl
@[simp] theorem State.poisonLine_keys (s : State) (line : Nat) : (s.poisonLine line).keys = s.keys := rfl
@[simp] theorem State.poisonLine_comps (s : State) (line : Nat) : (s.poisonLine line).comps = s.comps := rfl
@[simp] theorem State.poisonLine_gates (s : State) (line : Nat) : (s.poisonLine line).gates = s.gates := rfl
@[simp] theorem State.poisonLine_wsets (s : State) (line : Nat) : (s.poisonLine line).wsets = s.wsets := rfl
@[simp] theorem State.poisonLine_vfs (s : State) (line : Nat) : (s.poisonLine line).vfs = s.vfs := rfl
@[simp] theorem State.poisonLine_vats (s : State) (line : Nat) : (s.poisonLine line).vats = s.vats := rfl
@[simp] theorem State.poisonLine_tasks (s : State) (line : Nat) : (s.poisonLine line).tasks = s.tasks := rfl
@[simp] theorem State.poisonLine_launches (s : State) (line : Nat) : (s.poisonLine line).launches = s.launches := rfl
@[simp] theorem State.poisonLine_signals (s : State) (line : Nat) : (s.poisonLine line).signals = s.signals := rfl
@[simp] theorem State.poisonLine_mem (s : State) (line : Nat) : (s.poisonLine line).mem = s.mem := rfl
@[simp] theorem State.poisonLine_host (s : State) (line : Nat) : (s.poisonLine line).host = s.host := rfl
@[simp] theorem State.poisonLine_poison (s : State) (line : Nat) : (s.poisonLine line).poison = insertNew line s.poison := rfl
@[simp] theorem State.poisonLine_labels (s : State) (line : Nat) : (s.poisonLine line).labels = s.labels := rfl
@[simp] theorem State.poisonLine_stores (s : State) (line : Nat) : (s.poisonLine line).stores = s.stores := rfl
@[simp] theorem State.poisonLine_stale (s : State) (line : Nat) : (s.poisonLine line).stale = s.stale := rfl
@[simp] theorem State.poisonLine_suspended (s : State) (line : Nat) : (s.poisonLine line).suspended = s.suspended := rfl
@[simp] theorem State.poisonLine_carry (s : State) (line : Nat) : (s.poisonLine line).carry = s.carry := rfl
@[simp] theorem State.poisonLine_heard (s : State) (line : Nat) : (s.poisonLine line).heard = s.heard := rfl
@[simp] theorem State.poisonLine_conns (s : State) (line : Nat) : (s.poisonLine line).conns = s.conns := rfl
@[simp] theorem State.poisonLine_sessions (s : State) (line : Nat) : (s.poisonLine line).sessions = s.sessions := rfl
@[simp] theorem State.poisonLine_mrs (s : State) (line : Nat) : (s.poisonLine line).mrs = s.mrs := rfl
@[simp] theorem State.poisonLine_boxLog (s : State) (line : Nat) : (s.poisonLine line).boxLog = s.boxLog := rfl
@[simp] theorem State.poisonLine_replies (s : State) (line : Nat) : (s.poisonLine line).replies = s.replies := rfl
@[simp] theorem State.poisonLine_receipts (s : State) (line : Nat) : (s.poisonLine line).receipts = s.receipts := rfl
@[simp] theorem State.poisonLine_umpire (s : State) (line : Nat) : (s.poisonLine line).umpire = s.umpire := rfl
@[simp] theorem State.poisonLine_records (s : State) (line : Nat) : (s.poisonLine line).records = s.records := rfl
@[simp] theorem State.poisonLine_images (s : State) (line : Nat) : (s.poisonLine line).images = s.images := rfl
@[simp] theorem State.poisonLine_powerLost (s : State) (line : Nat) : (s.poisonLine line).powerLost = s.powerLost := rfl
@[simp] theorem State.poisonLine_portsDown (s : State) (line : Nat) : (s.poisonLine line).portsDown = s.portsDown := rfl
@[simp] theorem State.poisonLine_tick (s : State) (line : Nat) : (s.poisonLine line).tick = s.tick := rfl
@[simp] theorem State.poisonLine_ids (s : State) (line : Nat) : (s.poisonLine line).ids = s.ids := rfl
@[simp] theorem State.poisonLine_freeCtr (s : State) (line : Nat) : (s.poisonLine line).freeCtr = s.freeCtr := rfl
@[simp] theorem State.poisonLine_agenda (s : State) (line : Nat) : (s.poisonLine line).agenda = s.agenda := rfl
@[simp] theorem State.poisonLine_turns (s : State) (line : Nat) : (s.poisonLine line).turns = s.turns := rfl
@[simp] theorem State.poisonLine_booted (s : State) (line : Nat) : (s.poisonLine line).booted = s.booted := rfl
@[simp] theorem State.poisonLine_scans (s : State) (line : Nat) : (s.poisonLine line).scans = s.scans := rfl
@[simp] theorem State.poisonLine_verdict (s : State) (line : Nat) : (s.poisonLine line).verdict = s.verdict := rfl
@[simp] theorem State.poisonLine_word (s : State) (line : Nat) : (s.poisonLine line).word = s.word := rfl

/-! ### State.hostWrite -/

@[simp] theorem State.hostWrite_c (s : State) (a n v : Nat) : (s.hostWrite a n v).c = s.c := rfl
@[simp] theorem State.hostWrite_others (s : State) (a n v : Nat) : (s.hostWrite a n v).others = s.others := rfl
@[simp] theorem State.hostWrite_clusters (s : State) (a n v : Nat) : (s.hostWrite a n v).clusters = s.clusters := rfl
@[simp] theorem State.hostWrite_parts (s : State) (a n v : Nat) : (s.hostWrite a n v).parts = s.parts := rfl
@[simp] theorem State.hostWrite_queues (s : State) (a n v : Nat) : (s.hostWrite a n v).queues = s.queues := rfl
@[simp] theorem State.hostWrite_ctxs (s : State) (a n v : Nat) : (s.hostWrite a n v).ctxs = s.ctxs := rfl
@[simp] theorem State.hostWrite_cached (s : State) (a n v : Nat) : (s.hostWrite a n v).cached = s.cached := rfl
@[simp] theorem State.hostWrite_keys (s : State) (a n v : Nat) : (s.hostWrite a n v).keys = s.keys := rfl
@[simp] theorem State.hostWrite_comps (s : State) (a n v : Nat) : (s.hostWrite a n v).comps = s.comps := rfl
@[simp] theorem State.hostWrite_gates (s : State) (a n v : Nat) : (s.hostWrite a n v).gates = s.gates := rfl
@[simp] theorem State.hostWrite_wsets (s : State) (a n v : Nat) : (s.hostWrite a n v).wsets = s.wsets := rfl
@[simp] theorem State.hostWrite_vfs (s : State) (a n v : Nat) : (s.hostWrite a n v).vfs = s.vfs := rfl
@[simp] theorem State.hostWrite_vats (s : State) (a n v : Nat) : (s.hostWrite a n v).vats = s.vats := rfl
@[simp] theorem State.hostWrite_tasks (s : State) (a n v : Nat) : (s.hostWrite a n v).tasks = s.tasks := rfl
@[simp] theorem State.hostWrite_launches (s : State) (a n v : Nat) : (s.hostWrite a n v).launches = s.launches := rfl
@[simp] theorem State.hostWrite_signals (s : State) (a n v : Nat) : (s.hostWrite a n v).signals = s.signals := rfl
@[simp] theorem State.hostWrite_mem (s : State) (a n v : Nat) : (s.hostWrite a n v).mem = s.mem := rfl
@[simp] theorem State.hostWrite_host (s : State) (a n v : Nat) : (s.hostWrite a n v).host = memPut s.host a n v := rfl
@[simp] theorem State.hostWrite_poison (s : State) (a n v : Nat) : (s.hostWrite a n v).poison = s.poison := rfl
@[simp] theorem State.hostWrite_labels (s : State) (a n v : Nat) : (s.hostWrite a n v).labels = s.labels := rfl
@[simp] theorem State.hostWrite_stores (s : State) (a n v : Nat) : (s.hostWrite a n v).stores = s.stores := rfl
@[simp] theorem State.hostWrite_stale (s : State) (a n v : Nat) : (s.hostWrite a n v).stale = s.stale := rfl
@[simp] theorem State.hostWrite_suspended (s : State) (a n v : Nat) : (s.hostWrite a n v).suspended = s.suspended := rfl
@[simp] theorem State.hostWrite_carry (s : State) (a n v : Nat) : (s.hostWrite a n v).carry = s.carry := rfl
@[simp] theorem State.hostWrite_heard (s : State) (a n v : Nat) : (s.hostWrite a n v).heard = s.heard := rfl
@[simp] theorem State.hostWrite_conns (s : State) (a n v : Nat) : (s.hostWrite a n v).conns = s.conns := rfl
@[simp] theorem State.hostWrite_sessions (s : State) (a n v : Nat) : (s.hostWrite a n v).sessions = s.sessions := rfl
@[simp] theorem State.hostWrite_mrs (s : State) (a n v : Nat) : (s.hostWrite a n v).mrs = s.mrs := rfl
@[simp] theorem State.hostWrite_boxLog (s : State) (a n v : Nat) : (s.hostWrite a n v).boxLog = s.boxLog := rfl
@[simp] theorem State.hostWrite_replies (s : State) (a n v : Nat) : (s.hostWrite a n v).replies = s.replies := rfl
@[simp] theorem State.hostWrite_receipts (s : State) (a n v : Nat) : (s.hostWrite a n v).receipts = s.receipts := rfl
@[simp] theorem State.hostWrite_umpire (s : State) (a n v : Nat) : (s.hostWrite a n v).umpire = s.umpire := rfl
@[simp] theorem State.hostWrite_records (s : State) (a n v : Nat) : (s.hostWrite a n v).records = s.records := rfl
@[simp] theorem State.hostWrite_images (s : State) (a n v : Nat) : (s.hostWrite a n v).images = s.images := rfl
@[simp] theorem State.hostWrite_powerLost (s : State) (a n v : Nat) : (s.hostWrite a n v).powerLost = s.powerLost := rfl
@[simp] theorem State.hostWrite_portsDown (s : State) (a n v : Nat) : (s.hostWrite a n v).portsDown = s.portsDown := rfl
@[simp] theorem State.hostWrite_tick (s : State) (a n v : Nat) : (s.hostWrite a n v).tick = s.tick := rfl
@[simp] theorem State.hostWrite_ids (s : State) (a n v : Nat) : (s.hostWrite a n v).ids = s.ids := rfl
@[simp] theorem State.hostWrite_freeCtr (s : State) (a n v : Nat) : (s.hostWrite a n v).freeCtr = s.freeCtr := rfl
@[simp] theorem State.hostWrite_agenda (s : State) (a n v : Nat) : (s.hostWrite a n v).agenda = s.agenda := rfl
@[simp] theorem State.hostWrite_turns (s : State) (a n v : Nat) : (s.hostWrite a n v).turns = s.turns := rfl
@[simp] theorem State.hostWrite_booted (s : State) (a n v : Nat) : (s.hostWrite a n v).booted = s.booted := rfl
@[simp] theorem State.hostWrite_scans (s : State) (a n v : Nat) : (s.hostWrite a n v).scans = s.scans := rfl
@[simp] theorem State.hostWrite_verdict (s : State) (a n v : Nat) : (s.hostWrite a n v).verdict = s.verdict := rfl
@[simp] theorem State.hostWrite_word (s : State) (a n v : Nat) : (s.hostWrite a n v).word = s.word := rfl

/-! ### State.dropLaunch -/

@[simp] theorem State.dropLaunch_c (s : State) (id : Nat) : (s.dropLaunch id).c = s.c := rfl
@[simp] theorem State.dropLaunch_others (s : State) (id : Nat) : (s.dropLaunch id).others = s.others := rfl
@[simp] theorem State.dropLaunch_clusters (s : State) (id : Nat) : (s.dropLaunch id).clusters = s.clusters := rfl
@[simp] theorem State.dropLaunch_parts (s : State) (id : Nat) : (s.dropLaunch id).parts = s.parts := rfl
@[simp] theorem State.dropLaunch_queues (s : State) (id : Nat) : (s.dropLaunch id).queues = s.queues := rfl
@[simp] theorem State.dropLaunch_ctxs (s : State) (id : Nat) : (s.dropLaunch id).ctxs = s.ctxs := rfl
@[simp] theorem State.dropLaunch_cached (s : State) (id : Nat) : (s.dropLaunch id).cached = s.cached := rfl
@[simp] theorem State.dropLaunch_keys (s : State) (id : Nat) : (s.dropLaunch id).keys = s.keys := rfl
@[simp] theorem State.dropLaunch_comps (s : State) (id : Nat) : (s.dropLaunch id).comps = s.comps := rfl
@[simp] theorem State.dropLaunch_gates (s : State) (id : Nat) : (s.dropLaunch id).gates = s.gates := rfl
@[simp] theorem State.dropLaunch_wsets (s : State) (id : Nat) : (s.dropLaunch id).wsets = s.wsets := rfl
@[simp] theorem State.dropLaunch_vfs (s : State) (id : Nat) : (s.dropLaunch id).vfs = s.vfs := rfl
@[simp] theorem State.dropLaunch_vats (s : State) (id : Nat) : (s.dropLaunch id).vats = s.vats := rfl
@[simp] theorem State.dropLaunch_tasks (s : State) (id : Nat) : (s.dropLaunch id).tasks = s.tasks := rfl
@[simp] theorem State.dropLaunch_launches (s : State) (id : Nat) : (s.dropLaunch id).launches = s.launches.filter (fun x => decide (x.id ≠ id)) := rfl
@[simp] theorem State.dropLaunch_signals (s : State) (id : Nat) : (s.dropLaunch id).signals = s.signals := rfl
@[simp] theorem State.dropLaunch_mem (s : State) (id : Nat) : (s.dropLaunch id).mem = s.mem := rfl
@[simp] theorem State.dropLaunch_host (s : State) (id : Nat) : (s.dropLaunch id).host = s.host := rfl
@[simp] theorem State.dropLaunch_poison (s : State) (id : Nat) : (s.dropLaunch id).poison = s.poison := rfl
@[simp] theorem State.dropLaunch_labels (s : State) (id : Nat) : (s.dropLaunch id).labels = s.labels := rfl
@[simp] theorem State.dropLaunch_stores (s : State) (id : Nat) : (s.dropLaunch id).stores = s.stores := rfl
@[simp] theorem State.dropLaunch_stale (s : State) (id : Nat) : (s.dropLaunch id).stale = s.stale := rfl
@[simp] theorem State.dropLaunch_suspended (s : State) (id : Nat) : (s.dropLaunch id).suspended = s.suspended := rfl
@[simp] theorem State.dropLaunch_carry (s : State) (id : Nat) : (s.dropLaunch id).carry = s.carry := rfl
@[simp] theorem State.dropLaunch_heard (s : State) (id : Nat) : (s.dropLaunch id).heard = s.heard := rfl
@[simp] theorem State.dropLaunch_conns (s : State) (id : Nat) : (s.dropLaunch id).conns = s.conns := rfl
@[simp] theorem State.dropLaunch_sessions (s : State) (id : Nat) : (s.dropLaunch id).sessions = s.sessions := rfl
@[simp] theorem State.dropLaunch_mrs (s : State) (id : Nat) : (s.dropLaunch id).mrs = s.mrs := rfl
@[simp] theorem State.dropLaunch_boxLog (s : State) (id : Nat) : (s.dropLaunch id).boxLog = s.boxLog := rfl
@[simp] theorem State.dropLaunch_replies (s : State) (id : Nat) : (s.dropLaunch id).replies = s.replies := rfl
@[simp] theorem State.dropLaunch_receipts (s : State) (id : Nat) : (s.dropLaunch id).receipts = s.receipts := rfl
@[simp] theorem State.dropLaunch_umpire (s : State) (id : Nat) : (s.dropLaunch id).umpire = s.umpire := rfl
@[simp] theorem State.dropLaunch_records (s : State) (id : Nat) : (s.dropLaunch id).records = s.records := rfl
@[simp] theorem State.dropLaunch_images (s : State) (id : Nat) : (s.dropLaunch id).images = s.images := rfl
@[simp] theorem State.dropLaunch_powerLost (s : State) (id : Nat) : (s.dropLaunch id).powerLost = s.powerLost := rfl
@[simp] theorem State.dropLaunch_portsDown (s : State) (id : Nat) : (s.dropLaunch id).portsDown = s.portsDown := rfl
@[simp] theorem State.dropLaunch_tick (s : State) (id : Nat) : (s.dropLaunch id).tick = s.tick := rfl
@[simp] theorem State.dropLaunch_ids (s : State) (id : Nat) : (s.dropLaunch id).ids = s.ids := rfl
@[simp] theorem State.dropLaunch_freeCtr (s : State) (id : Nat) : (s.dropLaunch id).freeCtr = s.freeCtr := rfl
@[simp] theorem State.dropLaunch_agenda (s : State) (id : Nat) : (s.dropLaunch id).agenda = s.agenda := rfl
@[simp] theorem State.dropLaunch_turns (s : State) (id : Nat) : (s.dropLaunch id).turns = s.turns := rfl
@[simp] theorem State.dropLaunch_booted (s : State) (id : Nat) : (s.dropLaunch id).booted = s.booted := rfl
@[simp] theorem State.dropLaunch_scans (s : State) (id : Nat) : (s.dropLaunch id).scans = s.scans := rfl
@[simp] theorem State.dropLaunch_verdict (s : State) (id : Nat) : (s.dropLaunch id).verdict = s.verdict := rfl
@[simp] theorem State.dropLaunch_word (s : State) (id : Nat) : (s.dropLaunch id).word = s.word := rfl

/-! ### State.setCore -/

@[simp] theorem State.setCore_clusters (s : State) (x : Core) : (s.setCore x).clusters = s.clusters := by unfold State.setCore; split <;> rfl
@[simp] theorem State.setCore_parts (s : State) (x : Core) : (s.setCore x).parts = s.parts := by unfold State.setCore; split <;> rfl
@[simp] theorem State.setCore_queues (s : State) (x : Core) : (s.setCore x).queues = s.queues := by unfold State.setCore; split <;> rfl
@[simp] theorem State.setCore_ctxs (s : State) (x : Core) : (s.setCore x).ctxs = s.ctxs := by unfold State.setCore; split <;> rfl
@[simp] theorem State.setCore_cached (s : State) (x : Core) : (s.setCore x).cached = s.cached := by unfold State.setCore; split <;> rfl
@[simp] theorem State.setCore_keys (s : State) (x : Core) : (s.setCore x).keys = s.keys := by unfold State.setCore; split <;> rfl
@[simp] theorem State.setCore_comps (s : State) (x : Core) : (s.setCore x).comps = s.comps := by unfold State.setCore; split <;> rfl
@[simp] theorem State.setCore_gates (s : State) (x : Core) : (s.setCore x).gates = s.gates := by unfold State.setCore; split <;> rfl
@[simp] theorem State.setCore_wsets (s : State) (x : Core) : (s.setCore x).wsets = s.wsets := by unfold State.setCore; split <;> rfl
@[simp] theorem State.setCore_vfs (s : State) (x : Core) : (s.setCore x).vfs = s.vfs := by unfold State.setCore; split <;> rfl
@[simp] theorem State.setCore_vats (s : State) (x : Core) : (s.setCore x).vats = s.vats := by unfold State.setCore; split <;> rfl
@[simp] theorem State.setCore_tasks (s : State) (x : Core) : (s.setCore x).tasks = s.tasks := by unfold State.setCore; split <;> rfl
@[simp] theorem State.setCore_launches (s : State) (x : Core) : (s.setCore x).launches = s.launches := by unfold State.setCore; split <;> rfl
@[simp] theorem State.setCore_signals (s : State) (x : Core) : (s.setCore x).signals = s.signals := by unfold State.setCore; split <;> rfl
@[simp] theorem State.setCore_mem (s : State) (x : Core) : (s.setCore x).mem = s.mem := by unfold State.setCore; split <;> rfl
@[simp] theorem State.setCore_host (s : State) (x : Core) : (s.setCore x).host = s.host := by unfold State.setCore; split <;> rfl
@[simp] theorem State.setCore_poison (s : State) (x : Core) : (s.setCore x).poison = s.poison := by unfold State.setCore; split <;> rfl
@[simp] theorem State.setCore_labels (s : State) (x : Core) : (s.setCore x).labels = s.labels := by unfold State.setCore; split <;> rfl
@[simp] theorem State.setCore_stores (s : State) (x : Core) : (s.setCore x).stores = s.stores := by unfold State.setCore; split <;> rfl
@[simp] theorem State.setCore_stale (s : State) (x : Core) : (s.setCore x).stale = s.stale := by unfold State.setCore; split <;> rfl
@[simp] theorem State.setCore_suspended (s : State) (x : Core) : (s.setCore x).suspended = s.suspended := by unfold State.setCore; split <;> rfl
@[simp] theorem State.setCore_carry (s : State) (x : Core) : (s.setCore x).carry = s.carry := by unfold State.setCore; split <;> rfl
@[simp] theorem State.setCore_heard (s : State) (x : Core) : (s.setCore x).heard = s.heard := by unfold State.setCore; split <;> rfl
@[simp] theorem State.setCore_conns (s : State) (x : Core) : (s.setCore x).conns = s.conns := by unfold State.setCore; split <;> rfl
@[simp] theorem State.setCore_sessions (s : State) (x : Core) : (s.setCore x).sessions = s.sessions := by unfold State.setCore; split <;> rfl
@[simp] theorem State.setCore_mrs (s : State) (x : Core) : (s.setCore x).mrs = s.mrs := by unfold State.setCore; split <;> rfl
@[simp] theorem State.setCore_boxLog (s : State) (x : Core) : (s.setCore x).boxLog = s.boxLog := by unfold State.setCore; split <;> rfl
@[simp] theorem State.setCore_replies (s : State) (x : Core) : (s.setCore x).replies = s.replies := by unfold State.setCore; split <;> rfl
@[simp] theorem State.setCore_receipts (s : State) (x : Core) : (s.setCore x).receipts = s.receipts := by unfold State.setCore; split <;> rfl
@[simp] theorem State.setCore_umpire (s : State) (x : Core) : (s.setCore x).umpire = s.umpire := by unfold State.setCore; split <;> rfl
@[simp] theorem State.setCore_records (s : State) (x : Core) : (s.setCore x).records = s.records := by unfold State.setCore; split <;> rfl
@[simp] theorem State.setCore_images (s : State) (x : Core) : (s.setCore x).images = s.images := by unfold State.setCore; split <;> rfl
@[simp] theorem State.setCore_powerLost (s : State) (x : Core) : (s.setCore x).powerLost = s.powerLost := by unfold State.setCore; split <;> rfl
@[simp] theorem State.setCore_portsDown (s : State) (x : Core) : (s.setCore x).portsDown = s.portsDown := by unfold State.setCore; split <;> rfl
@[simp] theorem State.setCore_tick (s : State) (x : Core) : (s.setCore x).tick = s.tick := by unfold State.setCore; split <;> rfl
@[simp] theorem State.setCore_ids (s : State) (x : Core) : (s.setCore x).ids = s.ids := by unfold State.setCore; split <;> rfl
@[simp] theorem State.setCore_freeCtr (s : State) (x : Core) : (s.setCore x).freeCtr = s.freeCtr := by unfold State.setCore; split <;> rfl
@[simp] theorem State.setCore_agenda (s : State) (x : Core) : (s.setCore x).agenda = s.agenda := by unfold State.setCore; split <;> rfl
@[simp] theorem State.setCore_turns (s : State) (x : Core) : (s.setCore x).turns = s.turns := by unfold State.setCore; split <;> rfl
@[simp] theorem State.setCore_booted (s : State) (x : Core) : (s.setCore x).booted = s.booted := by unfold State.setCore; split <;> rfl
@[simp] theorem State.setCore_scans (s : State) (x : Core) : (s.setCore x).scans = s.scans := by unfold State.setCore; split <;> rfl
@[simp] theorem State.setCore_verdict (s : State) (x : Core) : (s.setCore x).verdict = s.verdict := by unfold State.setCore; split <;> rfl
@[simp] theorem State.setCore_word (s : State) (x : Core) : (s.setCore x).word = s.word := by unfold State.setCore; split <;> rfl

/-- A core that was replaced is the new one. -/
@[simp] theorem State.setCore_core (s : State) (x : Core) : (s.setCore x).core x.id = x := by
  unfold State.setCore State.core
  split
  · simp
  · exact Laws.look_put_same _ _ _ _

/-- Replacing a core leaves every other one as it was. -/
theorem State.setCore_core_other (s : State) (x : Core) (k : CoreId) (h : k ≠ x.id) : (s.setCore x).core k = s.core k := by
  unfold State.setCore State.core
  split
  · rename_i e
    rw [if_neg (show x.id ≠ k from h.symm), if_neg (show s.c.id ≠ k from fun e' => h (e' ▸ e))]
  · simp only
    split
    · rfl
    · exact Laws.look_put_other _ _ h _

end Sys2Proof.Machine
end

