-- ==== Sys2Proof/Laws/Ops.lean ====
section
/-! SUPPORT. What each shared operation can do, said once: a slot word in its issue cycle, the checks of local and global operands,
the capture of a command, the scratchpad and its windows, and writes of global memory. -/

namespace Sys2Proof.Laws

open Sys2Proof.Machine

/-! ### A slot word in its issue cycle (R28 to R35, R74) -/

/-- Everything a slot word can do: it is held before its work, it traps, its work holds it, or it issues. -/
theorem slotExec_cases {n : Nat} {i : Instr} {body : State → Issue} {s t : State} (h : slotExec n i body s = .next t) :
    (∃ b, s.preIssue n i = .hold b ∧ t = { s with verdict := .held b }) ∨
    (∃ x, (s.preIssue n i = .trap x ∨ (s.preIssue n i = .go ∧ s.commonTrap n i = some x) ∨
        (s.preIssue n i = .go ∧ s.commonTrap n i = none ∧ body s = .trap x)) ∧ t = s.trapNow x) ∨
    (s.preIssue n i = .go ∧ s.commonTrap n i = none ∧
      ((∃ u, body s = .ok u ∧ t = { u with verdict := .issued }) ∨ ∃ u, body s = .hold u ∧ t = { u with verdict := .held false })) := by
  unfold slotExec at h
  split at h
  · exact .inl ⟨_, ‹_›, (Host.Outcome.next.inj h).symm⟩
  · exact .inr (.inl ⟨_, .inl ‹_›, (Host.Outcome.next.inj h).symm⟩)
  · split at h
    · exact .inr (.inl ⟨_, .inr (.inl ⟨‹_›, ‹_›⟩), (Host.Outcome.next.inj h).symm⟩)
    · split at h
      · exact .inr (.inr ⟨‹_›, ‹_›, .inl ⟨_, ‹_›, (Host.Outcome.next.inj h).symm⟩⟩)
      · exact .inr (.inr ⟨‹_›, ‹_›, .inr ⟨_, ‹_›, (Host.Outcome.next.inj h).symm⟩⟩)
      · exact .inr (.inl ⟨_, .inr (.inr ⟨‹_›, ‹_›, ‹_›⟩), (Host.Outcome.next.inj h).symm⟩)

/-- A slot word always answers a next state. -/
theorem slotExec_next (n : Nat) (i : Instr) (body : State → Issue) (s : State) : ∃ t, slotExec n i body s = .next t := by
  unfold slotExec
  split
  · exact ⟨_, rfl⟩
  · exact ⟨_, rfl⟩
  · split
    · exact ⟨_, rfl⟩
    · split <;> exact ⟨_, rfl⟩

/-- A trap taken at issue is the verdict of its state. -/
@[simp] theorem trapNow_verdict (s : State) (x : Trap) : (s.trapNow x).verdict = .trapped x := rfl

/-- A slot word that has issued did its work. -/
theorem slotExec_issued {n : Nat} {i : Instr} {body : State → Issue} {s t : State} (h : slotExec n i body s = .next t)
    (hv : t.verdict = .issued) : ∃ u, body s = .ok u ∧ t = { u with verdict := .issued } := by
  rcases slotExec_cases h with ⟨b, -, rfl⟩ | ⟨x, -, rfl⟩ | ⟨-, -, ⟨u, h1, h2⟩ | ⟨u, -, rfl⟩⟩
  · cases hv
  · cases hv
  · exact ⟨u, h1, h2⟩
  · cases hv

/-- A word that nothing holds or stops, and whose work succeeds. -/
theorem slotExec_ok {s t : State} {i : Instr} {n : Nat} {body : State → Issue} (h : s.Issues i) (hn : i.slot.getD 0 = n)
    (hb : body s = .ok t) : slotExec n i body s = .next { t with verdict := .issued } := by
  subst hn
  simp [slotExec, h.1, h.2, hb]

/-- A word that nothing holds or stops, and whose work traps. -/
theorem slotExec_trap {s : State} {i : Instr} {n : Nat} {body : State → Issue} {t : Trap} (h : s.Issues i) (hn : i.slot.getD 0 = n)
    (hb : body s = .trap t) : slotExec n i body s = .next (s.trapNow t) := by
  subst hn
  simp [slotExec, h.1, h.2, hb]

/-- A word that nothing holds or stops, and whose work holds it. -/
theorem slotExec_hold {s t : State} {i : Instr} {n : Nat} {body : State → Issue} (h : s.Issues i) (hn : i.slot.getD 0 = n)
    (hb : body s = .hold t) : slotExec n i body s = .next { t with verdict := .held false } := by
  subst hn
  simp [slotExec, h.1, h.2, hb]

/-- A word whose work only changes its core. -/
theorem slotExec_onCore {s : State} {i : Instr} {n : Nat} {f : Core → Core} (h : s.Issues i) (hn : i.slot.getD 0 = n) :
    slotExec n i (onCore f) s = .next (s.after (f s.c)) := by
  subst hn
  simp [slotExec, h.1, h.2, onCore, State.after]

/-- A word that has issued and whose work only changes its core. -/
theorem slotExec_onCore_issued {s t : State} {i : Instr} {n : Nat} {f : Core → Core} (h : slotExec n i (onCore f) s = .next t)
    (hv : t.verdict = .issued) : t = s.after (f s.c) := by
  obtain ⟨u, h1, rfl⟩ := slotExec_issued h hv
  cases h1
  rfl

/-! ### Operands at issue (R121, R122, R127, R187, R188) -/

/-- A condition that holds lets the work go on. -/
theorem require_pass {b : Bool} {k : Prep} {s : State} (h : b = true) : require b k s = k s := if_pos h

/-- A condition that fails raises ILLEGAL with reason 0x05. -/
theorem require_fail {b : Bool} {k : Prep} {s : State} (h : b = false) : require b k s = .trap s.illegal5 := by
  subst h
  rfl

/-- An address below 2^49 lets the work go on. -/
theorem globalOperand_pass {a : Nat} {k : Prep} {s : State} (h : a < 2 ^ 49) : globalOperand a k s = k s := if_neg (Nat.not_le.mpr h)

/-- An address from 2^49 on raises TRANSLATION. -/
theorem globalOperand_fail {a : Nat} {k : Prep} {s : State} (h : 2 ^ 49 ≤ a) : globalOperand a k s = .trap ⟨.translation, addrInfo a⟩ :=
  if_pos h

/-- A readable operand is handed on as its bytes. -/
theorem localOperand_pass {s : State} {off n align : Nat} {k : Nat → Prep} (h : s.c.operandOk off n align) :
    localOperand off n align k s = k (s.c.scratchRead off n) s := by
  obtain ⟨h1, h2, h3, h4, h5⟩ := h
  simp [localOperand, h1, h3, h4, h5, Nat.not_lt.mpr h2]

/-- What an operand that work succeeded on was. -/
theorem localOperand_ok {s t : State} {off n align : Nat} {k : Nat → Prep} (h : localOperand off n align k s = .ok t) :
    s.c.operandOk off n align ∧ k (s.c.scratchRead off n) s = .ok t := by
  unfold localOperand at h
  split at h
  · cases h
  · split at h
    · cases h
    · split at h
      · cases h
      · split at h
        · cases h
        · split at h
          · cases h
          · exact ⟨⟨by omega, by omega, by simpa using ‹¬s.c.bankConflict off n = true›, by simpa using ‹¬s.c.needsFill off n = true›,
              by simpa using ‹¬s.c.scratchPoisoned off n = true›⟩, h⟩

/-- A command with a free tag and proper order fields goes on. -/
theorem cmdStart_pass {s : State} {x : Xc} {k : Prep} (h : s.takesTag x) : cmdStart x k s = k s := by
  obtain ⟨h1, h2, h3, h4⟩ := h
  have free : s.c.cmds.any (fun m => decide (m.tag = x.tag)) = false := by simpa using h3
  simp only [cmdStart, free, h4, Bool.or_false]
  rw [if_neg]
  simp only [Bool.or_eq_true, decide_eq_true_eq, not_or, Nat.not_lt]
  refine ⟨?_, h2⟩
  rcases h1 with h | h | h <;> simp [h]

/-- Any other raises ILLEGAL with reason 0x05. -/
theorem cmdStart_fail {s : State} {x : Xc} {k : Prep} (h : ¬s.takesTag x) : cmdStart x k s = .trap s.illegal5 := by
  simp only [cmdStart]
  rw [if_pos]
  simp only [State.takesTag, not_and_or] at h
  rcases h with h | h | h | h
  · simp only [not_or] at h
    simp [h.1, h.2.1, h.2.2]
  · simp
    omega
  · simp at h
    obtain ⟨m, h1, h2⟩ := h
    simp
    exact .inl (.inr ⟨m, h1, h2⟩)
  · simp [h]

/-- A command whose work succeeded had a free tag. -/
theorem cmdStart_ok {s t : State} {x : Xc} {k : Prep} (h : cmdStart x k s = .ok t) : s.takesTag x ∧ k s = .ok t := by
  by_cases ht : s.takesTag x
  · exact ⟨ht, cmdStart_pass (k := k) ht ▸ h⟩
  · rw [cmdStart_fail ht] at h
    cases h

/-- A command becomes outstanding. -/
theorem addCmd_eq (s : State) (m : Cmd) : addCmd m s = .ok { s with
    c := ({ s.c with cmds := s.c.cmds ++ [s.outstanding m] } : Core).clearTags (1 <<< m.tag.val), ids := s.ids + 1 } := rfl

/-- A word whose work is to make a command outstanding does so. -/
theorem slotExec_addCmd {s : State} {i : Instr} {n : Nat} {body : State → Issue} {m : Cmd} (h : s.Issues i) (hn : i.slot.getD 0 = n)
    (hb : body s = addCmd m s) : slotExec n i body s = .next { s.after
      (({ s.c with cmds := s.c.cmds ++ [s.outstanding m] } : Core).clearTags (1 <<< m.tag.val)) with ids := s.ids + 1 } :=
  slotExec_ok h hn (hb.trans (addCmd_eq s m))

/-- A copy whose addresses and rows are in range becomes outstanding with its boxes. -/
theorem copyIssue_pass {s : State} {m : Cmd} (h : s.copyReaches m) :
    copyIssue m s = addCmd { m with boxes := ceilDiv m.copy.total 4096 } s := by
  obtain ⟨h1, h2, h3, h4⟩ := h
  simp only [copyIssue]
  have globals : ((if m.copy.sspc = 2 then [m.copy.src] else []) ++ (if m.copy.dspc = 2 then m.dests else [])).find?
      (fun a => decide (2 ^ 49 ≤ a)) = none := by
    rw [List.find?_eq_none]
    intro a ha
    simp only [List.mem_append] at ha
    rcases ha with ha | ha
    · split at ha
      · rw [List.mem_singleton.mp ha]
        have := h1 ‹_›
        simp
        omega
      · simp at ha
    · split at ha
      · have := h2 ‹_› a ha
        simp
        omega
      · simp at ha
  have dests : ({ m with boxes := ceilDiv m.copy.total 4096 } : Cmd).dests = m.dests := rfl
  rw [dests, globals]
  have rows : ∀ a ∈ rowsIf (decide (m.copy.sspc = 0)) m.copy.rows m.srcRow ++ rowsIf (decide (m.copy.dspc = 0)) m.copy.rows (m.dstRow m.copy.dst),
      a + m.copy.len ≤ s.c.scratchSize ∧ s.c.needsFill a m.copy.len = false := by
    intro a ha
    simp only [List.mem_append, rowsIf] at ha
    rcases ha with ha | ha
    · split at ha
      · simp only [List.mem_map, List.mem_range] at ha
        obtain ⟨j, hj, rfl⟩ := ha
        exact h3 (of_decide_eq_true ‹_›) j hj
      · simp at ha
    · split at ha
      · simp only [List.mem_map, List.mem_range] at ha
        obtain ⟨j, hj, rfl⟩ := ha
        exact h4 (of_decide_eq_true ‹_›) j hj
      · simp at ha
  have src : ({ m with boxes := ceilDiv m.copy.total 4096 } : Cmd).srcRow = m.srcRow := rfl
  have dst : ({ m with boxes := ceilDiv m.copy.total 4096 } : Cmd).dstRow = m.dstRow := rfl
  rw [src, dst]
  simp only [localRows]
  rw [List.find?_eq_none.mpr (fun a ha => by have := (rows a ha).1; simp; omega)]
  simp only
  rw [if_neg]
  rw [List.any_eq_true]
  rintro ⟨a, ha, h⟩
  rw [(rows a ha).2] at h
  cases h

/-- Everything a local-offset access can do (R121, R122, R127). -/
theorem localAccess_cases (ea n : Nat) (p : Core → Bool) (f : Core → Core) (s : State) :
    (∃ t, s.c.localTrap ea n = some t ∧ localAccess ea n p f s = .trap t) ∨
    (s.c.localTrap ea n = none ∧ s.c.needsFill ea n = true ∧ localAccess ea n p f s = .hold { s with c := s.c.startFills ea n }) ∨
    (s.c.localTrap ea n = none ∧ s.c.needsFill ea n = false ∧ p s.c = true ∧ localAccess ea n p f s = .trap ⟨.poisonConsumed, addrInfo ea⟩) ∨
    (s.c.localTrap ea n = none ∧ s.c.needsFill ea n = false ∧ p s.c = false ∧ localAccess ea n p f s = .ok { s with c := f s.c }) := by
  unfold localAccess
  split
  · exact .inl ⟨_, ‹_›, rfl⟩
  · cases h1 : s.c.needsFill ea n
    · cases h2 : p s.c
      · exact .inr (.inr (.inr ⟨‹_›, rfl, rfl, rfl⟩))
      · exact .inr (.inr (.inl ⟨‹_›, rfl, rfl, rfl⟩))
    · exact .inr (.inl ⟨‹_›, rfl, rfl⟩)

/-- An access that reaches its bytes passes the checks of R121. -/
theorem localTrap_none {c : Core} {ea n : Nat} (h : c.reaches ea n) : c.localTrap ea n = none := by
  obtain ⟨h1, h2, h3, -⟩ := h
  simp [Core.localTrap, h1, h3, Nat.not_lt.mpr h2]

/-- An access that reaches its bytes, none of them poisoned, has its effect. -/
theorem localAccess_ok {s : State} {ea n : Nat} {p : Core → Bool} {f : Core → Core} (h : s.c.reaches ea n) (hp : p s.c = false) :
    localAccess ea n p f s = .ok { s with c := f s.c } := by
  simp [localAccess, localTrap_none h, h.2.2.2, hp]

/-- The effective address as the model computes it and as R121 states it. -/
theorem localAddr_eq (c : Core) (a : Reg) (o : BitVec 8) (unit : Nat) : c.localAddr a o unit = c.effective a o unit := by
  unfold Core.localAddr Core.effective Core.xn
  rw [BitVec.toNat_add, BitVec.toNat_ofInt]
  generalize o.toInt * (unit : Int) = z
  omega

/-! ### The scratchpad and its windows (R21, R127, R225) -/

/-- Setting a piece changes the windows alone. -/
theorem setPiece_frame (c : Core) (w i : Nat) (p : Piece) : ∃ x, c.setPiece w i p = { c with wins := x } := by
  unfold Core.setPiece
  split
  · exact ⟨_, rfl⟩
  · exact ⟨c.wins, rfl⟩

/-- A fold of steps that change the windows alone changes the windows alone. -/
theorem winFold_frame {α : Type} (f : Core → α → Core) (h : ∀ c a, ∃ x, f c a = { c with wins := x }) :
    ∀ (l : List α) (c : Core), ∃ x, l.foldl f c = { c with wins := x }
  | [], c => ⟨c.wins, rfl⟩
  | a :: l, c => by
    obtain ⟨x, hx⟩ := h c a
    obtain ⟨y, hy⟩ := winFold_frame f h l (f c a)
    exact ⟨y, by rw [List.foldl_cons, hy, hx]⟩

/-- A touch changes the windows alone. -/
theorem startFills_frame (c : Core) (off n : Nat) : ∃ x, c.startFills off n = { c with wins := x } := by
  refine winFold_frame _ (fun c o => ?_) _ c
  split
  · exact setPiece_frame _ _ _ _
  · exact ⟨c.wins, rfl⟩

/-- A store's marks change the windows alone. -/
theorem markDirty_frame (c : Core) (off n : Nat) : ∃ x, c.markDirty off n = { c with wins := x } := by
  unfold Core.markDirty
  split
  · exact ⟨c.wins, rfl⟩
  · refine winFold_frame _ (fun c o => ?_) _ c
    split
    · exact setPiece_frame _ _ _ _
    · exact ⟨c.wins, rfl⟩

/-- A write changes the scratchpad, its poison and the marks of its windows, and nothing else of the core. -/
theorem scratchWrite_eq (c : Core) (off : Nat) (bs : List (BitVec 8)) : ∃ x, c.scratchWrite off bs = { c with
    scratch := memWrite c.scratch off bs
    poison := c.poison.filter (fun l => decide (l ∉ wholeLines off bs.length))
    wins := x } := by
  obtain ⟨x, hx⟩ := markDirty_frame c off bs.length
  exact ⟨x, by simp only [Core.scratchWrite, hx]⟩

theorem scratchWrite_scratch (c : Core) (off : Nat) (bs : List (BitVec 8)) : (c.scratchWrite off bs).scratch = memWrite c.scratch off bs := by
  obtain ⟨x, hx⟩ := scratchWrite_eq c off bs
  rw [hx]

theorem scratchPut_scratch (c : Core) (off n v : Nat) : (c.scratchPut off n v).scratch = memPut c.scratch off n v :=
  scratchWrite_scratch c off _

/-- A masked write with an enabled byte changes the scratchpad, its poison and the marks of its windows. -/
theorem scratchMasked_eq (c : Core) (off : Nat) (p : Pred) (v : Vec) (h : p ≠ 0) : ∃ x, c.scratchMasked off p v = { c with
    scratch := memPow c.scratch off 9 (mergeBytes p (BitVec.ofNat 4096 (c.scratchRead off 512)) v).toNat
    poison := c.poison.filter (fun l => !(decide (off / 64 ≤ l ∧ l < off / 64 + 8) && lineWhole p (l - off / 64)))
    wins := x } := by
  obtain ⟨x, hx⟩ := markDirty_frame c off 512
  refine ⟨x, ?_⟩
  unfold Core.scratchMasked
  rw [if_neg h, hx]
  rfl

/-- Every write keeps a scratchpad in canonical form. -/
theorem scratchWrite_wf {c : Core} (h : Memory.wf c.scratch = true) (off : Nat) (bs : List (BitVec 8)) :
    Memory.wf (c.scratchWrite off bs).scratch = true := by
  rw [scratchWrite_scratch]
  exact memWrite_wf off bs h

theorem scratchMasked_wf {c : Core} (h : Memory.wf c.scratch = true) (off : Nat) (p : Pred) (v : Vec) :
    Memory.wf (c.scratchMasked off p v).scratch = true := by
  by_cases hp : p = 0
  · rw [Core.scratchMasked, if_pos hp]
    exact h
  · obtain ⟨x, hx⟩ := scratchMasked_eq c off p v hp
    rw [hx]
    exact memPow_wf off 9 _ h

/-! ### Global memory (R344, R411) -/

/-- A write within a line changes memory, labels and poison alone. -/
theorem writeLine_frame (s : State) (l : Nat × Nat) (pa : Nat) (bs : List (BitVec 8)) :
    ∃ m y p, s.writeLine l pa bs = { s with mem := m, labels := y, poison := p } := by
  unfold State.writeLine
  split
  · exact ⟨s.mem, s.labels, s.poison, rfl⟩
  · split
    · exact ⟨_, _, _, rfl⟩
    · split
      · exact ⟨_, s.labels, s.poison, rfl⟩
      · exact ⟨_, _, s.poison, rfl⟩

/-- A write within a line keeps memory in canonical form. -/
theorem writeLine_wf {s : State} (h : Memory.wf s.mem = true) (l : Nat × Nat) (pa : Nat) (bs : List (BitVec 8)) :
    Memory.wf (s.writeLine l pa bs).mem = true := by
  unfold State.writeLine
  split
  · exact h
  · split
    · exact memWrite_wf _ _ h
    · split
      · exact memWrite_wf _ _ h
      · exact memWrite_wf _ _ (memPut_wf _ _ _ h)

/-- A block write changes memory, labels and poison alone. -/
theorem writeBlock_frame (s : State) (l : Nat × Nat) (pa v : Nat) :
    ∃ m y p, s.writeBlock l pa v = { s with mem := m, labels := y, poison := p } := by
  unfold State.writeBlock
  split
  · exact ⟨s.mem, s.labels, s.poison, rfl⟩
  · exact ⟨_, _, _, rfl⟩

/-- A block write keeps memory in canonical form. -/
theorem writeBlock_wf {s : State} (h : Memory.wf s.mem = true) (l : Nat × Nat) (pa v : Nat) : Memory.wf (s.writeBlock l pa v).mem = true := by
  unfold State.writeBlock
  split
  · exact h
  · exact memPow_wf _ _ _ h

/-- Giving up stale copies leaves memory as it was. -/
theorem dropCopies_mem (s : State) (cl : Option Nat) (line : Nat) : (s.dropCopies cl line).mem = s.mem := by
  unfold State.dropCopies
  split <;> rfl

/-- Invalidating a copy leaves memory as it was. -/
theorem invalidateCopy_mem (s : State) (n : Nat) : (s.invalidateCopy n).mem = s.mem := by
  unfold State.invalidateCopy
  split
  · exact dropCopies_mem _ _ _
  · rfl

/-- A store taken by its line keeps memory in canonical form. -/
theorem takeStore_wf {s : State} (h : Memory.wf s.mem = true) (x : PStore) : Memory.wf (s.takeStore x).mem = true := by
  unfold State.takeStore
  dsimp only
  split
  · exact writeLine_wf h _ _ _
  · exact writeLine_wf h _ _ _

/-- A store's acknowledgement keeps memory in canonical form. -/
theorem acknowledge_wf {s : State} (h : Memory.wf s.mem = true) (x : PStore) : Memory.wf (s.acknowledge x).mem = true := by
  have taken : Memory.wf ((s.takeStore x).dropCopies (some (clusterOf x.src)) (x.pa / 64)).mem = true := by
    rw [dropCopies_mem]
    exact takeStore_wf h x
  unfold State.acknowledge
  dsimp only
  split <;> exact taken

/-- What a list of acknowledgements leaves keeps the canonical form. -/
theorem acknowledgeAll_wf {s : State} (h : Memory.wf s.mem = true) (xs : List PStore) : Memory.wf (xs.foldl State.acknowledge s).mem = true := by
  induction xs generalizing s with
  | nil => exact h
  | cons x xs ih => exact ih (acknowledge_wf h x)

/-- A store that its home orders at once keeps memory in canonical form, whoever makes it and whatever it carries. -/
theorem storeHomeBy_wf {s : State} (h : Memory.wf s.mem = true) (src : CoreId) (w : Writer) (x : Xlat) (bs : List (BitVec 8)) (rmw : Bool)
    (ids : List (Scope × Nat)) : Memory.wf (s.storeHomeBy src w x bs rmw ids).mem = true := by
  unfold State.storeHomeBy
  dsimp only
  rw [dropCopies_mem]
  apply writeLine_wf
  exact acknowledgeAll_wf h _

/-- A store of a unit of the module keeps memory in canonical form. -/
theorem storeHome_wf {s : State} (h : Memory.wf s.mem = true) (src : CoreId) (x : Xlat) (bs : List (BitVec 8)) (rmw : Bool) :
    Memory.wf (s.storeHome src x bs rmw).mem = true := storeHomeBy_wf h src .unit x bs rmw []

/-- What a cluster store shows is in canonical form. -/
theorem view_wf {s : State} (h : Memory.wf s.mem = true) (cl : Nat) : Memory.wf (s.view cl).mem = true := by
  unfold State.view
  have base : Memory.wf ((s.stale.filter (fun y => decide (cl ∈ y.cls))).foldr (fun y s => s.staleBytes y) s).mem = true := by
    induction s.stale.filter (fun y => decide (cl ∈ y.cls)) with
    | nil => exact h
    | cons y ys ih =>
      rw [List.foldr_cons]
      unfold State.staleBytes
      split
      · exact memWrite_wf _ _ ih
      · exact ih
  generalize (s.stale.filter (fun y => decide (cl ∈ y.cls))).foldr (fun y s => s.staleBytes y) s = t at base
  induction s.stores.filter (fun x => decide (clusterOf x.src = cl)) generalizing t with
  | nil => exact base
  | cons x xs ih => exact ih (t.takeStore x) (takeStore_wf base x)

/-- After reset global memory, host memory and every scratchpad are in canonical form. -/
theorem reset_mem_wf : Memory.wf State.reset.mem = true := rfl
theorem reset_host_wf : Memory.wf State.reset.host = true := rfl
theorem reset_scratch_wf (k : CoreId) : Memory.wf (State.reset.core k).scratch = true := by
  unfold State.core
  split <;> rfl

end Sys2Proof.Laws
end

