-- ==== Sys2Proof/Laws/PerInstr.lean ====
section
/-! SUPPORT. Statements about every instruction, one lemma per constructor. Family `SlotWord`: an instruction of a slot has a
word of 31 bits whose bits [30:28] are its slot (R70), whatever its operands, and a step without an encoding has none. -/

namespace Sys2Proof.Laws

/-- What the family says of an instruction. -/
def SlotWord.Statement (i : Instr) : Prop :=
  (i.slot = none → encode i = none) ∧ ∀ n, i.slot = some n → ∃ w, encode i = some w ∧ w < 2 ^ 31 ∧ w / 2 ^ 28 = n

/-- A step without an encoding. -/
theorem slotWord_of_none {i : Instr} (h : i.slot = none) (e : encode i = none) : SlotWord.Statement i :=
  ⟨fun _ => e, fun n h' => by rw [h] at h'; cases h'⟩

/-- An instruction of slot n whose word is w. -/
theorem slotWord_of_word {i : Instr} {n w : Nat} (h : i.slot = some n) (e : encode i = some w) (hn : n < 8) (l : n * 2 ^ 28 ≤ w)
    (u : w < (n + 1) * 2 ^ 28) : SlotWord.Statement i :=
  ⟨fun h' => (by rw [h] at h'; cases h'), fun m h' => ⟨w, e, by omega, by rw [h] at h'; cases h'; omega⟩⟩

theorem Ty.code_lt (t : Ty) : t.code < 16 := by cases t <;> decide

theorem IntTy.code_lt (t : IntTy) : t.code < 8 := by cases t <;> decide

theorem FpTy.code_lt (t : FpTy) : t.code < 4 := by cases t <;> decide

theorem Size.code_lt (t : Size) : t.code < 4 := by cases t <;> decide

theorem FD.code_lt (t : FD) : t.code < 2 := by cases t <;> decide

theorem Cc.code_lt (t : Cc) : t.code < 8 := by cases t <;> decide

theorem Fcc.code_lt (t : Fcc) : t.code < 4 := by cases t <;> decide

theorem Aop.code_lt (t : Aop) : t.code < 16 := by cases t <;> decide

theorem Rop.code_lt (t : Rop) : t.code < 8 := by cases t <;> decide

theorem OrdScope.code_lt (o : OrdScope) : o.code < 32 := by cases o with | mk x y => cases x <;> cases y <;> decide

theorem Xc.code_lt (x : Xc) : x.code < 2048 := by
  have h1 := x.tag.isLt
  have h2 := x.sc.isLt
  have h3 := x.acq.toNat_le
  have h4 := x.rel.toNat_le
  simp only [Xc.code]
  omega

theorem RedTy.fl_lt (t : RedTy) : t.fl < 2 := by cases t <;> simp [RedTy.fl]

theorem RedTy.code_lt (t : RedTy) : t.code < 8 := by cases t with | int x => cases x <;> decide | fp x => cases x <;> decide

theorem SlotWord.nop : SlotWord.Statement .nop := by
  exact slotWord_of_word rfl rfl (by decide) (by rw [Nat.zero_mul]; exact Nat.zero_le _) (by simp only [word]; omega)

theorem SlotWord.stall (n : BitVec 12) : SlotWord.Statement (.stall n) := by
  have h0 := n.isLt
  exact slotWord_of_word rfl rfl (by decide) (by rw [Nat.zero_mul]; exact Nat.zero_le _) (by simp only [word]; omega)

theorem SlotWord.brScalar (nz : Bool) (a : Reg) (o : BitVec 14) : SlotWord.Statement (.brScalar nz a o) := by
  have h0 := nz.toNat_le
  have h1 := a.isLt
  have h2 := o.isLt
  exact slotWord_of_word rfl rfl (by decide) (by rw [Nat.zero_mul]; exact Nat.zero_le _) (by simp only [word]; omega)

theorem SlotWord.brPredicate (neg : Bool) (p : PReg) (o : BitVec 14) : SlotWord.Statement (.brPredicate neg p o) := by
  have h0 := neg.toNat_le
  have h1 := p.isLt
  have h2 := o.isLt
  exact slotWord_of_word rfl rfl (by decide) (by rw [Nat.zero_mul]; exact Nat.zero_le _) (by simp only [word]; omega)

theorem SlotWord.j (o : BitVec 21) : SlotWord.Statement (.j o) := by
  have h0 := o.isLt
  exact slotWord_of_word rfl rfl (by decide) (by rw [Nat.zero_mul]; exact Nat.zero_le _) (by simp only [word]; omega)

theorem SlotWord.jr (a : Reg) : SlotWord.Statement (.jr a) := by
  have h0 := a.isLt
  exact slotWord_of_word rfl rfl (by decide) (by rw [Nat.zero_mul]; exact Nat.zero_le _) (by simp only [word]; omega)

theorem SlotWord.call (o : BitVec 21) : SlotWord.Statement (.call o) := by
  have h0 := o.isLt
  exact slotWord_of_word rfl rfl (by decide) (by rw [Nat.zero_mul]; exact Nat.zero_le _) (by simp only [word]; omega)

theorem SlotWord.callr (a : Reg) : SlotWord.Statement (.callr a) := by
  have h0 := a.isLt
  exact slotWord_of_word rfl rfl (by decide) (by rw [Nat.zero_mul]; exact Nat.zero_le _) (by simp only [word]; omega)

theorem SlotWord.ret : SlotWord.Statement .ret := by
  exact slotWord_of_word rfl rfl (by decide) (by rw [Nat.zero_mul]; exact Nat.zero_le _) (by simp only [word]; omega)

theorem SlotWord.loop (l : Fin 2) (c : BitVec 10) (e : BitVec 10) : SlotWord.Statement (.loop l c e) := by
  have h0 := l.isLt
  have h1 := c.isLt
  have h2 := e.isLt
  exact slotWord_of_word rfl rfl (by decide) (by rw [Nat.zero_mul]; exact Nat.zero_le _) (by simp only [word]; omega)

theorem SlotWord.loops (l : Fin 2) (a : Reg) (e : BitVec 10) : SlotWord.Statement (.loops l a e) := by
  have h0 := l.isLt
  have h1 := a.isLt
  have h2 := e.isLt
  exact slotWord_of_word rfl rfl (by decide) (by rw [Nat.zero_mul]; exact Nat.zero_le _) (by simp only [word]; omega)

theorem SlotWord.lbrk (l : Fin 2) : SlotWord.Statement (.lbrk l) := by
  have h0 := l.isLt
  exact slotWord_of_word rfl rfl (by decide) (by rw [Nat.zero_mul]; exact Nat.zero_le _) (by simp only [word]; omega)

theorem SlotWord.tend : SlotWord.Statement .tend := by
  exact slotWord_of_word rfl rfl (by decide) (by rw [Nat.zero_mul]; exact Nat.zero_le _) (by simp only [word]; omega)

theorem SlotWord.tyield : SlotWord.Statement .tyield := by
  exact slotWord_of_word rfl rfl (by decide) (by rw [Nat.zero_mul]; exact Nat.zero_le _) (by simp only [word]; omega)

theorem SlotWord.trap (c : BitVec 8) : SlotWord.Statement (.trap c) := by
  have h0 := c.isLt
  exact slotWord_of_word rfl rfl (by decide) (by rw [Nat.zero_mul]; exact Nat.zero_le _) (by simp only [word]; omega)

theorem SlotWord.tret : SlotWord.Statement .tret := by
  exact slotWord_of_word rfl rfl (by decide) (by rw [Nat.zero_mul]; exact Nat.zero_le _) (by simp only [word]; omega)

theorem SlotWord.wtall (a : Reg) : SlotWord.Statement (.wtall a) := by
  have h0 := a.isLt
  exact slotWord_of_word rfl rfl (by decide) (by rw [Nat.zero_mul]; exact Nat.zero_le _) (by simp only [word]; omega)

theorem SlotWord.wtany (a : Reg) : SlotWord.Statement (.wtany a) := by
  have h0 := a.isLt
  exact slotWord_of_word rfl rfl (by decide) (by rw [Nat.zero_mul]; exact Nat.zero_le _) (by simp only [word]; omega)

theorem SlotWord.tffr (d a : Reg) : SlotWord.Statement (.tffr d a) := by
  have h0 := d.isLt
  have h1 := a.isLt
  exact slotWord_of_word rfl rfl (by decide) (by rw [Nat.zero_mul]; exact Nat.zero_le _) (by simp only [word]; omega)

theorem SlotWord.tclr (a : Reg) : SlotWord.Statement (.tclr a) := by
  have h0 := a.isLt
  exact slotWord_of_word rfl rfl (by decide) (by rw [Nat.zero_mul]; exact Nat.zero_le _) (by simp only [word]; omega)

theorem SlotWord.cbar (a : Reg) (b : Fin 16) : SlotWord.Statement (.cbar a b) := by
  have h0 := a.isLt
  have h1 := b.isLt
  exact slotWord_of_word rfl rfl (by decide) (by rw [Nat.zero_mul]; exact Nat.zero_le _) (by simp only [word]; omega)

theorem SlotWord.fence (os : OrdScope) : SlotWord.Statement (.fence os) := by
  have h0 := OrdScope.code_lt os
  exact slotWord_of_word rfl rfl (by decide) (by rw [Nat.zero_mul]; exact Nat.zero_le _) (by simp only [word]; omega)

theorem SlotWord.mfc (d : Reg) (c : BitVec 12) : SlotWord.Statement (.mfc d c) := by
  have h0 := d.isLt
  have h1 := c.isLt
  exact slotWord_of_word rfl rfl (by decide) (by rw [Nat.zero_mul]; exact Nat.zero_le _) (by simp only [word]; omega)

theorem SlotWord.mtc (a : Reg) (c : BitVec 12) : SlotWord.Statement (.mtc a c) := by
  have h0 := a.isLt
  have h1 := c.isLt
  exact slotWord_of_word rfl rfl (by decide) (by rw [Nat.zero_mul]; exact Nat.zero_le _) (by simp only [word]; omega)

theorem SlotWord.qpop (d : Reg) : SlotWord.Statement (.qpop d) := by
  have h0 := d.isLt
  exact slotWord_of_word rfl rfl (by decide) (by rw [Nat.zero_mul]; exact Nat.zero_le _) (by simp only [word]; omega)

theorem SlotWord.sync : SlotWord.Statement .sync := by
  exact slotWord_of_word rfl rfl (by decide) (by rw [Nat.zero_mul]; exact Nat.zero_le _) (by simp only [word]; omega)

theorem SlotWord.add (y : AB) (d a b : Reg) : SlotWord.Statement (.add y d a b) := by
  have h1 := d.isLt
  have h2 := a.isLt
  have h3 := b.isLt
  cases y <;> exact slotWord_of_word rfl rfl (by decide) (by simp only [word, AB.code]; omega) (by simp only [word, AB.code]; omega)

theorem SlotWord.sub (y : AB) (d a b : Reg) : SlotWord.Statement (.sub y d a b) := by
  have h1 := d.isLt
  have h2 := a.isLt
  have h3 := b.isLt
  cases y <;> exact slotWord_of_word rfl rfl (by decide) (by simp only [word, AB.code]; omega) (by simp only [word, AB.code]; omega)

theorem SlotWord.addi (y : AB) (d a : Reg) (i : BitVec 11) : SlotWord.Statement (.addi y d a i) := by
  have h1 := d.isLt
  have h2 := a.isLt
  have h3 := i.isLt
  cases y <;> exact slotWord_of_word rfl rfl (by decide) (by simp only [word, AB.code]; omega) (by simp only [word, AB.code]; omega)

theorem SlotWord.movi (y : AB) (d : Reg) (i : BitVec 16) : SlotWord.Statement (.movi y d i) := by
  have h1 := d.isLt
  have h2 := i.isLt
  cases y <;> exact slotWord_of_word rfl rfl (by decide) (by simp only [word, AB.code]; omega) (by simp only [word, AB.code]; omega)

theorem SlotWord.movhi (y : AB) (d : Reg) (i : BitVec 16) : SlotWord.Statement (.movhi y d i) := by
  have h1 := d.isLt
  have h2 := i.isLt
  cases y <;> exact slotWord_of_word rfl rfl (by decide) (by simp only [word, AB.code]; omega) (by simp only [word, AB.code]; omega)

theorem SlotWord.mul (y : AB) (d a b : Reg) : SlotWord.Statement (.mul y d a b) := by
  have h1 := d.isLt
  have h2 := a.isLt
  have h3 := b.isLt
  cases y <;> exact slotWord_of_word rfl rfl (by decide) (by simp only [word, AB.code]; omega) (by simp only [word, AB.code]; omega)

theorem SlotWord.mulhi (y : AB) (d a b : Reg) : SlotWord.Statement (.mulhi y d a b) := by
  have h1 := d.isLt
  have h2 := a.isLt
  have h3 := b.isLt
  cases y <;> exact slotWord_of_word rfl rfl (by decide) (by simp only [word, AB.code]; omega) (by simp only [word, AB.code]; omega)

theorem SlotWord.mulhn (y : AB) (d a b : Reg) : SlotWord.Statement (.mulhn y d a b) := by
  have h1 := d.isLt
  have h2 := a.isLt
  have h3 := b.isLt
  cases y <;> exact slotWord_of_word rfl rfl (by decide) (by simp only [word, AB.code]; omega) (by simp only [word, AB.code]; omega)

theorem SlotWord.div (y : AB) (d a b : Reg) : SlotWord.Statement (.div y d a b) := by
  have h1 := d.isLt
  have h2 := a.isLt
  have h3 := b.isLt
  cases y <;> exact slotWord_of_word rfl rfl (by decide) (by simp only [word, AB.code]; omega) (by simp only [word, AB.code]; omega)

theorem SlotWord.divn (y : AB) (d a b : Reg) : SlotWord.Statement (.divn y d a b) := by
  have h1 := d.isLt
  have h2 := a.isLt
  have h3 := b.isLt
  cases y <;> exact slotWord_of_word rfl rfl (by decide) (by simp only [word, AB.code]; omega) (by simp only [word, AB.code]; omega)

theorem SlotWord.rem (y : AB) (d a b : Reg) : SlotWord.Statement (.rem y d a b) := by
  have h1 := d.isLt
  have h2 := a.isLt
  have h3 := b.isLt
  cases y <;> exact slotWord_of_word rfl rfl (by decide) (by simp only [word, AB.code]; omega) (by simp only [word, AB.code]; omega)

theorem SlotWord.remn (y : AB) (d a b : Reg) : SlotWord.Statement (.remn y d a b) := by
  have h1 := d.isLt
  have h2 := a.isLt
  have h3 := b.isLt
  cases y <;> exact slotWord_of_word rfl rfl (by decide) (by simp only [word, AB.code]; omega) (by simp only [word, AB.code]; omega)

theorem SlotWord.and (y : AB) (d a b : Reg) : SlotWord.Statement (.and y d a b) := by
  have h1 := d.isLt
  have h2 := a.isLt
  have h3 := b.isLt
  cases y <;> exact slotWord_of_word rfl rfl (by decide) (by simp only [word, AB.code]; omega) (by simp only [word, AB.code]; omega)

theorem SlotWord.or (y : AB) (d a b : Reg) : SlotWord.Statement (.or y d a b) := by
  have h1 := d.isLt
  have h2 := a.isLt
  have h3 := b.isLt
  cases y <;> exact slotWord_of_word rfl rfl (by decide) (by simp only [word, AB.code]; omega) (by simp only [word, AB.code]; omega)

theorem SlotWord.xor (y : AB) (d a b : Reg) : SlotWord.Statement (.xor y d a b) := by
  have h1 := d.isLt
  have h2 := a.isLt
  have h3 := b.isLt
  cases y <;> exact slotWord_of_word rfl rfl (by decide) (by simp only [word, AB.code]; omega) (by simp only [word, AB.code]; omega)

theorem SlotWord.andn (y : AB) (d a b : Reg) : SlotWord.Statement (.andn y d a b) := by
  have h1 := d.isLt
  have h2 := a.isLt
  have h3 := b.isLt
  cases y <;> exact slotWord_of_word rfl rfl (by decide) (by simp only [word, AB.code]; omega) (by simp only [word, AB.code]; omega)

theorem SlotWord.andi (y : AB) (d a : Reg) (i : BitVec 11) : SlotWord.Statement (.andi y d a i) := by
  have h1 := d.isLt
  have h2 := a.isLt
  have h3 := i.isLt
  cases y <;> exact slotWord_of_word rfl rfl (by decide) (by simp only [word, AB.code]; omega) (by simp only [word, AB.code]; omega)

theorem SlotWord.ori (y : AB) (d a : Reg) (i : BitVec 11) : SlotWord.Statement (.ori y d a i) := by
  have h1 := d.isLt
  have h2 := a.isLt
  have h3 := i.isLt
  cases y <;> exact slotWord_of_word rfl rfl (by decide) (by simp only [word, AB.code]; omega) (by simp only [word, AB.code]; omega)

theorem SlotWord.xori (y : AB) (d a : Reg) (i : BitVec 11) : SlotWord.Statement (.xori y d a i) := by
  have h1 := d.isLt
  have h2 := a.isLt
  have h3 := i.isLt
  cases y <;> exact slotWord_of_word rfl rfl (by decide) (by simp only [word, AB.code]; omega) (by simp only [word, AB.code]; omega)

theorem SlotWord.shl (y : AB) (d a b : Reg) : SlotWord.Statement (.shl y d a b) := by
  have h1 := d.isLt
  have h2 := a.isLt
  have h3 := b.isLt
  cases y <;> exact slotWord_of_word rfl rfl (by decide) (by simp only [word, AB.code]; omega) (by simp only [word, AB.code]; omega)

theorem SlotWord.shrl (y : AB) (d a b : Reg) : SlotWord.Statement (.shrl y d a b) := by
  have h1 := d.isLt
  have h2 := a.isLt
  have h3 := b.isLt
  cases y <;> exact slotWord_of_word rfl rfl (by decide) (by simp only [word, AB.code]; omega) (by simp only [word, AB.code]; omega)

theorem SlotWord.shra (y : AB) (d a b : Reg) : SlotWord.Statement (.shra y d a b) := by
  have h1 := d.isLt
  have h2 := a.isLt
  have h3 := b.isLt
  cases y <;> exact slotWord_of_word rfl rfl (by decide) (by simp only [word, AB.code]; omega) (by simp only [word, AB.code]; omega)

theorem SlotWord.shli (y : AB) (d a : Reg) (h : Fin 64) : SlotWord.Statement (.shli y d a h) := by
  have h1 := d.isLt
  have h2 := a.isLt
  have h3 := h.isLt
  cases y <;> exact slotWord_of_word rfl rfl (by decide) (by simp only [word, AB.code]; omega) (by simp only [word, AB.code]; omega)

theorem SlotWord.shrli (y : AB) (d a : Reg) (h : Fin 64) : SlotWord.Statement (.shrli y d a h) := by
  have h1 := d.isLt
  have h2 := a.isLt
  have h3 := h.isLt
  cases y <;> exact slotWord_of_word rfl rfl (by decide) (by simp only [word, AB.code]; omega) (by simp only [word, AB.code]; omega)

theorem SlotWord.shrai (y : AB) (d a : Reg) (h : Fin 64) : SlotWord.Statement (.shrai y d a h) := by
  have h1 := d.isLt
  have h2 := a.isLt
  have h3 := h.isLt
  cases y <;> exact slotWord_of_word rfl rfl (by decide) (by simp only [word, AB.code]; omega) (by simp only [word, AB.code]; omega)

theorem SlotWord.clz (y : AB) (d a : Reg) : SlotWord.Statement (.clz y d a) := by
  have h1 := d.isLt
  have h2 := a.isLt
  cases y <;> exact slotWord_of_word rfl rfl (by decide) (by simp only [word, AB.code]; omega) (by simp only [word, AB.code]; omega)

theorem SlotWord.ctz (y : AB) (d a : Reg) : SlotWord.Statement (.ctz y d a) := by
  have h1 := d.isLt
  have h2 := a.isLt
  cases y <;> exact slotWord_of_word rfl rfl (by decide) (by simp only [word, AB.code]; omega) (by simp only [word, AB.code]; omega)

theorem SlotWord.popc (y : AB) (d a : Reg) : SlotWord.Statement (.popc y d a) := by
  have h1 := d.isLt
  have h2 := a.isLt
  cases y <;> exact slotWord_of_word rfl rfl (by decide) (by simp only [word, AB.code]; omega) (by simp only [word, AB.code]; omega)

theorem SlotWord.min (y : AB) (d a b : Reg) : SlotWord.Statement (.min y d a b) := by
  have h1 := d.isLt
  have h2 := a.isLt
  have h3 := b.isLt
  cases y <;> exact slotWord_of_word rfl rfl (by decide) (by simp only [word, AB.code]; omega) (by simp only [word, AB.code]; omega)

theorem SlotWord.max (y : AB) (d a b : Reg) : SlotWord.Statement (.max y d a b) := by
  have h1 := d.isLt
  have h2 := a.isLt
  have h3 := b.isLt
  cases y <;> exact slotWord_of_word rfl rfl (by decide) (by simp only [word, AB.code]; omega) (by simp only [word, AB.code]; omega)

theorem SlotWord.minn (y : AB) (d a b : Reg) : SlotWord.Statement (.minn y d a b) := by
  have h1 := d.isLt
  have h2 := a.isLt
  have h3 := b.isLt
  cases y <;> exact slotWord_of_word rfl rfl (by decide) (by simp only [word, AB.code]; omega) (by simp only [word, AB.code]; omega)

theorem SlotWord.maxn (y : AB) (d a b : Reg) : SlotWord.Statement (.maxn y d a b) := by
  have h1 := d.isLt
  have h2 := a.isLt
  have h3 := b.isLt
  cases y <;> exact slotWord_of_word rfl rfl (by decide) (by simp only [word, AB.code]; omega) (by simp only [word, AB.code]; omega)

theorem SlotWord.sel (y : AB) (d a b : Reg) (p : PReg) : SlotWord.Statement (.sel y d a b p) := by
  have h1 := d.isLt
  have h2 := a.isLt
  have h3 := b.isLt
  have h4 := p.isLt
  cases y <;> exact slotWord_of_word rfl rfl (by decide) (by simp only [word, AB.code]; omega) (by simp only [word, AB.code]; omega)

theorem SlotWord.cmp (y : AB) (d a b : Reg) (c : Cc) : SlotWord.Statement (.cmp y d a b c) := by
  have h1 := d.isLt
  have h2 := a.isLt
  have h3 := b.isLt
  have h4 := Cc.code_lt c
  cases y <;> exact slotWord_of_word rfl rfl (by decide) (by simp only [word, AB.code]; omega) (by simp only [word, AB.code]; omega)

theorem SlotWord.cmpi (y : AB) (d a : Reg) (c : Cc) (i : BitVec 8) : SlotWord.Statement (.cmpi y d a c i) := by
  have h1 := d.isLt
  have h2 := a.isLt
  have h3 := Cc.code_lt c
  have h4 := i.isLt
  cases y <;> exact slotWord_of_word rfl rfl (by decide) (by simp only [word, AB.code]; omega) (by simp only [word, AB.code]; omega)

theorem SlotWord.plog (y : AB) (d a b : PReg) (f : BitVec 4) : SlotWord.Statement (.plog y d a b f) := by
  have h1 := d.isLt
  have h2 := a.isLt
  have h3 := b.isLt
  have h4 := f.isLt
  cases y <;> exact slotWord_of_word rfl rfl (by decide) (by simp only [word, AB.code]; omega) (by simp only [word, AB.code]; omega)

theorem SlotWord.pmov (y : AB) (dir : Bool) (x : Reg) (p : PReg) : SlotWord.Statement (.pmov y dir x p) := by
  have h1 := dir.toNat_le
  have h2 := x.isLt
  have h3 := p.isLt
  cases y <;> exact slotWord_of_word rfl rfl (by decide) (by simp only [word, AB.code]; omega) (by simp only [word, AB.code]; omega)

theorem SlotWord.addsc (y : AB) (d a b : Reg) (h : Fin 8) : SlotWord.Statement (.addsc y d a b h) := by
  have h1 := d.isLt
  have h2 := a.isLt
  have h3 := b.isLt
  have h4 := h.isLt
  cases y <;> exact slotWord_of_word rfl rfl (by decide) (by simp only [word, AB.code]; omega) (by simp only [word, AB.code]; omega)

theorem SlotWord.ext (y : AB) (d a : Reg) (p : Fin 64) (l : Fin 32) : SlotWord.Statement (.ext y d a p l) := by
  have h1 := d.isLt
  have h2 := a.isLt
  have h3 := p.isLt
  have h4 := l.isLt
  cases y <;> exact slotWord_of_word rfl rfl (by decide) (by simp only [word, AB.code]; omega) (by simp only [word, AB.code]; omega)

theorem SlotWord.fadd (y : AB) (d a b : Reg) (f : FD) : SlotWord.Statement (.fadd y d a b f) := by
  have h1 := d.isLt
  have h2 := a.isLt
  have h3 := b.isLt
  have h4 := FD.code_lt f
  cases y <;> exact slotWord_of_word rfl rfl (by decide) (by simp only [word, AB.code]; omega) (by simp only [word, AB.code]; omega)

theorem SlotWord.fsub (y : AB) (d a b : Reg) (f : FD) : SlotWord.Statement (.fsub y d a b f) := by
  have h1 := d.isLt
  have h2 := a.isLt
  have h3 := b.isLt
  have h4 := FD.code_lt f
  cases y <;> exact slotWord_of_word rfl rfl (by decide) (by simp only [word, AB.code]; omega) (by simp only [word, AB.code]; omega)

theorem SlotWord.fmul (y : AB) (d a b : Reg) (f : FD) : SlotWord.Statement (.fmul y d a b f) := by
  have h1 := d.isLt
  have h2 := a.isLt
  have h3 := b.isLt
  have h4 := FD.code_lt f
  cases y <;> exact slotWord_of_word rfl rfl (by decide) (by simp only [word, AB.code]; omega) (by simp only [word, AB.code]; omega)

theorem SlotWord.ffma (y : AB) (d a b c : Reg) (f : FD) : SlotWord.Statement (.ffma y d a b c f) := by
  have h1 := d.isLt
  have h2 := a.isLt
  have h3 := b.isLt
  have h4 := c.isLt
  have h5 := FD.code_lt f
  cases y <;> exact slotWord_of_word rfl rfl (by decide) (by simp only [word, AB.code]; omega) (by simp only [word, AB.code]; omega)

theorem SlotWord.fcmp (y : AB) (d a b : Reg) (c : Fcc) (f : FD) : SlotWord.Statement (.fcmp y d a b c f) := by
  have h1 := d.isLt
  have h2 := a.isLt
  have h3 := b.isLt
  have h4 := Fcc.code_lt c
  have h5 := FD.code_lt f
  cases y <;> exact slotWord_of_word rfl rfl (by decide) (by simp only [word, AB.code]; omega) (by simp only [word, AB.code]; omega)

theorem SlotWord.fcvt (y : AB) (d a : Reg) (t f : Ty) : SlotWord.Statement (.fcvt y d a t f) := by
  have h1 := d.isLt
  have h2 := a.isLt
  have h3 := Ty.code_lt t
  have h4 := Ty.code_lt f
  cases y <;> exact slotWord_of_word rfl rfl (by decide) (by simp only [word, AB.code]; omega) (by simp only [word, AB.code]; omega)

theorem SlotWord.fmnx (y : AB) (d a b : Reg) (f : FD) (m : Bool) : SlotWord.Statement (.fmnx y d a b f m) := by
  have h1 := d.isLt
  have h2 := a.isLt
  have h3 := b.isLt
  have h4 := FD.code_lt f
  have h5 := m.toNat_le
  cases y <;> exact slotWord_of_word rfl rfl (by decide) (by simp only [word, AB.code]; omega) (by simp only [word, AB.code]; omega)

theorem SlotWord.lds (d a : Reg) (w : IntTy) (o : BitVec 8) : SlotWord.Statement (.lds d a w o) := by
  have h0 := d.isLt
  have h1 := a.isLt
  have h2 := IntTy.code_lt w
  have h3 := o.isLt
  exact slotWord_of_word rfl rfl (by decide) (by simp only [word]; omega) (by simp only [word]; omega)

theorem SlotWord.sts (b a : Reg) (w : Size) (o : BitVec 8) : SlotWord.Statement (.sts b a w o) := by
  have h0 := b.isLt
  have h1 := a.isLt
  have h2 := Size.code_lt w
  have h3 := o.isLt
  exact slotWord_of_word rfl rfl (by decide) (by simp only [word]; omega) (by simp only [word]; omega)

theorem SlotWord.ldv (d a : Reg) (p : PReg) (o : BitVec 8) : SlotWord.Statement (.ldv d a p o) := by
  have h0 := d.isLt
  have h1 := a.isLt
  have h2 := p.isLt
  have h3 := o.isLt
  exact slotWord_of_word rfl rfl (by decide) (by simp only [word]; omega) (by simp only [word]; omega)

theorem SlotWord.stv (b a : Reg) (p : PReg) (o : BitVec 8) : SlotWord.Statement (.stv b a p o) := by
  have h0 := b.isLt
  have h1 := a.isLt
  have h2 := p.isLt
  have h3 := o.isLt
  exact slotWord_of_word rfl rfl (by decide) (by simp only [word]; omega) (by simp only [word]; omega)

theorem SlotWord.ldvb (d a : Reg) (s : Size) (o : BitVec 8) : SlotWord.Statement (.ldvb d a s o) := by
  have h0 := d.isLt
  have h1 := a.isLt
  have h2 := Size.code_lt s
  have h3 := o.isLt
  exact slotWord_of_word rfl rfl (by decide) (by simp only [word]; omega) (by simp only [word]; omega)

theorem SlotWord.ldvx (d a b : Reg) (p : PReg) (s : Size) : SlotWord.Statement (.ldvx d a b p s) := by
  have h0 := d.isLt
  have h1 := a.isLt
  have h2 := b.isLt
  have h3 := p.isLt
  have h4 := Size.code_lt s
  exact slotWord_of_word rfl rfl (by decide) (by simp only [word]; omega) (by simp only [word]; omega)

theorem SlotWord.stvx (c a b : Reg) (p : PReg) (s : Size) : SlotWord.Statement (.stvx c a b p s) := by
  have h0 := c.isLt
  have h1 := a.isLt
  have h2 := b.isLt
  have h3 := p.isLt
  have h4 := Size.code_lt s
  exact slotWord_of_word rfl rfl (by decide) (by simp only [word]; omega) (by simp only [word]; omega)

theorem SlotWord.ldpm (d : PReg) (a : Reg) (o : BitVec 8) : SlotWord.Statement (.ldpm d a o) := by
  have h0 := d.isLt
  have h1 := a.isLt
  have h2 := o.isLt
  exact slotWord_of_word rfl rfl (by decide) (by simp only [word]; omega) (by simp only [word]; omega)

theorem SlotWord.stpm (b : PReg) (a : Reg) (o : BitVec 8) : SlotWord.Statement (.stpm b a o) := by
  have h0 := b.isLt
  have h1 := a.isLt
  have h2 := o.isLt
  exact slotWord_of_word rfl rfl (by decide) (by simp only [word]; omega) (by simp only [word]; omega)

theorem SlotWord.ldg (d a : Reg) (w : IntTy) (os : OrdScope) : SlotWord.Statement (.ldg d a w os) := by
  have h0 := d.isLt
  have h1 := a.isLt
  have h2 := IntTy.code_lt w
  have h3 := OrdScope.code_lt os
  exact slotWord_of_word rfl rfl (by decide) (by simp only [word]; omega) (by simp only [word]; omega)

theorem SlotWord.stg (b a : Reg) (w : Size) (os : OrdScope) : SlotWord.Statement (.stg b a w os) := by
  have h0 := b.isLt
  have h1 := a.isLt
  have h2 := Size.code_lt w
  have h3 := OrdScope.code_lt os
  exact slotWord_of_word rfl rfl (by decide) (by simp only [word]; omega) (by simp only [word]; omega)

theorem SlotWord.atg (d a : Reg) (p : Aop) (w : Bool) (os : OrdScope) : SlotWord.Statement (.atg d a p w os) := by
  have h0 := d.isLt
  have h1 := a.isLt
  have h2 := Aop.code_lt p
  have h3 := w.toNat_le
  have h4 := OrdScope.code_lt os
  exact slotWord_of_word rfl rfl (by decide) (by simp only [word]; omega) (by simp only [word]; omega)

theorem SlotWord.casg (d a b : Reg) (w : Bool) (os : OrdScope) : SlotWord.Statement (.casg d a b w os) := by
  have h0 := d.isLt
  have h1 := a.isLt
  have h2 := b.isLt
  have h3 := w.toNat_le
  have h4 := OrdScope.code_lt os
  exact slotWord_of_word rfl rfl (by decide) (by simp only [word]; omega) (by simp only [word]; omega)

theorem SlotWord.ats (d a : Reg) (p : Aop) (w : Bool) (os : OrdScope) : SlotWord.Statement (.ats d a p w os) := by
  have h0 := d.isLt
  have h1 := a.isLt
  have h2 := Aop.code_lt p
  have h3 := w.toNat_le
  have h4 := OrdScope.code_lt os
  exact slotWord_of_word rfl rfl (by decide) (by simp only [word]; omega) (by simp only [word]; omega)

theorem SlotWord.cass (d a b : Reg) (w : Bool) (os : OrdScope) : SlotWord.Statement (.cass d a b w os) := by
  have h0 := d.isLt
  have h1 := a.isLt
  have h2 := b.isLt
  have h3 := w.toNat_le
  have h4 := OrdScope.code_lt os
  exact slotWord_of_word rfl rfl (by decide) (by simp only [word]; omega) (by simp only [word]; omega)

theorem SlotWord.vadd (d a b : Reg) (p : PReg) (t : IntTy) : SlotWord.Statement (.vadd d a b p t) := by
  have h0 := d.isLt
  have h1 := a.isLt
  have h2 := b.isLt
  have h3 := p.isLt
  have h4 := IntTy.code_lt t
  exact slotWord_of_word rfl rfl (by decide) (by simp only [word]; omega) (by simp only [word]; omega)

theorem SlotWord.vsub (d a b : Reg) (p : PReg) (t : IntTy) : SlotWord.Statement (.vsub d a b p t) := by
  have h0 := d.isLt
  have h1 := a.isLt
  have h2 := b.isLt
  have h3 := p.isLt
  have h4 := IntTy.code_lt t
  exact slotWord_of_word rfl rfl (by decide) (by simp only [word]; omega) (by simp only [word]; omega)

theorem SlotWord.vmul (d a b : Reg) (p : PReg) (t : IntTy) : SlotWord.Statement (.vmul d a b p t) := by
  have h0 := d.isLt
  have h1 := a.isLt
  have h2 := b.isLt
  have h3 := p.isLt
  have h4 := IntTy.code_lt t
  exact slotWord_of_word rfl rfl (by decide) (by simp only [word]; omega) (by simp only [word]; omega)

theorem SlotWord.vmulhi (d a b : Reg) (p : PReg) (t : IntTy) : SlotWord.Statement (.vmulhi d a b p t) := by
  have h0 := d.isLt
  have h1 := a.isLt
  have h2 := b.isLt
  have h3 := p.isLt
  have h4 := IntTy.code_lt t
  exact slotWord_of_word rfl rfl (by decide) (by simp only [word]; omega) (by simp only [word]; omega)

theorem SlotWord.vmad (d a b : Reg) (p : PReg) (t : IntTy) : SlotWord.Statement (.vmad d a b p t) := by
  have h0 := d.isLt
  have h1 := a.isLt
  have h2 := b.isLt
  have h3 := p.isLt
  have h4 := IntTy.code_lt t
  exact slotWord_of_word rfl rfl (by decide) (by simp only [word]; omega) (by simp only [word]; omega)

theorem SlotWord.vand (d a b : Reg) (p : PReg) (t : IntTy) : SlotWord.Statement (.vand d a b p t) := by
  have h0 := d.isLt
  have h1 := a.isLt
  have h2 := b.isLt
  have h3 := p.isLt
  have h4 := IntTy.code_lt t
  exact slotWord_of_word rfl rfl (by decide) (by simp only [word]; omega) (by simp only [word]; omega)

theorem SlotWord.vor (d a b : Reg) (p : PReg) (t : IntTy) : SlotWord.Statement (.vor d a b p t) := by
  have h0 := d.isLt
  have h1 := a.isLt
  have h2 := b.isLt
  have h3 := p.isLt
  have h4 := IntTy.code_lt t
  exact slotWord_of_word rfl rfl (by decide) (by simp only [word]; omega) (by simp only [word]; omega)

theorem SlotWord.vxor (d a b : Reg) (p : PReg) (t : IntTy) : SlotWord.Statement (.vxor d a b p t) := by
  have h0 := d.isLt
  have h1 := a.isLt
  have h2 := b.isLt
  have h3 := p.isLt
  have h4 := IntTy.code_lt t
  exact slotWord_of_word rfl rfl (by decide) (by simp only [word]; omega) (by simp only [word]; omega)

theorem SlotWord.vshl (d a b : Reg) (p : PReg) (t : IntTy) : SlotWord.Statement (.vshl d a b p t) := by
  have h0 := d.isLt
  have h1 := a.isLt
  have h2 := b.isLt
  have h3 := p.isLt
  have h4 := IntTy.code_lt t
  exact slotWord_of_word rfl rfl (by decide) (by simp only [word]; omega) (by simp only [word]; omega)

theorem SlotWord.vshrl (d a b : Reg) (p : PReg) (t : IntTy) : SlotWord.Statement (.vshrl d a b p t) := by
  have h0 := d.isLt
  have h1 := a.isLt
  have h2 := b.isLt
  have h3 := p.isLt
  have h4 := IntTy.code_lt t
  exact slotWord_of_word rfl rfl (by decide) (by simp only [word]; omega) (by simp only [word]; omega)

theorem SlotWord.vshra (d a b : Reg) (p : PReg) (t : IntTy) : SlotWord.Statement (.vshra d a b p t) := by
  have h0 := d.isLt
  have h1 := a.isLt
  have h2 := b.isLt
  have h3 := p.isLt
  have h4 := IntTy.code_lt t
  exact slotWord_of_word rfl rfl (by decide) (by simp only [word]; omega) (by simp only [word]; omega)

theorem SlotWord.vmin (d a b : Reg) (p : PReg) (t : IntTy) : SlotWord.Statement (.vmin d a b p t) := by
  have h0 := d.isLt
  have h1 := a.isLt
  have h2 := b.isLt
  have h3 := p.isLt
  have h4 := IntTy.code_lt t
  exact slotWord_of_word rfl rfl (by decide) (by simp only [word]; omega) (by simp only [word]; omega)

theorem SlotWord.vmax (d a b : Reg) (p : PReg) (t : IntTy) : SlotWord.Statement (.vmax d a b p t) := by
  have h0 := d.isLt
  have h1 := a.isLt
  have h2 := b.isLt
  have h3 := p.isLt
  have h4 := IntTy.code_lt t
  exact slotWord_of_word rfl rfl (by decide) (by simp only [word]; omega) (by simp only [word]; omega)

theorem SlotWord.vabs (d a : Reg) (p : PReg) (t : IntTy) : SlotWord.Statement (.vabs d a p t) := by
  have h0 := d.isLt
  have h1 := a.isLt
  have h2 := p.isLt
  have h3 := IntTy.code_lt t
  exact slotWord_of_word rfl rfl (by decide) (by simp only [word]; omega) (by simp only [word]; omega)

theorem SlotWord.vneg (d a : Reg) (p : PReg) (t : IntTy) : SlotWord.Statement (.vneg d a p t) := by
  have h0 := d.isLt
  have h1 := a.isLt
  have h2 := p.isLt
  have h3 := IntTy.code_lt t
  exact slotWord_of_word rfl rfl (by decide) (by simp only [word]; omega) (by simp only [word]; omega)

theorem SlotWord.vsel (d a b : Reg) (p : PReg) (t : IntTy) : SlotWord.Statement (.vsel d a b p t) := by
  have h0 := d.isLt
  have h1 := a.isLt
  have h2 := b.isLt
  have h3 := p.isLt
  have h4 := IntTy.code_lt t
  exact slotWord_of_word rfl rfl (by decide) (by simp only [word]; omega) (by simp only [word]; omega)

theorem SlotWord.vcmp (d : PReg) (c : Cc) (a b : Reg) (t : IntTy) : SlotWord.Statement (.vcmp d c a b t) := by
  have h0 := d.isLt
  have h1 := Cc.code_lt c
  have h2 := a.isLt
  have h3 := b.isLt
  have h4 := IntTy.code_lt t
  exact slotWord_of_word rfl rfl (by decide) (by simp only [word]; omega) (by simp only [word]; omega)

theorem SlotWord.vfadd (d a b : Reg) (p : PReg) (t : FpTy) : SlotWord.Statement (.vfadd d a b p t) := by
  have h0 := d.isLt
  have h1 := a.isLt
  have h2 := b.isLt
  have h3 := p.isLt
  have h4 := FpTy.code_lt t
  exact slotWord_of_word rfl rfl (by decide) (by simp only [word]; omega) (by simp only [word]; omega)

theorem SlotWord.vfsub (d a b : Reg) (p : PReg) (t : FpTy) : SlotWord.Statement (.vfsub d a b p t) := by
  have h0 := d.isLt
  have h1 := a.isLt
  have h2 := b.isLt
  have h3 := p.isLt
  have h4 := FpTy.code_lt t
  exact slotWord_of_word rfl rfl (by decide) (by simp only [word]; omega) (by simp only [word]; omega)

theorem SlotWord.vfmul (d a b : Reg) (p : PReg) (t : FpTy) : SlotWord.Statement (.vfmul d a b p t) := by
  have h0 := d.isLt
  have h1 := a.isLt
  have h2 := b.isLt
  have h3 := p.isLt
  have h4 := FpTy.code_lt t
  exact slotWord_of_word rfl rfl (by decide) (by simp only [word]; omega) (by simp only [word]; omega)

theorem SlotWord.vffma (d a b : Reg) (p : PReg) (t : FpTy) : SlotWord.Statement (.vffma d a b p t) := by
  have h0 := d.isLt
  have h1 := a.isLt
  have h2 := b.isLt
  have h3 := p.isLt
  have h4 := FpTy.code_lt t
  exact slotWord_of_word rfl rfl (by decide) (by simp only [word]; omega) (by simp only [word]; omega)

theorem SlotWord.vfdiv (d a b : Reg) (p : PReg) (t : FpTy) : SlotWord.Statement (.vfdiv d a b p t) := by
  have h0 := d.isLt
  have h1 := a.isLt
  have h2 := b.isLt
  have h3 := p.isLt
  have h4 := FpTy.code_lt t
  exact slotWord_of_word rfl rfl (by decide) (by simp only [word]; omega) (by simp only [word]; omega)

theorem SlotWord.vfsqrt (d a : Reg) (p : PReg) (t : FpTy) : SlotWord.Statement (.vfsqrt d a p t) := by
  have h0 := d.isLt
  have h1 := a.isLt
  have h2 := p.isLt
  have h3 := FpTy.code_lt t
  exact slotWord_of_word rfl rfl (by decide) (by simp only [word]; omega) (by simp only [word]; omega)

theorem SlotWord.vfrcp (d a : Reg) (p : PReg) (t : FpTy) : SlotWord.Statement (.vfrcp d a p t) := by
  have h0 := d.isLt
  have h1 := a.isLt
  have h2 := p.isLt
  have h3 := FpTy.code_lt t
  exact slotWord_of_word rfl rfl (by decide) (by simp only [word]; omega) (by simp only [word]; omega)

theorem SlotWord.vfrsq (d a : Reg) (p : PReg) (t : FpTy) : SlotWord.Statement (.vfrsq d a p t) := by
  have h0 := d.isLt
  have h1 := a.isLt
  have h2 := p.isLt
  have h3 := FpTy.code_lt t
  exact slotWord_of_word rfl rfl (by decide) (by simp only [word]; omega) (by simp only [word]; omega)

theorem SlotWord.vfexp2 (d a : Reg) (p : PReg) (t : FpTy) : SlotWord.Statement (.vfexp2 d a p t) := by
  have h0 := d.isLt
  have h1 := a.isLt
  have h2 := p.isLt
  have h3 := FpTy.code_lt t
  exact slotWord_of_word rfl rfl (by decide) (by simp only [word]; omega) (by simp only [word]; omega)

theorem SlotWord.vflog2 (d a : Reg) (p : PReg) (t : FpTy) : SlotWord.Statement (.vflog2 d a p t) := by
  have h0 := d.isLt
  have h1 := a.isLt
  have h2 := p.isLt
  have h3 := FpTy.code_lt t
  exact slotWord_of_word rfl rfl (by decide) (by simp only [word]; omega) (by simp only [word]; omega)

theorem SlotWord.vfmin (d a b : Reg) (p : PReg) (t : FpTy) : SlotWord.Statement (.vfmin d a b p t) := by
  have h0 := d.isLt
  have h1 := a.isLt
  have h2 := b.isLt
  have h3 := p.isLt
  have h4 := FpTy.code_lt t
  exact slotWord_of_word rfl rfl (by decide) (by simp only [word]; omega) (by simp only [word]; omega)

theorem SlotWord.vfmax (d a b : Reg) (p : PReg) (t : FpTy) : SlotWord.Statement (.vfmax d a b p t) := by
  have h0 := d.isLt
  have h1 := a.isLt
  have h2 := b.isLt
  have h3 := p.isLt
  have h4 := FpTy.code_lt t
  exact slotWord_of_word rfl rfl (by decide) (by simp only [word]; omega) (by simp only [word]; omega)

theorem SlotWord.vfcmp (d : PReg) (c : Fcc) (a b : Reg) (t : FpTy) : SlotWord.Statement (.vfcmp d c a b t) := by
  have h0 := d.isLt
  have h1 := Fcc.code_lt c
  have h2 := a.isLt
  have h3 := b.isLt
  have h4 := FpTy.code_lt t
  exact slotWord_of_word rfl rfl (by decide) (by simp only [word]; omega) (by simp only [word]; omega)

theorem SlotWord.vcvt (d a : Reg) (t f : Ty) (p : PReg) : SlotWord.Statement (.vcvt d a t f p) := by
  have h0 := d.isLt
  have h1 := a.isLt
  have h2 := Ty.code_lt t
  have h3 := Ty.code_lt f
  have h4 := p.isLt
  exact slotWord_of_word rfl rfl (by decide) (by simp only [word]; omega) (by simp only [word]; omega)

theorem SlotWord.vqnt (d a : Reg) (t f : Ty) (p : PReg) : SlotWord.Statement (.vqnt d a t f p) := by
  have h0 := d.isLt
  have h1 := a.isLt
  have h2 := Ty.code_lt t
  have h3 := Ty.code_lt f
  have h4 := p.isLt
  exact slotWord_of_word rfl rfl (by decide) (by simp only [word]; omega) (by simp only [word]; omega)

theorem SlotWord.vdqnt (d a : Reg) (t f : Ty) (p : PReg) : SlotWord.Statement (.vdqnt d a t f p) := by
  have h0 := d.isLt
  have h1 := a.isLt
  have h2 := Ty.code_lt t
  have h3 := Ty.code_lt f
  have h4 := p.isLt
  exact slotWord_of_word rfl rfl (by decide) (by simp only [word]; omega) (by simp only [word]; omega)

theorem SlotWord.vred (d a : Reg) (r : Rop) (p : PReg) (t : RedTy) : SlotWord.Statement (.vred d a r p t) := by
  have h0 := d.isLt
  have h1 := a.isLt
  have h2 := Rop.code_lt r
  have h3 := p.isLt
  have h4 := RedTy.fl_lt t
  have g4 := RedTy.code_lt t
  exact slotWord_of_word rfl rfl (by decide) (by simp only [word]; omega) (by simp only [word]; omega)

theorem SlotWord.vscan (d a : Reg) (r : Rop) (p : PReg) (t : RedTy) (e : Bool) : SlotWord.Statement (.vscan d a r p t e) := by
  have h0 := d.isLt
  have h1 := a.isLt
  have h2 := Rop.code_lt r
  have h3 := p.isLt
  have h4 := RedTy.fl_lt t
  have g4 := RedTy.code_lt t
  have h5 := e.toNat_le
  exact slotWord_of_word rfl rfl (by decide) (by simp only [word]; omega) (by simp only [word]; omega)

theorem SlotWord.vperm (d a b : Reg) (p : PReg) (t : IntTy) : SlotWord.Statement (.vperm d a b p t) := by
  have h0 := d.isLt
  have h1 := a.isLt
  have h2 := b.isLt
  have h3 := p.isLt
  have h4 := IntTy.code_lt t
  exact slotWord_of_word rfl rfl (by decide) (by simp only [word]; omega) (by simp only [word]; omega)

theorem SlotWord.vbcst (d a : Reg) (p : PReg) (t : IntTy) : SlotWord.Statement (.vbcst d a p t) := by
  have h0 := d.isLt
  have h1 := a.isLt
  have h2 := p.isLt
  have h3 := IntTy.code_lt t
  exact slotWord_of_word rfl rfl (by decide) (by simp only [word]; omega) (by simp only [word]; omega)

theorem SlotWord.viota (d a : Reg) (p : PReg) (t : IntTy) : SlotWord.Statement (.viota d a p t) := by
  have h0 := d.isLt
  have h1 := a.isLt
  have h2 := p.isLt
  have h3 := IntTy.code_lt t
  exact slotWord_of_word rfl rfl (by decide) (by simp only [word]; omega) (by simp only [word]; omega)

theorem SlotWord.vcmpr (d a : Reg) (p : PReg) (t : IntTy) : SlotWord.Statement (.vcmpr d a p t) := by
  have h0 := d.isLt
  have h1 := a.isLt
  have h2 := p.isLt
  have h3 := IntTy.code_lt t
  exact slotWord_of_word rfl rfl (by decide) (by simp only [word]; omega) (by simp only [word]; omega)

theorem SlotWord.vmovs (d a b : Reg) (dir : Bool) (t : IntTy) : SlotWord.Statement (.vmovs d a b dir t) := by
  have h0 := d.isLt
  have h1 := a.isLt
  have h2 := b.isLt
  have h3 := dir.toNat_le
  have h4 := IntTy.code_lt t
  exact slotWord_of_word rfl rfl (by decide) (by simp only [word]; omega) (by simp only [word]; omega)

theorem SlotWord.vdefer (a b c : Reg) (p : PReg) (n : Fin 4) : SlotWord.Statement (.vdefer a b c p n) := by
  have h0 := a.isLt
  have h1 := b.isLt
  have h2 := c.isLt
  have h3 := p.isLt
  have h4 := n.isLt
  exact slotWord_of_word rfl rfl (by decide) (by simp only [word]; omega) (by simp only [word]; omega)

theorem SlotWord.vdrain (d c : Reg) (p : PReg) (l : Bool) (n : Fin 4) : SlotWord.Statement (.vdrain d c p l n) := by
  have h0 := d.isLt
  have h1 := c.isLt
  have h2 := p.isLt
  have h3 := l.toNat_le
  have h4 := n.isLt
  exact slotWord_of_word rfl rfl (by decide) (by simp only [word]; omega) (by simp only [word]; omega)

theorem SlotWord.vtoq (a b : Reg) (t : IntTy) : SlotWord.Statement (.vtoq a b t) := by
  have h0 := a.isLt
  have h1 := b.isLt
  have h2 := IntTy.code_lt t
  exact slotWord_of_word rfl rfl (by decide) (by simp only [word]; omega) (by simp only [word]; omega)

theorem SlotWord.vsred (d a b : Reg) (r : Rop) (t : RedTy) : SlotWord.Statement (.vsred d a b r t) := by
  have h0 := d.isLt
  have h1 := a.isLt
  have h2 := b.isLt
  have h3 := Rop.code_lt r
  have h4 := RedTy.fl_lt t
  have g4 := RedTy.code_lt t
  exact slotWord_of_word rfl rfl (by decide) (by simp only [word]; omega) (by simp only [word]; omega)

theorem SlotWord.mldw (w : Fin 2) (f : Bool) (a : Reg) : SlotWord.Statement (.mldw w f a) := by
  have h0 := w.isLt
  have h1 := f.toNat_le
  have h2 := a.isLt
  exact slotWord_of_word rfl rfl (by decide) (by simp only [word]; omega) (by simp only [word]; omega)

theorem SlotWord.mmul (t : TileNo) (a : Reg) (g : Fin 4) (b : Fin 8) (c : Reg) : SlotWord.Statement (.mmul t a g b c) := by
  have h0 := t.isLt
  have h1 := a.isLt
  have h2 := g.isLt
  have h3 := b.isLt
  have h4 := c.isLt
  exact slotWord_of_word rfl rfl (by decide) (by simp only [word]; omega) (by simp only [word]; omega)

theorem SlotWord.mzero (t : TileNo) : SlotWord.Statement (.mzero t) := by
  have h0 := t.isLt
  exact slotWord_of_word rfl rfl (by decide) (by simp only [word]; omega) (by simp only [word]; omega)

theorem SlotWord.mload (t : TileNo) (a : Reg) : SlotWord.Statement (.mload t a) := by
  have h0 := t.isLt
  have h1 := a.isLt
  exact slotWord_of_word rfl rfl (by decide) (by simp only [word]; omega) (by simp only [word]; omega)

theorem SlotWord.mdrain (t : TileNo) (a : Reg) (k : Ty) (p : PReg) (c : Bool) : SlotWord.Statement (.mdrain t a k p c) := by
  have h0 := t.isLt
  have h1 := a.isLt
  have h2 := Ty.code_lt k
  have h3 := p.isLt
  have h4 := c.toNat_le
  exact slotWord_of_word rfl rfl (by decide) (by simp only [word]; omega) (by simp only [word]; omega)

theorem SlotWord.mtt (t a b : TileNo) : SlotWord.Statement (.mtt t a b) := by
  have h0 := t.isLt
  have h1 := a.isLt
  have h2 := b.isLt
  exact slotWord_of_word rfl rfl (by decide) (by simp only [word]; omega) (by simp only [word]; omega)

theorem SlotWord.maddt (t a b : TileNo) : SlotWord.Statement (.maddt t a b) := by
  have h0 := t.isLt
  have h1 := a.isLt
  have h2 := b.isLt
  exact slotWord_of_word rfl rfl (by decide) (by simp only [word]; omega) (by simp only [word]; omega)

theorem SlotWord.mscl (t a : TileNo) (s : Reg) : SlotWord.Statement (.mscl t a s) := by
  have h0 := t.isLt
  have h1 := a.isLt
  have h2 := s.isLt
  exact slotWord_of_word rfl rfl (by decide) (by simp only [word]; omega) (by simp only [word]; omega)

theorem SlotWord.mtrn (t a : TileNo) : SlotWord.Statement (.mtrn t a) := by
  have h0 := t.isLt
  have h1 := a.isLt
  exact slotWord_of_word rfl rfl (by decide) (by simp only [word]; omega) (by simp only [word]; omega)

theorem SlotWord.mnorm (d : Reg) (a : TileNo) : SlotWord.Statement (.mnorm d a) := by
  have h0 := d.isLt
  have h1 := a.isLt
  exact slotWord_of_word rfl rfl (by decide) (by simp only [word]; omega) (by simp only [word]; omega)

theorem SlotWord.mpoly (t a : TileNo) (g : Fin 8) : SlotWord.Statement (.mpoly t a g) := by
  have h0 := t.isLt
  have h1 := a.isLt
  have h2 := g.isLt
  exact slotWord_of_word rfl rfl (by decide) (by simp only [word]; omega) (by simp only [word]; omega)

theorem SlotWord.miter (t a : TileNo) (m : Bool) : SlotWord.Statement (.miter t a m) := by
  have h0 := t.isLt
  have h1 := a.isLt
  have h2 := m.toNat_le
  exact slotWord_of_word rfl rfl (by decide) (by simp only [word]; omega) (by simp only [word]; omega)

theorem SlotWord.fmt (f : BitVec 10) : SlotWord.Statement (.fmt f) := by
  have h0 := f.isLt
  exact slotWord_of_word rfl rfl (by decide) (by simp only [word]; omega) (by simp only [word]; omega)

theorem SlotWord.fmts (a : Reg) : SlotWord.Statement (.fmts a) := by
  have h0 := a.isLt
  exact slotWord_of_word rfl rfl (by decide) (by simp only [word]; omega) (by simp only [word]; omega)

theorem SlotWord.sla (a : Reg) : SlotWord.Statement (.sla a) := by
  have h0 := a.isLt
  exact slotWord_of_word rfl rfl (by decide) (by simp only [word]; omega) (by simp only [word]; omega)

theorem SlotWord.slb (a : Reg) : SlotWord.Statement (.slb a) := by
  have h0 := a.isLt
  exact slotWord_of_word rfl rfl (by decide) (by simp only [word]; omega) (by simp only [word]; omega)

theorem SlotWord.slq (a : Reg) : SlotWord.Statement (.slq a) := by
  have h0 := a.isLt
  exact slotWord_of_word rfl rfl (by decide) (by simp only [word]; omega) (by simp only [word]; omega)

theorem SlotWord.slz : SlotWord.Statement .slz := by
  exact slotWord_of_word rfl rfl (by decide) (by simp only [word]; omega) (by simp only [word]; omega)

theorem SlotWord.xcp (a : Reg) (x : Xc) : SlotWord.Statement (.xcp a x) := by
  have h0 := a.isLt
  have h1 := Xc.code_lt x
  exact slotWord_of_word rfl rfl (by decide) (by simp only [word]; omega) (by simp only [word]; omega)

theorem SlotWord.xcph (a b : Reg) (x : Xc) : SlotWord.Statement (.xcph a b x) := by
  have h0 := a.isLt
  have h1 := b.isLt
  have h2 := Xc.code_lt x
  exact slotWord_of_word rfl rfl (by decide) (by simp only [word]; omega) (by simp only [word]; omega)

theorem SlotWord.xmc (a b : Reg) (x : Xc) : SlotWord.Statement (.xmc a b x) := by
  have h0 := a.isLt
  have h1 := b.isLt
  have h2 := Xc.code_lt x
  exact slotWord_of_word rfl rfl (by decide) (by simp only [word]; omega) (by simp only [word]; omega)

theorem SlotWord.xga (a b : Reg) (x : Xc) : SlotWord.Statement (.xga a b x) := by
  have h0 := a.isLt
  have h1 := b.isLt
  have h2 := Xc.code_lt x
  exact slotWord_of_word rfl rfl (by decide) (by simp only [word]; omega) (by simp only [word]; omega)

theorem SlotWord.xsc (a b : Reg) (x : Xc) : SlotWord.Statement (.xsc a b x) := by
  have h0 := a.isLt
  have h1 := b.isLt
  have h2 := Xc.code_lt x
  exact slotWord_of_word rfl rfl (by decide) (by simp only [word]; omega) (by simp only [word]; omega)

theorem SlotWord.xwin (a b : Reg) (drop : Bool) : SlotWord.Statement (.xwin a b drop) := by
  have h0 := a.isLt
  have h1 := b.isLt
  have h2 := drop.toNat_le
  exact slotWord_of_word rfl rfl (by decide) (by simp only [word]; omega) (by simp only [word]; omega)

theorem SlotWord.xwb (a : Reg) (x : Xc) : SlotWord.Statement (.xwb a x) := by
  have h0 := a.isLt
  have h1 := Xc.code_lt x
  exact slotWord_of_word rfl rfl (by decide) (by simp only [word]; omega) (by simp only [word]; omega)

theorem SlotWord.xinv (a : Reg) (x : Xc) : SlotWord.Statement (.xinv a x) := by
  have h0 := a.isLt
  have h1 := Xc.code_lt x
  exact slotWord_of_word rfl rfl (by decide) (by simp only [word]; omega) (by simp only [word]; omega)

theorem SlotWord.xgate (a : Reg) (x : Xc) : SlotWord.Statement (.xgate a x) := by
  have h0 := a.isLt
  have h1 := Xc.code_lt x
  exact slotWord_of_word rfl rfl (by decide) (by simp only [word]; omega) (by simp only [word]; omega)

theorem SlotWord.xcan (a : Reg) : SlotWord.Statement (.xcan a) := by
  have h0 := a.isLt
  exact slotWord_of_word rfl rfl (by decide) (by simp only [word]; omega) (by simp only [word]; omega)

theorem SlotWord.qenq (p : PReg) (a b : Reg) : SlotWord.Statement (.qenq p a b) := by
  have h0 := p.isLt
  have h1 := a.isLt
  have h2 := b.isLt
  exact slotWord_of_word rfl rfl (by decide) (by simp only [word]; omega) (by simp only [word]; omega)

theorem SlotWord.qdeq (d a : Reg) : SlotWord.Statement (.qdeq d a) := by
  have h0 := d.isLt
  have h1 := a.isLt
  exact slotWord_of_word rfl rfl (by decide) (by simp only [word]; omega) (by simp only [word]; omega)

theorem SlotWord.tqpush (p : PReg) (a b : Reg) : SlotWord.Statement (.tqpush p a b) := by
  have h0 := p.isLt
  have h1 := a.isLt
  have h2 := b.isLt
  exact slotWord_of_word rfl rfl (by decide) (by simp only [word]; omega) (by simp only [word]; omega)

theorem SlotWord.launch (a : Reg) (x : Xc) : SlotWord.Statement (.launch a x) := by
  have h0 := a.isLt
  have h1 := Xc.code_lt x
  exact slotWord_of_word rfl rfl (by decide) (by simp only [word]; omega) (by simp only [word]; omega)

theorem SlotWord.gsmpl (a b : Reg) (x : Xc) : SlotWord.Statement (.gsmpl a b x) := by
  have h0 := a.isLt
  have h1 := b.isLt
  have h2 := Xc.code_lt x
  exact slotWord_of_word rfl rfl (by decide) (by simp only [word]; omega) (by simp only [word]; omega)

theorem SlotWord.gfork (a b : Reg) (x : Xc) : SlotWord.Statement (.gfork a b x) := by
  have h0 := a.isLt
  have h1 := b.isLt
  have h2 := Xc.code_lt x
  exact slotWord_of_word rfl rfl (by decide) (by simp only [word]; omega) (by simp only [word]; omega)

theorem SlotWord.gtrunc (a b : Reg) (x : Xc) : SlotWord.Statement (.gtrunc a b x) := by
  have h0 := a.isLt
  have h1 := b.isLt
  have h2 := Xc.code_lt x
  exact slotWord_of_word rfl rfl (by decide) (by simp only [word]; omega) (by simp only [word]; omega)

theorem SlotWord.gcur (a b : Reg) : SlotWord.Statement (.gcur a b) := by
  have h0 := a.isLt
  have h1 := b.isLt
  exact slotWord_of_word rfl rfl (by decide) (by simp only [word]; omega) (by simp only [word]; omega)

theorem SlotWord.gins (a b : Reg) (x : Xc) : SlotWord.Statement (.gins a b x) := by
  have h0 := a.isLt
  have h1 := b.isLt
  have h2 := Xc.code_lt x
  exact slotWord_of_word rfl rfl (by decide) (by simp only [word]; omega) (by simp only [word]; omega)

theorem SlotWord.gsnap (a : Reg) (x : Xc) : SlotWord.Statement (.gsnap a x) := by
  have h0 := a.isLt
  have h1 := Xc.code_lt x
  exact slotWord_of_word rfl rfl (by decide) (by simp only [word]; omega) (by simp only [word]; omega)

theorem SlotWord.wjw (a : Reg) (x : Xc) : SlotWord.Statement (.wjw a x) := by
  have h0 := a.isLt
  have h1 := Xc.code_lt x
  exact slotWord_of_word rfl rfl (by decide) (by simp only [word]; omega) (by simp only [word]; omega)

theorem SlotWord.wjc (a : Reg) (x : Xc) : SlotWord.Statement (.wjc a x) := by
  have h0 := a.isLt
  have h1 := Xc.code_lt x
  exact slotWord_of_word rfl rfl (by decide) (by simp only [word]; omega) (by simp only [word]; omega)

theorem SlotWord.wja (a : Reg) (x : Xc) : SlotWord.Statement (.wja a x) := by
  have h0 := a.isLt
  have h1 := Xc.code_lt x
  exact slotWord_of_word rfl rfl (by decide) (by simp only [word]; omega) (by simp only [word]; omega)

theorem SlotWord.wjd (a : Reg) (x : Xc) : SlotWord.Statement (.wjd a x) := by
  have h0 := a.isLt
  have h1 := Xc.code_lt x
  exact slotWord_of_word rfl rfl (by decide) (by simp only [word]; omega) (by simp only [word]; omega)

theorem SlotWord.wwear (d a : Reg) : SlotWord.Statement (.wwear d a) := by
  have h0 := d.isLt
  have h1 := a.isLt
  exact slotWord_of_word rfl rfl (by decide) (by simp only [word]; omega) (by simp only [word]; omega)

theorem SlotWord.xhash (a : Reg) (x : Xc) : SlotWord.Statement (.xhash a x) := by
  have h0 := a.isLt
  have h1 := Xc.code_lt x
  exact slotWord_of_word rfl rfl (by decide) (by simp only [word]; omega) (by simp only [word]; omega)

theorem SlotWord.xsign (a : Reg) (x : Xc) : SlotWord.Statement (.xsign a x) := by
  have h0 := a.isLt
  have h1 := Xc.code_lt x
  exact slotWord_of_word rfl rfl (by decide) (by simp only [word]; omega) (by simp only [word]; omega)

theorem SlotWord.xvfy (a : Reg) (x : Xc) : SlotWord.Statement (.xvfy a x) := by
  have h0 := a.isLt
  have h1 := Xc.code_lt x
  exact slotWord_of_word rfl rfl (by decide) (by simp only [word]; omega) (by simp only [word]; omega)

theorem SlotWord.xhint (a b : Reg) : SlotWord.Statement (.xhint a b) := by
  have h0 := a.isLt
  have h1 := b.isLt
  exact slotWord_of_word rfl rfl (by decide) (by simp only [word]; omega) (by simp only [word]; omega)

theorem SlotWord.xpwr (a : Reg) : SlotWord.Statement (.xpwr a) := by
  have h0 := a.isLt
  exact slotWord_of_word rfl rfl (by decide) (by simp only [word]; omega) (by simp only [word]; omega)

theorem SlotWord.xevt (a : Reg) (c : BitVec 8) : SlotWord.Statement (.xevt a c) := by
  have h0 := a.isLt
  have h1 := c.isLt
  exact slotWord_of_word rfl rfl (by decide) (by simp only [word]; omega) (by simp only [word]; omega)

theorem SlotWord.shadowWriteLands (k : CoreId) : SlotWord.Statement (.shadowWriteLands k) := slotWord_of_none rfl rfl

theorem SlotWord.interlockedResultArrives (k : CoreId) (n : Nat) : SlotWord.Statement (.interlockedResultArrives k n) := slotWord_of_none rfl rfl

theorem SlotWord.vtoqPushLands (k : CoreId) : SlotWord.Statement (.vtoqPushLands k) := slotWord_of_none rfl rfl

theorem SlotWord.freezeEnd (k : CoreId) : SlotWord.Statement (.freezeEnd k) := slotWord_of_none rfl rfl

theorem SlotWord.instructionFetchFault (k : CoreId) : SlotWord.Statement (.instructionFetchFault k) := slotWord_of_none rfl rfl

theorem SlotWord.heldAccessFault (k : CoreId) : SlotWord.Statement (.heldAccessFault k) := slotWord_of_none rfl rfl

theorem SlotWord.sideLogReplay (r : TaskRef) (n : Nat) : SlotWord.Statement (.sideLogReplay r n) := slotWord_of_none rfl rfl

theorem SlotWord.gatherScatterElement (k : CoreId) : SlotWord.Statement (.gatherScatterElement k) := slotWord_of_none rfl rfl

theorem SlotWord.vsredVectorRead (k : CoreId) : SlotWord.Statement (.vsredVectorRead k) := slotWord_of_none rfl rfl

theorem SlotWord.mUnitCompletes (k : CoreId) (u : MUnit) : SlotWord.Statement (.mUnitCompletes k u) := slotWord_of_none rfl rfl

theorem SlotWord.miterPhaseEnd (k : CoreId) : SlotWord.Statement (.miterPhaseEnd k) := slotWord_of_none rfl rfl

theorem SlotWord.arrayPoisonDetected (k : CoreId) (u : MUnit) : SlotWord.Statement (.arrayPoisonDetected k u) := slotWord_of_none rfl rfl

theorem SlotWord.remoteAccessArrives (k : CoreId) (n : Nat) : SlotWord.Statement (.remoteAccessArrives k n) := slotWord_of_none rfl rfl

theorem SlotWord.waitConditionHolds (k : CoreId) : SlotWord.Statement (.waitConditionHolds k) := slotWord_of_none rfl rfl

theorem SlotWord.parkedConditionHolds (cl : Nat) (slot : Nat) : SlotWord.Statement (.parkedConditionHolds cl slot) := slotWord_of_none rfl rfl

theorem SlotWord.tendWaitEnds (k : CoreId) : SlotWord.Statement (.tendWaitEnds k) := slotWord_of_none rfl rfl

theorem SlotWord.completionSignals (n : Nat) : SlotWord.Statement (.completionSignals n) := slotWord_of_none rfl rfl

theorem SlotWord.sliceExpiry (k : CoreId) : SlotWord.Statement (.sliceExpiry k) := slotWord_of_none rfl rfl

theorem SlotWord.priorityPreemption (cl : Nat) : SlotWord.Statement (.priorityPreemption cl) := slotWord_of_none rfl rfl

theorem SlotWord.preempted (cl : Nat) : SlotWord.Statement (.preempted cl) := slotWord_of_none rfl rfl

theorem SlotWord.supqItemAppend (cl : Nat) : SlotWord.Statement (.supqItemAppend cl) := slotWord_of_none rfl rfl

theorem SlotWord.schedulerBind (cl : Nat) : SlotWord.Statement (.schedulerBind cl) := slotWord_of_none rfl rfl

theorem SlotWord.copyBoxComplete (r : TaskRef) (tag : Fin 64) (box : Nat) : SlotWord.Statement (.copyBoxComplete r tag box) := slotWord_of_none rfl rfl

theorem SlotWord.engineFaultDelivery (k : CoreId) : SlotWord.Statement (.engineFaultDelivery k) := slotWord_of_none rfl rfl

theorem SlotWord.commandCompletes (r : TaskRef) (tag : Fin 64) : SlotWord.Statement (.commandCompletes r tag) := slotWord_of_none rfl rfl

theorem SlotWord.windowFillCompletes (k : CoreId) : SlotWord.Statement (.windowFillCompletes k) := slotWord_of_none rfl rfl

theorem SlotWord.backgroundWriteback (k : CoreId) (win : Nat) (piece : Nat) : SlotWord.Statement (.backgroundWriteback k win piece) := slotWord_of_none rfl rfl

theorem SlotWord.storeAcknowledged (cl : Nat) (n : Nat) : SlotWord.Statement (.storeAcknowledged cl n) := slotWord_of_none rfl rfl

theorem SlotWord.fenceMarkerAck (k : CoreId) (vat : Nat) : SlotWord.Statement (.fenceMarkerAck k vat) := slotWord_of_none rfl rfl

theorem SlotWord.qdeqItemDelivered (part : Nat) (qn : Nat) : SlotWord.Statement (.qdeqItemDelivered part qn) := slotWord_of_none rfl rfl

theorem SlotWord.pushRecord (vf : Nat) : SlotWord.Statement (.pushRecord vf) := slotWord_of_none rfl rfl

theorem SlotWord.pushItem (vf : Nat) : SlotWord.Statement (.pushItem vf) := slotWord_of_none rfl rfl

theorem SlotWord.partCreate : SlotWord.Statement .partCreate := slotWord_of_none rfl rfl

theorem SlotWord.partDestroy : SlotWord.Statement .partDestroy := slotWord_of_none rfl rfl

theorem SlotWord.vfAssign : SlotWord.Statement .vfAssign := slotWord_of_none rfl rfl

theorem SlotWord.ctxAssign : SlotWord.Statement .ctxAssign := slotWord_of_none rfl rfl

theorem SlotWord.vatFence : SlotWord.Statement .vatFence := slotWord_of_none rfl rfl

theorem SlotWord.vatReadmit : SlotWord.Statement .vatReadmit := slotWord_of_none rfl rfl

theorem SlotWord.deepOffEnter : SlotWord.Statement .deepOffEnter := slotWord_of_none rfl rfl

theorem SlotWord.deepOffLeave : SlotWord.Statement .deepOffLeave := slotWord_of_none rfl rfl

theorem SlotWord.distributorPushChunk (id : Nat) : SlotWord.Statement (.distributorPushChunk id) := slotWord_of_none rfl rfl

theorem SlotWord.chunkComplete (id : Nat) (chunk : Nat) : SlotWord.Statement (.chunkComplete id chunk) := slotWord_of_none rfl rfl

theorem SlotWord.clusterWake (cl : Nat) : SlotWord.Statement (.clusterWake cl) := slotWord_of_none rfl rfl

theorem SlotWord.coldBoot : SlotWord.Statement .coldBoot := slotWord_of_none rfl rfl

theorem SlotWord.imageDelivery (n : Nat) : SlotWord.Statement (.imageDelivery n) := slotWord_of_none rfl rfl

theorem SlotWord.partitionCoreResume (cl : Nat) : SlotWord.Statement (.partitionCoreResume cl) := slotWord_of_none rfl rfl

theorem SlotWord.wjaApply (k : CoreId) : SlotWord.Statement (.wjaApply k) := slotWord_of_none rfl rfl

theorem SlotWord.rollForwardRetry (k : CoreId) : SlotWord.Statement (.rollForwardRetry k) := slotWord_of_none rfl rfl

theorem SlotWord.keySlotDrained (slot : Nat) : SlotWord.Statement (.keySlotDrained slot) := slotWord_of_none rfl rfl

theorem SlotWord.receiptRequest (part : Nat) : SlotWord.Statement (.receiptRequest part) := slotWord_of_none rfl rfl

theorem SlotWord.storeRetiresIntoSideLog (k : CoreId) : SlotWord.Statement (.storeRetiresIntoSideLog k) := slotWord_of_none rfl rfl

theorem SlotWord.invalidationCompletes (part : Nat) : SlotWord.Statement (.invalidationCompletes part) := slotWord_of_none rfl rfl

theorem SlotWord.correctableErrorFreeze (k : CoreId) : SlotWord.Statement (.correctableErrorFreeze k) := slotWord_of_none rfl rfl

theorem SlotWord.parkBoundExpires (k : CoreId) : SlotWord.Statement (.parkBoundExpires k) := slotWord_of_none rfl rfl

theorem SlotWord.queueStart (part : Nat) (qn : Nat) : SlotWord.Statement (.queueStart part qn) := slotWord_of_none rfl rfl

theorem SlotWord.registerWrite (by' : Requester) (page : Page) (off : Nat) (n : Nat) (val : Nat) : SlotWord.Statement (.registerWrite by' page off n val) := slotWord_of_none rfl rfl

theorem SlotWord.cqtailDoorbell (vf : Nat) (val : Word) : SlotWord.Statement (.cqtailDoorbell vf val) := slotWord_of_none rfl rfl

theorem SlotWord.cpheadWrite (vf : Nat) (val : Word) : SlotWord.Statement (.cpheadWrite vf val) := slotWord_of_none rfl rfl

theorem SlotWord.ringEnable (vf : Nat) (comp : Bool) : SlotWord.Statement (.ringEnable vf comp) := slotWord_of_none rfl rfl

theorem SlotWord.gorqueLaunchPacket (vat : Nat) (smod wld qn : Nat) (rec' : BitVec 512) : SlotWord.Statement (.gorqueLaunchPacket vat smod wld qn rec') := slotWord_of_none rfl rfl

theorem SlotWord.governorPeriod (draw : Nat) (demand : List (Nat × Nat)) (overrun : List (Nat × Nat)) (short : List (Nat × Nat × Nat)) : SlotWord.Statement (.governorPeriod draw demand overrun short) := slotWord_of_none rfl rfl

theorem SlotWord.darkDwellExpires (k : CoreId) : SlotWord.Statement (.darkDwellExpires k) := slotWord_of_none rfl rfl

theorem SlotWord.clusterDark (cl : Nat) : SlotWord.Statement (.clusterDark cl) := slotWord_of_none rfl rfl

theorem SlotWord.powerLoss : SlotWord.Statement .powerLoss := slotWord_of_none rfl rfl

theorem SlotWord.invalPage (part : Nat) (page : Nat) (ctx : Nat) : SlotWord.Statement (.invalPage part page ctx) := slotWord_of_none rfl rfl

theorem SlotWord.invalContext (part : Nat) (ctx : Nat) : SlotWord.Statement (.invalContext part ctx) := slotWord_of_none rfl rfl

theorem SlotWord.invalPartition (part : Nat) : SlotWord.Statement (.invalPartition part) := slotWord_of_none rfl rfl

theorem SlotWord.slcmdReplay (ctx : Nat) (slot : Nat) : SlotWord.Statement (.slcmdReplay ctx slot) := slotWord_of_none rfl rfl

theorem SlotWord.slcmdUnreplayable (ctx : Nat) (slot : Nat) : SlotWord.Statement (.slcmdUnreplayable ctx slot) := slotWord_of_none rfl rfl

theorem SlotWord.pcselWrite (by' : Requester) (part : Nat) (val : Word) : SlotWord.Statement (.pcselWrite by' part val) := slotWord_of_none rfl rfl

theorem SlotWord.maskDeadlineExpires (k : CoreId) (tag : Fin 64) : SlotWord.Statement (.maskDeadlineExpires k tag) := slotWord_of_none rfl rfl

theorem SlotWord.getVersion (conn : Nat) (req : List (BitVec 8)) : SlotWord.Statement (.getVersion conn req) := slotWord_of_none rfl rfl

theorem SlotWord.getCapabilities (conn : Nat) (req : List (BitVec 8)) : SlotWord.Statement (.getCapabilities conn req) := slotWord_of_none rfl rfl

theorem SlotWord.negotiateAlgorithms (conn : Nat) (req : List (BitVec 8)) : SlotWord.Statement (.negotiateAlgorithms conn req) := slotWord_of_none rfl rfl

theorem SlotWord.getCertificate (conn : Nat) (slot off len : Nat) (req : List (BitVec 8)) : SlotWord.Statement (.getCertificate conn slot off len req) := slotWord_of_none rfl rfl

theorem SlotWord.challenge (conn : Nat) (nonce : Option (BitVec 256)) (req : List (BitVec 8)) : SlotWord.Statement (.challenge conn nonce req) := slotWord_of_none rfl rfl

theorem SlotWord.getMeasurements (conn : Nat) (idx : Nat) (sign : Bool) (nonce : Option (BitVec 256)) (req : List (BitVec 8)) : SlotWord.Statement (.getMeasurements conn idx sign nonce req) := slotWord_of_none rfl rfl

theorem SlotWord.keyExchange (conn : Nat) (req : List (BitVec 8)) : SlotWord.Statement (.keyExchange conn req) := slotWord_of_none rfl rfl

theorem SlotWord.finish (conn : Nat) (ses : Nat) (cert : Nat) (req : List (BitVec 8)) : SlotWord.Statement (.finish conn ses cert req) := slotWord_of_none rfl rfl

theorem SlotWord.endSession (ses : Nat) : SlotWord.Statement (.endSession ses) := slotWord_of_none rfl rfl

theorem SlotWord.compCreate (ses : Nat) : SlotWord.Statement (.compCreate ses) := slotWord_of_none rfl rfl

theorem SlotWord.compClaim (ses : Nat) (comp : Nat) : SlotWord.Statement (.compClaim ses comp) := slotWord_of_none rfl rfl

theorem SlotWord.keyLoad (ses : Nat) (slot : Nat) (kind : Nat) (comp : Nat) (pc : Bool) (key : BitVec 256) : SlotWord.Statement (.keyLoad ses slot kind comp pc key) := slotWord_of_none rfl rfl

theorem SlotWord.keyRetire (ses : Nat) (slot : Nat) : SlotWord.Statement (.keyRetire ses slot) := slotWord_of_none rfl rfl

theorem SlotWord.codeSeal (ses : Nat) (ctx : Nat) (base len : Nat) : SlotWord.Statement (.codeSeal ses ctx base len) := slotWord_of_none rfl rfl

theorem SlotWord.grantSet (ses : Nat) (wset : Nat) (ms : List (BitVec 384)) (write : Bool) : SlotWord.Statement (.grantSet ses wset ms write) := slotWord_of_none rfl rfl

theorem SlotWord.gateSet (ses : Nat) (gate : Nat) (src dst : Nat) (sva slen dva dlen : Nat) : SlotWord.Statement (.gateSet ses gate src dst sva slen dva dlen) := slotWord_of_none rfl rfl

theorem SlotWord.lockInterfaceRequest (ses : Nat) (vf : Nat) : SlotWord.Statement (.lockInterfaceRequest ses vf) := slotWord_of_none rfl rfl

theorem SlotWord.startInterfaceRequest (ses : Nat) (vf : Nat) (nonce : BitVec 256) : SlotWord.Statement (.startInterfaceRequest ses vf nonce) := slotWord_of_none rfl rfl

theorem SlotWord.stopInterfaceRequest (ses : Nat) (vf : Nat) : SlotWord.Statement (.stopInterfaceRequest ses vf) := slotWord_of_none rfl rfl

theorem SlotWord.getDeviceInterfaceReport (ses : Nat) (vf : Nat) : SlotWord.Statement (.getDeviceInterfaceReport ses vf) := slotWord_of_none rfl rfl

theorem SlotWord.getDeviceInterfaceState (ses : Nat) (vf : Nat) : SlotWord.Statement (.getDeviceInterfaceState ses vf) := slotWord_of_none rfl rfl

theorem SlotWord.ideFailure (vf : Nat) : SlotWord.Statement (.ideFailure vf) := slotWord_of_none rfl rfl

theorem SlotWord.hotReset (port : Nat) : SlotWord.Statement (.hotReset port) := slotWord_of_none rfl rfl

theorem SlotWord.linkDown (port : Nat) : SlotWord.Statement (.linkDown port) := slotWord_of_none rfl rfl

theorem SlotWord.uncorrectableError (site : ErrorSite) : SlotWord.Statement (.uncorrectableError site) := slotWord_of_none rfl rfl

theorem SlotWord.heartbeatCheck (alive : Bool) : SlotWord.Statement (.heartbeatCheck alive) := slotWord_of_none rfl rfl

theorem SlotWord.rowRefreshManagement (vat bank row : Nat) : SlotWord.Statement (.rowRefreshManagement vat bank row) := slotWord_of_none rfl rfl

theorem SlotWord.hbmTemperatureChange (vat : Nat) (celsius : Nat) : SlotWord.Statement (.hbmTemperatureChange vat celsius) := slotWord_of_none rfl rfl

theorem SlotWord.activationWindow (vat : Nat) : SlotWord.Statement (.activationWindow vat) := slotWord_of_none rfl rfl

theorem SlotWord.rhcfgWrite (vat : Nat) (val : Word) : SlotWord.Statement (.rhcfgWrite vat val) := slotWord_of_none rfl rfl

theorem SlotWord.repairRecord (r : Repair) : SlotWord.Statement (.repairRecord r) := slotWord_of_none rfl rfl

theorem SlotWord.gorquePortLinkFailure (port : Nat) : SlotWord.Statement (.gorquePortLinkFailure port) := slotWord_of_none rfl rfl

theorem SlotWord.spdmUnsupportedRequest (conn : Nat) (req : List (BitVec 8)) : SlotWord.Statement (.spdmUnsupportedRequest conn req) := slotWord_of_none rfl rfl

theorem SlotWord.registerRead (by' : Requester) (page : Page) (off : Nat) : SlotWord.Statement (.registerRead by' page off) := slotWord_of_none rfl rfl

end Sys2Proof.Laws
end

