-- ==== Sys2Proof/Tests/Slice0.lean ====
section
/-! SUPPORT. Tests. Expected results come from the manual's worked cases and tables, or from hand calculation; the witnesses at
the end show, for each statement with hypotheses, a state and operands that meet them. -/

namespace Sys2Proof.Tests

open Sys2Proof.Machine

set_option Elab.async false

/-! ### Decoding: words written out from the encoding tables (R80 to R86) -/

/-- The bundle of the worked case "One bundle, assembled" (R91). -/
theorem test_decode_r91 : decodeWord 0x80200003 = .ok (.stall 3) ∧ decodeWord 0x10430FFE = .ok (.addi .a 3 1 0x7FE) ∧
    decodeWord 0x30043203 = .ok (.lds 4 6 .i32 3) ∧ decodeWord 0x422621C9 = .ok (.vfadd 6 4 7 1 .f32) := by decide

/-- The loop of R99's worked case. -/
theorem test_decode_r99 : decodeWord 0x81001402 = .ok (.loop 0 5 2) ∧ decodeWord 0x80408002 = .ok (.brScalar false 2 2) ∧
    decodeWord 0x104217FF = .ok (.addi .a 2 2 0x7FF) ∧ decodeWord 0x81600000 = .ok .tend := by decide

/-- The constant of R115. -/
theorem test_decode_r115 : decodeWord 0x90651234 = .ok (.movi .a 5 0x1234) ∧ decodeWord 0x90855678 = .ok (.movhi .a 5 0x5678) := by decide

/-- The worked encodings of 05_load_store.md. -/
theorem test_decode_load_store : decodeWord 0xB0240BFE = .ok (.sts 4 1 .b8 0xFE) ∧ decodeWord 0xB0A32A14 = .ok (.ldvx 3 5 8 2 .b4) ∧
    decodeWord 0xB1421B68 = .ok (.stg 2 3 .b8 ⟨.rel, .mod⟩) ∧ decodeWord 0xB1674A42 = .ok (.atg 7 9 .min true ⟨.rlx, .clu⟩) ∧
    decodeWord 0xB18A5B32 = .ok (.casg 10 11 12 true ⟨.ar, .mod⟩) := by decide

/-- The worked encodings of 06_vector.md. -/
theorem test_decode_vector : decodeWord 0xC2820059 = .ok (.vffma 2 0 1 3 .f32) ∧ decodeWord 0xC4261832 = .ok (.vred 6 3 .sum 1 (.fp .f32)) ∧
    decodeWord 0xC4E411C2 = .ok (.vmovs 4 2 7 false .i32) ∧ decodeWord 0xC504000A = .ok (.vdefer 4 0 0 1 1) ∧
    decodeWord 0xC52A2AA0 = .ok (.vdrain 10 5 2 true 1) := by decide

/-- The drain of 07_matrix.md's worked case. -/
theorem test_decode_mdrain : decodeWord 0xD081A9C0 = .ok (.mdrain 0 6 .bf16 3 true) := by decide

/-- One word for each further slot, bit by bit: B slot SUB (2 << 28 | 1 << 21 | d 2, a 3, b 4), M slot MZERO t2 (5 << 28 | 2 << 21 | 2 << 19),
F slot SLB s9 (6 << 28 | 3 << 21 | 9 << 16), X slot WWEAR s7, s1 (7 << 28 | 0x18 << 21 | 7 << 16 | 1 << 11). -/
theorem test_decode_slots : decodeWord 0x20221900 = .ok (.sub .b 2 3 4) ∧ decodeWord 0x50500000 = .ok (.mzero 2) ∧
    decodeWord 0x60690000 = .ok (.slb 9) ∧ decodeWord 0x73070800 = .ok (.wwear 7 1) := by decide

/-- An unassigned opcode, a reserved bit, and a code the form does not accept (R71, R73). -/
theorem test_decode_refuses : decodeWord 0x0FE00000 = .error .unassigned ∧ decodeWord 0x00010000 = .error .reserved ∧
    decodeWord 0x50800000 = .error .notAccepted := by decide

/-- The table's numbering: a row's bits are the word as it stands. -/
theorem test_decode_table : decodeTableWord 32 0x10430FFE = some (.addi .a 3 1 0x7FE) ∧ decodeTableWord 32 0x0FE00000 = none := by decide

/-- The encoder writes the same words. -/
theorem test_encode : encode (.lds 4 6 .i32 3) = some 0x30043203 ∧ encode (.vdrain 10 5 2 true 1) = some 0x452A2AA0 ∧
    encode (.casg 10 11 12 true ⟨.ar, .mod⟩) = some 0x318A5B32 ∧ encode .coldBoot = none := by decide

/-! ### Well-formedness: one ill-formed term for each check -/

theorem test_wf_flow : (Instr.loop 0 1 0).wf = false ∧ (Instr.loops 0 1 0).wf = false ∧ (Instr.fence ⟨.rlx, .mod⟩).wf = false := by decide

theorem test_wf_types : (Instr.fcvt .a 1 2 .f32 .f32).wf = false ∧ (Instr.fcvt .a 1 2 .mx4 .f32).wf = false ∧ (Instr.fcvt .a 1 2 .f32 .sq4).wf = false ∧
    (Instr.vcvt 1 2 .i8 .i8 0).wf = false ∧ (Instr.vcvt 1 2 .mx4 .f32 0).wf = false ∧ (Instr.vqnt 1 2 .f32 .f32 0).wf = false ∧
    (Instr.vqnt 1 2 .e4m3 .f64 0).wf = false ∧ (Instr.vqnt 1 2 .mx4 .f32 1).wf = false ∧ (Instr.vdqnt 1 2 .f32 .f32 0).wf = false ∧
    (Instr.vdqnt 1 2 .f64 .mx4 0).wf = false ∧ (Instr.vdqnt 1 2 .f32 .mx4 1).wf = false ∧ (Instr.vabs 1 2 0 .n8).wf = false := by decide

theorem test_wf_orders : (Instr.ldg 1 2 .i8 ⟨.rel, .mod⟩).wf = false ∧ (Instr.stg 1 2 .b1 ⟨.acq, .mod⟩).wf = false ∧
    (Instr.ats 1 2 .add true ⟨.rlx, .mod⟩).wf = false ∧ (Instr.cass 1 2 3 true ⟨.rlx, .vat⟩).wf = false := by decide

theorem test_wf_vector : (Instr.vred 1 2 .and 0 (.fp .f32)).wf = false ∧ (Instr.vscan 1 2 .xor 0 (.fp .f32) true).wf = false ∧
    (Instr.vsred 1 2 3 .or (.int .i8)).wf = false ∧ (Instr.vdefer 1 0 0 0 0).wf = false ∧ (Instr.vdefer 0 1 0 0 1).wf = false ∧
    (Instr.vdefer 0 0 1 0 2).wf = false ∧ (Instr.vdrain 31 1 0 false 1).wf = false := by decide

theorem test_wf_matrix : (Instr.mmul 0 1 0 7 0).wf = false ∧ (Instr.mmul 0 1 0 1 3).wf = false ∧ (Instr.mdrain 0 1 .i8 0 false).wf = false ∧
    (Instr.miter 0 1 false).wf = false ∧ (Instr.fmt 6).wf = false ∧ (Instr.fmt 0x38).wf = false := by decide

theorem test_wf_commands : (Instr.xcp 1 ⟨true, false, 5, 0⟩).wf = false ∧ (Instr.xcp 1 ⟨false, false, 1, 0⟩).wf = false ∧
    (Instr.xcph 1 3 ⟨false, false, 0, 0⟩).wf = false ∧ (Instr.xwin 1 2 true).wf = false := by decide

theorem test_wf_places : (Instr.freezeEnd (.compute 32 0)).wf = false ∧ (Instr.freezeEnd (.compute 0 48)).wf = false ∧
    (Instr.freezeEnd (.partition 32)).wf = false ∧ (Instr.commandCompletes (.slot 512 0) 0).wf = false ∧
    (Instr.commandCompletes (.slot 0 64) 0).wf = false ∧ (Instr.registerRead (.host 0) (.queueTable 32) 0).wf = false ∧
    (Instr.registerRead (.host 0) (.vfRing 0) 0).wf = false ∧ (Instr.registerRead (.hostIde 0 385 true) .pf 0).wf = false ∧
    (Instr.uncorrectableError (.memLine (2 ^ 40))).wf = false ∧ (Instr.uncorrectableError (.weightUnit (.compute 0 0) 1048656)).wf = false ∧
    (Instr.uncorrectableError (.vat 16)).wf = false ∧ (Instr.repairRecord (.spares (.compute 0 0) 1022 0)).wf = false ∧
    (Instr.repairRecord (.disableEngine (.compute 0 0) 3 0)).wf = false ∧ (Instr.repairRecord (.readmit 16 0)).wf = false ∧
    (Instr.queueStart 0 4096).wf = false ∧ (Instr.fenceMarkerAck .umpire 16).wf = false ∧ (Instr.hotReset 2).wf = false ∧ (Instr.linkDown 2).wf = false := by decide

/-! ### Numbers -/

/-- The five rows of R118's table. -/
theorem test_fcvt_r118 : convert rneOff .i32 .f32 0x40200000 = (2, flagX) ∧ convert rneOff .i32 .f32 0x7FC00000 = (0, flagI) ∧
    convert rneOff .i8 .i32 300 = (44, 0) ∧ convert rneOff .e4m3 .f32 0x7F800000 = (0x7F, flagO) ∧
    convert rneOff .f32 .i64 (2 ^ 24 + 1) = (0x4B800000, flagX) := by decide +kernel

/-- Division of R112: -7 by 2, and 7 by 0. -/
theorem test_divide : divide true (-7) 2 = (-3, -1) ∧ (divide false 7 0).1 = -1 ∧ (divide false 7 0).2 = 7 := by decide +kernel

/-- Single additions in .f32, by hand: 1 + 2^-24 is a tie that goes to even, 1 + 2^-23 is exact; 0 x infinity is invalid (R52). -/
theorem test_float_rounding : fpAdd (fdFmt .f32) rneOff 0x3F800000 0x33800000 = (0x3F800000, flagX) ∧
    fpAdd (fdFmt .f32) rneOff 0x3F800000 0x34000000 = (0x3F800001, 0) ∧ (fpMul (fdFmt .f32) rneOff 0 0x7F800000).2 = flagI := by decide +kernel

/-- Powers of two and their logarithms are exact (R63); the square root of 2 in .f32 is 0x3FB504F3. -/
theorem test_float_functions : fpExp2 (fpFmt .f32) rneOff 0x40400000 = (0x41000000, 0) ∧ fpLog2 (fpFmt .f32) rneOff 0x41000000 = (0x40400000, 0) ∧
    fpSqrt (fpFmt .f32) rneOff 0x40000000 = (0x3FB504F3, flagX) := by decide +kernel

/-- The tables of comparison (R117): minus zero equals zero; a NaN compares unordered. -/
theorem test_compare : fpCompare (fdFmt .f32) .eq 0 0x80000000 = (true, 0) ∧ (fpCompare (fdFmt .f32) .un 0 0x7FC00000).1 = true := by decide +kernel

/-- SHA-384 of "abc", the example of FIPS 180-4, which the manual names (R212). -/
theorem test_sha384_abc : natOfBytesBE (sha384 [0x61, 0x62, 0x63]) =
    0xcb00753f45a35e8bb5a03d699ac65007272c32ab0eded1631a8b605a43ff5bed8086072ba1e7cc2358baeca134c825a7 := by decide +kernel

/-! ### States for the tests -/

/-- A compute core that runs a task at the last packet of a code page, and whose next word is NOP. -/
def base : State := State.reset.withFetchWord 32 0x80000000

/-- The same on a partition core. -/
def part : State := State.reset.withFetchWord 32 0x81C00000

/-- The base state with its core changed. -/
def onC (f : Core → Core) : State := { base with c := f base.c }

/-- The base state with scalar registers set. -/
def regs (l : List (Nat × Nat)) : State := onC (fun c => l.foldl (fun c e => c.writeS (Fin.ofNat 32 e.1) (BitVec.ofNat 64 e.2)) c)

/-- The state after one instruction. -/
def after (i : Instr) (s : State) : State := match exec i s with | .next t => t | _ => s

/-- A state whose array holds a load from group 0, issued in an earlier bundle. -/
def loading : State := let s := after (.mload 0 1) base; { s with c := { s.c with age := s.c.age + 1 } }

/-- The word has issued. -/
def issued (i : Instr) (s : State) : Bool := match exec i s with | .next t => decide (t.verdict = .issued) | _ => false

/-- The cause of the trap that the word takes. -/
def trapOf (i : Instr) (s : State) : Option Cause :=
  match exec i s with
  | .next t => (match t.verdict with | .trapped x => some x.cause | _ => none)
  | _ => none

/-! ### Witnesses: scalar and control forms -/

/-- The integer forms of R111. -/
def intForms : List Instr :=
  [.add .a 3 1 2, .sub .b 3 1 2, .addi .a 3 1 5, .movi .b 3 5, .movhi .a 3 5, .mul .a 3 1 2, .mulhi .a 3 1 2, .mulhn .b 3 1 2, .and .a 3 1 2,
    .or .a 3 1 2, .xor .a 3 1 2, .andn .a 3 1 2, .andi .a 3 1 5, .ori .a 3 1 5, .xori .a 3 1 5, .shl .a 3 1 2, .shrl .a 3 1 2, .shra .a 3 1 2] ++
  [.shli .a 3 1 63, .shrli .a 3 1 63, .shrai .a 3 1 63, .clz .a 3 1, .ctz .a 3 1, .popc .a 3 1, .min .a 3 1 2, .max .a 3 1 2, .minn .a 3 1 2,
    .maxn .a 3 1 2, .addsc .a 3 1 2 7, .ext .b 0 1 63 63]

theorem witness_IntegerFormsCompute : ∀ i ∈ intForms, (intResult (regs [(1, 6), (2, 7)]).c i).isSome = true ∧ (regs [(1, 6), (2, 7)]).Issues i := by
  decide +kernel

/-- A divisor of 0 and another, a destination s0 and another. -/
theorem witness_DivisionsAreInterlocked : ∀ i ∈ [Instr.div .a 3 1 2, .divn .b 3 1 0, .rem .a 0 1 2, .remn .a 3 1 0],
    (divResult (regs [(1, 7), (2, 2)]).c i).isSome = true ∧ (regs [(1, 7), (2, 2)]).Issues i := by decide +kernel

/-- Every condition, once met and once not: 5 against -1, and 5 against 5. -/
theorem witness_SelectAndCompareForms : ∀ cc ∈ [Cc.eq, .ne, .lt, .le, .ltn, .len],
    let s := regs [(1, 5), (2, 2 ^ 64 - 1), (3, 5)]
    s.Issues (.cmp .a 4 1 2 cc) ∧ s.Issues (.cmpi .a 4 1 cc 5) ∧ s.Issues (.sel .b 4 1 2 0) ∧
    (decide (s.c.rs 1 = s.c.rs 3) && !decide (s.c.rs 1 = s.c.rs 2) && decide ((s.c.rs 2).toInt < (s.c.rs 1).toInt)) = true := by decide +kernel

theorem witness_PredicateForms : base.Issues (.plog .a 1 2 3 8) ∧ base.Issues (.pmov .b false 1 7) ∧ base.Issues (.pmov .a true 1 0) := by
  decide +kernel

theorem witness_ScalarFloatForms : base.Issues (.fadd .a 3 1 2 .f32) ∧ base.Issues (.fsub .a 3 1 2 .f64) ∧ base.Issues (.fmul .b 3 1 2 .f32) ∧
    base.Issues (.ffma .a 3 1 2 4 .f64) ∧ base.Issues (.fcmp .a 3 1 2 .un .f32) ∧ base.Issues (.fmnx .a 3 1 2 .f64 true) ∧
    base.Issues (.fcvt .a 3 1 .i8 .f64) := by decide +kernel

/-- A quiet NaN, a signalling one, and the two zeros. -/
theorem witness_ComparesOfNaN : 0x7FC00000 < 2 ^ (fdFmt .f32).width ∧ ((fdFmt .f32).value 0x7FC00000).isNaN = true ∧
    (fdFmt .f64).value 0x7FF0000000000001 = .nan true ∧ 0x80000000 % 2 ^ ((fdFmt .f32).width - 1) = 0 := by decide +kernel

/-- A core with tag 5 set, and s1 = 32, s2 = 0. -/
def tagged : State := onC (fun c => (c.setCr 0 32).writeS 1 32)

theorem witness_FlowRequestsStand : ∀ i ∈ [Instr.nop, .stall 0, .stall 4095, .lbrk 0, .lbrk 1, .tend, .tyield, .trap 255, .wtall 1, .wtany 1, .tclr 1,
    .qpop 3, .sync, .gcur 1 2], (flowRequest part.c i).isSome = true ∧ (if i = .gcur 1 2 then part else tagged).Issues i := by decide +kernel

/-- A taken and an untaken branch on each side, the ends of the offset fields, and register targets at the ends of their range. -/
theorem witness_BranchTargets :
    let s := regs [(1, 0), (2, 2 ^ 49 - 4), (31, 4)]
    s.Issues (.j 0x100000) ∧ s.Issues (.call 0xFFFFF) ∧ s.Issues (.brScalar false 1 0x2000) ∧ s.Issues (.brScalar true 2 0x1FFF) ∧
    s.Issues (.brPredicate false 0 1) ∧ s.Issues (.brPredicate true 1 1) ∧ (∃ j < 512, (s.c.rp 0).getLsbD j = true) ∧
    (∀ j < 512, (s.c.rp 1).getLsbD j = false) ∧ s.Issues (.jr 2) ∧ s.Issues (.callr 2) ∧ s.Issues .ret ∧ goodTarget (s.c.rs 2) ∧
    goodTarget (s.c.rs 31) := by decide +kernel

theorem witness_BadRegisterTargetsTrap :
    let s := regs [(1, 2), (31, 2 ^ 49)]
    s.Issues (.jr 1) ∧ s.Issues (.callr 1) ∧ s.Issues .ret ∧ (s.c.rs 1).toNat % 4 ≠ 0 ∧ (s.c.rs 31).toNat % 4 = 0 ∧
    2 ^ 49 ≤ (s.c.rs 31).toNat := by decide +kernel

/-- A bundle of one word, with level 1 armed and ending at it. -/
def looping : State := onC (fun c => ((({ c with flow := { c.flow with succ := c.pc.toNat + 4 } } : Core).setCr 10 3).setCr 9 0x1FFC0).writeS 2 1)

/-- An end inside the bundle, a level that ends at the bundle, and for both forms a count of 0 and another. -/
theorem witness_LoopForms :
    looping.Issues (.loop 0 5 0) ∧ looping.c.pc.toNat + 4 * (0 : BitVec 10).toNat < looping.c.flow.succ ∧
    looping.Issues (.loops 1 2 1) ∧ ((looping.c.ctl[(10 : Fin 96)]).toNat > 0 ∧ (looping.c.ctl[(9 : Fin 96)]).toNat = looping.c.pc.toNat) ∧
    looping.Issues (.loop 0 0 1) ∧ looping.Issues (.loop 0 1 1) ∧ looping.Issues (.loops 0 1 1) ∧ looping.Issues (.loops 0 2 1) ∧
    ¬(looping.c.pc.toNat + 4 * (1 : BitVec 10).toNat < looping.c.flow.succ) ∧ (looping.c.ctl[(6 : Fin 96)]).toNat = 0 ∧
    looping.c.xn 1 = 0 ∧ looping.c.xn 2 = 1 := by decide +kernel

/-- At the end of a bundle: a level that ends there with counts left, with its last, and below its range; targets outside the range of level 1
and at its end. -/
theorem witness_LoopForms_ends :
    let v (n : Fin 96) : Nat := (looping.c.cr n).toNat
    (v 10 = 3 ∧ v 9 = looping.c.pc.toNat) ∧ ((looping.c.setCr 10 1).cr 10).toNat = 1 ∧ (v 6 = 0 ∧ ¬(0 < v 6 ∧ (7 < v 4 ∨ v 5 < 7))) ∧
    (0 < v 10 ∧ (0x1FFC4 < v 8 ∨ v 9 < 0x1FFC4)) ∧ ¬(0 < v 10 ∧ (0x1FFC0 < v 8 ∨ v 9 < 0x1FFC0)) := by decide +kernel

/-- An open barrier with the least and the greatest count, and one that fills for the same owner and count. -/
theorem witness_TagSearchAndFence :
    let s := regs [(1, 1), (2, 48)]
    let f := s.setCluster 0 { s.cluster 0 with barriers := [(3, ⟨s.c.owner, 48, 7, 2⟩)] }
    s.Issues (.tffr 3 1) ∧ s.Issues (.fence ⟨.sc, .sys⟩) ∧ s.Issues (.cbar 1 0) ∧ s.Issues (.cbar 2 15) ∧ 1 ≤ s.c.xn 1 ∧ s.c.xn 2 ≤ 48 ∧
    ((s.cluster 0).barrier 0).arrived = 0 ∧ f.Issues (.cbar 2 3) ∧ ((f.cluster (clusterOf f.c.id)).barrier 3).owner = f.c.owner ∧
    ((f.cluster (clusterOf f.c.id)).barrier 3).count = f.c.xn 2 ∧ ((f.cluster (clusterOf f.c.id)).barrier 3).arrived ≠ 0 := by decide +kernel

/-! ### Witnesses: load and store forms -/

/-- The last bytes of the scratchpad, with line 1 poisoned and the predicate p1 leaving it out. -/
def lsu : State := onC (fun c => { (((c.writeS 1 0x100000).writeP 1 1) : Core) with poison := [1], scratch := [(5, 7)] })

theorem witness_LocalLoadsDeliver : Memory.wf lsu.c.scratch = true ∧
    lsu.Issues (.lds 3 1 .n64 0xFF) ∧ lsu.c.reaches (lsu.c.effective 1 0xFF 8) 8 ∧ lsu.c.scratchPoisoned (lsu.c.effective 1 0xFF 8) 8 = false ∧
    lsu.Issues (.ldv 3 0 1 0) ∧ lsu.c.reaches (lsu.c.effective 0 0 512) 512 ∧
    (∀ j < 512, (lsu.c.rp 1).getLsbD j = true → (lsu.c.effective 0 0 512 + j) / 64 ∉ lsu.c.poison) ∧
    lsu.Issues (.ldvb 3 1 .b1 0xFF) ∧ lsu.c.reaches (lsu.c.effective 1 0xFF 1) 1 ∧ lsu.c.scratchPoisoned (lsu.c.effective 1 0xFF 1) 1 = false ∧
    lsu.Issues (.ldpm 3 0 2) ∧ lsu.c.reaches (lsu.c.effective 0 2 64) 64 ∧ lsu.c.scratchPoisoned (lsu.c.effective 0 2 64) 64 = false := by
  decide +kernel

theorem witness_LocalStoresStore : Memory.wf lsu.c.scratch = true ∧
    lsu.Issues (.sts 3 1 .b8 0xFF) ∧ lsu.c.reaches (lsu.c.effective 1 0xFF 8) 8 ∧
    lsu.Issues (.stv 3 0 1 0) ∧ lsu.c.reaches (lsu.c.effective 0 0 512) 512 ∧
    lsu.Issues (.stpm 3 1 0xFF) ∧ lsu.c.reaches (lsu.c.effective 1 0xFF 64) 64 := by decide +kernel

/-- One past an aligned address, one unit past the end, and a group that the array reserves. -/
theorem witness_LocalAccessTraps :
    let s := regs [(1, 1), (2, 0x100000)]
    let l := loading
    s.Issues (.lds 3 1 .i16 0) ∧ s.c.effective 1 0 2 % 2 ≠ 0 ∧ s.Issues (.sts 3 2 .b8 0) ∧ s.c.effective 2 0 8 % 8 = 0 ∧
    s.c.scratchSize < s.c.effective 2 0 8 + 8 ∧ s.Issues (.ldv 3 1 0 0) ∧ s.Issues (.stv 3 1 0 0) ∧ s.Issues (.ldvb 3 1 .b2 0) ∧
    s.Issues (.ldpm 1 1 0) ∧ s.Issues (.stpm 1 1 0) ∧ l.Issues (.lds 3 0 .i64 0) ∧ l.c.effective 0 0 8 + 8 ≤ l.c.scratchSize ∧
    l.c.bankConflict (l.c.effective 0 0 8) 8 = true := by decide +kernel

theorem witness_GatherLatchTakesOperands : base.Issues (.ldvx 3 1 2 0 .b8) ∧ base.Issues (.stvx 3 1 2 1 .b1) := by decide +kernel

/-- The highest address, one past it, and an odd one. -/
theorem witness_GlobalAccessesBecomeOutstanding :
    let s := regs [(1, 2 ^ 49 - 8), (2, 2 ^ 49), (3, 1)]
    s.Issues (.ldg 5 1 .i64 ⟨.acq, .mod⟩) ∧ s.Issues (.atg 5 1 .xchg true ⟨.sc, .sys⟩) ∧ s.Issues (.casg 5 1 6 true ⟨.ar, .clu⟩) ∧
    s.c.xn 1 < 2 ^ 49 ∧ s.c.xn 1 % 8 = 0 ∧ s.Issues (.ldg 0 2 .n8 ⟨.rlx, .core⟩) ∧ 2 ^ 49 ≤ s.c.xn 2 ∧
    s.Issues (.casg 5 3 6 false ⟨.rlx, .vat⟩) ∧ s.Issues (.atg 5 3 .add false ⟨.rlx, .vat⟩) ∧ s.c.xn 3 < 2 ^ 49 ∧ s.c.xn 3 % 4 ≠ 0 := by decide +kernel

/-- The base state whose page at 0x10000 may be written. -/
def writable : State := { regs [(1, 0x10040)] with mem := memPut base.mem 0x108008 8 (0x200017 + 2 ^ 56 + 8) }

/-- A page that may be written, and an address that no table maps. -/
theorem witness_StoreBecomesPending :
    writable.Issues (.stg 3 1 .b8 ⟨.rlx, .mod⟩) ∧ writable.c.xn 1 < 2 ^ 49 ∧ writable.c.xn 1 % 8 = 0 ∧ writable.c.ilk = [] ∧ writable.c.stq = [] ∧
    writable.c.log = [] ∧
    (match writable.translate writable.c.party (writable.c.xn 1) .write with
      | .ok x => !writable.fenced x.pa && decide (writable.counted writable.c.id none (homeOf x.pa) < 65535) | .error _ => false) = true ∧
    writable.Issues (.stg 3 0 .b1 ⟨.rlx, .mod⟩) ∧
    (match writable.translate writable.c.party (writable.c.xn 0) .write with | .ok _ => false | .error _ => true) = true := by decide +kernel

/-- An address past the last, an odd one, and a fenced home. -/
theorem witness_StoreBecomesPending_others :
    (let s := regs [(1, 2 ^ 49), (2, 2 ^ 49 - 7)]
     s.Issues (.stg 3 1 .b1 ⟨.rlx, .mod⟩) ∧ 2 ^ 49 ≤ s.c.xn 1 ∧ s.Issues (.stg 3 2 .b8 ⟨.rlx, .mod⟩) ∧ s.c.xn 2 < 2 ^ 49 ∧ s.c.xn 2 % 8 ≠ 0) ∧
    (let w := { writable with mem := memPut writable.mem 0x108008 8 (0x380020001F + 2 ^ 56) }
     let s := w.setVat 3 { w.vat 3 with state := .fenced }
     s.Issues (.stg 3 1 .b8 ⟨.rlx, .mod⟩) ∧ s.c.ilk = [] ∧ s.c.stq = [] ∧ s.c.log = [] ∧
     (match s.translate s.c.party (s.c.xn 1) .write with
       | .ok x => s.fenced x.pa && decide (s.counted s.c.id none (homeOf x.pa) < 65535) | .error _ => false) = true) := by decide +kernel

/-- The own core at its last bytes, and the last core of the cluster; s4 holds the expected value of CASS. -/
theorem witness_ClusterAtomics :
    let s := regs [(1, 0xFFFF8), (2, 47 * 2 ^ 20)]
    s.Issues (.ats 5 1 .add true ⟨.rlx, .core⟩) ∧ s.Issues (.cass 5 1 6 true ⟨.rlx, .clu⟩) ∧ caValid (s.c.xn 1) = true ∧ s.c.xn 1 % 8 = 0 ∧
    caTarget s.c.id (s.c.xn 1) = s.c.id ∧ Memory.wf s.c.scratch = true ∧ s.c.freeze = 0 ∧ s.c.bankConflict 0xFFFF8 8 = false ∧
    s.c.needsFill 0xFFFF8 8 = false ∧ s.c.scratchPoisoned 0xFFFF8 8 = false ∧ s.Issues (.ats 5 2 .add false ⟨.rlx, .clu⟩) ∧
    s.Issues (.cass 5 2 6 false ⟨.rlx, .clu⟩) ∧ caValid (s.c.xn 2) = true ∧ caTarget s.c.id (s.c.xn 2) ≠ s.c.id := by decide +kernel

/-! ### Witnesses: vector forms -/

/-- The integer forms of R145. -/
def vecForms : List Instr :=
  [.vadd 3 1 2 0 .i8, .vsub 3 1 2 1 .n16, .vmul 3 1 2 0 .i32, .vmulhi 3 1 2 0 .n64, .vmad 3 1 2 0 .i64, .vand 3 1 2 0 .n8, .vor 3 1 2 0 .n8,
    .vxor 3 1 2 0 .n8, .vshl 3 1 2 0 .i16, .vshrl 3 1 2 0 .n32, .vshra 3 1 2 0 .i32, .vmin 3 1 2 0 .i8, .vmax 3 1 2 0 .n8, .vabs 3 1 0 .i8,
    .vneg 3 1 0 .i64]

theorem witness_VectorIntegerLanes : ∀ i ∈ vecForms, (vecIntResult i).isSome = true ∧ base.Issues i := by decide +kernel

/-- The state whose governing predicate p1 has the bit of the first byte alone. -/
def masked : State := onC (fun c => c.writeP 1 1)

/-- Governing bits of both values: element 0 and element 1 of p1. -/
theorem witness_VectorIntegerLanes_masked : masked.Issues (.vadd 3 1 2 1 .i8) ∧ (masked.c.rp 1).getLsbD 0 = true ∧ (masked.c.rp 1).getLsbD 1 = false := by
  decide +kernel

theorem witness_VectorMovesAndCompares : ∀ i ∈ [Instr.vsel 3 1 2 1 .i32, .vcmp 2 .len 1 2 .n64, .vperm 3 1 2 1 .i8, .vbcst 3 1 1 .i16, .viota 3 1 1 .n8,
    .vcmpr 3 1 1 .i32, .vmovs 3 1 2 true .i64, .vmovs 3 1 2 false .i8], masked.Issues i := by decide +kernel

/-- The floating-point forms of R148. -/
def vecFloatForms : List Instr :=
  [.vfadd 3 1 2 0 .f32, .vfsub 3 1 2 0 .f64, .vfmul 3 1 2 0 .bf16, .vffma 3 1 2 1 .f16, .vfdiv 3 1 2 0 .f32, .vfsqrt 3 1 0 .f32, .vfrcp 3 1 0 .f32,
    .vfrsq 3 1 0 .f32, .vfexp2 3 1 0 .f32, .vflog2 3 1 0 .f32, .vfmin 3 1 2 0 .f32, .vfmax 3 1 2 0 .f32]

theorem witness_VectorFloatLanes : (∀ i ∈ vecFloatForms, (vecFloatResult i).isSome = true ∧ masked.Issues i) ∧ masked.Issues (.vfcmp 2 .lt 1 2 .f32) := by
  decide +kernel

theorem witness_ConversionsAndReductions : ∀ i ∈ [Instr.vcvt 3 1 .i8 .f64 1, .vqnt 3 1 .mx4 .f32 0, .vqnt 3 1 .e4m3 .bf16 1, .vdqnt 3 1 .f16 .sq4 0,
    .vqnt 3 1 .sq4 .f16 0, .vdqnt 3 1 .f32 .e5m2 1, .vscan 3 1 .sum 1 (.fp .f32) true, .vscan 3 1 .or 1 (.int .i8) false, .vred 3 1 .xor 1 (.int .n8), .vred 3 1 .max 1 (.fp .f64), .vred 3 1 .sum 1 (.int .i16)], masked.Issues i := by
  decide +kernel

/-- The wide formats of the quantisations. -/
theorem witness_ConversionsAndReductions_formats : ∀ u ∈ [Ty.f32, .f16, .bf16], u.isWide = true ∧ (match tyKind u with | .fp _ => true | _ => false) = true := by
  decide +kernel

/-- A queue of the least length at 0x80000, with p1 naming three lanes (the worked case of R161), full with 31 entries less 3. -/
def whey : State := onC (fun c => ({ ((c.setCr 0x30 0x80000).setCr 0x31 512).writeP 1 (2 ^ 12 + 2 ^ 160 + 2 ^ 308) with wi := 448 }))

theorem witness_QueueVectorForms : Memory.wf whey.c.scratch = true ∧ Memory.wf base.c.scratch = true ∧
    base.Issues (.vtoq 1 2 .i64) ∧ base.c.rq.length < 8 ∧
    whey.Issues (.vdefer 4 0 0 1 1) ∧ whey.c.wheyBase % 512 = 0 ∧ whey.c.wheyLen % 512 = 0 ∧ 512 ≤ whey.c.wheyLen ∧ whey.c.wheyLen ≤ 65536 ∧
    whey.c.wheyBase + whey.c.wheyLen ≤ 0x100000 ∧
    ((List.range 128).filter (fun i => (whey.c.rp 1).getLsbD (4 * i))).length = 3 ∧ whey.c.wheyOcc + 3 ≤ whey.c.wheyLen / 16 - 1 ∧
    (∀ j < 3, whey.c.bankConflict (whey.c.wheyBase + (whey.c.wi.toNat + 16 * j) % whey.c.wheyLen) 16 = false ∧
      whey.c.needsFill (whey.c.wheyBase + (whey.c.wi.toNat + 16 * j) % whey.c.wheyLen) 16 = false) ∧
    whey.Issues (.vdrain 10 5 2 true 1) ∧ (∀ j < whey.c.drainCount true,
      whey.c.bankConflict (whey.c.wheyBase + (whey.c.ri.toNat + 16 * j) % whey.c.wheyLen) 16 = false ∧
      whey.c.needsFill (whey.c.wheyBase + (whey.c.ri.toNat + 16 * j) % whey.c.wheyLen) 16 = false ∧
      whey.c.scratchPoisoned (whey.c.wheyBase + (whey.c.ri.toNat + 16 * j) % whey.c.wheyLen) 16 = false) ∧
    (let s := regs [(1, 0xFFE00), (2, 1)]
     s.Issues (.vsred 3 1 2 .sum (.int .i32)) ∧ s.c.xn 1 % 512 = 0 ∧ s.c.xn 1 + 512 * s.c.xn 2 ≤ 0x100000) := by decide +kernel

/-- A queue with 128 entries, of which an open drain takes all, and one with 28, of which it takes none. -/
theorem witness_QueueVectorForms_drains : ∀ n ∈ [(2048 : Nat), 448],
    let s := { whey with c := { whey.c.setCr 0x31 4096 with wi := BitVec.ofNat 16 n } }
    let m := if n / 16 < 128 then 0 else 128
    Memory.wf s.c.scratch = true ∧ s.Issues (.vdrain 10 5 2 false 3) ∧ s.c.wheyBase % 512 = 0 ∧ s.c.wheyLen = 4096 ∧
    (((s.c.wi.toNat : Int) - s.c.ri.toNat) % 4096 / 16).toNat = n / 16 ∧
    ∀ j < m, s.c.bankConflict (s.c.wheyBase + (s.c.ri.toNat + 16 * j) % 4096) 16 = false ∧
      s.c.needsFill (s.c.wheyBase + (s.c.ri.toNat + 16 * j) % 4096) 16 = false ∧
      s.c.scratchPoisoned (s.c.wheyBase + (s.c.ri.toNat + 16 * j) % 4096) 16 = false := by decide +kernel

/-! ### Witnesses: matrix and format forms -/

/-- s1 names a weight region in group 0, s2 one in group 3; the whole weight store may be read by the task. -/
def matrix : State :=
  { regs [(1, 0x8000), (2, 0xC0000), (3, 0xF0000)] with
    wsets := [(0, ⟨0, [0], 0⟩)], keys := put base.keys 0 ⟨0, 0, 0, false, 3, 1, 0, 0⟩
    c := let c := (regs [(1, 0x8000), (2, 0xC0000), (3, 0xF0000)]).c
         { c with task := c.task.map (fun t => { t with meas := some 0 }) } }

/-- The same with sq4 as the B format (code 6) of an i8 product. -/
def packed : State := { matrix with c := matrix.c.setCr 1 48 }

theorem witness_ArrayTakesInstruction :
    matrix.Issues (.mzero 3) ∧ matrix.Issues (.mload 0 1) ∧ matrix.c.regionOk 0x8000 65536 ∧
    matrix.Issues (.mmul 0 1 0 0 0) ∧ pairOk ((matrix.c.capture.fmt).toNat % 8) ((matrix.c.capture.fmt).toNat / 8 % 8) = true ∧
    matrix.c.regionOk 0x8000 32768 ∧ 0x8000 / 2 ^ 18 = 0 ∧ matrix.Issues (.mmul 0 1 0 6 2) ∧ matrix.c.regionOk 0xC0000 32768 ∧
    0xC0000 / 2 ^ 18 = 6 - 3 ∧
    matrix.Issues (.mtt 0 1 2) ∧ matrix.Issues (.maddt 0 1 2) ∧ matrix.Issues (.mscl 0 1 2) ∧ matrix.Issues (.mtrn 0 1) ∧ matrix.Issues (.mnorm 3 1) ∧
    matrix.Issues (.mpoly 0 1 7) ∧ matrix.Issues (.miter 0 0 false) ∧ matrix.Issues (.miter 0 1 true) ∧ matrix.Issues (.mldw 0 true 1) := by
  decide +kernel

/-- Both formats that pass 2 reads from the weight store, and the three widths of a drain. -/
theorem witness_ArrayTakesInstruction_weights :
    packed.Issues (.mmul 0 1 0 2 1) ∧ (packed.c.capture.fmt).toNat % 64 = 48 ∧ packed.wsTrap (packed.c.xn 1) 8192 = none ∧
    packed.wsHeld (packed.c.xn 1) 8192 = false ∧ matrix.Issues (.mldw 1 false 1) ∧ matrix.wsTrap (matrix.c.xn 1) 32768 = none ∧
    matrix.wsHeld (matrix.c.xn 1) 32768 = false ∧
    matrix.Issues (.mdrain 0 3 .i32 0 false) ∧ matrix.c.regionOk 0xF0000 (16384 * drainWidth .i32) ∧
    matrix.Issues (.mdrain 0 3 .bf16 0 true) ∧ matrix.c.regionOk 0xF0000 (16384 * drainWidth .bf16) ∧
    matrix.Issues (.mdrain 0 3 .e5m2 0 true) ∧ matrix.c.regionOk 0xF0000 (16384 * drainWidth .e5m2) := by decide +kernel

/-- The state whose array or loader has had n cycles of an instruction, with its rows read. -/
def unitAt (i : Instr) (n : Nat) : State :=
  let s := after i matrix
  let rows := List.replicate 128 1
  { s with c := { s.c with
      array := s.c.array.map (fun o => { o with cyc := n, aRows := rows, bRows := rows })
      loader := s.c.loader.map (fun o => { o with cyc := n }) } }

/-- Every form of the array in it, in a cycle and at its end; the first step of MPOLY ends it for coefficient 0 alone, its second for 1. -/
theorem witness_ArrayTakesInstruction_units :
    (∀ i ∈ [Instr.mzero 1, .mload 0 1, .mmul 0 1 0 0 0, .mmul 0 1 0 1 0, .mmul 0 1 0 6 2, .mdrain 0 3 .i32 0 true, .mtt 0 1 2, .maddt 0 1 2,
        .mscl 0 1 2, .mtrn 0 1, .mnorm 3 1, .mpoly 0 1 0, .mpoly 0 1 1],
      let c := (unitAt i 128).core (.compute 0 0)
      c.array.any (fun o => decide (o.instr = i ∧ o.total ≤ o.cyc ∧ o.aRows.length = 128 ∧ o.bRows.length = 128 ∧ o.iter = 0)) = true) ∧
    (∀ i ∈ [Instr.mload 0 1, .mmul 0 1 0 6 2, .mdrain 0 3 .bf16 0 false],
      let c := (unitAt i 7).core (.compute 0 0)
      c.array.any (fun o => decide (o.instr = i ∧ o.cyc < 32 * drainWidth .bf16)) = true ∧ Memory.wf c.scratch = true ∧ c.loader = none) ∧
    (∀ m ∈ [true, false], let c := (unitAt (.mldw 1 m 1) 64).core (.compute 0 0)
      c.loader.any (fun l => decide ((if l.sq4 then 16 else 64) ≤ l.cyc ∧ l.fromScratch = m)) = true) := by decide +kernel

/-- The greatest legal codes and the least reserved ones, and the last aligned offset of a latch. -/
theorem witness_FormatAndLatchWrites :
    let s := regs [(1, 0x10032D), (2, 6), (3, 0xFF000), (4, 0xFFE00)]
    s.Issues (.fmt 0x35) ∧ (0x35 % 8 < 6 ∧ 0x35 / 8 % 8 < 7) ∧ s.Issues (.fmt 0x38) ∧ ¬(0x38 % 8 < 6 ∧ 0x38 / 8 % 8 < 7) ∧
    s.Issues (.fmts 1) ∧ (s.c.xn 1 % 1024 % 8 < 6 ∧ s.c.xn 1 % 1024 / 8 % 8 < 7) ∧ s.Issues (.fmts 2) ∧ ¬(s.c.xn 2 % 1024 % 8 < 6) ∧
    s.Issues (.sla 3) ∧ s.Issues (.slb 3) ∧ s.c.xn 3 % 512 = 0 ∧ s.c.xn 3 + 4096 ≤ 0x100000 ∧ s.c.bankConflict (s.c.xn 3) 4096 = false ∧
    s.c.needsFill (s.c.xn 3) 4096 = false ∧ s.c.scratchPoisoned (s.c.xn 3) 4096 = false ∧
    s.Issues (.slq 4) ∧ s.c.xn 4 + 512 ≤ 0x100000 ∧ s.c.scratchPoisoned (s.c.xn 4) 512 = false ∧ s.Issues .slz := by decide +kernel

/-! ### Witnesses: control registers and traps -/

theorem witness_ControlRegisterForms : isCompute base.c.id = true ∧
    (∀ n ∈ [0x39, 0x38, 0x32, 0x00, 0x11, 0x50, 0x48, 0x03, 0x0C, 0xFFF], base.Issues (.mfc 3 (BitVec.ofNat 12 n))) ∧
    (∀ n ∈ [0x00, 0x01, 0x10, 0x20, 0x27, 0x28, 0x2A, 0x30, 0x31, 0x50, 0x02, 0x4D, 0x03, 0xFFF], base.Issues (.mtc 3 (BitVec.ofNat 12 n))) ∧
    fmtBad (base.c.rs 3) = false ∧ base.c.xn 3 < 4 ∧ isCompute part.c.id = false ∧
    (∀ n ∈ [0x39, 0x38, 0x00, 0x48, 0x32, 0xFFF], part.Issues (.mfc 3 (BitVec.ofNat 12 n))) ∧
    (∀ n ∈ [0x00, 0x01, 0x10, 0x38, 0x42, 0x39, 0xFFF], part.Issues (.mtc 3 (BitVec.ofNat 12 n))) := by decide +kernel

/-- The partition core in its handler, with trappc at the top of its range. -/
def handler : State := { part with c := { part.c with frozen := some ⟨[], none, some ⟨.ldg 3 1 .i64 ⟨.rlx, .mod⟩, 8, 0, 0, 0⟩, none⟩ }.setCr crTrappc (2 ^ 49 - 4) }

theorem witness_TrapReturnForms : handler.Issues .tret ∧ isCompute handler.c.id = false ∧ handler.c.frozen.isSome = true ∧
    goodTarget (handler.c.cr crTrappc) ∧ part.Issues .tret ∧ isCompute part.c.id = false ∧ part.c.frozen = none ∧ base.Issues .tret ∧
    isCompute base.c.id = true := by decide +kernel

/-- The base state with 128 MiB at 0x8000000 that may be read and written, where its task has its context slot. -/
def savable : State :=
  { base with
    mem := memPut base.mem 0x104008 8 (0x1000000F + 2 ^ 56)
    c := { base.c with task := some { placedTask with slot := 0x8000000 } } }

/-- The state of which a compute core's trap makes a save. -/
def trapping : State :=
  { savable with c := { savable.c.setTrap ⟨.misaligned, 0⟩ savable.c.pc with
      flow := Flow.none, arrived := none, badFills := [], redo := none, saving := some (.trapped true) } }

/-- A partition core outside its handler and in it, with and without 0 in trapcause, the Umpire, and a compute core whose task can be saved. -/
theorem witness_TrapEntryAndReturn : part.c.id = .partition 0 ∧ part.c.frozen = none ∧ handler.c.frozen.isSome = true ∧ handler.c.shadow = [] ∧
    (handler.c.frozen.any fun f => f.held.isSome) = true ∧ handler.c.cr crTrapcause = 0 ∧ (handler.c.setCr crTrapcause 7).cr crTrapcause ≠ 0 ∧
    (part.switch .umpire).c.id = .umpire ∧ (part.switch .umpire).c.frozen = none ∧ isCompute savable.c.id = true ∧ savable.c.saving = none ∧
    savable.c.freeze = 0 ∧ savable.c.task = some { placedTask with slot := 0x8000000 } ∧
    (trapping.awaitResults savable.c.id).saveWaits savable.c.id = false ∧
    (match (trapping.awaitResults savable.c.id).trySave savable.c.id { placedTask with slot := 0x8000000 } (.trapped true) with
      | .ok _ => true | .error _ => false) = true := by decide +kernel

/-- What each check of a word's kind, class and scoreboard stops: a V-slot word and a launch on the wrong core, a vector register of a task
without any, a matrix word without tiles, and a read and a write of a register that a write of an earlier bundle is pending on. -/
theorem witness_TrapEntryAndReturn_checks :
    let bare := onC (fun c => { c with task := c.task.map (fun t : Task => { t with record := 0 }) })
    let held (b : Reg) (n : Nat) : State := onC (fun c => { (c.setCr 0x10 1) with age := 9, shadow := [⟨.scalar b, 0, 0, n, 7, 1⟩] })
    (part.preIssue 4 (.vadd 3 1 2 0 .i8) = .go ∧ isCompute part.c.id = false) ∧
    (base.preIssue 7 (.launch 1 ⟨true, true, 4, 63⟩) = .go ∧ lacksForm base.c.id (.launch 1 ⟨true, true, 4, 63⟩) = some .privilege) ∧
    (lacksForm part.c.id (.xwin 1 2 false) = some .illegal ∧ lacksForm .umpire (.gcur 1 2) = some .illegal) ∧
    (bare.preIssue 4 (.vadd 3 1 2 0 .i8) = .go ∧ kindTrap bare (.vadd 3 1 2 0 .i8) = none ∧ Dest.vector 1 ∈ srcs (.vadd 3 1 2 0 .i8)) ∧
    (bare.preIssue 5 (.mzero 0) = .go ∧ bare.preIssue 6 .slz = .go ∧ bare.c.task.any (fun t => decide (bits t.record.toNat 296 6 = 0)) = true) ∧
    (∀ i ∈ [Instr.add .a 3 1 2, .add .a 5 3 2], (held 3 4).preIssue 1 i = .go ∧ kindTrap (held 3 4) i = none ∧ classTrap (held 3 4) 1 i = none ∧
      (held 3 4).c.chk = true ∧ (held 3 4).c.ilk = [] ∧ Dest.scalar 3 ∈ srcs i ++ (dsts (held 3 4).c i).map (·.1)) ∧
    ((held 3 1).preIssue 1 (.add .a 3 1 2) = .go ∧ (Dest.scalar 3, 1) ∈ dsts (held 3 1).c (.add .a 3 1 2) ∧ discards (.scalar 3) = false) := by
  decide +kernel

/-! ### Witnesses: commands -/

/-- A copy descriptor (R194): addresses, row length, rows, the two spaces, and what else is in its bytes. -/
def copyDesc (src dst len rows sspc dspc more : Nat) : Nat :=
  src + dst * 2 ^ 64 + len * 2 ^ 128 + rows * 2 ^ 160 + (sspc + 16 * dspc) * 2 ^ 320 + more

/-- Partition 0 owns cluster 0 and context 1; VF 1 is its own; slot 2 is a host-link slot; gate 0 of world 0 is on. s1 and s2 name a
descriptor and a list. -/
def owned : State :=
  { regs [(1, 0), (2, 64), (3, 0x10040)] with
    parts := [(0, { Part.fresh with exists' := true, clusters := 1 })]
    ctxs := [(1, { base.ctx 1 with part := some 0 })]
    vfs := [(1, { Vf.fresh with part := some 0 })]
    keys := put base.keys 2 ⟨0, 0, 0, false, 4, 1, 0, 0⟩
    gates := [((0, 0), ⟨0, 0, 0x10000, 4096, 0x20000, 4096, true, true, 0⟩)] }

/-- A state with 64 bytes at offset 0 of its scratchpad and 64 at offset 64. -/
def withDesc (s : State) (d l : Nat) : State := { s with c := (s.c.scratchPut 0 64 d).scratchPut 64 64 l }

/-- A tag that is free, with an order and a scope. -/
def xc63 : Xc := ⟨true, true, 4, 63⟩

/-- A copy of one row at the end of the scratchpad to the highest global address. -/
theorem witness_CopyCommands_xcp :
    let d := copyDesc 0xFFFC0 (2 ^ 49 - 64) 64 1 0 2 0
    let s := withDesc owned d 0
    s.Issues (.xcp 1 xc63) ∧ s.takesTag xc63 ∧ s.c.operandOk (s.c.xn 1) 64 64 ∧ s.c.scratchRead 0 64 = d ∧ copyFieldsOk d = true ∧
    noHostFields d = true ∧ noMultiFields d = true ∧ (copyOf d).sspc ≠ 3 ∧ (copyOf d).dspc ≠ 3 ∧ s.copyReaches (s.cmd0 (.xcp 1 xc63) xc63 d) := by
  decide +kernel

/-- Both directions of a host copy. -/
theorem witness_CopyCommands_xcph : ∀ d ∈ [copyDesc 0x1000 0x2000 64 1 3 0 (2 * 2 ^ 328 + 2 ^ 352), copyDesc 0x1000 0x2000 64 1 2 3 (2 * 2 ^ 328 + 2 ^ 352)],
    let s := withDesc owned d 0
    let m : Cmd := { s.cmd0 (.xcph 1 4 xc63) xc63 d with opB := s.c.rs 4, opB1 := s.c.rs 5 }
    s.Issues (.xcph 1 4 xc63) ∧ s.takesTag xc63 ∧ s.c.operandOk (s.c.xn 1) 64 64 ∧ s.c.scratchRead 0 64 = d ∧ copyFieldsOk d = true ∧
    noMultiFields d = true ∧ d.testBit 335 = false ∧ (((copyOf d).sspc = 3 ∧ (copyOf d).dspc = 0) ∨ ((copyOf d).dspc = 3 ∧ (copyOf d).sspc = 2)) ∧
    (s.vf (field d 44 2)).part = some (s.partOf (clusterOf s.c.id)) ∧ linkTrap s (field d 41 1) = none ∧ s.copyReaches m := by decide +kernel

/-- A reduction of four bytes a row to one and to sixteen destinations. -/
theorem witness_CopyCommands_xmc : ∀ n ∈ [1, 16],
    let d := copyDesc 0x1000 0 64 1 0 2 (2 ^ 336 + n * 2 ^ 344)
    let s := { withDesc owned d 0 with c := (((withDesc owned d 0).c.scratchPut 64 128 0x10040)) }
    let l := (List.range (field d 43 1)).map (fun j => field (s.c.scratchRead (s.c.xn 2) (8 * field d 43 1)) (8 * j) 8)
    let m : Cmd := { s.cmd0 (.xmc 1 2 xc63) xc63 d with opB := s.c.rs 2, list := l }
    s.Issues (.xmc 1 2 xc63) ∧ s.takesTag xc63 ∧ s.c.operandOk (s.c.xn 1) 64 64 ∧ s.c.scratchRead 0 64 = d ∧ copyFieldsOk d = true ∧
    noHostFields d = true ∧ (copyOf d).dst = 0 ∧ (copyOf d).dspc = 2 ∧ (copyOf d).sspc ≠ 3 ∧ field d 42 1 ≤ 5 ∧ field d 43 1 = n ∧
    s.c.operandOk (s.c.xn 2) (8 * n) 64 ∧ ropAligned d l = true ∧ s.copyReaches m := by decide +kernel

/-- A gather and a scatter of two rows by a list. -/
def listed : State := withDesc owned (copyDesc 0x1000 0x10040 64 2 0 2 0) (3 + 2 ^ 32)

/-- The command of a list form in that state. -/
def listCmd (i : Instr) : Cmd :=
  { listed.cmd0 i xc63 (copyDesc 0x1000 0x10040 64 2 0 2 0) with opB := listed.c.rs 2, list := lanesOf 32 2 (listed.c.scratchRead (listed.c.xn 2) 8) }

theorem witness_CopyCommands_lists :
    let d := copyDesc 0x1000 0x10040 64 2 0 2 0
    listed.Issues (.xga 1 2 xc63) ∧ listed.Issues (.xsc 1 2 xc63) ∧ listed.takesTag xc63 ∧ listed.c.operandOk (listed.c.xn 1) 64 64 ∧
    listed.c.scratchRead 0 64 = d ∧ copyFieldsOk d = true ∧ noHostFields d = true ∧ noMultiFields d = true ∧ (copyOf d).rows = 2 ∧
    (copyOf d).sspc ≠ 3 ∧ (copyOf d).dspc ≠ 3 ∧ listed.c.operandOk (listed.c.xn 2) (4 * 2) 64 := by decide +kernel

theorem witness_CopyCommands_lists_reach :
    listed.copyReaches (listCmd (.xga 1 2 xc63)) ∧ listed.copyReaches (listCmd (.xsc 1 2 xc63)) := by decide +kernel

/-- A passage of 4 KiB through a gate whose windows are as long. -/
theorem witness_CopyCommands_xgate :
    let d := 0x10000 * 2 ^ 64 + 0x20000 * 2 ^ 128 + 4096 * 2 ^ 192
    let s := withDesc owned d 0
    s.Issues (.xgate 1 xc63) ∧ s.takesTag xc63 ∧ s.c.operandOk (s.c.xn 1) 64 64 ∧ s.c.scratchRead 0 64 = d ∧ field d 1 7 = 0 ∧ field d 28 36 = 0 ∧
    field d 24 4 = 4096 ∧ field d 8 8 < 2 ^ 49 ∧ field d 16 8 < 2 ^ 49 ∧ s.gateOk s.c.party d = true ∧ s.copyReaches (s.cmd0 (.xgate 1 xc63) xc63 d) := by
  decide +kernel

/-- The commands with a descriptor that a compute core may issue. -/
def descForms : List Instr :=
  [.xcp 1 xc63, .xcph 1 4 xc63, .xmc 1 2 xc63, .xga 1 2 xc63, .xsc 1 2 xc63, .xgate 1 xc63, .wjw 1 xc63, .wjc 1 xc63, .wja 1 xc63, .wjd 1 xc63,
    .xhash 1 xc63, .xvfy 1 xc63]

/-- A tag that is held, and a descriptor that is misaligned, past the end, in a reserved group, or poisoned. -/
theorem witness_CommandChecks :
    (∀ i ∈ descForms, base.Issues i) ∧ part.Issues (.launch 1 xc63) ∧ (part.switch .umpire).Issues (.xsign 1 xc63) ∧ base.takesTag xc63 ∧
    (let s := after (.gfork 1 2 xc63) part; s.Issues (.xcp 1 xc63) ∧ ¬s.takesTag xc63) ∧
    (regs [(1, 1)]).c.xn 1 % 64 ≠ 0 ∧ (regs [(1, 0x100000)]).c.scratchSize < (regs [(1, 0x100000)]).c.xn 1 + 64 ∧
    loading.Issues (.xcp 0 xc63) ∧ loading.takesTag xc63 ∧ loading.c.bankConflict (loading.c.xn 0) 64 = true ∧
    lsu.Issues (.xhash 3 xc63) ∧ (let s := onC (fun c => { c with poison := [0] })
      s.Issues (.xcp 1 xc63) ∧ s.takesTag xc63 ∧ s.c.bankConflict (s.c.xn 1) 64 = false ∧ s.c.needsFill (s.c.xn 1) 64 = false ∧
      s.c.scratchPoisoned (s.c.xn 1) 64 = true) := by decide +kernel

/-- The stream forms on a partition core, with s2 aligned and not. -/
theorem witness_StreamCommandsBecomeOutstanding :
    let s (v : Nat) : State := { part with c := part.c.writeS 2 (BitVec.ofNat 64 v) }
    (s 32).takesTag xc63 ∧ (s 32).Issues (.gsmpl 1 2 xc63) ∧ (s 32).c.xn 2 < 2 ^ 49 ∧ (s 32).c.xn 2 % 32 = 0 ∧ (s 8).Issues (.gsmpl 1 2 xc63) ∧
    (s 8).c.xn 2 % 32 ≠ 0 ∧ (s 8).Issues (.gins 1 2 xc63) ∧ (s 8).c.xn 2 % 8 = 0 ∧ (s 4).Issues (.gins 1 2 xc63) ∧ (s 4).c.xn 2 % 8 ≠ 0 ∧
    (s 8).Issues (.gfork 1 2 xc63) ∧ (s 8).Issues (.gtrunc 1 2 xc63) ∧ (s 8).Issues (.gsnap 1 xc63) := by decide +kernel

/-- A launch of one index over the partition's cluster. -/
theorem witness_LaunchAndJournalCommands_launch :
    let d := 0x10000 + 0 * 2 ^ 64 + 1 * 2 ^ 96 + 1 * 2 ^ 128 + 0x10040 * 2 ^ 192
    let s := withDesc { part with parts := owned.parts } d 0
    s.Issues (.launch 0 xc63) ∧ s.takesTag xc63 ∧ s.c.operandOk (s.c.xn 0) 64 64 ∧ s.c.scratchRead 0 64 = d ∧ launchOk d = true ∧
    field d 0 8 < 2 ^ 49 ∧ field d 24 8 < 2 ^ 49 ∧
    (∀ j < 32, d.testBit (128 + j) = true → (s.part (s.partOf (clusterOf s.c.id))).clusters.getLsbD j = true) := by decide +kernel

/-- A weight store whose segment 0 the task may write, with a journal in a state. -/
def journal (j : Journal) : State :=
  { base with c := { base.c with ws := { base.c.ws with segs := put base.c.ws.segs 0 { Seg.fresh with write := true }, jnl := j } } }

/-- A first write, one to an open transaction, and the end of each. -/
theorem witness_LaunchAndJournalCommands_journal :
    let w := 5 + 0 * 2 ^ 64 + 64 * 2 ^ 96 + 0xFFFC0 * 2 ^ 128 + 7 * 2 ^ 160
    let e := 5 + 7 * 2 ^ 160
    let idle := withDesc (journal ⟨0, 0, 0, 0, 0, 4, 0, []⟩) w 0
    let staged := withDesc (journal ⟨1, 5, 7, 0, 0, 5, 0, [(0, 64, 0)]⟩) e 0
    let committed := withDesc (journal ⟨2, 5, 7, 0, 0, 5, 0, [(0, 64, 0)]⟩) e 0
    idle.Issues (.wjw 0 xc63) ∧ idle.takesTag xc63 ∧ idle.c.operandOk (idle.c.xn 0) 64 64 ∧ idle.c.scratchRead 0 64 = w ∧ wjwOk w = true ∧
    idle.wjwState w = true ∧ field w 16 4 + field w 12 4 ≤ idle.c.scratchSize ∧ idle.c.needsFill (field w 16 4) (field w 12 4) = false ∧
    (∀ n ∈ segsOf (field w 8 4) (field w 12 4), idle.segWritable n = true) ∧
    staged.Issues (.wjc 0 xc63) ∧ staged.c.scratchRead 0 64 = e ∧ staged.journalNamed e 1 = true ∧
    (∀ r ∈ (staged.journalNext staged.c.id).ranges, ∀ n ∈ segsOf r.1 r.2.1, staged.segWritable n = true) ∧ staged.Issues (.wjd 0 xc63) ∧
    committed.Issues (.wja 0 xc63) ∧ committed.c.scratchRead 0 64 = e ∧ committed.journalNamed e 2 = true ∧ committed.c.readsSet (field e 20 2) = false := by
  decide +kernel

/-- A hash of nothing, a signature with key 1, and a check whose parts end the scratchpad. -/
theorem witness_SecurityCommandsBecomeOutstanding :
    let h := 0 + 0x40 * 2 ^ 64
    let g := 0x40 + 1 * 2 ^ 32 + 0x80 * 2 ^ 64
    let v := 0x40 + 0x80 * 2 ^ 32 + 0x100 * 2 ^ 64 + 0xFFFC0 * 2 ^ 96
    let s := withDesc owned h 0
    let u := withDesc (part.switch .umpire) g 0
    let c := withDesc owned v 0
    s.Issues (.xhash 1 xc63) ∧ s.takesTag xc63 ∧ s.c.operandOk (s.c.xn 1) 64 64 ∧ s.c.scratchRead 0 64 = h ∧ field h 12 52 = 0 ∧
    field h 4 4 ≤ s.c.scratchSize ∧
    (∀ r ∈ (s.cmd0 (.xhash 1 xc63) xc63 h).secReads ++ [(s.cmd0 (.xhash 1 xc63) xc63 h).secOut],
      r.1 % 64 = 0 ∧ r.1 + r.2 ≤ s.c.scratchSize ∧ s.c.needsFill r.1 r.2 = false) ∧
    u.Issues (.xsign 1 xc63) ∧ u.takesTag xc63 ∧ u.c.operandOk (u.c.xn 1) 64 64 ∧ u.c.scratchRead 0 64 = g ∧ field g 12 52 = 0 ∧ field g 4 4 = 1 ∧
    (∀ r ∈ (u.cmd0 (.xsign 1 xc63) xc63 g).secReads ++ [(u.cmd0 (.xsign 1 xc63) xc63 g).secOut],
      r.1 % 64 = 0 ∧ r.1 + r.2 ≤ u.c.scratchSize ∧ u.c.needsFill r.1 r.2 = false) ∧
    c.Issues (.xvfy 1 xc63) ∧ c.c.scratchRead 0 64 = v ∧ field v 16 48 = 0 ∧
    (∀ r ∈ (c.cmd0 (.xvfy 1 xc63) xc63 v).secReads ++ [(c.cmd0 (.xvfy 1 xc63) xc63 v).secOut],
      r.1 % 64 = 0 ∧ r.1 + r.2 ≤ c.c.scratchSize ∧ c.c.needsFill r.1 r.2 = false) := by decide +kernel

/-- Sixteen pages of scratchpad as fifteen windows, the last with a dirty piece; s1 names the next region and s2 the last window. -/
def windows : State :=
  { regs [(1, 0x100000), (2, 0x10F000), (3, 0x10000)] with c := { (regs [(1, 0x100000), (2, 0x10F000), (3, 0x10000)]).c with
      wins := (List.range 15).map (fun i => ⟨BitVec.ofNat 64 (0x101000 + 4096 * i), 0x10000, [if i = 14 then .dirty else .clean]⟩) } }

/-- A sixteenth window; a drop, a write-back and an invalidation of the last; a command to cancel. -/
theorem witness_WindowCommands :
    windows.Issues (.xwin 1 3 false) ∧ (windows.c.rs 1).toNat < 2 ^ 32 ∧ (windows.c.rs 1).toNat % 2 ^ 20 % 4096 = 0 ∧
    (windows.c.rs 1).toNat / 2 ^ 20 = 1 ∧ (windows.c.rs 1).toNat % 2 ^ 20 + 4096 ≤ 0x100000 ∧ windows.c.xn 3 % 4096 = 0 ∧ windows.c.xn 3 < 2 ^ 49 ∧
    windows.c.wins.length < 16 ∧ (∀ w ∈ windows.c.wins, regionsMeet w.region (windows.c.rs 1) = false) ∧
    windows.Issues (.xwin 2 0 true) ∧ (∃ w ∈ windows.c.wins, w.region = windows.c.rs 2) ∧ windows.c.windowBusy (windows.c.rs 2) = false ∧
    windows.Issues (.xwb 2 xc63) ∧ windows.takesTag xc63 ∧
    windows.c.wins.find? (fun w => decide (w.region = windows.c.rs 2)) = some ⟨windows.c.rs 2, 0x10000, [.dirty]⟩ ∧ windows.Issues (.xinv 2 xc63) ∧
    (let s := { owned with c := { owned.c with cmds := [{ owned.cmd0 (.xcp 1 xc63) xc63 0 with boxes := 3 }] } }
     s.Issues (.xcan 1) ∧ s.tasks = []) := by decide +kernel

/-! ### Witnesses: queues and the remaining X forms -/

/-- A running queue of 16 slots at 0x10000 with some entries in use; s4 names queue 5. -/
def queued (kind : BitVec 8) (tail : Nat) : State :=
  let s := { owned with mem := writable.mem, c := owned.c.writeS 4 5 }
  s.setQueue 0 5 { Queue.fresh with kind := kind, ctx := 1, rbase := 0x10000, rlgn := 4, rkind := kind, rctx := 1, head := 0, tail := tail }

/-- A record that may be pushed (R217): entry 0x10000, no other field. -/
def plainRecord : Nat := 0x10000

/-- An item queue that is full and one with its last slot free, and the same of a task queue; the operations they leave outstanding. -/
theorem witness_QueueForms :
    let ok (s : State) (v : Nat) : Bool :=
      match s.writeRange (queueParty (s.queue 0 5)) ((s.queue 0 5).slotAddr (s.queue 0 5).tail) (s.queue 0 5).slotBytes v with
      | .ok _ => true | .error _ => false
    let left (s : State) (k : IlkKind) : State := { s with c := { s.c with ilk := [⟨k, some (.pred 1), 0⟩] } }
    let r := BitVec.ofNat 512 plainRecord
    (∀ t ∈ [15, 16], (queued 0 t).Issues (.qenq 1 4 2) ∧ (queued 0 t).handleOk ((queued 0 t).c.rs 4) false ∧ (queued 0 t).Issues (.qdeq 3 4) ∧
      (left (queued 0 t) (.enq 0 5 9)).released ∧ ((queued 0 t).queue 0 5).stopped = false) ∧
    ((queued 0 16).queue 0 5).used = ((queued 0 16).queue 0 5).size ∧ ((queued 0 15).queue 0 5).used ≠ ((queued 0 15).queue 0 5).size ∧
    (queued 0 15).partOf 0 = 0 ∧ ok (queued 0 15) 9 = true ∧
    (∀ t ∈ [15, 16], let s := withDesc (queued 1 t) plainRecord 0
      s.Issues (.tqpush 0 4 1) ∧ s.handleOk (s.c.rs 4) true ∧ s.c.operandOk (s.c.xn 1) 64 64 ∧ s.c.scratchRead 0 64 = plainRecord ∧
      recResume r = false ∧ recMalformed r = false ∧ recFar r = none ∧ recField r 40 1 = s.c.party.comp ∧ recTooLarge r = false ∧
      (left s (.push 0 5 r 0)).released ∧ (s.queue 0 5).stopped = false) ∧
    ok (queued 1 15) plainRecord = true := by decide +kernel

/-- The last segment and one past it, one hint, the last state of XPWR and one past it, and the least code a compute core may log. -/
theorem witness_WearHintPowerAndEventForms :
    let s := regs [(1, 1023), (2, 1024), (3, 1), (4, 64), (5, 3), (6, 4)]
    s.Issues (.wwear 7 1) ∧ s.c.xn 1 < 1024 ∧ s.Issues (.wwear 0 2) ∧ 1024 ≤ s.c.xn 2 ∧ s.Issues (.xhint 0 3) ∧ s.Issues (.xhint 0 4) ∧
    s.c.xn 4 ≤ 64 ∧ s.c.operandOk (s.c.xn 0) (16 * 64) 16 ∧ s.c.scratchRead 0 1024 = 0 ∧ s.Issues (.xpwr 5) ∧ s.c.xn 5 < 4 ∧ s.Issues (.xpwr 6) ∧
    4 ≤ s.c.xn 6 ∧
    (let o := after (.xevt 1 0x80) s; o.c.ilk = [⟨.evt 0x80 1 1023, none, 0⟩] ∧ o.released) ∧ s.Issues (.xevt 1 0x80) ∧ s.Issues (.xevt 1 0x7F) ∧ s.c.id ≠ .umpire ∧ (part.switch .umpire).Issues (.xevt 1 0) := by decide +kernel

/-! ### Witnesses: what goes on after issue -/

/-- Has a value. -/
def fine {ε α : Type} : Except ε α → Bool
  | .ok _ => true
  | .error _ => false

/-- An access that is performed. -/
def performed : Tried → Bool
  | .done _ _ => true
  | _ => false

/-- The core of the tests. -/
def k0 : CoreId := .compute 0 0

theorem witness_ResultsLandAndFreezesEnd :
    let s := onC (fun c => { c with shadow := [⟨.scalar 3, 7, 1, 0, 0, 1⟩], ilk := [⟨.value 9, some (.scalar 4), 0⟩], qpop := some 5, rq := [⟨11, 0⟩, ⟨12, 1⟩] })
    (s.core k0).shadow = [⟨.scalar 3, 7, 1, 0, 0, 1⟩] ∧ isCompute (s.core k0).id = true ∧ (s.core k0).ilk[0]? = some ⟨.value 9, some (.scalar 4), 0⟩ ∧
    (s.core k0).qpop = some 5 ∧ (s.core k0).rq = ⟨11, 0⟩ :: [⟨12, 1⟩] ∧ k0 = s.c.id := by decide +kernel

/-- Two entries that land together, of two bundles and of two slots of one bundle, on one register and on two, beside one that counts on. -/
theorem witness_ResultsLandAndFreezesEnd_two : ∀ b ∈ [(3 : Reg), 0], ∀ g ∈ [(4, 1), (5, 2)],
    let x : Entry := ⟨.scalar 3, 7, 0, 0, 5, 1⟩
    let y : Entry := ⟨.scalar b, 8, 0, 0, g.1, g.2⟩
    let z : Entry := ⟨.scalar 9, 1, 0, 2, 5, 1⟩
    let s := onC (fun c => { c with shadow := [x, y, z] })
    (s.core k0).shadow = [x, y, z] ∧ isCompute (s.core k0).id = true ∧ x.remaining = 0 ∧ y.remaining = 0 ∧ z.remaining ≠ 0 ∧
    (x.age ≠ y.age ∨ x.slot ≠ y.slot) := by decide +kernel

/-- A state whose array has had n cycles of an instruction, with a poisoned line. -/
def arrayAt (i : Instr) (n line : Nat) : State :=
  let s := after i matrix
  { s with c := { s.c with array := s.c.array.map (fun o => { o with cyc := n }), loader := s.c.loader.map (fun o => { o with cyc := n }), poison := [line] } }

theorem witness_UnitEventsGoOn_matrix :
    ((arrayAt (.mzero 1) 1 0).core k0).array.any (fun o => !o.isMiter && decide (o.total ≤ o.cyc)) = true ∧
    ((arrayAt (.mldw 0 true 1) 64 0).core k0).loader.any (fun l => decide (64 ≤ l.cyc)) = true ∧
    ((arrayAt (.mload 0 1) 0 0x200).core k0).array.any (fun o => ((arrayAt (.mload 0 1) 0 0x200).core k0).arrayPoison o == some 0x8000) = true ∧
    ((arrayAt (.miter 0 0 false) 128 0).core k0).array.any (fun o => decide (o.instr = .miter 0 0 false ∧ o.phase = 0 ∧ o.total ≤ o.cyc)) = true := by
  decide +kernel

/-- What a gather or scatter needs of its next element. -/
def elementReady (s : State) (g : Gather) : Bool :=
  let t := s.core (caTarget k0 (g.addr g.next))
  decide ((s.core k0).due = [] ∧ g.next < g.count ∧ s.elemCause k0 g (g.addr g.next) = none ∧ (s.core k0).ilk = [] ∧ t.freeze = 0) &&
    !t.needsFill (g.addr g.next % 2 ^ 20) (sizeBytes g.size)

theorem witness_UnitEventsGoOn_latches :
    (let s := after (.vsred 3 1 2 .sum (.int .i32)) (regs [(1, 0xFFC00), (2, 2)])
     let c := s.core k0
     c.stream.any (fun t => decide (c.gather = none ∧ c.due = [] ∧ c.freeze = 0 ∧ t.done + 1 < t.count) && !c.bankConflict (t.addr + 512 * t.done) 512 &&
      !c.needsFill (t.addr + 512 * t.done) 512 && !c.scratchPoisoned (t.addr + 512 * t.done) 512) = true) ∧
    (∀ i ∈ [Instr.ldvx 3 1 2 0 .b8, .stvx 3 1 2 0 .b1], ((after i base).core k0).gather.any (elementReady (after i base)) = true) := by decide +kernel

/-- A pending store of the base state's core. -/
def stored : State := after (.stg 3 1 .b8 ⟨.rlx, .mod⟩) writable

/-- The state with a neighbour whose task is of the same context and compartment, and a remote atomic on it. -/
def remote : State :=
  after (.ats 5 2 .add true ⟨.rlx, .clu⟩) { regs [(2, 47 * 2 ^ 20)] with others := [(.compute 0 47, { base.c with id := .compute 0 47 })] }

/-- The base state once its home has ordered a store of which cluster 3 alone has kept a copy of the old bytes. -/
def staled : State := { base with stale := [{ id := 7, src := k0, eng := none, pa := 0x200040, old := [0], label := (1, 0), psn := false, cls := [3], carry := [] }] }

theorem witness_MemoryEventsGoOn_stores :
    (stored.stores.filter (fun y => decide (clusterOf y.src = 0))).find? (fun y => decide (y.id = 0)) = stored.stores.head? ∧
    stored.stores.length = 1 ∧ stored.stores.head?.any (fun x => decide (x.id = 0 ∧ stored.registerPage x.pa = none)) = true ∧
    ((∀ y ∈ staled.stores, y.id ≠ 7) ∧ staled.stale.map (fun y => (y.id, y.cls)) = [(7, [3])]) ∧
    (∀ y ∈ stored.stores, (y.src = k0 ∧ y.eng = none) ∨ y.id ∈ idsOf (stored.core k0).ord.own → homeOf y.pa ≠ 5) ∧
    (let a : Access := ⟨.ldg 3 1 .i64 ⟨.rlx, .mod⟩, 0, 0, 0, 0⟩
     let s := after (.ldg 3 1 .i64 ⟨.rlx, .mod⟩) base
     (s.core k0).held = none ∧ (s.core k0).ilk = [⟨.access a none, some (.scalar 3), 0⟩] ∧ a.isRemote = false ∧ a.isStore = false ∧
     (s.core k0).log = [] ∧ fine (s.translate (s.core k0).party a.addr a.need) = false) ∧
    (∀ b ∈ [(1 : Reg), 0],
      let s := writable
      let a : Access := ⟨.stg 3 b .b1 ⟨.rlx, .mod⟩, s.c.xn b, 7, 0, 0⟩
      let s := { s with c := { s.c with stq := [a] } }
      (s.core k0).id = k0 ∧ (s.core k0).held = none ∧ (s.core k0).log = [] ∧ (s.core k0).stq = [a] ∧
      (match s.translate (s.core k0).party a.addr .write with
       | .ok z => decide (b = 1) && !s.fenced z.pa
       | .error f => decide (b = 0) && f.repairable) = true) := by decide +kernel

theorem witness_MemoryEventsGoOn_log :
    (let a : Access := ⟨.stg 3 1 .b8 ⟨.rlx, .mod⟩, 0x10040, 7, 0, 0⟩
     let s := { writable with c := { writable.c with log := [⟨a, 1⟩] } }
     (s.core k0).id = k0 ∧ (s.core k0).log = [⟨a, 1⟩] ∧
     (match s.translate (s.core k0).party a.addr .write with | .ok z => !s.fenced z.pa | .error _ => false) = true) ∧
    (let a : Access := ⟨.ats 5 2 .add true ⟨.rlx, .clu⟩, 47 * 2 ^ 20, 0, 0, 0⟩
     let j := caTarget k0 a.addr
     (remote.core k0).id = k0 ∧ (remote.core j).id = j ∧ j ≠ k0 ∧ (remote.core k0).ilk = [⟨.access a none, some (.scalar 5), 0⟩] ∧
     a.isRemote = true ∧ remote.sameTask k0 j = true ∧ (remote.core j).freeze = 0 ∧
     (remote.core j).needsFill (a.addr % 2 ^ 20) a.size = false ∧ (remote.core j).scratchPoisoned (a.addr % 2 ^ 20) a.size = false ∧
     (a.newValue ((remote.core j).scratchRead (a.addr % 2 ^ 20) a.size)).isSome = true) := by decide +kernel

/-- A saved task with its commands, and the base state with commands on its core. -/
def saved (m : Cmd) : State :=
  { base with tasks := [{ Saved.bare { placedTask with slot := 0x8000000 } 0 .ready 0 with cmds := [m] }] }
def running (m : Cmd) : State := { base with c := { base.c with cmds := [m] } }

/-- A command with nothing done. -/
def cmd (i : Instr) : Cmd := base.cmd0 i xc63 0

theorem witness_CommandEventsGoOn :
    (let m := { cmd (.xcp 1 xc63) with boxes := 256, started := BitVec.allOnes 256 }
     (saved m).cmdAt (.slot 1 0x8000000) 63 = some m ∧ (running m).cmdAt (.core k0) 63 = some m ∧ (∀ b < m.boxes, m.started.getLsbD b = true) ∧
     m.bitmap.getLsbD 255 = false ∧ ((running m).core k0).id = k0) ∧
    (let m := { cmd (.xcp 1 ⟨true, false, 0, 63⟩) with boxes := 2, bitmap := 3 }
     (running m).cmdAt (.core k0) 63 = some m ∧ m.fault = none ∧ m.hasBoxes = true ∧ (∀ b < m.boxes, m.bitmap.getLsbD b = true) ∧
     m.releaseScope = none ∧ (running m).engineStores m = []) ∧
    (∀ i ∈ [Instr.xhash 1 ⟨true, false, 0, 63⟩, .xinv 1 ⟨true, false, 0, 63⟩],
     let m := { cmd i with done := true }
     (running m).cmdAt (.core k0) 63 = some m ∧ m.fault = none ∧ m.releaseScope = none ∧ (running m).engineStores m = []) ∧
    (let m := { cmd (.xcp 1 xc63) with fault := some ⟨.translation, 0⟩ }
     (running m).c.id = k0 ∧ ((running m).core k0).engineFault = some m) ∧
    (let m := { cmd (.gsmpl 1 2 xc63) with fetched := [1] }
     (running m).cmdAt (.core k0) 63 = some m ∧ m.fault = none ∧ m.done = false ∧ m.fetched ≠ []) ∧
    (let m := cmd (.wja 1 xc63)
     (running m).journalHead k0 = some (.core k0, m) ∧ (running m).readers ((running m).core k0).ws.jnl.wset = 0) ∧
    (let s := onC (fun c => { c with ws := { c.ws with applying := some 0, jnl := { c.ws.jnl with st := 2 } } })
     (s.core k0).ws.applying.isSome = true ∧ (s.core k0).ws.jnl.st = 2 ∧ s.journalHead k0 = none) := by decide +kernel

/-- A window of one page over the writable page, in a state of its piece. -/
def oneWindow (p : Piece) : State := { writable with c := { writable.c with wins := [⟨0x101000, 0x10000, [p]⟩] } }

theorem witness_CommandEventsGoOn_windows :
    (let s := oneWindow .filling
     (s.core k0).id = k0 ∧ Memory.wf s.c.scratch = true ∧ s.c.fillingPiece = some (0, ⟨0x101000, 0x10000, [.filling]⟩, 0) ∧
     ∀ j < 64, (match s.translate s.c.party (0x10000 + 64 * j) .read with
      | .ok x => !x.psn && !(s.view 0).poisoned (x.pa / 64) | .error _ => false) = true) ∧
    (let s := { oneWindow .filling with c := { (oneWindow .filling).c with wins := [⟨0x101000, 0, [.filling]⟩] } }
     s.c.fillingPiece = some (0, ⟨0x101000, 0, [.filling]⟩, 0) ∧ fine (s.translate s.c.party 0 .read) = false) ∧
    (let s := oneWindow .dirty
     s.c.wins[0]? = some ⟨0x101000, 0x10000, [.dirty]⟩ ∧
     ∀ j < 64, (match s.translate s.c.party (0x10000 + 64 * j) .write with | .ok x => !s.fenced x.pa | .error _ => false) = true) := by
  decide +kernel

/-! ### Witnesses: what boxes, engines, journal units and the sampler leave -/

/-- The place, where there is one. -/
def locOf (x : Except Cause Loc) : Loc := match x with | .ok l => l | .error _ => .host 0

/-- A place that no fill and no freeze holds. -/
def placeFree (s : State) : Loc → Bool
  | .scr t off => !(s.core t).needsFill off 64 && decide ((s.core t).freeze = 0)
  | _ => true

/-- Where line j of box 0 comes from. -/
def srcAt (s : State) (m : Cmd) (j : Nat) : Loc := locOf (s.place k0 m m.copy.sspc (m.srcRow 0 + 4096 * 0 + 64 * j) false)

/-- Where line j of box 0 goes. -/
def dstAt (s : State) (m : Cmd) (j : Nat) : Loc := locOf (s.place k0 m m.copy.dspc (m.dstRow m.copy.dst 0 + 4096 * 0 + 64 * j) true)

/-- What `boxLines` asks of box 0, by evaluation. -/
def boxPlaced (s : State) (m : Cmd) (n : Nat) : Bool :=
  decide (m.copy.rows = 1 ∧ 0 < m.copy.len ∧ 64 * n = Nat.min 4096 m.copy.len ∧ m.srcRow 0 % 64 = 0 ∧ m.dests = [m.copy.dst] ∧
    m.dstRow m.copy.dst 0 % 64 = 0 ∧ m.srcRow 0 + m.copy.len ≤ 2 ^ 64 ∧ m.dstRow m.copy.dst 0 + m.copy.len ≤ 2 ^ 64) &&
  (List.range n).all (fun j => fine (s.place k0 m m.copy.sspc (m.srcRow 0 + 4096 * 0 + 64 * j) false) &&
    fine (s.place k0 m m.copy.dspc (m.dstRow m.copy.dst 0 + 4096 * 0 + 64 * j) true) && placeFree s (srcAt s m j) && placeFree s (dstAt s m j))

theorem locOf_eq (x : Except Cause Loc) (h : fine x = true) : x = .ok (locOf x) := by
  cases x with
  | ok l => rfl
  | error e => simp [fine] at h

theorem boxLines_of_placed (s : State) (m : Cmd) (n : Nat) (h : boxPlaced s m n = true) : s.boxLines k0 m 0 n (srcAt s m) (dstAt s m) := by
  simp only [boxPlaced, Bool.and_eq_true, decide_eq_true_eq, List.all_eq_true, List.mem_range] at h
  obtain ⟨⟨h1, h2, h3, h4, h5, h6, h7, h8⟩, h⟩ := h
  refine ⟨m.copy.dst, h5, h1, by omega, by omega, h4, h6, h7, h8, fun j hj => ?_⟩
  obtain ⟨⟨⟨a, b⟩, c⟩, d⟩ := h j hj
  refine ⟨locOf_eq _ a, locOf_eq _ b, fun t off e => ?_⟩
  rcases e with e | e
  · rw [e] at c; simpa [placeFree] using c
  · rw [e] at d; simpa [placeFree] using d

theorem startsBox_of_fresh (s : State) (m : Cmd) (hx : ∀ a x, m.instr ≠ .xwb a x)
    (h : s.cmdAt (.core k0) m.tag = some m ∧ m.hasBoxes = true ∧ m.fault = none ∧ m.inFlight < 8 ∧ (s.core k0).saving = none ∧
      (s.core k0).earlierSeen m = true ∧ s.engineFull m = false ∧ s.boxGuard k0 m 0 = none ∧ m.boxes = 1 ∧ m.started = 0 ∧ m.bitmap = 0) :
    s.startsBox k0 m 0 := by
  obtain ⟨h1, h2, h3, h4, h5, h6, h7, h8, h9, h10, h11⟩ := h
  exact ⟨h1, h2, hx, h3, h4, h5, h6, h7, h8, by omega, by omega, by rw [h10]; rfl, by rw [h11]; rfl, by omega⟩

/-- A command of one box that has not started, and the state whose core has it. -/
def boxCmd (s : State) (i : Instr) (d : Nat) : Cmd := { s.cmd0 i xc63 d with boxes := 1 }
def boxed (s : State) (i : Instr) (d : Nat) : State := { s with c := { s.c with cmds := [boxCmd s i d] } }

/-- Two lines of text. -/
def text : Nat := 5 + 7 * 2 ^ 512

/-- A copy of two lines of the scratchpad to the writable page. -/
def source : State := { writable with c := writable.c.scratchPut 0 128 text }
def copyText : Nat := copyDesc 0 0x10040 128 1 0 2 0

theorem witness_CopyCommands_box :
    let m := boxCmd source (.xcp 1 xc63) copyText
    let s := boxed source (.xcp 1 xc63) copyText
    (s.core k0).id = k0 ∧ s.startsBox k0 m 0 ∧ s.boxLines k0 m 0 2 (srcAt s m) (dstAt s m) ∧ m.reduces = false ∧ ∀ a b x, m.instr ≠ .xcph a b x :=
  ⟨by decide +kernel, startsBox_of_fresh _ _ nofun (by decide +kernel), boxLines_of_placed _ _ _ (by decide +kernel), by decide +kernel, nofun⟩

/-- The lines go somewhere that `boxWritten` names: a home that is not fenced. -/
theorem witness_CopyCommands_box_lines :
    let m := boxCmd source (.xcp 1 xc63) copyText
    let s := boxed source (.xcp 1 xc63) copyText
    ∀ j < 2, (match dstAt s m j with | .mem x => decide (x.pa = 0x200040 + 64 * j) && !s.fenced x.pa | _ => false) = true := by decide +kernel

/-- A copy of two lines to the host, and one back whose tag is in host memory; the key is that of `owned`'s slot 2. -/
def crossText (out : Bool) : Nat :=
  copyDesc (if out then 0 else 0x2000) (if out then 0x2000 else 0) 128 1 (if out then 0 else 3) (if out then 3 else 0)
    (2 * 2 ^ 328 + 2 ^ 352 + 0x4000 * 2 ^ 384)
def crossTag : List Nat := gcmTag (natBytes 32 0) (natBytes 12 0) (natBytes 8 0) (natBytes 128 text)
def outside (out : Bool) : State :=
  { owned with
    host := if out then [] else memPut (memPut [] (hostKey 1 0x2000) 128 text) (hostKey 1 0x4000) 16 (natOfLE crossTag)
    c := if out then owned.c.scratchPut 0 128 text else owned.c }
def crossing (out : Bool) : Cmd := boxCmd (outside out) (.xcph 1 4 xc63) (crossText out)
def crosses (out : Bool) : State := boxed (outside out) (.xcph 1 4 xc63) (crossText out)

theorem witness_CopyCommands_hostBox_starts (out : Bool) :
    ((crosses out).core k0).id = k0 ∧ (crosses out).startsBox k0 (crossing out) 0 ∧
    (crosses out).boxLines k0 (crossing out) 0 2 (srcAt (crosses out) (crossing out)) (dstAt (crosses out) (crossing out)) ∧
    (crossing out).reduces = false ∧ ∃ a b x, (crossing out).instr = .xcph a b x := by
  cases out <;>
    exact ⟨by decide +kernel, startsBox_of_fresh _ _ nofun (by decide +kernel), boxLines_of_placed _ _ _ (by decide +kernel), by decide +kernel,
      ⟨1, 4, xc63, rfl⟩⟩

theorem witness_CopyCommands_hostBox :
    text < 256 ^ (64 * 2) ∧
    (∀ out ∈ [true, false], ∀ j < 2, bits text (512 * j) 512 = ((crosses out).locRead k0 (srcAt (crosses out) (crossing out) j) 64).1) ∧
    (let m := crossing false
     m.copy.sspc = 3 ∧ gcmTag (natBytes 32 ((crosses false).key (m.d 41 1)).key.toNat) (m.iv 0) (natBytes 8 0) (natBytes (64 * 2) text) =
       natBytes 16 (memRead (crosses false).host (hostKey (m.d 44 2) ((m.d 48 8 + 16 * 0) % 2 ^ 64)) 16)) ∧
    (let m := crossing true
     m.copy.sspc ≠ 3 ∧ m.copy.dspc = 3 ∧ (∀ j < 2, ((crosses true).locRead k0 (srcAt (crosses true) m j) 64).2 = false) ∧
     Memory.wf (crosses true).host = true ∧ hostKey (m.d 44 2) ((m.d 48 8 + 16 * 0) % 2 ^ 64) = hostKey 1 0x4000 ∧
     dstAt (crosses true) m 0 = .host (hostKey 1 0x2000) ∧ hostKey 1 0x2000 + 64 * 2 ≤ hostKey 1 0x4000) := by decide +kernel

/-- A journal unit of a WJW that has its source, first of an Idle journal behind the state and the range record, and later of an open one; a WJA of
one range whose first target comes next. -/
theorem witness_LaunchAndJournalCommands_units :
    let w := 5 + 0 * 2 ^ 64 + 64 * 2 ^ 96 + 0xFFFC0 * 2 ^ 128 + 7 * 2 ^ 160
    let staged (j : Journal) (n : Nat) : State :=
      { journal j with c := { (journal j).c with
          cmds := [{ (journal j).cmd0 (.wjw 0 xc63) xc63 w with list := [9] }], ws := { (journal j).c.ws with pos := n } } }
    let applied : State :=
      let j : Journal := ⟨2, 5, 7, 0, 0, 5, 0, [(0, 64, 0)]⟩
      { journal j with c := { (journal j).c with cmds := [(journal j).cmd0 (.wja 0 xc63) xc63 (5 + 7 * 2 ^ 160)] } }
    (∀ y ∈ [((⟨0, 0, 0, 0, 0, 4, 0, []⟩ : Journal), 2), (⟨1, 5, 7, 0, 0, 5, 0, [(64, 64, 0)]⟩, 1)],
      let s := staged y.1 y.2
      let m := { s.cmd0 (.wjw 0 xc63) xc63 w with list := [9] }
      s.journalHead k0 = some (.core k0, m) ∧ m.core = k0 ∧ s.cmdAt (.core k0) m.tag = some m ∧ (s.core k0).id = k0 ∧ (s.core k0).ws.tries < 5 ∧
      (s.core k0).ws.jnl.st ≤ 1 ∧ m.fault = none ∧ m.done = false ∧ m.list[0]? = some 9 ∧
      (s.core k0).ws.pos = (if (s.core k0).ws.jnl.st = 0 then 2 else 1)) ∧
    (let c := applied.core k0
     (applied.journalHead k0).isSome = true ∧ (c.cmds.all fun m => decide (m.instr = .wja 0 xc63)) = true ∧ c.ws.jnl.st = 2 ∧
     applied.readers c.ws.jnl.wset = 0 ∧ c.ws.jnl.ranges = [(0, 64, 0)] ∧ c.ws.pos = 0 ∧ 0 < 64 / 64 ∧ c.ws.tries < 5 ∧ c.id = k0) := by decide +kernel

/-- The three engine commands taken up, with their ranges clean. -/
theorem witness_SecurityCommands_engine :
    ∀ x ∈ [(Instr.xhash 1 xc63, 0 + 3 * 2 ^ 32 + 0x40 * 2 ^ 64), (.xsign 1 xc63, 0x40 + 1 * 2 ^ 32 + 0x80 * 2 ^ 64),
        (.xvfy 1 xc63, 0x40 + 0x80 * 2 ^ 32 + 0x100 * 2 ^ 64 + 0xFFFC0 * 2 ^ 96)],
      let g := owned.cmd0 x.1 xc63 x.2
      let s := running g
      let c := s.core k0
      c.id = k0 ∧ Memory.wf c.scratch = true ∧ s.cmdAt (.core k0) g.tag = some g ∧ g.done = false ∧ g.fault = none ∧ c.earlierSeen g = true ∧
      c.freeze = 0 ∧ (∀ r ∈ g.secReads ++ [g.secOut], c.needsFill r.1 r.2 = false) ∧ c.poison = [] := by decide +kernel

/-- An LDG, an ATG and a CASG of the writable page, each outstanding alone. -/
theorem witness_MemoryEventsGoOn_globals : ∀ i ∈ [Instr.ldg 3 1 .i64 ⟨.rlx, .mod⟩, .atg 3 1 .add true ⟨.rlx, .mod⟩, .casg 3 1 4 true ⟨.rlx, .mod⟩],
    let s := after i writable
    let a : Access := ⟨i, 0x10040, 0, 0, 0⟩
    (s.core k0).id = k0 ∧ (s.core k0).log = [] ∧ (s.core k0).ilk = [⟨.access a none, some (.scalar 3), 0⟩] ∧
    (match s.translate (s.core k0).party a.addr a.need with
      | .ok z => decide (s.registerPage z.pa = none) && !z.psn && !(s.view (clusterOf k0)).poisoned (z.pa / 64) && !s.poisoned (z.pa / 64) &&
          !s.fenced z.pa
      | .error _ => false) = true ∧ s.stale = [] ∧ s.stores = [] := by decide +kernel

/-- A partition core whose partition has one stream, open, with 5 tokens and a cursor of 2, in the writable page, and whose GCUR to 4 waits. -/
def streamed : State :=
  let raw := 1 + 2 * 2 ^ 32 + 1 * 2 ^ 192 + 64 * 2 ^ 224 + 1 * 2 ^ 544 + 64 * 2 ^ 832 + 5 * 2 ^ 1024 + 2 * 2 ^ 1056
  { part with
    parts := [(0, { Part.fresh with exists' := true, clusters := 1, stcfg := 0x10001, stbase := 0x10000 })]
    labels := labelSet part.labels (0x200000 / 64) 64 (1, 0)
    mem := memPut writable.mem 0x200000 256 raw
    c := { part.c with ord := { part.c.ord with wait := some (.gcur 0 4) } } }

theorem witness_SchedulingEventsGoOn_gcur :
    let k : CoreId := .partition 0
    let c := streamed.core k
    c.id = k ∧ c.ord.wait = some (.gcur 0 4) ∧ streamed.streamBusy k 0 streamed.ids = false ∧ streamed.lockedBy k 0 = false ∧ c.ilk = [] ∧ c.held = none ∧
    c.stq = [] ∧ c.log = [] ∧ c.gather = none ∧ c.ord.lost = none ∧ c.ord.marks = [] ∧ c.ord.covered = [] ∧
    streamed.rangeSeen k (streamed.strmAddr k 0, 256) = [] ∧ streamed.stores = [] ∧
    (match streamed.strm k 0 with
      | .ok e => e.isOpen && !e.raw.testBit 1 && decide (e.p ≤ 4 ∧ 4 ≤ e.g) &&
          (match streamed.translate (streamed.samplerParty k) (e.addr + 132) .write with | .ok y => !streamed.fenced y.pa | .error _ => false)
      | .error _ => false) = true := by decide +kernel

/-! ### Witnesses: queues, scheduling and the host -/

/-- A stopped queue with a valid entry. -/
def stoppedQueue : State := owned.setQueue 0 4095 { Queue.fresh with base := 0x10000, lgn := 4, ctx := 1 }

/-- A launch of 64 indices, and a state that holds it. -/
def launch (ready : Bool) (chunks : List Chunk) : Launch :=
  { id := 3, part := 0, ctx := 1, issuer := .partition 0, tag := 0, record := 0, lo := 0, hi := 64, cmask := 1, dim := 0, reiss := false, qn := 5
    bitmap := 0x10040, done := [], chunks := chunks, tmpl := 0x10000, ready := ready, seq := 4, dead := false, master := 0, reissues := 0 }

/-- The partition's queue of items, whose head slot a core's QDEQ waits for. -/
def waited : State :=
  let s := { queued 0 15 with c := { (queued 0 15).c with ilk := [⟨.qdeq 0 5 none, some (.scalar 1), 9⟩] } }
  s.setQueue 0 5 { s.queue 0 5 with waiters := [.core k0] }

/-- A valid queue and one that is not; an item for a queue that is full and one that is not; a launch of which the template is read and one of
which it is not. -/
theorem witness_QueueEventsGoOn :
    (let q := stoppedQueue.queue 0 4095
     q.stopped = true ∧ bits q.kind.toNat 1 2 ≠ 3 ∧ bits q.kind.toNat 4 4 = 0 ∧ q.base.toNat % 4096 = 0 ∧ q.base.toNat < 2 ^ 49 ∧ 4 ≤ q.lgn ∧
     q.lgn ≤ 16 ∧ q.ctx.toNat < 512 ∧ (stoppedQueue.ctx q.ctx.toNat).part = some 0 ∧ q.kind.getLsbD 0 = false ∧ q.clu = 0) ∧
    (owned.queue 0 0).stopped = true ∧ (owned.queue 0 0).lgn < 4 ∧
    ((waited.queue 0 5).waiters = [.core k0] ∧ (waited.core k0).id = k0 ∧ (waited.core k0).ilk = [⟨.qdeq 0 5 none, some (.scalar 1), 9⟩] ∧
     (waited.queue 0 5).stopped = false ∧ (waited.queue 0 5).used ≠ 0 ∧
     fine (waited.readRange (queueParty (waited.queue 0 5)) ((waited.queue 0 5).slotAddr (waited.queue 0 5).head) 8) = true) ∧
    (∀ t ∈ [15, 16],
     let s := (queued 0 t).setCluster 0 { (queued 0 t).cluster 0 with items := [⟨0, 5, 7, [99], none⟩] }
     let q := s.queue 0 5
     (s.cluster 0).items = [⟨0, 5, 7, [99], none⟩] ∧ s.isPending 99 = false ∧ q.stopped = false ∧ (q.used = q.size ↔ t = 16) ∧
     fine (s.writeRange (queueParty q) (q.slotAddr q.tail) q.slotBytes 7) = true) ∧
    (∀ r ∈ [true, false], let s := { owned with launches := [launch r [⟨0, 0, 64, 0, 0, 0⟩]] }
      s.launches.find? (fun x => decide (x.id = 3)) = some (launch r [⟨0, 0, 64, 0, 0, 0⟩]) ∧
      (launch r [⟨0, 0, 64, 0, 0, 0⟩]).chunks.find? (fun x => decide (x.num = 0)) = some ⟨0, 0, 64, 0, 0, 0⟩ ∧ 64 = (launch r [⟨0, 0, 64, 0, 0, 0⟩]).stop 0) ∧
    (let g : Signal := ⟨0, 0, 0, 0, 1⟩
     ({ base with signals := [g] } : State).signals[0]? = some g ∧ recField g.record 48 8 = 0 ∧ recField g.record 56 8 = 0 ∧
     recNtf g.record = false) := by decide +kernel

/-- A running task queue of 16 slots in cluster 0 that holds one record, and a free core; the context has its table, its key slot and a pool
of context slots in queue 6, which holds one. -/
def bindable : State :=
  let s := (queued 1 1).setQueue 0 6 { Queue.fresh with kind := 0, ctx := 1, rbase := 0x10800, rlgn := 4, rkind := 0, rctx := 1, tail := 1 }
  let s := s.setCtx 1 { s.ctx 1 with plq := 6, supq := 6 }
  { s with
    c := { s.c with task := none, power := .idle }
    mem := memPut (memPut (memPut s.mem 0x104008 8 (0x1000000F + 2 ^ 56)) 0x200000 8 plainRecord) 0x200800 8 0x8000000
    labels := labelSet s.labels (0x200000 / 64) 64 (1, 0) }

theorem witness_SchedulingEventsGoOn_bind :
    bindable.brokenQueue 0 = none ∧ (bindable.cluster 0).dark = false ∧ (bindable.cluster 0).halted = false ∧
    (bindable.part (bindable.partOf 0)).halted = false ∧
    (chooseCand (bindable.cluster 0).ptr ((bindable.cands 0 (bindable.freeCores 0) ++ bindable.resumeCands 0 (bindable.freeCores 0)).filter
      (bindable.canBind 0))).any (fun x => x.core.isSome) = true := by decide +kernel

/-- A task whose slice has ended, in its residency's first bundles and behind them, with and without work that waits. -/
def ended (issued tail : Nat) : State :=
  let s := bindable.setQueue 0 5 { bindable.queue 0 5 with tail := tail }
  { s with c := { (s.c.setCr crSlice 0) with task := some { placedTask with part := 0, qn := 5, cls := 1 }, issued := issued, power := .run } }

theorem witness_SchedulingEventsGoOn_slice :
    ((ended 4095 1).core k0).task.isSome = true ∧ ((ended 4095 1).core k0).cr crSlice = 0 ∧ ((ended 4095 1).core k0).trapDue = false ∧
    ((ended 4095 1).core k0).saving = none ∧ ((ended 4096 1).core k0).saving = none ∧
    ((ended 4095 1).core k0).issued < 4096 ∧ 4096 ≤ ((ended 4096 1).core k0).issued ∧ (ended 4096 1).waitingWork 0 1 = true ∧
    (ended 4096 1).listRoom 0 = true ∧ ((ended 4096 1).core k0).trapDue = false ∧ (ended 4096 0).waitingWork 0 1 = false := by decide +kernel

/-- Every core of the cluster but one is disabled, and that one runs a task of a lower class than the record that waits. -/
def crowded : State :=
  { ended 4096 1 with others := (List.range 47).map (fun j => (.compute 0 (j + 1), { Core.dark (.compute 0 (j + 1)) with enabled := false })) }

theorem witness_SchedulingEventsGoOn_preempt :
    crowded.victim 0 = some (k0, { placedTask with part := 0, qn := 5, cls := 1 }) ∧ crowded.freeCores 0 = [] ∧
    (crowded.cands 0 []).any (fun y => decide (y.cls < 1)) = true ∧ crowded.listRoom 0 = true ∧ (crowded.core k0).trapDue = false := by decide +kernel

/-- A parked task whose barrier has gone on. -/
def parkedTask : Saved := Saved.bare { placedTask with slot := 0x8000000 } 0 (.parked (.barrier 3 1)) 0

theorem witness_SchedulingEventsGoOn_park :
    (let s := onC (fun c => { c with ord := { c.ord with wait := some (.cbar 3 0) } })
     (s.core k0).task.isSome = true ∧ (s.core k0).saving = none ∧ s.parkCond k0 = some (.barrier 3 0) ∧ s.listRoom 0 = true ∧ (s.core k0).trapDue = false) ∧
    (let s := { savable with tasks := [parkedTask] }
     s.tasks = [parkedTask] ∧ parkedTask.cl = 0 ∧ parkedTask.state = .parked (.barrier 3 1) ∧ Cond.barrier 3 1 ≠ .met ∧
     s.condHolds parkedTask (.barrier 3 1) = true ∧ s.listRoom 0 = true) ∧
    (let s := { part with c := { part.c with due := [⟨.preempted, 0⟩] } }
     s.c.id = .partition 0 ∧ s.c.frozen = none ∧ s.c.due = [⟨.preempted, 0⟩]) ∧
    (let s := onC (fun c => { c with pc := 0 }); s.c.id = k0 ∧ fine (s.fetchWord k0 s.c.pc.toNat) = false) := by decide +kernel

theorem witness_SchedulingEventsGoOn_waits :
    (let s := onC (fun c => { c with ord := { c.ord with wait := some .sync } })
     (s.core k0).id = k0 ∧ (s.core k0).ord.wait = some .sync ∧ (s.core k0).ilk = [] ∧ (s.core k0).held = none ∧ (s.core k0).stq = [] ∧
     (s.core k0).log = [] ∧ (s.core k0).ord.lost = none ∧ (s.core k0).ord.own = []) ∧
    (∀ b ∈ [(3 : Fin 16), 4],
     let s := onC (fun c => { c with ord := { c.ord with wait := some (.arrive b 2) } })
     let s := s.setCluster 0 { s.cluster 0 with barriers := [(4, ⟨s.c.owner, 2, 1, 7⟩)] }
     let bar := (s.cluster (clusterOf k0)).barrier b
     (s.core k0).ord.wait = some (.arrive b 2) ∧ (s.core k0).log = [] ∧ s.releaseReady (s.core k0) .clu = true ∧
     (if b = 3 then bar.arrived = 0 else bar.owner = s.c.owner ∧ bar.count = 2 ∧ bar.arrived + 1 = 2)) ∧
    (let s := onC (fun c => { c with ord := { c.ord with wait := some (.cbar 3 1) } })
     (s.core k0).ord.wait = some (.cbar 3 1) ∧ ((s.cluster (clusterOf k0)).barrier 3).gen ≠ 1) ∧
    (let s := onC (fun c => { c with ord := { c.ord with wait := some (.xcan [7]) } })
     (s.core k0).ord.wait = some (.xcan [7]) ∧ ∀ m ∈ (s.core k0).cmds, m.tag ∉ [(7 : Fin 64)]) ∧
    (let s := { savable with c := { savable.c with ord := { savable.c.ord with wait := some .tend } } }
     (s.core k0).id = k0 ∧ (s.core k0).task = some { placedTask with slot := 0x8000000 } ∧ (s.core k0).ord.wait = some .tend ∧
     (s.core k0).ord.lost = none ∧ s.tendReady (s.core k0) = true ∧ (s.core k0).wins = [] ∧ (s.core k0).hints = [] ∧
     fine (s.flushBase k0 { placedTask with slot := 0x8000000 }) = true) := by decide +kernel

/-! ### Witnesses: the host, the Umpire and the platform -/

/-- VF 1 with both rings on, 16 entries each, one command in host memory, and a running item queue that names it. -/
def rings (cmd tail : Nat) : State :=
  let s := queued 0 tail
  let s := s.setQueue 0 5 { s.queue 0 5 with vfm := 1 }
  { s.setVf 1 { s.vf 1 with cqbase := 0x4000, cqcfg := 0x10004, cpcfg := 0x10004, cqtail := 1 } with host := memPut [] (hostKey 1 0x4000) 128 cmd }

/-- A doorbell of the whole ring and one more, a head at the tail and one past it, a ring that is off, one command of each kind with room and
without, one for another VF's queue and one that is malformed, and a launch packet that no entry and that one entry admits. -/
theorem witness_HostRequestsAreServed :
    (let v := (rings 0 0).vf 1
     (BitVec.ofNat 16 16 - v.cqhead).toNat ≤ ringSize v.cqcfg ∧ ¬(BitVec.ofNat 16 17 - v.cqhead).toNat ≤ ringSize v.cqcfg ∧
     (BitVec.ofNat 16 0 - v.cphead).toNat ≤ (v.cptail - v.cphead).toNat ∧ ¬(BitVec.ofNat 16 1 - v.cphead).toNat ≤ (v.cptail - v.cphead).toNat) ∧
    ringOn (base.vf 1).cqcfg = false ∧ ringOn (base.vf 1).cpcfg = false ∧
    (∀ t ∈ [15, 16], ∀ n ∈ [4, 5],
     let cmd := 2 + n * 2 ^ 16 + 7 * 2 ^ 64
     let s := rings cmd t
     let q := s.queue 0 5
     s.hostCommand 1 = some cmd ∧ Memory.wf s.host = true ∧ hostCommandOk cmd = true ∧ field cmd 0 1 = 2 ∧
     ((s.queue ((s.vf 1).part.getD 32) (field cmd 2 2)).vfm = 1 ↔ n = 5) ∧ s.queueShut 0 5 false = false ∧ (q.used = q.size ↔ t = 16) ∧
     fine (s.writeRange (queueParty q) (q.slotAddr q.tail) q.slotBytes (field cmd 8 8)) = true) ∧
    (∀ n ∈ [4, 5], let cmd := 1 + n * 2 ^ 16 + plainRecord * 2 ^ 512
      (rings cmd 0).hostCommand 1 = some cmd ∧ hostCommandOk cmd = true ∧ field cmd 0 1 = 1 ∧
      (((rings cmd 0).queue (((rings cmd 0).vf 1).part.getD 32) (field cmd 2 2)).vfm = 1 ↔ n = 5)) ∧
    ((rings 3 0).hostCommand 1 = some 3 ∧ hostCommandOk 3 = true ∧ field 3 0 1 = 3) ∧
    (let cmd := 2 + 2 ^ 32; (rings cmd 0).hostCommand 1 = some cmd ∧ hostCommandOk cmd = false ∧ field cmd 0 1 = 2) ∧
    (base.umpire.stopped = false ∧ base.umpire.deepOff = false ∧ owned.umpire.deepOff = false ∧ (base.vat 0).state = .live ∧ ∀ e ∈ (base.vat 0).launch, e.admits 1 0 5 = false) ∧
    (let s := owned.setVat 0 { owned.vat 0 with launch := [⟨1, 0, true, 5, 1⟩] }
     (s.vat 0).state = .live ∧ (∃ e ∈ (s.vat 0).launch, e.admits 1 0 5 = true) ∧ s.partOf 0 < 32) := by decide +kernel

/-- A partition with invalidations queued. -/
def invalidating (n : Nat) : State := { owned with parts := [(0, { owned.part 0 with inval := List.replicate n (1, 0, 1) })] }

/-- A state whose partition 0 has its pages at 0x200000 and 0x300000, with the address x in s1: 0x10000 names the first of them. -/
def paged (s : State) (x : Nat) : State :=
  { s with
    mem := writable.mem, c := s.c.writeS 1 (BitVec.ofNat 64 x)
    parts := [(0, { Part.fresh with exists' := true, clusters := 1, qpage := some 0x200000, cpage := some 0x300000 })] }

/-- The state once the first outstanding operation has its result. -/
def arrived (s : State) : State := after (.interlockedResultArrives s.c.id 0) s

/-- R276: at byte 8 of an entry at reset lgn is 0 and kind 8; at byte 16, slc is 65,536 and vfm 0xFFFF. A compute core may not map it. -/
theorem test_queue_page_load :
    (arrived (after (.ldg 3 1 .i64 ⟨.rlx, .mod⟩) (paged part 0x10048))).c.rs 3 = 0x800 ∧
    (arrived (after (.ldg 3 1 .i64 ⟨.rlx, .mod⟩) (paged part 0x10050))).c.rs 3 = 0xFFFF00010000 ∧
    (arrived (after (.ldg 3 1 .i64 ⟨.rlx, .mod⟩) (paged base 0x10050))).c.rs 3 = 0 := by decide +kernel

/-- R276: a store of 0 to kind of entry 1 starts it with lgn 0, which is invalid: st stays 1, and err has cause 1 and the page address. -/
def started : State := after (.storeAcknowledged 0 0) (after (.stg 3 1 .b1 ⟨.rlx, .mod⟩) (paged part 0x10049))

theorem test_queue_page_store :
    (started.queue 0 1).stopped = true ∧ (started.queue 0 1).err = 0x0100000000200040 ∧ started.stores = [] ∧
    started.mem = writable.mem := by decide +kernel

theorem witness_RegisterPagesAreServed_load :
    (let s := after (.ldg 3 1 .i64 ⟨.rlx, .mod⟩) (paged part 0x10048)
     s.c.ilk[0]? = some ⟨.access ⟨.ldg 3 1 .i64 ⟨.rlx, .mod⟩, 0x10048, 0, 0, s.c.age⟩ none, some (.scalar 3), 0⟩ ∧ s.c.log = [] ∧
     s.behind s.c.id ⟨.ldg 3 1 .i64 ⟨.rlx, .mod⟩, 0x10048, 0, 0, s.c.age⟩ (s.c.ilk.take 0) = false ∧
     (match s.translate s.c.party 0x10048 .read with
      | .ok z => decide (s.registerPage z.pa = some (.queueTable 0, 0x48))
      | .error _ => false) = true ∧ s.stores = []) ∧
    (let s := after (.stg 3 1 .b1 ⟨.rlx, .mod⟩) (paged part 0x10049)
     (s.stores.filter (fun y => decide (clusterOf y.src = 0))).find? (fun y => decide (y.id = 0)) = s.stores.head? ∧
     s.stores.head?.any (fun x => decide (s.registerPage x.pa = some (.queueTable 0, 0x49))) = true) := by decide +kernel

theorem witness_RegisterPagesAreServed :
    isPrivate .umpire = true ∧ base.trusted (.host 0) .umpire = false ∧ isPrivate .pf = false ∧ base.trusted (.core .umpire) .umpire = true ∧
    (let s := { owned with umpire := { owned.umpire with mbreq := 2 } }; s.mbBusy = false ∧ s.mbOk = true ∧ s.mayMapContexts (.host 0) 0 = true) ∧
    ((invalidating 1).part 0).inval = (1, 0, 1) :: [] ∧
    (∀ x ∈ (invalidating 1).stores, ((invalidating 1).part 0).clusters.getLsbD (clusterOf x.src) = false) ∧
    (base.c.task = some placedTask ∧ placedTask.ctx = 1 ∧ placedTask.slot = 0x200000) ∧
    (let s := { owned with ctxs := [(511, { Ctx.fresh with part := some 0 })] }
     (511 : Word).toNat < 512 ∧ (s.ctx (511 : Word).toNat).part = some 0 ∧ s.partOf 0 = 0) := by decide +kernel

/-- The mailbox with a request. -/
def mailed (req : Nat) : State :=
  { owned with umpire := { owned.umpire with mbreq := BitVec.ofNat 2048 req, mbst := 1 } }

theorem witness_MailboxRequestsAreServed :
    (mailed 1).serves = true ∧ (mailed 1).mbBusy = true ∧
    (let s := mailed (1 + 1 * 2 ^ 8 + 2 * 2 ^ 32); s.mb 0 1 = 1 ∧ s.createRefused = false) ∧
    (let s := mailed (1 + 1 * 2 ^ 8 + 1 * 2 ^ 32); s.mb 0 1 = 1 ∧ s.createRefused = true) ∧
    (let s := { mailed 2 with ctxs := [], vfs := [] }
     s.mb 0 1 = 2 ∧ (s.part (s.mb 1 1)).exists' = true ∧ (∀ e ∈ s.ctxs, e.2.part = some (s.mb 1 1) → e.2.v = false) ∧
     ∀ e ∈ s.vfs, e.2.part ≠ some (s.mb 1 1)) ∧
    (let s := mailed 2; s.mb 0 1 = 2 ∧ ∃ e ∈ s.vfs, e.2.part = some (s.mb 1 1)) ∧
    (let s := mailed (3 + 2 * 2 ^ 16)
     s.mb 0 1 = 3 ∧ s.mb 1 1 ≠ 0xFF ∧ (s.vf (s.mb 2 2)).tdi = .unlocked ∧ (s.vf (s.mb 2 2)).wld = 0 ∧ (s.part (s.mb 1 1)).exists' = true ∧
     (s.vfs.filter (fun e => decide (e.1 ≠ s.mb 2 2 ∧ e.2.part = some (s.mb 1 1)))).length < 12) ∧
    (let s := mailed (3 + 0xFF * 2 ^ 8 + 384 * 2 ^ 16); s.mb 0 1 = 3 ∧ s.mb 1 1 = 0xFF ∧ (s.vf (s.mb 2 2)).tdi = .unlocked ∧ (s.vf (s.mb 2 2)).wld = 0) ∧
    (let s := (mailed (3 + 1 * 2 ^ 16)).setVf 1 { Vf.fresh with tdi := .run }; s.mb 0 1 = 3 ∧ (s.vf (s.mb 2 2)).tdi ≠ .unlocked) ∧
    (let s := mailed (4 + 2 * 2 ^ 16); s.mb 0 1 = 4 ∧ s.mb 1 1 ≠ 0xFF ∧ (s.ctx (s.mb 2 2)).v = false) ∧
    (let s := mailed (4 + 0xFF * 2 ^ 8 + 1 * 2 ^ 16); s.mb 0 1 = 4 ∧ s.mb 1 1 = 0xFF ∧ (s.ctx 1).v = true ∧ (s.ctx (s.mb 2 2)).part = some 0) ∧
    (let s := mailed (5 + 15 * 2 ^ 8); s.mb 0 1 = 5 ∧ (s.vat (s.mb 1 1)).state = .live) ∧
    (let s := (mailed 6).setVat 0 { (mailed 6).vat 0 with state := .readmitting }; s.mb 0 1 = 6 ∧ (s.vat (s.mb 1 1)).state = .readmitting) ∧
    (let s := mailed (7 + 2 ^ 8); s.mb 0 1 = 7 ∧ s.mb 1 1 = 1 ∧ ∃ cl < 32, (s.cluster cl).dark = false) ∧
    (let s := { mailed (7 + 2 ^ 8) with clusters := [] }; s.mb 0 1 = 7 ∧ s.mb 1 1 = 1 ∧ ∀ cl < 32, (s.cluster cl).dark = true) ∧
    ((mailed 7).mb 0 1 = 7 ∧ (mailed 7).mb 1 1 = 0) := by decide +kernel

theorem witness_PowerEventsGoOn_dark :
    (let s := onC (fun c => { c with task := none, power := .idle })
     isCompute k0 = true ∧ (s.core k0).task = none ∧ (s.core k0).power = .idle ∧ ∀ m ∈ s.allCmds, m.core ≠ k0) ∧
    (let s := onC (fun c => { c with task := none, power := .dark })
     (s.cluster 0).dark = false ∧ s.partitionWaits 0 = true ∧ (∀ j ∈ s.cores, clusterOf j = 0 → j ≠ .umpire → isCompute j = true →
      (s.core j).power = .dark) ∧ (∀ m ∈ s.allCmds, clusterOf m.core ≠ 0) ∧ ∀ x ∈ s.stores, clusterOf x.src ≠ 0) ∧
    (let s := bindable.setCluster 0 { bindable.cluster 0 with dark := true }
     (s.cluster 0).dark = true ∧ s.umpire.deepOff = false ∧ s.cands 0 (s.freeCores 0) ≠ [] ∧
     (let p := s.setCore { s.core (.partition 0) with power := .idle }
      (p.core (.partition 0)).power ≠ .dark ∧ p.parkCond (.partition 0) = none)) ∧
    (State.reset.booted = false ∧ State.reset.scans = none ∧ State.reset.bootBegin.scans = some []) ∧
    (let s : State := { State.reset with scans := some [k0, .compute 0 1] }; s.booted = false ∧ s.scans = some (k0 :: [.compute 0 1])) ∧
    (owned.parts = [(0, owned.part 0)] ∧ (owned.part 0).exists' = true ∧ 0 ∈ (owned.part 0).clusterList) ∧
    (let s := { owned with umpire := { owned.umpire with pimage := [(0, 1)] }, ctxs := [(0, { Ctx.fresh with v := true })] }
     (s.core (.partition 0)).power = .dark ∧ (s.core (.partition 0)).halted = false ∧ s.partOf 0 < 32 ∧ (s.cluster 0).halted = false ∧
     (s.ctx (((s.core (.partition 0)).nv.map (·.ctx)).getD ((s.core (.partition 0)).pcselNext.getD 0))).v = true ∧ s.umpire.pimage ≠ [] ∧
     s.booted = true ∧ s.umpire.deepOff = false) := by decide +kernel

/-- The image of a task with the smallest register space, and its context's pool with a slot that can be written. -/
def imaged : State := { bindable with images := [(k0, { pc := 0x10000, prog := 0, shadow := [], loops := [], tagbits := 0, ctx := 1, comp := 0, taskid := 0, trap := [], pcsel := none, record := 0 })] }

theorem witness_PowerEventsGoOn_image :
    let im : NvImage := { pc := 0x10000, prog := 0, shadow := [], loops := [], tagbits := 0, ctx := 1, comp := 0, taskid := 0, trap := [], pcsel := none, record := 0 }
    imaged.images[0]? = some (k0, im) ∧ (imaged.ctx im.ctx).part = some 0 ∧ (imaged.ctx im.ctx).v = true ∧
    (imaged.queue 0 (imaged.ctx im.ctx).plq).stopped = false ∧ (imaged.queue 0 (imaged.ctx im.ctx).supq).stopped = false ∧
    (imaged.takeItem 0 (imaged.ctx im.ctx).plq).2 = some (BitVec.ofNat 64 0x8000000) ∧
    0x8000000 < 2 ^ 49 ∧
    (match (imaged.takeItem 0 6).1.slotWrite im.ctx ((List.range (regSpaceSize im.record / 4096)).map (fun i =>
      (0x8000000 + 4096 * i, (imaged.takeItem 0 6).1.imageSpace k0 im / 2 ^ (32768 * i) % 2 ^ 32768)) ++
      [(0x8000000 + 0x7B000, headerBlock 0 0 im.record 0)]) with
      | .ok u => decide (u.tasks = (imaged.takeItem 0 6).1.tasks ∧ u.images = (imaged.takeItem 0 6).1.images) | .error _ => false) = true := by
  decide +kernel

/-- A connection in a state, and 63 sessions of which 5 has not finished. -/
def spdm (st : Nat) : State :=
  { base with conns := [(0, ⟨st, [], [], []⟩)], sessions := (List.range 63).map (fun i => (i, ⟨decide (i ≠ 5), 0, none⟩)) }

theorem witness_SpdmRequestsAreAnswered :
    (spdm 0).serves = true ∧ 4 ≤ [(1 : BitVec 8), 2, 3, 4].length ∧ [(1 : BitVec 8), 2, 3].length < 4 ∧ (∀ st ∈ [0, 1, 2, 3, 4], ((spdm st).conn 0).state = st ∧ st ≤ 4) ∧ 0 < certSize ∧
    (spdm 4).sessions.length < 64 ∧ find? (spdm 4).sessions 5 = some ⟨false, 0, none⟩ := by
  refine ⟨by decide +kernel, by decide, by decide, by decide +kernel, Nat.succ_pos _, by decide +kernel, by decide +kernel⟩

/-- A session whose VF is in a state of R351, in world 3. -/
def device (t : Tdi) (bound : Bool) : State :=
  { owned with
    vfs := [(1, { Vf.fresh with part := some 0, wld := 3, tdi := t, session := if bound then some 2 else none, nonce := 9 })]
    sessions := [(2, ⟨true, 7, if bound then some 1 else none⟩)] }

theorem witness_DeviceInterfacesChangeState :
    ((device .unlocked false).serves = true ∧ (device .unlocked false).session 2 = some ⟨true, 7, none⟩ ∧
      ((device .unlocked false).vf 1).part.isSome = true ∧ ((device .unlocked false).vf 1).tdi = .unlocked ∧ ((device .unlocked false).vf 1).wld = 3) ∧
    ((device .locked true).session 2 = some ⟨true, 7, some 1⟩ ∧ ((device .locked true).vf 1).session = some 2 ∧ ((device .locked true).vf 1).tdi = .locked) ∧
    (let s := { device .unlocked false with vfs := [(1, { Vf.fresh with part := some 0 }), (2, { Vf.fresh with wld := 1 })] }
     (s.vf 1).tdi = .unlocked ∧ (s.vf 1).wld = 0 ∧ (∀ e ∈ s.vfs, e.2.wld ≠ 2) ∧ ∀ j, 1 ≤ j → j < 2 → ∃ e ∈ s.vfs, e.2.wld = j) ∧
    ((device .run true).vf 1).tdi = .run ∧ ((device .run true).vf 1).part = some 0 := by
  refine ⟨by decide +kernel, by decide +kernel, ⟨by decide +kernel, by decide +kernel, by decide +kernel, ?_⟩, by decide +kernel, by decide +kernel⟩
  intro j h1 h2
  exact ⟨(2, { Vf.fresh with wld := 1 }), by decide +kernel, by simp; omega⟩

/-- World 3 with a locked interface: compartment 4 is the session's, 5 is left to claim; slot 127 is active, slot 10 retiring, and slot 1 is
the page's data key in that world. -/
def owner : State :=
  { device .locked true with
    comps := [(1, ⟨3, none, 0⟩), (4, ⟨3, some 2, 7⟩), (5, ⟨3, none, 7⟩)]
    c := { owned.c with ws := { owned.c.ws with segs := [(9, { Seg.fresh with wld := 3, comp := 4, wset := 6 })] } }
    ctxs := [(1, { owned.ctx 1 with wld := 3 })]
    keys := [(1, ⟨0, 3, 0, false, 2, 1, 0, 0⟩), (127, ⟨0, 3, 4, false, 2, 1, 0, 0⟩), (10, ⟨0, 3, 4, false, 2, 2, 0, 0⟩)] }

theorem witness_OwnerRequestsAreServed :
    owner.serves = true ∧ owner.session 2 = some ⟨true, 7, some 1⟩ ∧ owner.boundWorld 2 ⟨true, 7, some 1⟩ = some 3 ∧
    (owner.comps.filter (fun e => decide (e.2.wld = 3))).length < 16 ∧
    (find? owner.comps 2 = none ∧ ∀ i < 2, 1 ≤ i → find? owner.comps i ≠ none) ∧ find? owner.comps 5 = some ⟨3, none, 7⟩ ∧
    owner.owns 2 3 4 = true ∧ (owner.key 126).st = 0 ∧ (owner.key 127).st = 1 ∧ (owner.key 127).comp = 4 ∧ (owner.key 10).st = 2 ∧
    (∀ y ∈ owner.stores, y.label ≠ owner.keyLabel 10) ∧ owner.setComps 6 = [4] ∧ owner.gate 3 15 = { Gate.off with epoch := 0 } ∧
    find? owner.comps 4 = some ⟨3, some 2, 7⟩ ∧
    (owner.tickFree.sealPlaces 1 0x10040 64).any (fun ps => ps.all (fun p => !p.1.psn && !owner.poisoned (p.1.pa / 64))) = true ∧
    (owner.ctx 1).wld = 3 ∧ (owner.ctx 1).v = true ∧ (owner.key 2).st = 0 ∧ ∀ j < 2, 1 ≤ j → (owner.key j).st ≠ 0 := by decide +kernel

/-- A gate whose fields one owner has sent, and the ranges of a request that turns it on, of one that turns it off, and of one that is refused. -/
theorem witness_OwnerRequestsAreServed_gates :
    let s := { owner with gates := [((3, 15), ⟨4, 5, 0, 4096, 0x2000, 4096, false, true, 0⟩)] }
    (∃ c, find? s.comps 4 = some c ∧ c.wld = 3) ∧ (∃ c, find? s.comps 5 = some c ∧ c.wld = 3) ∧ s.owns 2 3 4 = true ∧ s.owns 2 3 5 = false ∧
    (0 % 4096 = 0 ∧ 4096 % 4096 = 0 ∧ 0 + 4096 ≤ 2 ^ 49) ∧ (s.gate 3 15).src = 4 ∧ (s.gate 3 15).slen = 4096 ∧ ¬(100 % 4096 = 0) ∧
    s.owns 2 3 (s.gate 3 15).src = true := by
  refine ⟨⟨_, rfl, rfl⟩, ⟨_, rfl, rfl⟩, ?_⟩
  decide +kernel

/-- An image of two lines whose home is not fenced. -/
theorem witness_OwnerRequestsAreServed_seal : Memory.wf owner.mem = true ∧
    (owner.tickFree.sealPlaces 1 0x10040 100).any (fun ps => decide ((ps.map (fun p => p.1.pa / 64)).Nodup) && decide (ps.length = 2) &&
      ps.all (fun p => !owner.fenced p.1.pa)) = true := by decide +kernel

theorem witness_ErrorsAndRepairsAct :
    base.umpire.standby = false ∧ base.umpire.lapses = 0 ∧ ({ base with umpire := { base.umpire with lapses := 1 } } : State).umpire.lapses ≠ 0 ∧
    (base.core k0).ws.converted = false ∧ (base.core k0).ws.seg 1021 = Seg.fresh ∧
    ((base.setVat 15 { base.vat 15 with state := .fenced }).vat 15).state = .fenced ∧ (base.vat 0).hot = false ∧
    (let v : Word := BitVec.ofNat 64 (16 * 2 ^ 40 + 512 * 2 ^ 16 + 94 * 2 ^ 8)
     16 ≤ bits v.toNat 40 8 ∧ 512 ≤ bits v.toNat 16 16 ∧ 70 ≤ bits v.toNat 8 8 ∧ bits v.toNat 8 8 ≤ 94 ∧ bits v.toNat 0 8 = 0 ∧
     bits v.toNat 32 8 = 0 ∧ bits v.toNat 48 16 = 0) ∧
    ({ base with receipts := [⟨0, 1, 0x10000⟩] } : State).receipts = [⟨0, 1, 0x10000⟩] ∧ base.serves = true := by decide +kernel

/-- A hot vat at its cap, with one activation that waits and with none; the temperatures about its threshold; a value past the limits. -/
theorem witness_ErrorsAndRepairsAct_hot :
    let v := base.vat 0
    let s := base.setVat 0 { v with hot := true, acts := [(3, v.acap)], waiting := [(3, 9)] }
    ((s.vat 0).hot = true ∧ (s.vat 0).acap ≤ look 0 (s.vat 0).acts 3 ∧ (s.vat 0).waiting = [(3, 9)] ∧ 1 ≤ (s.vat 0).acap) ∧ v.waiting = [] ∧
    look 0 v.acts 3 < v.acap ∧ (v.thot < v.thot + 1 ∧ 0 + 3 < v.thot ∧ v.thot ≤ v.thot + 3 ∧ 105 ≤ 105) ∧
    ¬(16 ≤ bits (0 : Word).toNat 40 8) ∧ (base.core k0).id = k0 ∧ base.disableFlagged.umpire.standby = false := by decide +kernel

/-! ### Witnesses: the step and the encoding -/

/-- What a step of the state needs of the word at its program counter (the state of `withFetchWord`). -/
def runsWord (s : State) (i : Instr) (w : Nat) : Bool :=
  let o : State := { s.tickFree with turns := [] }
  let t := o.clearFence
  let a := t.c.pc.toNat
  s.booted && decide (s.turns = [s.c.id]) && s.agenda.isEmpty && o.events.isEmpty && s.runs && s.c.saving.isNone && !s.c.redoing && !s.c.tendDone &&
  decide (s.c.ord.wait = none ∧ s.c.arrived = none ∧ t.takeDue = none) && decide (t.preempt = t) &&
  (match t.get a with | .ok x => decide (x = w) | .error _ => false) && w.testBit 31 && decide (decodeWord w = .ok i) &&
  (match t.get (a + 4) with | .ok x => decide (x = 0) || x.testBit 31 | .error _ => false) && decide (a % 4 = 0) &&
  decide (isCompute t.c.id = true ∨ bits w 28 3 < 4 ∨ bits w 28 3 = 7) && decide (Fin.ofNat 8 (bits w 28 3) ∉ t.c.off)

/-- The state in which the step performs the word. -/
def atWord (s : State) (w : Nat) : State :=
  let t := ({ s.tickFree with turns := [] } : State).clearFence
  { t with c := { t.c with flow := { Flow.none with succ := successorOf t.get t.c.pc.toNat 1 } }, word := w }

/-- WTALL of a tag that is not set. -/
def waiting : State := let s := State.reset.withFetchWord 32 0x81E10000; { s with c := s.c.writeS 1 1 }

/-- JR to an address that is not aligned. -/
def jumping : State := let s := State.reset.withFetchWord 32 0x80810000; { s with c := s.c.writeS 1 2 }

/-- A word that issues, one that traps and one that is held. -/
theorem witness_StepRunsTheDecodedWord :
    runsWord base .nop 0x80000000 = true ∧ issued .nop (atWord base 0x80000000) = true ∧
    runsWord jumping (.jr 1) 0x80810000 = true ∧ trapOf (.jr 1) (atWord jumping 0x80810000) = some .misaligned ∧
    runsWord waiting (.wtall 1) 0x81E10000 = true ∧
    (after (.wtall 1) (atWord waiting 0x81E10000)).verdict = .held false ∧
    (waiting.clearFence.c.failedFill (after (.wtall 1) (atWord waiting 0x81E10000)).c).isNone = true := by decide +kernel

theorem witness_DecodeOfEncode : (Instr.vdrain 10 5 2 true 1).wf = true ∧ Instr.coldBoot.wf = true ∧ (Instr.ext .b 0 1 63 63).wf = true := by decide

theorem witness_EncodeOfDecode : 0xC52A2AA0 < 2 ^ 32 ∧ decodeWord 0xC52A2AA0 = .ok (.vdrain 10 5 2 true 1) := by decide

/-- A scratchpad with a byte, a write beside it and one over it. -/
theorem witness_ScratchpadReadAfterWrite : Memory.wf lsu.c.scratch = true ∧ (8 + 8 ≤ 16 ∨ 16 + 64 ≤ 8) ∧
    (lsu.c.scratchPut 4 4 0).scratch = [] ∧ 1 ∉ (lsu.c.scratchPut 64 64 0).poison ∧ 1 ∈ (lsu.c.scratchPut 65 63 0).poison := by decide +kernel

theorem witness_StepKeepsMemoryCanonical : Memory.wf base.mem = true ∧ (match step base with | .next _ => true | _ => false) = true := by decide +kernel

theorem witness_RegisterWordsFrame : ∀ i ∈ intForms ++ [.div .a 3 1 2, .fadd .b 3 1 2 .f64, .plog .a 1 2 3 8],
    (i.slot = some 1 ∨ i.slot = some 2) ∧ issued i base = true := by decide +kernel

/-- The base state with a second word in its packet behind the first, and the program counter at the first. -/
def paired (w1 w2 : Nat) : State :=
  { base with
    labels := labelSet base.labels (0x200000 / 64) 64 (1, 0), mem := memPut (memPut base.mem 0x200000 4 w1) 0x200004 4 w2
    c := { base.c with pc := 0x10000, flow := Flow.none } }

/-- ADD and SUB beside each other, and in the wrong order; a word that traps and one that issues. -/
theorem witness_RegisterWordsFrame_two :
    let s := paired 0x90221900 0x20221900
    let u (w : Nat) : State := { s with c := { s.c with flow := { Flow.none with succ := 0x10008 } }, word := w }
    let got (x : Except Trap Nat) (w : Nat) : Bool := match x with | .ok y => decide (y = w) | .error _ => false
    (got (s.get 0x10000) 0x90221900 && got (s.get 0x10004) 0x20221900 && got (s.get 0x10008) 0 && (0x10000 % 64 < 60)) = true ∧
    decodeWord 0x90221900 = .ok (.sub .a 2 3 4) ∧ decodeWord 0x20221900 = .ok (.sub .b 2 3 4) ∧ bits 0x90221900 28 3 < bits 0x20221900 28 3 ∧
    (isCompute s.c.id = true ∧ s.c.off = []) ∧ (issued (.sub .a 2 3 4) (u 0x90221900) = true ∧
      issued (.sub .b 3 3 4) (after (.sub .a 2 3 4) (u 0x90221900)) = true) ∧
    trapOf (.jr 31) { u 0x80810000 with c := s.c.writeS 31 2 } = some .misaligned ∧
    trapOf (.lds 3 31 .i16 0) { u 0x30000000 with c := s.c.writeS 31 1 } = some .misaligned := by decide +kernel

theorem witness_ControlVectorMatrixFrame : ∀ i ∈ [Instr.nop, .j 0, .wtall 0, .sync] ++ vecForms ++ vecFloatForms ++ [.mzero 0, .mtt 0 1 2, .fmt 0, .slz],
    (i.slot = some 0 ∨ i.slot = some 4 ∨ i.slot = some 5 ∨ i.slot = some 6) ∧ issued i base = true := by decide +kernel

/-! ### One step of a few instructions, with values from the manual or by hand -/

/-- The entry that a word adds to the shadow queue. -/
def entered (i : Instr) (s : State) : Option Entry := (after i s).c.shadow.getLast?

/-- The worked case of 01_issue_cycle.md: 6 x 7 is 42, to land with latency 3; and ADDI reads the old s3. -/
theorem test_mul_addi : entered (.mul .a 3 1 2) (regs [(1, 6), (2, 7), (3, 100)]) = some ⟨.scalar 3, 42, 0, 3, 0, 1⟩ ∧
    (entered (.addi .b 5 3 1) (regs [(3, 100)])).any (fun e => decide (e.value = 101)) = true := by decide +kernel

/-- The worked case of 05_load_store.md: a store at s1 - 16 with s1 = 8 is past the end, and with s1 = 24 it lands at 8, low byte first. -/
theorem test_sts : trapOf (.sts 4 1 .b8 0xFE) (regs [(1, 8), (4, 0x102)]) = some .scratchRange ∧
    (after (.sts 4 1 .b8 0xFE) (regs [(1, 24), (4, 0x102)])).c.scratch = [(8, 2), (9, 1)] := by decide +kernel

/-- LDS of a negative .i16 extends its sign, and of the same .n16 does not. -/
theorem test_lds_sign : (entered (.lds 3 0 .i16 0) (onC (fun c => { c with scratch := [(1, 0x80)] }))).any (fun e => decide (e.value = 2 ^ 64 - 2 ^ 15)) = true ∧
    (entered (.lds 3 0 .n16 0) (onC (fun c => { c with scratch := [(1, 0x80)] }))).any (fun e => decide (e.value = 2 ^ 15)) = true := by decide +kernel

/-- The first step of the worked case of 06_vector.md: three rows, each the lane number and its element. -/
theorem test_vdefer :
    let s := onC (fun c => { ((c.setCr 0x30 0x80000).setCr 0x31 512).writeP 1 (2 ^ 12 + 2 ^ 160 + 2 ^ 308) with
      v := c.v.set 4 (BitVec.ofNat 4096 (packLanes 32 ((List.range 128).map (fun i => 1000 + i)))) })
    let t := after (.vdefer 4 0 0 1 1) s
    t.c.wi = 48 ∧ t.c.scratchRead 0x80000 16 = 3 + 1003 * 2 ^ 32 ∧ t.c.scratchRead 0x80010 16 = 40 + 1040 * 2 ^ 32 ∧
    t.c.scratchRead 0x80020 16 = 77 + 1077 * 2 ^ 32 := by decide +kernel

/-- The worked case of R152: the packed vector of an .mx4 quantisation, and its flags (R42 adds fu, for -0.7 becomes the subnormal -0.5). -/
theorem test_vqnt_mx4 :
    let x (i : Nat) : Nat := if i = 0 then 0x40A00000 else if i = 1 then 0xBF333333 else if i = 40 then 0x7FC00000 else 0
    let s := onC (fun c => { c with v := c.v.set 0 (BitVec.ofNat 4096 (packLanes 32 ((List.range 128).map x))) })
    (entered (.vqnt 1 0 .mx4 .f32 0) s).any (fun e => decide (e.value = 0x96 + 0xFF7F * 2 ^ 512 ∧ e.flags = flagI ||| flagX ||| flagU ∧ e.remaining = 4)) = true := by
  decide +kernel

/-- A context whose tables are those of the worked case "A walk" in 14_contexts.md. -/
def walking : State :=
  { base with
    ctxs := [(1, { Ctx.fresh with root := 0x700000000, v := true, kslot := 1 })]
    keys := put base.keys 21 ⟨0, 0, 0, false, 2, 1, 0, 0⟩
    mem := memPut (memPut (memPut [] 0x700000010 8 0x0000000700004001) 0x700004028 8 0x0000000700008001) 0x700008038 8 0x150000381234000F }

/-- The walk gives its physical address and vat, and refuses a fetch. -/
theorem test_walk : (match walking.translate walking.c.party 0x8028071234 Need.read with | .ok x => decide (x.pa = 0x3812341234) | .error _ => false) = true ∧
    homeOf 0x3812341234 = 3 ∧ (match walking.fetchWord k0 0x8028071234 with | .error t => decide (t.cause = .permission) | .ok _ => false) = true := by
  decide +kernel

/-- TRAP of a compute core saves its task as Trapped and tells the supervisor at the end of its bundle; at issue it asks for the trap with
its code. -/
theorem test_trap : (after (.trap 7) base).c.flow.trapDone = some 7 ∧ issued (.trap 7) base = true := by decide +kernel

/-- An access below is its own line: a freeze is 24 cycles, and a second one begins them anew (R36). -/
theorem test_freeze : (after (.correctableErrorFreeze k0) base).c.freeze = 24 ∧
    (after (.correctableErrorFreeze k0) (onC (fun c => { c with freeze := 5 }))).c.freeze = 24 := by decide +kernel

end Sys2Proof.Tests
end

/-! # Proofs: the scratchpad read after a write (O55) -/

section

namespace Sys2Proof.Proofs
open Sys2Proof.Machine Sys2Proof.Laws

/-- The low bytes of a number give the number modulo the power of 256 they span. -/
theorem natOfBytes_digits (v : Nat) : ∀ n : Nat,
    natOfBytes ((List.range n).map (fun j => BitVec.ofNat 8 (v / 256 ^ j))) = v % 256 ^ n
  | 0 => by simp [natOfBytes, Nat.mod_one]
  | n + 1 => by
    rw [natOfBytes_range_succ, natOfBytes_digits v n, BitVec.toNat_ofNat, Nat.mod_pow_succ (b := 256), Nat.mul_comm]

theorem memRead_memPut_same {m : Mem} (w : Memory.wf m = true) (a n v : Nat) :
    memRead (memPut m a n v) a n = v % 256 ^ n := by
  rw [memRead_eq (memPut_wf a n v w), ← natOfBytes_digits v n]
  congr 1
  refine List.map_congr_left fun j hj => ?_
  have hj := List.mem_range.mp hj
  rw [memGet_memPut w, if_pos (by omega), Nat.add_sub_cancel_left]

theorem memRead_memPut_apart {m : Mem} (w : Memory.wf m = true) {a n v x k : Nat} (h : x + k ≤ a ∨ a + n ≤ x) :
    memRead (memPut m a n v) x k = memRead m x k :=
  memRead_congr (memPut_wf a n v w) w fun j hj => by rw [memGet_memPut w, if_neg (by omega)]

/-- The lines that a range covers whole are those between its ends. -/
theorem mem_wholeLines {a n l : Nat} : l ∈ wholeLines a n ↔ a ≤ 64 * l ∧ 64 * l + 64 ≤ a + n := by
  unfold wholeLines linesOf
  rw [List.mem_filter, decide_eq_true_eq, and_iff_right_iff_imp]
  intro h
  rw [if_neg (by omega)]
  exact List.mem_map.mpr ⟨l - a / 64, List.mem_range.mpr (by omega), by omega⟩

/-- A write heals the lines it covers whole and no other (R127). -/
theorem mem_scratchPut_poison {c : Core} {off n v l : Nat} :
    l ∈ (c.scratchPut off n v).poison ↔ l ∈ c.poison ∧ ¬ (off ≤ 64 * l ∧ 64 * l + 64 ≤ off + n) := by
  obtain ⟨x, hx⟩ := scratchWrite_eq c off (bytesOf n v)
  rw [Core.scratchPut, hx]
  simp only [bytesOf_length, List.mem_filter, decide_eq_true_eq, mem_wholeLines]

/-- Settles O55: the memory's read-after-write laws, at the scratchpad. -/
theorem scratchpadReadAfterWrite : Obligations.ScratchpadReadAfterWrite := by
  intro c off n v x m w
  unfold Core.scratchRead
  rw [scratchPut_scratch]
  exact ⟨memRead_memPut_same w off n v, memRead_memPut_apart w, fun l => mem_scratchPut_poison, memPut_wf off n v w⟩

end Sys2Proof.Proofs

end

/-! O56, the functions that leave global memory as it is: one equation for each, cited wherever the model composes them. -/
section

namespace Sys2Proof.Proofs
open Sys2Proof.Machine Sys2Proof.Laws

theorem foldl_mem {β : Type} {f : State → β → State} (hf : ∀ t b, (f t b).mem = t.mem) (l : List β) (s : State) :
    (l.foldl f s).mem = s.mem :=
  List.foldlRecOn l f (motive := fun t => t.mem = s.mem) rfl fun t ht b _ => (hf t b).trans ht

@[simp] theorem remember_mem (s : State) (ctx va : Nat) : (s.remember ctx va).mem = s.mem := by
  unfold State.remember
  split <;> rfl

@[simp] theorem hear_mem (s : State) (k : CoreId) (pa n : Nat) : (s.hear k pa n).mem = s.mem := rfl

@[simp] theorem carryScratch_mem (s : State) (k target : CoreId) (off n : Nat) (rmw : Bool) (ids : List (Scope × Nat)) :
    (s.carryScratch k target off n rmw ids).mem = s.mem :=
  rfl

@[simp] theorem acquire_mem (s : State) (k : CoreId) (age : Nat) : (s.acquire k age).mem = s.mem := by
  simp [State.acquire]

@[simp] theorem storeAs_mem (s : State) (k : CoreId) (by' : StoreBy) (x : Xlat) (bs : List (BitVec 8)) (psn : Bool)
    (ids : List (Scope × Nat)) : (s.storeAs k by' x bs psn ids).mem = s.mem := by
  unfold State.storeAs
  split <;> simp

@[simp] theorem storeGlobal_mem (s : State) (k : CoreId) (x : Xlat) (bs : List (BitVec 8)) (os : Option OrdScope) (age : Nat) :
    (s.storeGlobal k x bs os age).mem = s.mem := by
  simp [State.storeGlobal]

@[simp] theorem observeTick_mem (s : State) : s.observeTick.mem = s.mem := rfl

@[simp] theorem told_mem (s : State) (k : CoreId) (a : Access) : (s.told k a).mem = s.mem := by
  unfold State.told
  split <;> simp

@[simp] theorem postItem_mem (s : State) (k : CoreId) (t : Task) (item : Word) (waits : List Nat) (log : Option (Nat × Nat)) :
    (s.postItem k t item waits log).mem = s.mem :=
  rfl

@[simp] theorem postSup_mem (s : State) (k : CoreId) (t : Task) (item : Word) : (s.postSup k t item).mem = s.mem := rfl

@[simp] theorem holdStore_mem (s : State) (k : CoreId) (a : Access) (f : Cause) : (s.holdStore k a f).mem = s.mem := by
  unfold State.holdStore
  grind [State.setCore_mem]

@[simp] theorem logEntry_mem (s : State) (code : Nat) (coreno : Word) (ctx wld pay ext : Nat) :
    (s.logEntry code coreno ctx wld pay ext).mem = s.mem := by
  unfold State.logEntry
  exact observeTick_mem s

@[simp] theorem logEvent_mem (s : State) (code : Nat) (k : CoreId) (pay : Nat) : (s.logEvent code k pay).mem = s.mem := by
  unfold State.logEvent
  exact logEntry_mem _ _ _ _ _ _ _

@[simp] theorem moveWaiters_mem (s : State) (a b : Waiter) : (s.moveWaiters a b).mem = s.mem := by
  unfold State.moveWaiters
  split <;> rfl

@[simp] theorem dropWaiters_mem (s : State) (a : Waiter) : (s.dropWaiters a).mem = s.mem := rfl

@[simp] theorem endOfTask_mem (s : State) (t : Task) : (s.endOfTask t).mem = s.mem := rfl

@[simp] theorem keepRunning_mem (s : State) (k : CoreId) (t : Task) (ms : List Cmd) :
    (s.keepRunning k t ms).mem = s.mem := by
  unfold State.keepRunning
  dsimp only
  split <;> rfl

@[simp] theorem unheard_mem (s : State) (k : CoreId) : (s.unheard k).mem = s.mem := rfl

@[simp] theorem slotLost_mem (s : State) (k : CoreId) (t : Task) (cause : Cause) (ms : List Cmd) :
    (s.slotLost k t cause ms).mem = s.mem := by
  simp [State.slotLost]

@[simp] theorem restoreTask_mem (s : State) (k : CoreId) (sv : Saved) (slc : Nat) : (s.restoreTask k sv slc).mem = s.mem := by
  unfold State.restoreTask
  grind [moveWaiters_mem, slotLost_mem, State.setCore_mem]

@[simp] theorem eraseSessions_mem (s : State) : s.eraseSessions.mem = s.mem := rfl

@[simp] theorem unlockTdis_mem (s : State) : s.unlockTdis.mem = s.mem := rfl

@[simp] theorem haltPartition_mem (s : State) (k : CoreId) : (s.haltPartition k).mem = s.mem := by
  unfold State.haltPartition
  grind [State.setCore_mem, State.setPart_mem, logEvent_mem]

@[simp] theorem gatherStep_mem (s : State) (k : CoreId) (g : Gather) : (s.gatherStep k g).mem = s.mem := by
  unfold State.gatherStep
  grind [State.setCore_mem, carryScratch_mem]

@[simp] theorem deliver_mem (s : State) (k : CoreId) (n : Nat) (dest : Option Dest) (v : Nat) :
    (s.deliver k n dest v).mem = s.mem := by
  simp [State.deliver]

@[simp] theorem setSaved_mem (s : State) (ctx addr : Nat) (f : Saved → Saved) : (s.setSaved ctx addr f).mem = s.mem := rfl

@[simp] theorem wsRegister_mem (s : State) (off n : Nat) : (s.wsRegister off n).mem = s.mem := by
  refine foldl_mem (fun t g => ?_) _ s
  split
  · rfl
  · dsimp only
    split <;> rfl

@[simp] theorem startArray_mem (s : State) (i : Instr) (a b : Nat) (p : Pred) (total : Nat) (bRows : List Nat) :
    (s.startArray i a b p total bRows).mem = s.mem :=
  rfl

@[simp] theorem inherit_mem (s : State) (r : TaskRef) (ids : List Nat) : (s.inherit r ids).mem = s.mem := by
  unfold State.inherit
  grind [State.setCore_mem, setSaved_mem]

@[simp] theorem hintParts_mem (s : State) (k : CoreId) (g : Bool) (ps : List (Nat × Nat × Nat)) :
    (s.hintParts k g ps).mem = s.mem := by
  unfold State.hintParts
  split
  · exact foldl_mem (fun _ _ => State.setCore_mem _ _) _ s
  · rfl

@[simp] theorem switch_mem (s : State) (k : CoreId) : (s.switch k).mem = s.mem := by
  unfold State.switch
  split <;> rfl

@[simp] theorem startQueue_mem (s : State) (part qn : Nat) : (s.startQueue part qn).mem = s.mem := by
  unfold State.startQueue
  grind [State.setQueue_mem]

@[simp] theorem endTrapped_mem (s : State) (part qn addr : Nat) : (s.endTrapped part qn addr).mem = s.mem := by
  unfold State.endTrapped
  split <;> rfl

@[simp] theorem consume_mem (s : State) (part qn seq : Nat) : (s.consume part qn seq).mem = s.mem := rfl

@[simp] theorem chunkDone_mem (s : State) (r : BitVec 512) : (s.chunkDone r).mem = s.mem := rfl

@[simp] theorem takeSaved_mem (s : State) (v : Saved) : (s.takeSaved v).mem = s.mem := rfl

@[simp] theorem depart_mem (s : State) (cl : Nat) (b : Fin 16) (g : Nat) (k : Option CoreId) :
    (s.depart cl b g k).mem = s.mem := by
  unfold State.depart
  dsimp only
  rw [State.setCluster_mem]
  exact foldl_mem (fun _ _ => by rw [acquire_mem, State.setCore_mem]) _ s

@[simp] theorem countArrival_mem (s : State) (cl : Nat) (b : Fin 16) (n : Nat) (owner : Nat × Nat) (ids : List Nat)
    (k : Option CoreId) : (s.countArrival cl b n owner ids k).mem = s.mem := by
  unfold State.countArrival
  grind [State.setCluster_mem, depart_mem]

@[simp] theorem arrive_mem (s : State) (k : CoreId) (b : Fin 16) (n : Nat) : (s.arrive k b n).mem = s.mem := by
  unfold State.arrive
  grind [countArrival_mem, State.setCore_mem]

@[simp] theorem arriveSaved_mem (s : State) (v : Saved) (b : Fin 16) (n : Nat) : (s.arriveSaved v b n).mem = s.mem := by
  unfold State.arriveSaved
  grind [setSaved_mem, countArrival_mem]

@[simp] theorem openBarriers_mem (s : State) (ctx : Nat) : (s.openBarriers ctx).mem = s.mem := rfl

@[simp] theorem addDue_mem (s : State) (k : CoreId) (t : Trap) : (s.addDue k t).mem = s.mem := by
  simp [State.addDue]

@[simp] theorem sLost_mem (s : State) (p : Party) (lost : Bool) : (s.sLost p lost).mem = s.mem := by
  unfold State.sLost
  split <;> simp

@[simp] theorem setLaunch_mem (s : State) (l : Launch) : (s.setLaunch l).mem = s.mem := rfl

@[simp] theorem complete_mem (s : State) (vf cmd stat : Nat) : (s.complete vf cmd stat).mem = s.mem := rfl

theorem stateOf_cqtailDoorbell_mem (s : State) (vf : Nat) (v : Word) : (stateOf s (execCqtailDoorbell vf v s)).mem = s.mem := by
  unfold stateOf execCqtailDoorbell
  grind [State.setVf_mem, complete_mem]

theorem stateOf_cpheadWrite_mem (s : State) (vf : Nat) (v : Word) : (stateOf s (execCpheadWrite vf v s)).mem = s.mem := by
  unfold stateOf execCpheadWrite
  grind [State.setVf_mem, complete_mem]

@[simp] theorem onWs_mem (s : State) (k : CoreId) (f : WStore → WStore) : (s.onWs k f).mem = s.mem := by
  simp [State.onWs]

@[simp] theorem retireCore_mem (s : State) (k : CoreId) (f : Cause) (engine : Nat) : (s.retireCore k f engine).mem = s.mem := by
  simp [State.retireCore]

@[simp] theorem unitStep_mem (s : State) (k : CoreId) (u : Nat) (x : WUnit) : (s.unitStep k u x).1.mem = s.mem := by
  unfold State.unitStep
  grind [State.tickFree_mem, onWs_mem, logEvent_mem, retireCore_mem]

@[simp] theorem extend_mem (s : State) (n : Fin 16) (d : BitVec 384) : (s.extend n d).mem = s.mem := rfl

@[simp] theorem measurePublication_mem (s : State) (k : CoreId) (wset : Nat) : (s.measurePublication k wset).mem = s.mem := rfl

@[simp] theorem applyStep_mem (s : State) (k : CoreId) (ps : List (Nat × WUnit)) (u : Nat) (x : WUnit) :
    (s.applyStep k ps u x).1.mem = s.mem := by
  unfold State.applyStep
  grind [onWs_mem, unitStep_mem, measurePublication_mem]

@[simp] theorem stageStep_mem (s : State) (k : CoreId) (m : Cmd) (u : Nat) (x : WUnit) : (s.stageStep k m u x).1.mem = s.mem := by
  unfold State.stageStep
  grind [unitStep_mem, onWs_mem]

@[simp] theorem scanEnd_mem (s : State) (k : CoreId) : (s.scanEnd k).mem = s.mem := by
  simp [State.scanEnd]

@[simp] theorem scanStep_mem (s : State) (k : CoreId) : (s.scanStep k).1.mem = s.mem := by
  unfold State.scanStep
  grind [scanEnd_mem, applyStep_mem, unitStep_mem, onWs_mem]

@[simp] theorem openJournal_mem (s : State) (k : CoreId) : (s.openJournal k).mem = s.mem := by
  simp [State.openJournal]

@[simp] theorem rollForward_mem (s : State) (k : CoreId) : (s.rollForward k).mem = s.mem :=
  scanStep_mem s k

@[simp] theorem setLost_mem (s : State) (k : CoreId) (o : Machine.Ordering) : (s.setLost k o).mem = s.mem := by
  simp [State.setLost]

@[simp] theorem setWait_mem (s : State) (k : CoreId) (w : Option Wait) : (s.setWait k w).mem = s.mem := by
  simp [State.setWait]

@[simp] theorem endWait_mem (s : State) (k : CoreId) : (s.endWait k).mem = s.mem := by
  simp [State.endWait]

@[simp] theorem applyPcsel_mem (s : State) (k : CoreId) : (s.applyPcsel k).mem = s.mem := by
  unfold State.applyPcsel
  grind [State.setCore_mem]

@[simp] theorem failWait_mem (s : State) (k : CoreId) (t : Trap) : (s.failWait k t).mem = s.mem := by
  simp [State.failWait]

@[simp] theorem spdmError_mem (s : State) (req err : Nat) : (s.spdmError req err).mem = s.mem := by
  unfold State.spdmError
  rw [State.reply_mem, logEvent_mem]

@[simp] theorem refuse_mem (s : State) : s.refuse.mem = s.mem :=
  spdmError_mem _ _ _

@[simp] theorem agree_mem (s : State) (v : Nat) (bytes : List (BitVec 8)) : (s.agree v bytes).mem = s.mem := rfl

@[simp] theorem resumeWorld_mem (s : State) (w : Nat) : (s.resumeWorld w).mem = s.mem := by
  unfold State.resumeWorld
  refine (foldl_mem ?_ _ _).trans rfl
  intro t v
  rfl

@[simp] theorem retireSlots_mem (s : State) (w : Option Nat) (kinds : List Nat) : (s.retireSlots w kinds).mem = s.mem := rfl

@[simp] theorem measureTable_mem (s : State) (n : Fin 16) : (s.measureTable n).mem = s.mem := rfl

theorem tickFree_measureTable_mem (s : State) (n : Fin 16) : (s.measureTable n).tickFree.mem = s.mem := rfl

@[simp] theorem logAccess_mem (s : State) (by' : Requester) (page : Page) (off : Nat) (write : Bool) :
    (s.logAccess by' page off write).mem = s.mem := by
  unfold State.logAccess
  dsimp only
  split
  · rw [logEntry_mem, observeTick_mem]
  · split <;> rfl

@[simp] theorem writeCtx_mem (s : State) (part : Nat) (host : Bool) (off n val : Nat) :
    (s.writeCtx part host off n val).mem = s.mem := by
  unfold State.writeCtx
  grind [State.setCtx_mem, openBarriers_mem]

@[simp] theorem queueInval_mem (s : State) (part page scope ctx : Nat) : (s.queueInval part page scope ctx).mem = s.mem := by
  unfold State.queueInval
  split <;> rfl

@[simp] theorem writePcsel_mem (s : State) (by' : Requester) (part : Nat) (val : Word) :
    (s.writePcsel by' part val).mem = s.mem := by
  unfold State.writePcsel
  grind [State.setCore_mem, logAccess_mem]

@[simp] theorem mbEnd_mem (s : State) (st : Nat) : (s.mbEnd st).mem = s.mem := rfl

@[simp] theorem writeVfRing_mem (s : State) (vf off val : Nat) : (s.writeVfRing vf off val).mem = s.mem := by
  unfold State.writeVfRing
  grind [State.setVf_mem, stateOf_cqtailDoorbell_mem, stateOf_cpheadWrite_mem]

@[simp] theorem writeLaunchTable_mem (s : State) (vat off n val : Nat) :
    (s.writeLaunchTable vat off n val).mem = s.mem := by
  unfold State.writeLaunchTable
  dsimp only
  split <;> rfl

@[simp] theorem writeUmpire_mem (s : State) (off n val : Nat) : (s.writeUmpire off n val).mem = s.mem := by
  unfold State.writeUmpire
  split <;> simp

@[simp] theorem replayed_mem (s : State) (k : CoreId) (n : Nat) : (s.replayed k n).mem = s.mem := by
  simp [State.replayed]

@[simp] theorem loseStores_mem (s : State) (v : Nat) : (s.loseStores v).mem = s.mem :=
  foldl_mem (fun _ _ => State.setCore_mem _ _) _ s

@[simp] theorem allotClusters_mem (s : State) (draws a demand : List (Nat × Nat)) :
    (s.allotClusters draws a demand).mem = s.mem :=
  foldl_mem (fun t _ => foldl_mem (fun _ _ => State.setCluster_mem _ _ _) _ t) _ s

@[simp] theorem setDwell_mem (s : State) (cl : Nat) : (s.setDwell cl).mem = s.mem := rfl

@[simp] theorem takeImages_mem (s : State) : s.takeImages.mem = s.mem := by
  refine foldl_mem (fun _ _ => ?_) _ s
  split
  · split
    · exact State.setCore_mem _ _
    · rfl
  · rfl

@[simp] theorem disableType_mem (s : State) (ty : Nat) : (s.disableType ty).mem = s.mem := by
  unfold State.disableType
  split
  · exact foldl_mem (fun _ _ => State.setCore_mem _ _) _ s
  split
  · exact foldl_mem (fun _ _ => State.setCore_mem _ _) _ s
  split <;> rfl

@[simp] theorem applyRecord_mem (s : State) (ty : Nat) : (s.applyRecord ty).mem = s.mem := by
  unfold State.applyRecord
  dsimp only
  split
  · exact foldl_mem (fun _ _ => State.setCore_mem _ _) _ s
  split
  · exact foldl_mem (fun _ _ => State.setCore_mem _ _) _ s
  · rfl

@[simp] theorem applyRecords_mem (s : State) : s.applyRecords.mem = s.mem := by
  refine foldl_mem (fun t ty => ?_) _ s
  split
  · rw [applyRecord_mem, extend_mem]
  · rw [logEvent_mem, disableType_mem]

@[simp] theorem chooseFirmware_mem (s : State) : s.chooseFirmware.mem = s.mem := by
  unfold State.chooseFirmware
  split <;> rfl

@[simp] theorem startUmpire_mem (s : State) : s.startUmpire.mem = s.mem := by
  unfold State.startUmpire
  split <;> simp

@[simp] theorem bootBegin_mem (s : State) : s.bootBegin.mem = s.mem := by
  simp only [State.bootBegin, foldl_mem openJournal_mem, apply_ite State.mem, logEvent_mem, ite_self, takeImages_mem, extend_mem,
    applyRecords_mem, chooseFirmware_mem, foldl_mem tickFree_measureTable_mem]

@[simp] theorem bootEnd_mem (s : State) : s.bootEnd.mem = s.mem := by
  simp only [State.bootEnd, startUmpire_mem, logEvent_mem, extend_mem]

@[simp] theorem bootGoesOn_mem (s : State) : s.bootGoesOn.mem = s.mem := by
  unfold State.bootGoesOn
  split
  · exact bootEnd_mem s
  · rfl

@[simp] theorem putRecord_mem (s : State) (ty : Nat) (c : ConfigCopy) {effect : State → State}
    (he : ∀ t, (effect t).mem = t.mem) :
    (s.putRecord ty c effect).mem = s.mem := by
  unfold State.putRecord
  grind [logEvent_mem, extend_mem, applyRecord_mem]

@[simp] theorem disableFlagged_mem (s : State) : s.disableFlagged.mem = s.mem := by
  unfold State.disableFlagged
  split
  · rfl
  · exact putRecord_mem _ _ _ fun _ => rfl

@[simp] theorem disableEngine_mem (s : State) (k : CoreId) (slot : Fin 8) : (s.disableEngine k slot).mem = s.mem := by
  simp [State.disableEngine]

@[simp] theorem gatherAll_mem : ∀ (n : Nat) (s : State), (s.gatherAll n).mem = s.mem
  | 0, _ => rfl
  | n + 1, s => by
    unfold State.gatherAll
    split
    · split
      · rw [gatherAll_mem n, gatherStep_mem]
      · rfl
    · rfl

@[simp] theorem cbarEnd_mem (s : State) (b : Fin 16) (n : Nat) : (s.cbarEnd b n).mem = s.mem := by
  unfold State.cbarEnd
  grind [arrive_mem]

@[simp] theorem forgetFills_mem (s : State) : s.forgetFills.mem = s.mem := by
  unfold State.forgetFills
  split <;> rfl

@[simp] theorem clearFence_mem (s : State) : s.clearFence.mem = s.mem :=
  foldl_mem (fun _ _ => acquire_mem _ _ _) _ s

@[simp] theorem chosen_mem (s : State) : s.chosen.mem = s.mem := by
  unfold State.chosen
  grind [switch_mem]

end Sys2Proof.Proofs

end

/-! O56, the predicates that the proof carries along, the rules of the folds and of computations that may fail, and the operations
that write global memory: stores, atomics, slots, the side log, saves and traps. -/
section

namespace Sys2Proof.Proofs
open Sys2Proof.Machine Sys2Proof.Laws

/-- The state's global memory is in canonical form. -/
abbrev Canon (s : State) : Prop := Memory.wf s.mem = true

/-- Every value that a computation answers has a property; one that fails answers none. -/
abbrev Yields {ε α : Type} (P : α → Prop) (r : Except ε α) : Prop := ∀ a, r = .ok a → P a

/-- A tried access that is done or waits leaves memory canonical. -/
def CanonTried : Tried → Prop
  | .done s _ => Canon s
  | .wait s => Canon s
  | _ => True

/-- A word's own work leaves memory canonical, whether it issues or is held. -/
def CanonIssue : Issue → Prop
  | .ok s => Canon s
  | .hold s => Canon s
  | .trap _ => True

/-- A step that answers a next state leaves memory canonical there. -/
def CanonNext : Host.Outcome State Fault Refusal → Prop
  | .next s => Canon s
  | _ => True

/-- Canonicity behind a predicate that is not unfolded, for a state that is costly to run: two forms of it are then compared
as they stand. -/
theorem canon_of_forall {t : State} (H : ∀ P : State → Prop, (∀ u, Canon u → P u) → P t) : Canon t := H Canon fun _ hu => hu

theorem yields_pure {ε α : Type} {P : α → Prop} {a : α} (h : P a) : Yields P (pure a : Except ε α) := by
  rintro _ ⟨⟩
  exact h

theorem yields_error {ε α : Type} {P : α → Prop} {e : ε} : Yields P (.error e : Except ε α) := by
  rintro _ ⟨⟩

theorem yields_bind {ε α β : Type} {P : α → Prop} {Q : β → Prop} {x : Except ε α} {f : α → Except ε β} (hx : Yields P x)
    (hf : ∀ a, P a → Yields Q (f a)) : Yields Q (x >>= f) := by
  intro b e
  match x, hx, e with
  | .ok a, hx, e => exact hf a (hx a rfl) b e

/-- What follows a computation that touches no state. -/
theorem yields_after {ε α β : Type} {Q : β → Prop} {x : Except ε α} {f : α → Except ε β} (hf : ∀ a, Yields Q (f a)) :
    Yields Q (x >>= f) :=
  yields_bind (P := fun _ => True) (fun _ _ => trivial) fun a _ => hf a

/-- The join point behind a failure that a condition raises. -/
theorem yields_unless {ε α : Type} {P : α → Prop} {c : Prop} [Decidable c] {e : ε} {f : Unit → Except ε α}
    (hf : ∀ u, Yields P (f u)) :
    Yields P (if c then throw e >>= f else f ()) := by
  split
  · exact yields_error
  · exact hf ()

theorem yields_foldlM {ε α β : Type} {P : α → Prop} {f : α → β → Except ε α} (hf : ∀ a b, P a → Yields P (f a b)) :
    ∀ (l : List β) {a : α}, P a → Yields P (l.foldlM f a)
  | [], _, h => yields_pure h
  | b :: l, a, h => yields_bind (hf a b h) fun _ h' => yields_foldlM hf l h'

theorem foldl_canon {β : Type} {f : State → β → State} (hf : ∀ t b, Canon t → Canon (f t b)) (l : List β) {s : State}
    (h : Canon s) :
    Canon (l.foldl f s) :=
  List.foldlRecOn l f h fun t ht b _ => hf t b ht

/-- A fold that carries a result beside the state. -/
theorem foldl_fst_canon {α β : Type} {f : State × α → β → State × α} (hf : ∀ r b, Canon r.1 → Canon (f r b).1) (l : List β)
    {r : State × α} (h : Canon r.1) : Canon (l.foldl f r).1 :=
  List.foldlRecOn l f (motive := fun r => Canon r.1) h fun r hr b _ => hf r b hr

variable {s : State} (h : Canon s)
include h

theorem settle_canon (cl pa n : Nat) : Canon (s.settle cl pa n) := acknowledgeAll_wf h _

theorem storeAtomic_canon (k : CoreId) (x : Xlat) (bs : List (BitVec 8)) (os : Option OrdScope) (age : Nat) :
    Canon (s.storeAtomic k x bs os age) := by
  unfold State.storeAtomic
  grind [State.setCore_mem, acknowledge_wf]

theorem writeVirtual_canon (p : Party) (va n v : Nat) : Yields Canon (s.writeVirtual p va n v) :=
  yields_after fun _ => yields_pure (storeHome_wf h _ _ _ _)

theorem writeRange_canon (p : Party) (va n v : Nat) : Yields Canon (s.writeRange p va n v) :=
  yields_foldlM (fun _ _ ht => writeVirtual_canon ht _ _ _ _) _ h

theorem rmwGlobal_canon (k : CoreId) (x : Xlat) (a : Access) : CanonTried (s.rmwGlobal k x a) := by
  unfold State.rmwGlobal
  grind [dropCopies_mem, settle_canon, State.setCore_mem, hear_mem, storeAtomic_canon, CanonTried]

theorem tryPage_canon (k : CoreId) (x : Xlat) (a : Access) (page : Page) (off : Nat) : CanonTried (s.tryPage k x a page off) := by
  unfold State.tryPage
  split <;> exact h

theorem tryGlobal_canon (k : CoreId) (a : Access) : CanonTried (s.tryGlobal k a) := by
  unfold State.tryGlobal
  grind [remember_mem, State.setCore_mem, storeGlobal_mem, tryPage_canon, hear_mem, rmwGlobal_canon, CanonTried]

theorem tryRemote_canon (k : CoreId) (a : Access) : CanonTried (s.tryRemote k a) := by
  unfold State.tryRemote
  grind [State.setCore_mem, carryScratch_mem, CanonTried]

theorem tryAccess_canon (k : CoreId) (a : Access) : CanonTried (s.tryAccess k a) := by
  unfold State.tryAccess
  grind [tryRemote_canon, tryGlobal_canon, CanonTried]

theorem tryGlobal_done {k : CoreId} {a : Access} {t : State} {v : Nat} (e : s.tryGlobal k a = .done t v) : Canon t := by
  simpa [e, CanonTried] using tryGlobal_canon h k a

theorem tryGlobal_wait {k : CoreId} {a : Access} {t : State} (e : s.tryGlobal k a = .wait t) : Canon t := by
  simpa [e, CanonTried] using tryGlobal_canon h k a

theorem tryRemote_done {k : CoreId} {a : Access} {t : State} {v : Nat} (e : s.tryRemote k a = .done t v) : Canon t := by
  simpa [e, CanonTried] using tryRemote_canon h k a

theorem tryRemote_wait {k : CoreId} {a : Access} {t : State} (e : s.tryRemote k a = .wait t) : Canon t := by
  simpa [e, CanonTried] using tryRemote_canon h k a

theorem tryAccess_done {k : CoreId} {a : Access} {t : State} {v : Nat} (e : s.tryAccess k a = .done t v) : Canon t := by
  simpa [e, CanonTried] using tryAccess_canon h k a

theorem tryAccess_wait {k : CoreId} {a : Access} {t : State} (e : s.tryAccess k a = .wait t) : Canon t := by
  simpa [e, CanonTried] using tryAccess_canon h k a

theorem slotWrite_canon (ctx : Nat) (bs : List (Nat × Nat)) : Yields Canon (s.slotWrite ctx bs) :=
  yields_after fun _ => yields_pure (foldl_canon (fun _ _ ht => writeBlock_wf ht _ _ _) _ h)

omit h in
/-- A slot write known by what it keeps alone. A proof that puts it in place of the model's leaves the kernel nothing to run
where it compares two states that a slot write made. -/
theorem slotWrite_opaque : ∃ write : State → Nat → List (Nat × Nat) → Except Cause State, @State.slotWrite = write ∧
    ∀ {t : State}, Canon t → ∀ ctx bs, Yields Canon (write t ctx bs) :=
  ⟨_, rfl, slotWrite_canon⟩

theorem slotSet_canon (ctx va off n v : Nat) : Yields Canon (s.slotSet ctx va off n v) :=
  yields_after fun _ => slotWrite_canon h _ _

theorem writePieceAs_canon (c : Core) (by' : StoreBy) (w : Window) (i : Nat) : Yields Canon (s.writePieceAs c by' w i) := by
  refine yields_foldlM (fun t j ht => ?_) _ h
  grind [storeAs_mem]

theorem writePiece_canon (c : Core) (w : Window) (i : Nat) :
    Yields Canon (s.writePiece c w i) := writePieceAs_canon h c .window w i

theorem writeBackLost_canon (c : Core) : Canon (s.writeBackLost c).1 := by
  refine foldl_fst_canon (fun r w hr => foldl_fst_canon (fun r p hr => ?_) _ hr) _ h
  grind [writePiece_canon, State.setCore_mem]

theorem postSide_canon (k : CoreId) (log : List LogEntry) (e : LogEntry) (cause : Cause) : Canon (s.postSide k log e cause) := by
  unfold State.postSide
  grind [postSup_mem, slotSet_canon]

theorem enterLog_canon (k : CoreId) (a : Access) (why : Option Cause) : Canon (s.enterLog k a why) := by
  unfold State.enterLog
  grind [holdStore_mem, postSide_canon, State.setCore_mem]

theorem retireStore_canon (k : CoreId) (a : Access) : Canon (s.retireStore k a) := by
  unfold State.retireStore
  grind [State.setCore_mem, enterLog_canon, tryGlobal_done, tryGlobal_wait, holdStore_mem]

theorem awaitResults_canon (k : CoreId) : Canon (s.awaitResults k) := by
  refine foldl_canon (fun t op ht => ?_) _ (by rwa [Canon, State.setCore_mem])
  grind [State.setCore_mem, observeTick_mem, tryAccess_done, tryAccess_wait, retireStore_canon, told_mem, acquire_mem]

theorem trySave_canon (k : CoreId) (t : Task) (st : TaskState) : Yields Canon (s.trySave k t st) := by
  -- The function is replaced by its body through a variable: the kernel then compares no two runs of a save.
  generalize hf : @State.trySave = f
  delta State.trySave at hf
  subst hf
  beta_reduce
  extract_lets s1 wb s2 c c' img regs busy
  have flushed : Canon s2 := by
    rw [Canon, foldl_mem fun _ _ => postSup_mem _ _ _ _]
    exact writeBackLost_canon (by rwa [Canon, State.setCore_mem]) _
  split
  · exact yields_error
  split
  · exact yields_error
  next w e =>
    have saved : Canon w := slotWrite_canon flushed _ _ _ e
    refine yields_pure ?_
    rw [Canon, moveWaiters_mem, State.setCore_mem]
    exact saved

theorem saveStep_canon (k : CoreId) : Canon (s.saveStep k) := by
  unfold State.saveStep
  split
  · split
    · exact h
    extract_lets s1
    have awaited : Canon s1 := awaitResults_canon h k
    split
    · exact awaited
    split
    next s' e =>
      have saved : Canon s' := trySave_canon awaited _ _ _ _ e
      split
      · rw [Canon, postItem_mem]
        exact saved
      · exact saved
    · rw [Canon, slotLost_mem]
      exact awaited
  · exact h

theorem saveTask_canon (k : CoreId) (t : Task) (st : TaskState) : Canon (s.saveTask k t st) := by
  unfold State.saveTask
  grind [saveStep_canon, State.setCore_mem]

theorem suspendWorlds_canon : Canon s.suspendWorlds := by
  refine foldl_canon (fun t k ht => ?_) s.cores h
  grind [saveTask_canon]

theorem takeover_canon : Canon s.takeover := by
  unfold State.takeover
  grind [State.setCore_mem, logEvent_mem, suspendWorlds_canon, unlockTdis_mem, eraseSessions_mem]

theorem takeTrap_canon (t : Trap) (pc : BitVec 49) : Canon (s.takeTrap t pc) := by
  unfold State.takeTrap
  grind [saveTask_canon, haltPartition_mem, takeover_canon]

theorem trapNow_canon (t : Trap) : Canon (s.trapNow t) := takeTrap_canon h t s.c.pc

/-- A slot word leaves memory canonical if its own work does: a hold or a trap of the checks before it does so in any case. -/
theorem slotExec_canon (slot : Nat) (i : Instr) {body : State → Issue} (hb : CanonIssue (body s)) :
    CanonNext (slotExec slot i body s) := by
  unfold slotExec
  grind [trapNow_canon, CanonNext, CanonIssue]

theorem onCore_canon (f : Core → Core) : CanonIssue (onCore f s) := h

end Sys2Proof.Proofs

end

/-! O56, the words and events of the control, load and store, vector, matrix and copy units. -/
section

namespace Sys2Proof.Proofs
open Sys2Proof.Machine Sys2Proof.Laws

/-- Starting a box leaves memory canonical, however it ends. -/
def CanonMoved : Moved → Prop
  | .done s _ => Canon s
  | .wait s => Canon s
  | .fault s _ => Canon s

variable {s : State} (h : Canon s)
include h

theorem branchReg_canon (call : Bool) (x : Word) (f : Core → Core) : CanonIssue (branchReg call x f s) := by
  unfold branchReg
  grind [CanonIssue]

theorem armLoop_canon (l : Fin 2) (cnt endoff : Nat) : CanonIssue (armLoop l cnt endoff s) := by
  unfold armLoop
  grind [CanonIssue]

theorem tretBody_canon : CanonIssue (tretBody s) := by
  unfold tretBody
  grind [CanonIssue]

theorem cbarBody_canon (a : Reg) (b : Fin 16) : CanonIssue (cbarBody a b s) := by
  unfold cbarBody
  grind [CanonIssue]

theorem mfcBody_canon (d : Reg) (n : BitVec 12) : CanonIssue (mfcBody d n s) := by
  unfold mfcBody
  grind [CanonIssue]

theorem mtcBody_canon (a : Reg) (n : BitVec 12) : CanonIssue (mtcBody a n s) := by
  unfold mtcBody
  grind [CanonIssue]

theorem execShadowWriteLands_canon (k : CoreId) : CanonNext (execShadowWriteLands k s) := by
  unfold execShadowWriteLands
  grind [State.setCore_mem, CanonNext]

theorem execVtoqPushLands_canon (k : CoreId) : CanonNext (execVtoqPushLands k s) := by
  unfold execVtoqPushLands
  grind [State.setCore_mem, CanonNext]

theorem execCorrectableErrorFreeze_canon (k : CoreId) : CanonNext (execCorrectableErrorFreeze k s) := by
  unfold execCorrectableErrorFreeze
  grind [observeTick_mem, State.setCore_mem, logEvent_mem, CanonNext]

theorem execFreezeEnd_canon (k : CoreId) : CanonNext (execFreezeEnd k s) := by
  unfold execFreezeEnd
  grind [State.setCore_mem, CanonNext]

theorem localAccess_canon (ea n : Nat) (poisoned : Core → Bool) (f : Core → Core) :
    CanonIssue (localAccess ea n poisoned f s) := by
  unfold localAccess
  grind [CanonIssue]

theorem execGatherScatterElement_canon (k : CoreId) : CanonNext (execGatherScatterElement k s) := by
  unfold execGatherScatterElement
  grind [gatherStep_mem, CanonNext]

theorem globalIssue_canon (a : Access) (os : OrdScope) : CanonIssue (globalIssue a os s) := by
  unfold globalIssue
  grind [CanonIssue]

theorem earlierDone_canon (k : CoreId) (a : Access) (done rest : List Ilk) {t : State}
    (e : s.earlierDone k a done rest = some t) :
    Canon t := by
  induction rest generalizing s done with
  | nil =>
    cases e
    rwa [Canon, State.setCore_mem]
  | cons o rest ih =>
    unfold State.earlierDone at e
    grind [tryAccess_done]

theorem stgBody_canon (a : Access) : CanonIssue (stgBody a s) := by
  unfold stgBody
  grind [earlierDone_canon, tryGlobal_done, tryGlobal_wait, CanonIssue]

theorem clusterIssue_canon (a : Access) (os : OrdScope) : CanonIssue (clusterIssue a os s) := by
  unfold clusterIssue
  grind [tryRemote_done, tryRemote_wait, CanonIssue]

theorem globalArrives_canon (k : CoreId) (n : Nat) (o : Ilk) (a : Access) : Canon (s.globalArrives k n o a) := by
  unfold State.globalArrives
  grind [tryAccess_done, tryAccess_wait, deliver_mem, State.setCore_mem]

theorem execRemoteAccessArrives_canon (k : CoreId) (n : Nat) : CanonNext (execRemoteAccessArrives k n s) := by
  unfold execRemoteAccessArrives
  grind [tryRemote_done, tryRemote_wait, State.setCore_mem, CanonNext]

theorem execHeldAccessFault_canon (k : CoreId) : CanonNext (execHeldAccessFault k s) := by
  unfold execHeldAccessFault
  grind [told_mem, State.setCore_mem, CanonNext]

theorem replayHome_canon (sv : Saved) (a : Access) : Yields (fun r => Canon r.1) (s.replayHome sv a) := by
  refine yields_after fun x => ?_
  split
  · exact yields_pure (storeHomeBy_wf h _ _ _ _ _ _)
  split
  · split
    · exact yields_pure h
    · exact yields_error
  have settled : Canon (s.settle (clusterOf (sv.task.party sv.cl).core) x.pa a.size) := settle_canon h _ _ _
  dsimp only
  split
  · exact yields_pure (storeHomeBy_wf settled _ _ _ _ _ _)
  · exact yields_pure settled

theorem putLogs_canon (ctx addr block : Nat) (log : List LogEntry) : Canon (s.putLogs ctx addr block log) := by
  unfold State.putLogs
  grind [slotWrite_canon]

theorem replaySlot_canon (ctx addr n : Nat) : Canon (s.replaySlot ctx addr n) := by
  unfold State.replaySlot
  split
  · extract_lets log
    split
    · exact h
    split
    · exact h
    split
    next e =>
      refine putLogs_canon ?_ _ _ _ _
      rw [Canon, setSaved_mem]
      exact replayHome_canon h _ _ _ e
    next =>
      extract_lets rest s1
      refine putLogs_canon (s := s1) ?_ _ _ _ _
      unfold s1
      split
      · exact h
      split
      next e => exact slotSet_canon (s := s.postSup _ _ _) h _ _ _ _ _ _ e
      next => exact h
  · exact h

theorem execFenceMarkerAck_canon (k : CoreId) (v : Nat) : CanonNext (execFenceMarkerAck k v s) := by
  unfold execFenceMarkerAck
  grind [State.setCore_mem, CanonNext]

theorem wheyAccess_canon (offs : List Nat) (reads : Bool) (f : Core → Core) : CanonIssue (wheyAccess offs reads f s) := by
  unfold wheyAccess
  grind [CanonIssue]

theorem vdeferBody_canon (a b e : Reg) (p : PReg) (n : Fin 4) : CanonIssue (vdeferBody a b e p n s) := by
  unfold vdeferBody
  grind [wheyAccess_canon, CanonIssue]

theorem vdrainBody_canon (d sc : Reg) (p : PReg) (l : Bool) (n : Fin 4) : CanonIssue (vdrainBody d sc p l n s) := by
  unfold vdrainBody
  grind [wheyAccess_canon, CanonIssue]

theorem vsredBody_canon (d a b : Reg) (r : Rop) (t : RedTy) : CanonIssue (vsredBody d a b r t s) := by
  unfold vsredBody
  grind [CanonIssue]

theorem execVsredVectorRead_canon (k : CoreId) : CanonNext (execVsredVectorRead k s) := by
  unfold execVsredVectorRead
  grind [State.setCore_mem, CanonNext]

theorem withFill_canon (rs : List (Nat × Nat)) {f : State → Issue} (hf : CanonIssue (f s)) : CanonIssue (withFill rs f s) := by
  unfold withFill
  split
  · exact h
  · exact hf

theorem plainArray_canon (i : Instr) (b total : Nat) : CanonIssue (plainArray i b total s) := by
  unfold plainArray
  grind [startArray_mem, CanonIssue]

theorem mloadBody_canon (t : TileNo) (a : Reg) : CanonIssue (mloadBody t a s) := by
  unfold mloadBody
  grind [withFill_canon, startArray_mem, CanonIssue]

theorem mldwBody_canon (w : Fin 2) (f : Bool) (a : Reg) : CanonIssue (mldwBody w f a s) := by
  unfold mldwBody
  grind [withFill_canon, wsRegister_mem, CanonIssue]

theorem mmulBody_canon (i : Instr) (a : Reg) (g : Fin 4) (b : Fin 8) (r : Reg) : CanonIssue (mmulBody i a g b r s) := by
  unfold mmulBody
  grind [withFill_canon, startArray_mem, wsRegister_mem, CanonIssue]

theorem mdrainBody_canon (t : TileNo) (a : Reg) (ty : Ty) (p : PReg) (clr : Bool) : CanonIssue (mdrainBody t a ty p clr s) := by
  unfold mdrainBody
  grind [withFill_canon, startArray_mem, CanonIssue]

theorem fmtBody_canon (v : Nat) : CanonIssue (fmtBody v s) := by
  unfold fmtBody
  grind [CanonIssue]

theorem latchBody_canon (i : Fin 4) (n : Nat) (a : Reg) : CanonIssue (latchBody i n a s) := by
  unfold latchBody
  grind [withFill_canon, CanonIssue]

theorem execArrayPoisonDetected_canon (k : CoreId) (u : MUnit) : CanonNext (execArrayPoisonDetected k u s) := by
  unfold execArrayPoisonDetected
  grind [State.setCore_mem, CanonNext]

theorem execMUnitCompletes_canon (k : CoreId) (u : MUnit) : CanonNext (execMUnitCompletes k u s) := by
  unfold execMUnitCompletes
  grind [State.setCore_mem, CanonNext]

theorem execMiterPhaseEnd_canon (k : CoreId) : CanonNext (execMiterPhaseEnd k s) := by
  unfold execMiterPhaseEnd
  grind [State.setCore_mem, CanonNext]

theorem slotPoke_canon (ctx addr off n v : Nat) : Canon (s.slotPoke ctx addr off n v) := by
  unfold State.slotPoke
  grind [slotSet_canon]

omit h in
/-- Another list of saved tasks. A lemma of its own: the kernel compares its two states by their fields, not by running what made them. -/
theorem tasks_canon {t : State} (ht : Canon t) (x : List Saved) : Canon { t with tasks := x } := ht

theorem setCmds_canon (r : TaskRef) (ms : List Cmd) : Canon (s.setCmds r ms) := by
  unfold State.setCmds
  split
  · rwa [Canon, State.setCore_mem]
  next ctx addr =>
    have poked := slotPoke_canon (s := s.setSaved ctx addr fun v => { v with cmds := ms }) h ctx addr 0x7B000 8 (ms.map Cmd.inFlight).sum
    dsimp only
    split
    · exact tasks_canon poked _
    · exact poked

theorem putCmd_canon (r : TaskRef) (m : Cmd) : Canon (s.putCmd r m) := by
  unfold State.putCmd
  grind [setCmds_canon, slotPoke_canon]

theorem setCmd_canon (r : TaskRef) (tag : Fin 64) (f : Cmd → Cmd) : Canon (s.setCmd r tag f) := by
  unfold State.setCmd
  grind [putCmd_canon]

theorem freeTag_canon (r : TaskRef) (tag : Fin 64) : Canon (s.freeTag r tag) := by
  unfold State.freeTag
  grind [slotPoke_canon]

theorem dropCmd_canon (r : TaskRef) (tag : Fin 64) : Canon (s.dropCmd r tag) := by
  unfold State.dropCmd
  grind [freeTag_canon, setCmds_canon]

theorem tagSet_canon (r : TaskRef) (tag : Fin 64) : Canon (s.tagSet r tag) := by
  unfold State.tagSet
  grind [State.setCore_mem, slotPoke_canon]

theorem finishCmd_canon (r : TaskRef) (m : Cmd) : Canon (s.finishCmd r m) := by
  unfold State.finishCmd
  grind [inherit_mem, slotPoke_canon, tagSet_canon, dropCmd_canon]

theorem locPoison_canon (k : CoreId) (l : Loc) : Canon (s.locPoison k l) := by
  unfold State.locPoison
  grind [State.setCore_mem, State.poisonLine_mem, settle_canon]

theorem locWrite_canon (k : CoreId) (m : Cmd) (l : Loc) (n v : Nat) (psn : Bool) : Canon (s.locWrite k m l n v psn) := by
  unfold State.locWrite
  grind [State.setCore_mem, locPoison_canon, storeAs_mem, State.hostWrite_mem]

theorem placesFill_canon (ls : List (Nat × Nat × Loc)) {t : State} (e : s.placesFill ls = some t) : Canon t := by
  unfold State.placesFill at e
  dsimp only at e
  split at e
  · cases e
    exact h
  split at e
  · cases e
  cases e
  refine foldl_canon (fun u l hu => ?_) _ h
  split
  · rwa [Canon, State.setCore_mem]
  · exact hu

theorem placesBad_canon (m : Cmd) (b dsd : Nat) (ls : List (Nat × Nat × Loc)) {t : State × Trap}
    (e : s.placesBad m b dsd ls = some t) :
    Canon t.1 := by
  obtain ⟨l, -, hl⟩ := List.exists_of_findSome?_eq_some e
  grind [Option.map_eq_some_iff, State.setCore_mem]

theorem scatterBox_canon (k : CoreId) (m : Cmd) (lo v : Nat) (bad : List (Nat × Nat)) (ls : List (Nat × Nat × Loc)) :
    Canon (s.scatterBox k m lo v bad ls) := by
  refine foldl_canon (fun t key ht => ?_) _ h
  dsimp only
  split
  · split
    · exact locWrite_canon ht _ _ _ _ _ _
    · exact locWrite_canon ht _ _ _ _ _ _
    · exact locWrite_canon ht _ _ _ _ _ _
    · exact ht
  · exact foldl_canon (fun _ _ hu => locWrite_canon hu _ _ _ _ _ _) _ ht

theorem reduceBox_canon (k : CoreId) (m : Cmd) (rop lo v : Nat) (bad : List (Nat × Nat)) (ls : List (Nat × Nat × Loc)) :
    Canon (s.reduceBox k m rop lo v bad ls) := by
  refine foldl_canon (fun t l ht => ?_) _ h
  split
  · extract_lets u
    have reduced : Canon u := by
      refine foldl_canon (fun w i hw => ?_) _ ht
      grind [settle_canon, State.setCore_mem, acknowledge_wf]
    split
    · exact locPoison_canon reduced _ _
    · exact reduced
  · exact ht

theorem hostBox_canon (k : CoreId) (m : Cmd) (b : Nat) (sl dl : List (Nat × Nat × Loc)) : CanonMoved (s.hostBox k m b sl dl) := by
  have poisoned : Canon (dl.foldl (fun s l => s.locPoison k l.2.2) s) := foldl_canon (fun _ _ ht => locPoison_canon ht _ _) _ h
  unfold State.hostBox
  extract_lets lo n key src aad seen tagAt
  split
  · split
    · exact scatterBox_canon h _ _ _ _ _ _
    · exact poisoned
  split
  · exact h
  · exact scatterBox_canon h _ _ _ _ _ _

theorem moveBox_canon (k : CoreId) (m : Cmd) (b : Nat) : CanonMoved (s.moveBox k m b) := by
  unfold State.moveBox
  split
  · exact h
  split
  · exact h
  next sl _ =>
  split
  · exact h
  next dls _ =>
    split
    next e =>
      cases first : s.placesBad m b 0 sl with
      | some r =>
        rw [first] at e
        cases e
        exact placesBad_canon h _ _ _ _ first
      | none =>
        rw [first] at e
        exact placesBad_canon h _ _ _ _ e
    next e => exact placesFill_canon h _ e
    next =>
      extract_lets lo s1 s2
      have hinted : Canon s2 := by
        rw [Canon, foldl_mem fun _ _ => hintParts_mem _ _ _ _, hintParts_mem]
        exact h
      split
      · exact hostBox_canon hinted _ _ _ _ _
      · refine foldl_canon (fun t dl ht => ?_) _ hinted
        split
        · exact scatterBox_canon ht _ _ _ _ _ _
        · exact reduceBox_canon ht _ _ _ _ _ _ _
      · exact scatterBox_canon hinted _ _ _ _ _ _

theorem writeBackBox_canon (k : CoreId) (m : Cmd) (b : Nat) : CanonMoved (s.writeBackBox k m b) := by
  unfold State.writeBackBox
  grind [writePieceAs_canon, State.setCore_mem, CanonMoved]

theorem startBox_canon (k : CoreId) (tag : Fin 64) : Canon (s.startBox k tag) := by
  unfold State.startBox
  split
  · exact h
  split
  · exact h
  split
  · exact h
  next m _ _ _ b _ =>
    have moved : CanonMoved (match m.instr with | .xwb _ _ => s.writeBackBox k m b | _ => s.moveBox k m b) := by
      split
      · exact writeBackBox_canon h _ _ _
      · exact moveBox_canon h _ _ _
    split
    next e => exact setCmd_canon ((congrArg CanonMoved e).mp moved) _ _ _
    next e => exact (congrArg CanonMoved e).mp moved
    next e => exact setCmd_canon ((congrArg CanonMoved e).mp moved) _ _ _

theorem startBoxes_canon (k : CoreId) (tag : Fin 64) (n : Nat) : Canon (s.startBoxes k tag n) := by
  induction n generalizing s with
  | zero => exact h
  | succ n ih => exact ih (startBox_canon h k tag)

theorem execCopyBoxComplete_canon (r : TaskRef) (tag : Fin 64) (box : Nat) : CanonNext (execCopyBoxComplete r tag box s) := by
  unfold execCopyBoxComplete
  grind [startBoxes_canon, putCmd_canon, CanonNext]

theorem engineTrap_canon : Canon (s.engineTrap) := by
  unfold State.engineTrap
  grind [takeTrap_canon, putCmd_canon]

theorem execEngineFaultDelivery_canon (k : CoreId) : CanonNext (execEngineFaultDelivery k s) := by
  unfold execEngineFaultDelivery
  grind [switch_mem, engineTrap_canon, CanonNext]

theorem fillPiece_canon (k : CoreId) (w : Window) (i : Nat) : Yields Canon (s.fillPiece k w i) := by
  refine yields_foldlM (fun t j ht => ?_) _ h
  grind [State.setCore_mem]

theorem execWindowFillCompletes_canon (k : CoreId) : CanonNext (execWindowFillCompletes k s) := by
  unfold execWindowFillCompletes
  grind [fillPiece_canon, State.setCore_mem, CanonNext]

theorem execBackgroundWriteback_canon (k : CoreId) (win piece : Nat) : CanonNext (execBackgroundWriteback k win piece s) := by
  unfold execBackgroundWriteback
  grind [writePiece_canon, State.setCore_mem, CanonNext]

theorem reportHint_canon (p : Party) (taskid : Nat) (x : Hint) : Canon (s.reportHint p taskid x) := by
  unfold State.reportHint
  extract_lets area
  split
  · exact h
  split
  · exact h
  split
  · exact h
  next e =>
    have counted := writeVirtual_canon h _ _ _ _ _ e
    split
    next e' => exact writeRange_canon counted _ _ _ _ _ e'
    next => exact counted

theorem evalHints_canon (c : Core) : Canon (s.evalHints c) := foldl_canon (fun _ _ ht => reportHint_canon ht _ _ _) _ h

theorem notify_canon (part qn : Nat) : Canon (s.notify part qn) := by
  unfold State.notify
  grind [tagSet_canon]

theorem queueErr_canon (part qn code a : Nat) : Canon (s.queueErr part qn code a) := by
  unfold State.queueErr
  grind [notify_canon, State.setQueue_mem]

theorem stopQueue_canon (part qn code a : Nat) : Canon (s.stopQueue part qn code a) := by
  unfold State.stopQueue
  grind [State.setQueue_mem, queueErr_canon]

end Sys2Proof.Proofs

end

/-! O56, the hardware queues. -/
section

namespace Sys2Proof.Proofs
open Sys2Proof.Machine Sys2Proof.Laws

variable {s : State} (h : Canon s)
include h

theorem execQueueStart_canon (part qn : Nat) : CanonNext (execQueueStart part qn s) := by
  unfold execQueueStart
  grind [startQueue_mem, CanonNext]

theorem append_canon (part qn v : Nat) : Canon (s.append part qn v).1 := by
  unfold State.append
  grind [writeRange_canon, stopQueue_canon, State.setQueue_mem, endTrapped_mem]

theorem append_state {part qn v : Nat} {t : State} {b : Bool} (e : s.append part qn v = (t, b)) : Canon t := by
  simpa [e] using append_canon h part qn v

theorem takeItem_canon (part qn : Nat) : Canon (s.takeItem part qn).1 := by
  unfold State.takeItem
  grind [stopQueue_canon, State.setQueue_mem]

theorem takeItem_state {part qn : Nat} {t : State} {v : Option Word} (e : s.takeItem part qn = (t, v)) : Canon t := by
  simpa [e] using takeItem_canon h part qn

theorem execQdeqItemDelivered_canon (part qn : Nat) : CanonNext (execQdeqItemDelivered part qn s) := by
  unfold execQdeqItemDelivered
  change Canon _
  split
  · exact h
  split
  · rwa [Canon, State.setQueue_mem]
  split
  next e => exact takeItem_state h e
  next e =>
    have taken := takeItem_state h e
    extract_lets q t ops
    have queued : Canon t := by rwa [Canon, State.setQueue_mem]
    split
    · rwa [Canon, State.setCore_mem]
    · rwa [Canon, setSaved_mem]

theorem pushRecord_canon (part qn : Nat) (r : BitVec 512) (a : Nat) : Canon (s.pushRecord part qn r a).1 := by
  unfold State.pushRecord
  split
  · exact queueErr_canon h _ _ _ _
  · exact append_canon h _ _ _

theorem releasedOp_canon (k : CoreId) (kind : IlkKind) : Canon (s.releasedOp k kind).1 := by
  unfold State.releasedOp
  extract_lets out
  have kept : ∀ r, Canon r.1 → Canon (out r).1 := fun _ hr => hr
  split
  · exact kept _ (append_canon h _ _ _)
  · exact kept _ (pushRecord_canon h _ _ _ _)
  · rwa [Canon, logEntry_mem]
  · exact h

theorem releasedArrives_canon (k : CoreId) (n : Nat) (o : Ilk) : Canon (s.releasedArrives k n o) := by
  unfold State.releasedArrives
  dsimp only
  split
  · exact h
  split
  · rw [Canon, deliver_mem]
    exact releasedOp_canon h _ _
  split
  · rwa [Canon, State.setCore_mem]
  · exact h

end Sys2Proof.Proofs

end

/-! O56, the scheduler: appends, saves, binds and waits. -/
section

namespace Sys2Proof.Proofs
open Sys2Proof.Machine Sys2Proof.Laws

variable {s : State} (h : Canon s)
include h

theorem execSupqItemAppend_canon (cl : Nat) : CanonNext (execSupqItemAppend cl s) := by
  unfold execSupqItemAppend
  grind [append_canon, State.setCluster_mem, CanonNext]

theorem signalFailed_canon (g : Signal) (f : Cause) (a : Nat) : Canon (s.signalFailed g f a) := by
  unfold State.signalFailed
  grind [logEntry_mem, queueErr_canon]

theorem signalUpdate_canon (g : Signal) (a n : Nat) (f : Nat → Nat) : Canon (s.signalUpdate g a n f) := by
  unfold State.signalUpdate
  grind [signalFailed_canon, settle_canon, storeHome_wf]

theorem sendSignals_canon (g : Signal) : Canon (s.sendSignals g) := by
  unfold State.sendSignals
  grind [chunkDone_mem, signalUpdate_canon, tagSet_canon]

theorem execCompletionSignals_canon (n : Nat) : CanonNext (execCompletionSignals n s) := by
  unfold execCompletionSignals
  grind [sendSignals_canon, CanonNext]

theorem execInstructionFetchFault_canon (k : CoreId) : CanonNext (execInstructionFetchFault k s) := by
  unfold execInstructionFetchFault
  grind [switch_mem, takeTrap_canon, CanonNext]

theorem clearSlot_canon (t : Task) : Canon (s.clearSlot t) := by
  refine foldl_canon (fun u b hu => ?_) _ h
  split
  next e => exact slotWrite_canon hu _ _ _ e
  next => exact hu

theorem bindFresh_canon (cl part : Nat) (x : Cand) (k : CoreId) : Canon (s.bindFresh cl part x k) := by
  obtain ⟨write, hw, written⟩ := slotWrite_opaque
  unfold State.bindFresh
  rw [hw]
  extract_lets q
  split
  · exact stopQueue_canon h _ _ _ _
  split
  next e => exact takeItem_state h e
  next e =>
    have taken := takeItem_state h e
    extract_lets t1 m task t2
    have bound : Canon t2 := by
      rw [Canon, State.setCore_mem, consume_mem]
      exact taken
    split
    next e' => exact clearSlot_canon (written bound _ _ _ e') _
    next =>
      rw [Canon, slotLost_mem]
      exact bound

theorem bind_canon (cl part : Nat) (x : Cand) (k : CoreId) : Canon (s.bind cl part x k) := by
  unfold State.bind
  grind [restoreTask_mem, takeSaved_mem, stopQueue_canon, consume_mem, bindFresh_canon]

theorem execSchedulerBind_canon (cl : Nat) : CanonNext (execSchedulerBind cl s) := by
  unfold execSchedulerBind
  grind [stopQueue_canon, bind_canon, State.setCluster_mem, CanonNext]

theorem execSliceExpiry_canon (k : CoreId) : CanonNext (execSliceExpiry k s) := by
  unfold execSliceExpiry
  grind [saveTask_canon, State.setCore_mem, CanonNext]

theorem execPriorityPreemption_canon (cl : Nat) : CanonNext (execPriorityPreemption cl s) := by
  unfold execPriorityPreemption
  grind [saveTask_canon, CanonNext]

theorem execPreempted_canon (cl : Nat) : CanonNext (execPreempted cl s) := by
  unfold execPreempted
  grind [switch_mem, State.setCore_mem, takeTrap_canon, CanonNext]

theorem execParkBoundExpires_canon (k : CoreId) : CanonNext (execParkBoundExpires k s) := by
  unfold execParkBoundExpires
  grind [saveTask_canon, CanonNext]

theorem execParkedConditionHolds_canon (cl slot : Nat) : CanonNext (execParkedConditionHolds cl slot s) := by
  unfold execParkedConditionHolds
  grind [arriveSaved_mem, setSaved_mem, CanonNext]

theorem tendWriteBack_canon (k : CoreId) : Yields Canon (s.tendWriteBack k) := by
  refine yields_foldlM (fun t w ht => yields_foldlM (fun u p hu => ?_) _ ht) _ h
  grind [writePiece_canon, State.setCore_mem]

theorem returnSlot_canon (cl : Nat) (t : Task) : Canon (s.returnSlot cl t) := by
  unfold State.returnSlot
  grind [State.setCluster_mem, append_canon]

theorem flushBase_canon (k : CoreId) (t : Task) : Yields Canon (s.flushBase k t) := by
  unfold State.flushBase
  grind [slotWrite_canon]

theorem finishTask_canon (k : CoreId) (t : Task) : Canon (s.finishTask k t) := by
  unfold State.finishTask
  grind [evalHints_canon, flushBase_canon, slotLost_mem, endOfTask_mem, State.setCore_mem, unheard_mem, returnSlot_canon]

theorem execTendWaitEnds_canon (k : CoreId) : CanonNext (execTendWaitEnds k s) := by
  unfold execTendWaitEnds
  grind [addDue_mem, tendWriteBack_canon, finishTask_canon, CanonNext]

end Sys2Proof.Proofs

end

/-! O56, the forms on streams. -/
section

namespace Sys2Proof.Proofs
open Sys2Proof.Machine Sys2Proof.Laws

/-- What a stream form's operation answers beside its state. -/
abbrev CanonFst {α : Type} (r : State × α) : Prop := Canon r.1

variable {s : State} (h : Canon s)
include h

theorem sWrite_canon (p : Party) (a n v : Nat) : Yields Canon (s.sWrite p a n v) := by
  unfold State.sWrite
  refine yields_bind (P := Canon) ?_ fun t ht => yields_pure (by rwa [Canon, sLost_mem])
  intro t e
  unfold liftCause at e
  split at e
  next e' =>
    cases e
    exact writeRange_canon h _ _ _ _ _ e'
  · cases e

theorem putStrm_canon (p : Party) (e : Strm) (fs : List (Nat × Nat)) : Yields Canon (s.putStrm p e fs) :=
  yields_foldlM (fun _ _ ht => sWrite_canon ht _ _ _ _) _ h

theorem sCopy_canon (p : Party) (src dst n : Nat) : Yields Canon (s.sCopy p src dst n) := by
  refine yields_foldlM (fun t q ht => ?_) _ h
  refine yields_after fun x => yields_after fun y => yields_pure ?_
  have copied : ∀ bs lost, Canon ((t.storeHome p.core y bs false).sLost p lost) := fun bs lost => by
    rw [Canon, sLost_mem]
    exact storeHome_wf ht _ _ _ _
  split
  · rw [Canon, State.poisonLine_mem]
    exact copied _ _
  · exact copied _ _

theorem addCount_canon (p : Party) (e : Strm) (n : Nat) (d : Nat → Nat) : Yields Canon (s.addCount p e n d) :=
  yields_after fun _ => sWrite_canon h _ _ _ _

theorem freshPages_canon (part : Nat) (e : Strm) (n : Nat) : Yields CanonFst (s.freshPages part e n) := by
  induction n generalizing s with
  | zero => exact yields_pure h
  | succ n ih =>
    unfold State.freshPages
    dsimp only
    split
    · exact yields_error
    split
    · exact yields_error
    next e' => exact yields_bind (ih (takeItem_state h e')) fun r hr => yields_pure hr

theorem giveBack_canon (part qn : Nat) : Canon (s.giveBack part qn) := by
  refine canon_of_forall fun P hP => ?_
  unfold State.giveBack
  dsimp only
  split
  · exact hP _ h
  refine hP _ (foldl_canon (fun _ _ ht => append_canon ht _ _ _) _ (foldl_fst_canon (fun r _ hr => ?_) _ h))
  split
  next e => exact takeItem_state hr e
  next e => exact takeItem_state hr e

theorem usePage_canon (p : Party) (e : Strm) (j : Nat) (need : PageNeed) (n : Nat) :
    Yields CanonFst (s.usePage p e j need n) := by
  cases need with
  | ready => exact yields_pure h
  | place =>
    exact yields_bind (sWrite_canon h _ _ _ _) fun _ h1 => yields_bind (sWrite_canon h1 _ _ _ _) fun _ h2 => yields_pure h2
  | copy old =>
    exact yields_bind (sCopy_canon h _ _ _ _) fun _ h1 => yields_bind (sWrite_canon h1 _ _ _ _) fun _ h2 =>
      yields_bind (addCount_canon h2 _ _ _ _) fun _ h3 => yields_bind (sWrite_canon h3 _ _ _ _) fun _ h4 => yields_pure h4

theorem provide_canon (p : Party) (part : Nat) (e : Strm) (js : List Nat) : Yields CanonFst (s.provide p part e js) :=
  yields_after fun _ => yields_bind (freshPages_canon h _ _ _) fun _ h1 =>
    yields_foldlM (fun _ _ ht => usePage_canon ht _ _ _ _ _) _ h1

theorem releasePage_canon (p : Party) (part : Nat) (e : Strm) (j : Nat) : Yields Canon (s.releasePage p part e j) := by
  refine yields_after fun n => ?_
  split
  · exact yields_pure h
  refine yields_after fun c => yields_bind (sWrite_canon h _ _ _ _) fun _ h1 => yields_bind (sWrite_canon h1 _ _ _ _) fun t h2 => ?_
  refine yields_pure ?_
  split
  · exact append_canon h2 _ _ _
  · exact h2

theorem answer_canon (p : Party) (req tok stat : Nat) : Yields Canon (s.answer p req tok stat) := sWrite_canon h _ _ _ _

/-- GSMPL (R360): the request is refused, or the token is drawn, its page provided and the entry's fields written. -/
theorem gsmpl_canon (k : CoreId) (n req : Nat) (late : Option Nat) : Yields Canon (s.gsmpl k n req late) := by
  refine yields_after fun e => yields_after fun r => yields_after fun _ => ?_
  split
  · exact yields_bind (putStrm_canon h _ _ _) fun _ h1 => answer_canon h1 _ _ _ _
  refine yields_after fun _ => yields_after fun x => yields_after fun o => ?_
  split
  · exact yields_error
  · exact yields_bind (provide_canon h _ _ _ _) fun _ h1 => yields_bind (sWrite_canon h1 _ _ _ _) fun _ h2 =>
      yields_bind (putStrm_canon h2 _ _ _) fun _ h3 => answer_canon h3 _ _ _ _

/-- GFORK (R366): the parent's pages are shared with the child, its history and recurrent state copied, the child's entry written. -/
theorem gfork_canon (k : CoreId) (n sb : Nat) : Yields Canon (s.gfork k n sb) := by
  refine yields_after fun e => yields_after fun _ => yields_after fun d => yields_after fun _ => yields_unless fun _ => ?_
  refine yields_bind (yields_foldlM (fun t j ht => yields_after fun pg => yields_bind (sWrite_canon ht _ _ _ _) fun u hu => ?_) _ h)
    fun _ h1 => yields_bind (sCopy_canon h1 _ _ _ _) fun t h2 => ?_
  · split
    · exact yields_pure hu
    · exact addCount_canon hu _ _ _ _
  extract_lets child last rest
  have written : ∀ t, Canon t → Yields Canon (last t) := fun _ ht => putStrm_canon ht _ _ _
  have restored : ∀ t, Canon t → Yields Canon (rest t) := by
    intro t ht
    unfold rest
    split
    · exact yields_bind (yields_pure ht) written
    · exact yields_bind (sCopy_canon ht _ _ _ _) written
  split
  · exact yields_bind (yields_pure h2) restored
  · exact yields_bind (sCopy_canon h2 _ _ _ _) restored

/-- GTRUNC (R368): the kept pages are provided, the others released, a snapshot restored and the entry written. -/
theorem gtrunc_canon (k : CoreId) (n sb : Nat) : Yields Canon (s.gtrunc k n sb) := by
  refine yields_after fun e => yields_after fun _ => yields_unless fun _ => ?_
  refine yields_after fun live => yields_bind (provide_canon h _ _ _ _) fun r h1 => ?_
  refine yields_bind (yields_foldlM (fun _ _ ht => releasePage_canon ht _ _ _ _) _ h1) fun t h2 => ?_
  extract_lets e1 e2 last
  have written : ∀ t, Canon t → Yields Canon (last t) := fun _ ht => putStrm_canon ht _ _ _
  split
  · exact yields_bind (sCopy_canon h2 _ _ _ _) written
  · exact yields_bind (yields_pure h2) written

/-- GCUR (R367). -/
theorem gcur_canon (k : CoreId) (n cursor : Nat) : Yields Canon (s.gcur k n cursor) :=
  yields_after fun _ => yields_after fun _ => yields_unless fun _ => putStrm_canon h _ _ _

/-- GINS (R367): the pages of the inserted tokens are provided, the tokens and the entry written. -/
theorem gins_canon (k : CoreId) (n blk : Nat) : Yields Canon (s.gins k n blk) :=
  yields_after fun _ => yields_after fun _ => yields_after fun _ => yields_after fun _ => yields_after fun _ =>
    yields_bind (provide_canon h _ _ _ _) fun _ h1 =>
      yields_bind (yields_foldlM (fun _ _ ht => sWrite_canon ht _ _ _ _) _ h1) fun _ h2 => putStrm_canon h2 _ _ _

/-- GSNAP (R367). -/
theorem gsnap_canon (k : CoreId) (n : Nat) : Yields Canon (s.gsnap k n) :=
  yields_after fun _ => yields_after fun _ => yields_bind (sCopy_canon h _ _ _ _) fun _ h1 => putStrm_canon h1 _ _ _

end Sys2Proof.Proofs

end

/-! O56, the work of a stream form and the launches. -/
section

namespace Sys2Proof.Proofs
open Sys2Proof.Machine Sys2Proof.Laws

/-- How a form that is not in boxes goes leaves memory canonical. -/
def CanonWork : Work → Prop
  | .done s => Canon s
  | .wait s => Canon s
  | .fault s _ => Canon s

variable {s : State} (h : Canon s)
include h

theorem setLock_canon (k : CoreId) (n : Nat) (b : Bool) : Canon (s.setLock k n b) := by
  unfold State.setLock
  split
  · split
    next e => exact putStrm_canon h _ _ _ _ e
    next => exact h
  · exact h

theorem streamWork_canon (r : TaskRef) (m : Cmd) (late : Option Nat) : CanonWork (s.streamWork r m late) := by
  unfold State.streamWork
  extract_lets k n mine t out
  split
  · exact h
  have unlocked : Canon t := by
    unfold t
    split
    · exact setLock_canon h _ _ _
    · exact h
  have performed : Yields Canon out := by
    unfold out
    split
    · exact gsmpl_canon unlocked _ _ _ _
    · exact gfork_canon unlocked _ _ _
    · exact gtrunc_canon unlocked _ _ _
    · exact gins_canon unlocked _ _ _
    · exact gsnap_canon unlocked _ _
  clear_value t out
  cases out with
  | ok u => exact performed u rfl
  | error e =>
    cases e with
    | locked => exact unlocked
    | notReady dl => exact putCmd_canon (setLock_canon unlocked _ _ _) _ _
    | pool =>
      change Canon (match t.strm k n with
        | .ok e => t.giveBack (t.partOf (clusterOf k)) (e.f 48 2)
        | .error _ => t)
      split
      · exact giveBack_canon unlocked _ _
      · exact unlocked
    | cause c =>
      change Canon (if c = .maskLate then
        (match t.answer (t.samplerParty k) m.opB.toNat noPos 2 with | .ok u => u | .error _ => t)
        else t)
      split
      · split
        next e => exact answer_canon unlocked _ _ _ _ _ e
        next => exact unlocked
      · exact unlocked

theorem readTemplate_canon (l : Launch) : Canon (s.readTemplate l) := by
  unfold State.readTemplate
  grind [queueErr_canon, setLaunch_mem, State.dropLaunch_mem]

theorem pushIndices_canon (l : Launch) (c : Chunk) (n : Nat) : Canon (s.pushIndices l c n).1 := by
  induction n generalizing s c with
  | zero => exact h
  | succ n ih =>
    refine canon_of_forall fun P hP => ?_
    unfold State.pushIndices
    dsimp only
    split
    · exact hP _ h
    · exact hP _ (ih (append_canon h _ _ _) _)

theorem pushChunks_canon (l : Launch) (busy : List Nat) (cs : List Chunk) : Canon (s.pushChunks l busy cs).1 := by
  induction cs generalizing s busy with
  | nil => exact h
  | cons c cs ih =>
    refine canon_of_forall fun P hP => ?_
    unfold State.pushChunks
    dsimp only
    split
    · exact hP _ (ih h _)
    · exact hP _ (ih (pushIndices_canon h _ _ _) _)

theorem execDistributorPushChunk_canon (id : Nat) : CanonNext (execDistributorPushChunk id s) := by
  unfold execDistributorPushChunk
  grind [pushChunks_canon, setLaunch_mem, readTemplate_canon, CanonNext]

theorem setChunkBit_canon (l : Launch) (c : Chunk) : Canon (s.setChunkBit l c) := by
  unfold State.setChunkBit
  grind [putCmd_canon, settle_canon, setLaunch_mem, storeHome_wf]

theorem execChunkComplete_canon (id chunk : Nat) : CanonNext (execChunkComplete id chunk s) := by
  unfold execChunkComplete
  grind [setChunkBit_canon, CanonNext]

theorem settleLaunch_canon (v : Nat) (homed : Bool) (l : Launch) : Canon (s.settleLaunch v homed l) := by
  unfold State.settleLaunch
  grind [setLaunch_mem, putCmd_canon]

theorem execCqtailDoorbell_canon (vf : Nat) (val : Word) : CanonNext (execCqtailDoorbell vf val s) := by
  unfold execCqtailDoorbell
  grind [State.setVf_mem, CanonNext]

theorem execCpheadWrite_canon (vf : Nat) (val : Word) : CanonNext (execCpheadWrite vf val s) := by
  unfold execCpheadWrite
  grind [State.setVf_mem, CanonNext]

theorem execRingEnable_canon (vf : Nat) (comp : Bool) : CanonNext (execRingEnable vf comp s) := by
  unfold execRingEnable
  grind [State.setVf_mem, CanonNext]

theorem pushOutside_canon (part qn wld : Nat) (r : BitVec 512) (a : Nat) : Canon (s.pushOutside part qn wld r a).1 := by
  refine canon_of_forall fun P hP => ?_
  unfold State.pushOutside
  split
  · exact hP _ h
  split
  · exact hP _ h
  split
  · exact hP _ h
  split
  · exact hP _ (queueErr_canon h _ _ _ _)
  split
  · exact hP _ h
  split
  next e => exact hP _ (append_state h e)
  next e => exact hP _ (append_state h e)

theorem execPushRecord_canon (vf : Nat) : CanonNext (execPushRecord vf s) := by
  unfold execPushRecord
  change Canon _
  split
  · exact h
  extract_lets v part
  split
  · exact h
  split
  · exact h
  split
  · exact h
  rw [Canon, complete_mem]
  exact pushOutside_canon h _ _ _ _ _

theorem execPushItem_canon (vf : Nat) : CanonNext (execPushItem vf s) := by
  unfold execPushItem
  change Canon _
  split
  · exact h
  dsimp only
  split
  · exact h
  split
  · rwa [Canon, complete_mem]
  split
  · rwa [Canon, complete_mem]
  split
  · rwa [Canon, complete_mem]
  split
  all_goals
    next e =>
      rw [Canon, complete_mem]
      exact append_state h e

theorem execGorqueLaunchPacket_canon (vat smod wld qn : Nat) (rec' : BitVec 512) :
    CanonNext (execGorqueLaunchPacket vat smod wld qn rec' s) := by
  unfold execGorqueLaunchPacket
  grind [pushOutside_canon, State.setVat_mem, CanonNext]

end Sys2Proof.Proofs

end

/-! O56, the journal, the commands and the waits. -/
section

namespace Sys2Proof.Proofs
open Sys2Proof.Machine Sys2Proof.Laws

variable {s : State} (h : Canon s)
include h

theorem journalEnd_canon (k : CoreId) (r : TaskRef) (m : Cmd) : Canon (s.journalEnd k r m) := by
  unfold State.journalEnd
  grind [putCmd_canon, State.tickFree_mem, onWs_mem]

theorem journalStep_canon (k : CoreId) (r : TaskRef) (m : Cmd) : Canon (s.journalStep k r m) := by
  unfold State.journalStep
  grind [journalEnd_canon, putCmd_canon, onWs_mem, applyStep_mem, stageStep_mem]

theorem journalWork_canon (r : TaskRef) (m : Cmd) : Canon (s.journalWork r m) := by
  unfold State.journalWork
  grind [putCmd_canon, journalStep_canon]

theorem execWjaApply_canon (k : CoreId) : CanonNext (execWjaApply k s) := by
  unfold execWjaApply
  grind [journalStep_canon, onWs_mem, CanonNext]

theorem execRollForwardRetry_canon (k : CoreId) : CanonNext (execRollForwardRetry k s) := by
  unfold execRollForwardRetry
  grind [rollForward_mem, CanonNext]

theorem securityWork_canon (r : TaskRef) (m : Cmd) : Canon (s.securityWork r m) := by
  unfold State.securityWork
  grind [putCmd_canon, State.setCore_mem]

omit h in
theorem taken_canon {w : Work} (hw : CanonWork w) (r : TaskRef) (m : Cmd) (seen : List Nat) (o : Machine.Ordering) :
    Canon (w.taken r m seen o) := by
  have lost : ∀ {t : State}, Canon t → Canon (t.setLost m.core o) := fun ht => by rwa [Canon, setLost_mem]
  cases w with
  | done t => exact putCmd_canon (lost hw) _ _
  | wait t => exact lost hw
  | fault t f => exact putCmd_canon (lost hw) _ _

theorem streamTurn_canon (r : TaskRef) (m : Cmd) (late : Option Nat) : Canon (s.streamTurn r m late) := by
  unfold State.streamTurn
  split
  · exact h
  split
  · exact h
  · exact taken_canon (streamWork_canon (by rwa [Canon, setLost_mem]) _ _ _) _ _ _ _

theorem launchWork_canon (r : TaskRef) (m : Cmd) : Canon (s.launchWork r m) := by
  unfold State.launchWork
  grind [putCmd_canon, State.dropLaunch_mem]

theorem commandWork_canon (r : TaskRef) (m : Cmd) : Canon (s.commandWork r m) := by
  unfold State.commandWork
  grind [putCmd_canon, securityWork_canon, journalWork_canon, launchWork_canon, streamTurn_canon]

theorem commandEnd_canon (r : TaskRef) (m : Cmd) : Canon (s.commandEnd r m) := by
  unfold State.commandEnd
  grind [finishCmd_canon, putCmd_canon]

theorem execCommandCompletes_canon (r : TaskRef) (tag : Fin 64) : CanonNext (execCommandCompletes r tag s) := by
  unfold execCommandCompletes
  grind [commandWork_canon, commandEnd_canon, CanonNext]

theorem execMaskDeadlineExpires_canon (k : CoreId) (tag : Fin 64) : CanonNext (execMaskDeadlineExpires k tag s) := by
  unfold execMaskDeadlineExpires
  grind [streamTurn_canon, CanonNext]

theorem gcurWait_canon (k : CoreId) (n cur : Word) : Canon (s.gcurWait k n cur) := by
  unfold State.gcurWait
  extract_lets ends
  have ended : ∀ c, Canon (ends s c) := fun c => by
    unfold ends
    rwa [Canon, failWait_mem]
  split
  · exact h
  split
  next t e =>
    have moved : Canon t := gcur_canon h _ _ _ _ e
    split
    · rwa [Canon, endWait_mem]
    split
    · rwa [Canon, failWait_mem]
    · exact h
  · exact h
  · exact h
  · exact ended _
  · exact ended _

theorem waitHolds_canon (k : CoreId) (w : Wait) : Canon (s.waitHolds k w) := by
  induction w generalizing s with
  | both x y hx hy =>
    unfold State.waitHolds
    rw [Canon, setWait_mem]
    refine hy ?_
    rw [Canon, setWait_mem]
    refine hx ?_
    rwa [Canon, setWait_mem]
  | _ =>
    unfold State.waitHolds
    grind [failWait_mem, endWait_mem, applyPcsel_mem, arrive_mem, gcurWait_canon]

theorem execWaitConditionHolds_canon (k : CoreId) : CanonNext (execWaitConditionHolds k s) := by
  unfold execWaitConditionHolds
  grind [waitHolds_canon, CanonNext]

theorem serveWith_canon {f : State → State} (hf : Canon (f s)) : CanonNext (serveWith f s) := by
  unfold serveWith
  split
  · exact hf
  · exact h

end Sys2Proof.Proofs

end

/-! O56, security, the register pages and the mailbox. -/
section

namespace Sys2Proof.Proofs
open Sys2Proof.Machine Sys2Proof.Laws

variable {s : State} (h : Canon s)
include h

theorem spdmAsk_canon (code conn : Nat) (req : List (BitVec 8)) (lo hi : Nat) {f : State → Conn → State}
    (hf : ∀ t c, Canon t → Canon (f t c)) : Canon (spdmAsk code conn req lo hi f s) := by
  have refused (n : Nat) : Canon (s.spdmError code n) := by rwa [Canon, spdmError_mem]
  unfold spdmAsk
  dsimp only
  split
  · exact refused _
  split
  · exact refused _
  · exact hf _ _ h

theorem execGetVersion_canon (conn : Nat) (req : List (BitVec 8)) : CanonNext (execGetVersion conn req s) := by
  refine serveWith_canon h (spdmAsk_canon h _ _ _ _ _ fun t c ht => ?_)
  grind [State.reply_mem, State.setConn_mem]

theorem execGetCapabilities_canon (conn : Nat) (req : List (BitVec 8)) : CanonNext (execGetCapabilities conn req s) := by
  refine serveWith_canon h (spdmAsk_canon h _ _ _ _ _ fun t c ht => ?_)
  grind [State.reply_mem, State.setConn_mem]

theorem execNegotiateAlgorithms_canon (conn : Nat) (req : List (BitVec 8)) :
    CanonNext (execNegotiateAlgorithms conn req s) := by
  refine serveWith_canon h (spdmAsk_canon h _ _ _ _ _ fun t c ht => ?_)
  grind [State.reply_mem, State.setConn_mem]

theorem execGetCertificate_canon (conn slot off len : Nat) (req : List (BitVec 8)) :
    CanonNext (execGetCertificate conn slot off len req s) := by
  refine serveWith_canon h (spdmAsk_canon h _ _ _ _ _ fun t c ht => ?_)
  grind [State.reply_mem, State.setConn_mem, spdmError_mem]

theorem execChallenge_canon (conn : Nat) (nonce : Option (BitVec 256)) (req : List (BitVec 8)) :
    CanonNext (execChallenge conn nonce req s) := by
  refine serveWith_canon h (spdmAsk_canon h _ _ _ _ _ fun t c ht => ?_)
  grind [State.reply_mem, State.setConn_mem, spdmError_mem]

theorem execGetMeasurements_canon (conn idx : Nat) (sign : Bool) (nonce : Option (BitVec 256)) (req : List (BitVec 8)) :
    CanonNext (execGetMeasurements conn idx sign nonce req s) := by
  refine serveWith_canon h (spdmAsk_canon h _ _ _ _ _ fun t c ht => ?_)
  grind [State.reply_mem, State.setConn_mem, spdmError_mem]

theorem execSpdmUnsupportedRequest_canon (conn : Nat) (req : List (BitVec 8)) :
    CanonNext (execSpdmUnsupportedRequest conn req s) := by
  refine serveWith_canon h ?_
  rwa [Canon, spdmError_mem]

theorem execKeyExchange_canon (conn : Nat) (req : List (BitVec 8)) : CanonNext (execKeyExchange conn req s) := by
  refine serveWith_canon h (spdmAsk_canon h _ _ _ _ _ fun t c ht => ?_)
  grind [State.reply_mem, spdmError_mem]

theorem execFinish_canon (conn ses cert : Nat) (req : List (BitVec 8)) : CanonNext (execFinish conn ses cert req s) := by
  refine serveWith_canon h (spdmAsk_canon h _ _ _ _ _ fun t c ht => ?_)
  grind [State.reply_mem, spdmError_mem]

theorem execEndSession_canon (ses : Nat) : CanonNext (execEndSession ses s) := by
  refine serveWith_canon h ?_
  grind [State.reply_mem, spdmError_mem]

theorem inSession_canon (ses : Nat) {f : State → Session → State} (hf : ∀ t x, Canon t → Canon (f t x)) :
    Canon (inSession ses f s) := by
  unfold inSession
  split
  · exact hf _ _ h
  · rwa [Canon, spdmError_mem]

theorem suspendWorld_canon (w : Nat) : Canon (s.suspendWorld w) := by
  change Canon (s.cores.foldl _ s)
  refine foldl_canon (fun t k ht => ?_) _ h
  split
  · split
    · exact saveTask_canon ht _ _ _
    · exact ht
  · exact ht

theorem execLockInterfaceRequest_canon (ses vf : Nat) : CanonNext (execLockInterfaceRequest ses vf s) := by
  refine serveWith_canon h (inSession_canon h _ fun t x ht => ?_)
  grind [refuse_mem, State.setVf_mem, agree_mem]

theorem execStartInterfaceRequest_canon (ses vf : Nat) (nonce : BitVec 256) :
    CanonNext (execStartInterfaceRequest ses vf nonce s) := by
  refine serveWith_canon h (inSession_canon h _ fun t x ht => ?_)
  grind [refuse_mem, agree_mem, resumeWorld_mem, State.setVf_mem]

theorem execStopInterfaceRequest_canon (ses vf : Nat) : CanonNext (execStopInterfaceRequest ses vf s) := by
  refine serveWith_canon h (inSession_canon h _ fun t x ht => ?_)
  grind [refuse_mem, retireSlots_mem, suspendWorld_canon, agree_mem, State.setVf_mem]

theorem execGetDeviceInterfaceReport_canon (ses vf : Nat) : CanonNext (execGetDeviceInterfaceReport ses vf s) := by
  refine serveWith_canon h (inSession_canon h _ fun t x ht => ?_)
  grind [refuse_mem, agree_mem]

theorem execGetDeviceInterfaceState_canon (ses vf : Nat) : CanonNext (execGetDeviceInterfaceState ses vf s) := by
  refine serveWith_canon h (inSession_canon h _ fun t x ht => ?_)
  rwa [Canon, agree_mem]

theorem tdiError_canon (vf : Nat) : Canon (s.tdiError vf) := by
  unfold State.tdiError
  grind [State.setVf_mem, suspendWorld_canon]

theorem execIdeFailure_canon (vf : Nat) : CanonNext (execIdeFailure vf s) :=
  serveWith_canon h (tdiError_canon h vf)

theorem fromOwner_canon (ses : Nat) {f : State → Session → Nat → State}
    (hf : ∀ t x w, Canon t → Canon (f t x w)) : Canon (fromOwner ses f s) := by
  refine inSession_canon h _ fun t x ht => ?_
  split
  · exact hf _ _ _ ht
  · rwa [Canon, refuse_mem]

theorem execCompCreate_canon (ses : Nat) : CanonNext (execCompCreate ses s) := by
  refine serveWith_canon h (fromOwner_canon h _ fun t x w ht => ?_)
  grind [refuse_mem, agree_mem]

theorem execCompClaim_canon (ses comp : Nat) : CanonNext (execCompClaim ses comp s) := by
  refine serveWith_canon h (fromOwner_canon h _ fun t x w ht => ?_)
  grind [refuse_mem, agree_mem]

theorem execKeyLoad_canon (ses slot kind comp : Nat) (pc : Bool) (key : BitVec 256) :
    CanonNext (execKeyLoad ses slot kind comp pc key s) := by
  refine serveWith_canon h (fromOwner_canon h _ fun t x w ht => ?_)
  grind [refuse_mem, agree_mem, measureTable_mem, State.setKey_mem]

theorem execKeyRetire_canon (ses slot : Nat) : CanonNext (execKeyRetire ses slot s) := by
  refine serveWith_canon h (fromOwner_canon h _ fun t x w ht => ?_)
  grind [refuse_mem, agree_mem, measureTable_mem, State.setKey_mem]

theorem execKeySlotDrained_canon (slot : Nat) : CanonNext (execKeySlotDrained slot s) := by
  unfold execKeySlotDrained
  grind [State.setKey_mem, CanonNext]

theorem execCodeSeal_canon (ses ctx base len : Nat) : CanonNext (execCodeSeal ses ctx base len s) := by
  refine serveWith_canon h (fromOwner_canon h _ fun t x w ht => ?_)
  split
  · split
    · rwa [Canon, refuse_mem]
    · rw [Canon, agree_mem, extend_mem]
      refine foldl_canon (fun u p hu => ?_) _ (by rwa [Canon, State.setKey_mem])
      rw [Canon, dropCopies_mem]
      exact writeLine_wf hu _ _ _
  · rwa [Canon, refuse_mem]

theorem execGrantSet_canon (ses wset : Nat) (ms : List (BitVec 384)) (write : Bool) :
    CanonNext (execGrantSet ses wset ms write s) := by
  refine serveWith_canon h (fromOwner_canon h _ fun t x w ht => ?_)
  split
  · split
    · rwa [Canon, refuse_mem]
    · rw [Canon, agree_mem, measureTable_mem]
      exact foldl_canon (fun u k hu => by rwa [Canon, onWs_mem]) _ ht
  · rwa [Canon, refuse_mem]

theorem execGateSet_canon (ses gate src dst sva slen dva dlen : Nat) :
    CanonNext (execGateSet ses gate src dst sva slen dva dlen s) := by
  refine serveWith_canon h (fromOwner_canon h _ fun t x w ht => ?_)
  grind [refuse_mem, agree_mem, measureTable_mem]

theorem hotReset_canon : Canon (s.hotReset) := by
  unfold State.hotReset
  grind [retireSlots_mem, unlockTdis_mem, eraseSessions_mem, suspendWorlds_canon]

theorem execHotReset_canon (port : Nat) : CanonNext (execHotReset port s) :=
  hotReset_canon h

theorem execLinkDown_canon (port : Nat) : CanonNext (execLinkDown port s) :=
  hotReset_canon h

theorem retargeted_canon (q new : Queue) :
    Canon (if new.vfm ≠ q.vfm then (s.tdiError q.vfm).tdiError new.vfm else s) := by
  split
  · exact tdiError_canon (tdiError_canon h _) _
  · exact h

theorem writeQueue_canon (part off n val : Nat) : Canon (s.writeQueue part off n val) := by
  refine canon_of_forall fun P hP => ?_
  unfold State.writeQueue
  dsimp only
  split
  · exact hP _ h
  split
  · refine hP _ ?_
    rw [Canon, startQueue_mem, State.setQueue_mem]
    exact retargeted_canon h _ _
  · refine hP _ ?_
    rw [Canon, State.setQueue_mem]
    exact retargeted_canon h _ _

theorem execInvalPage_canon (part page ctx : Nat) : CanonNext (execInvalPage part page ctx s) := by
  unfold execInvalPage
  grind [queueInval_mem, CanonNext]

theorem execInvalContext_canon (part ctx : Nat) : CanonNext (execInvalContext part ctx s) := by
  unfold execInvalContext
  grind [queueInval_mem, CanonNext]

theorem execInvalPartition_canon (part : Nat) : CanonNext (execInvalPartition part s) := by
  unfold execInvalPartition
  grind [queueInval_mem, CanonNext]

theorem execInvalidationCompletes_canon (part : Nat) : CanonNext (execInvalidationCompletes part s) := by
  unfold execInvalidationCompletes
  grind [State.setPart_mem, CanonNext]

theorem onSideLog_canon (ctx slot : Nat) (f : LogEntry → LogEntry) : Canon (s.onSideLog ctx slot f) := by
  unfold State.onSideLog
  grind [State.setCore_mem, putLogs_canon]

theorem execSlcmdReplay_canon (ctx slot : Nat) : CanonNext (execSlcmdReplay ctx slot s) := by
  unfold execSlcmdReplay
  grind [onSideLog_canon, CanonNext]

theorem execSlcmdUnreplayable_canon (ctx slot : Nat) : CanonNext (execSlcmdUnreplayable ctx slot s) := by
  unfold execSlcmdUnreplayable
  grind [onSideLog_canon, CanonNext]

theorem execPcselWrite_canon (by' : Requester) (part : Nat) (val : Word) : CanonNext (execPcselWrite by' part val s) := by
  unfold execPcselWrite
  grind [writePcsel_mem, CanonNext]

omit h in
theorem stateOf_canon (h : Canon s) {o : Host.Outcome State Fault Refusal} (ho : CanonNext o) : Canon (stateOf s o) := by
  cases o with
  | next t => exact ho
  | fault f => exact h
  | refused r => exact h

theorem writeCtxReg_canon (by' : Requester) (part at' n v : Nat) : Canon (s.writeCtxReg by' part at' n v) := by
  unfold State.writeCtxReg
  grind [stateOf_canon, execSlcmdReplay_canon, execSlcmdUnreplayable_canon, queueInval_mem, writePcsel_mem, State.setPart_mem]

theorem writePf_canon (off n val : Nat) : Canon (s.writePf off n val) := by
  unfold State.writePf
  grind [dropCopies_mem, writeLine_wf, mbEnd_mem]

theorem pageWrite_canon (by' : Requester) (page : Page) (off n val : Nat) : Canon (s.pageWrite by' page off n val) := by
  unfold State.pageWrite
  grind [writePf_canon, writeQueue_canon, writeCtx_mem, writeCtxReg_canon, writeVfRing_mem, writeUmpire_mem]

theorem execRegisterWrite_canon (by' : Requester) (page : Page) (off n val : Nat) :
    CanonNext (execRegisterWrite by' page off n val s) := by
  unfold execRegisterWrite
  grind [logAccess_mem, pageWrite_canon, CanonNext]

theorem execRegisterRead_canon (by' : Requester) (page : Page) (off : Nat) : CanonNext (execRegisterRead by' page off s) := by
  unfold execRegisterRead
  grind [State.reply_mem, logAccess_mem, CanonNext]

theorem performStore_canon (x : PStore) : Canon (s.performStore x) := by
  unfold State.performStore
  grind [pageWrite_canon, acknowledge_wf]

theorem execStoreAcknowledged_canon (cl n : Nat) : CanonNext (execStoreAcknowledged cl n s) := by
  unfold execStoreAcknowledged
  grind [State.tickFree_mem, invalidateCopy_mem, performStore_canon, CanonNext]

theorem pageAtomic_canon (k : CoreId) (a : Access) (r : State × Nat) (e : s.pageAtomic k a = some r) : Canon r.1 := by
  unfold State.pageAtomic at e
  grind [pageWrite_canon]

theorem execInterlockedResultArrives_canon (k : CoreId) (n : Nat) : CanonNext (execInterlockedResultArrives k n s) := by
  unfold execInterlockedResultArrives
  change Canon _
  split
  · exact h
  split
  · rwa [Canon, deliver_mem]
  · rwa [Canon, deliver_mem, observeTick_mem]
  · rwa [Canon, deliver_mem]
  · split
    · exact globalArrives_canon h _ _ _ _
    split
    next e =>
      rw [Canon, deliver_mem]
      exact pageAtomic_canon h _ _ _ e
    · exact globalArrives_canon h _ _ _ _
  · rwa [Canon, State.setCore_mem, acquire_mem, deliver_mem]
  · exact h
  · exact releasedArrives_canon h _ _ _

theorem execStoreRetiresIntoSideLog_canon (k : CoreId) : CanonNext (execStoreRetiresIntoSideLog k s) := by
  unfold execStoreRetiresIntoSideLog
  change Canon _
  split
  · exact h
  next a rest _ =>
    split
    · exact h
    have ht : Canon (s.setCore { s.core k with stq := rest }) := by rwa [Canon, State.setCore_mem]
    dsimp only
    split
    next r e => exact pageAtomic_canon ht _ _ _ (Option.ite_none_right_eq_some.mp e).2
    · exact retireStore_canon ht _ _

theorem replayCore_canon (k : CoreId) (n : Nat) : Canon (s.replayCore k n) := by
  unfold State.replayCore
  dsimp only
  split
  · exact h
  split
  · exact h
  split
  next r e =>
    rw [Canon, replayed_mem]
    exact pageAtomic_canon h _ _ _ e
  split
  next t v e =>
    rw [Canon, replayed_mem]
    exact tryGlobal_done h e
  · rw [Canon, State.setCore_mem]
    split
    · exact postSide_canon h _ _ _ _
    · exact h
  · exact h

theorem execSideLogReplay_canon (r : TaskRef) (n : Nat) : CanonNext (execSideLogReplay r n s) := by
  unfold execSideLogReplay
  grind [replayCore_canon, replaySlot_canon, CanonNext]

theorem mailbox_canon (code : Nat) (refused : State → Bool) {f : State → State} (hf : Canon (f s)) :
    CanonNext (mailbox code refused f s) := by
  unfold mailbox
  change Canon _
  grind [mbEnd_mem]

theorem execPartCreate_canon : CanonNext (execPartCreate s) :=
  mailbox_canon h _ _ (foldl_canon (fun t cl ht => by rwa [Canon, State.setCluster_mem]) _ (by rwa [Canon, State.setPart_mem]))

theorem execPartDestroy_canon : CanonNext (execPartDestroy s) :=
  mailbox_canon h _ _ h

theorem execVfAssign_canon : CanonNext (execVfAssign s) :=
  mailbox_canon h _ _ (by rwa [Canon, State.setVf_mem])

theorem execCtxAssign_canon : CanonNext (execCtxAssign s) :=
  mailbox_canon h _ _ (by rwa [Canon, State.setCtx_mem])

theorem endLost_canon (k : CoreId) (f : Cause) (info : Nat) : Canon (s.endLost k f info) := by
  unfold State.endLost
  grind [postItem_mem, State.setCore_mem, dropWaiters_mem, slotPoke_canon]

theorem stopCluster_canon (cl : Nat) (f : Cause) (info : Nat) : Canon (s.stopCluster cl f info) := by
  unfold State.stopCluster
  rw [Canon, State.setCluster_mem, State.setCore_mem]
  exact foldl_canon (fun t k ht => endLost_canon ht _ _ _) _ h

end Sys2Proof.Proofs

end

/-! O56, fences, power, errors and repairs. -/
section

namespace Sys2Proof.Proofs
open Sys2Proof.Machine Sys2Proof.Laws

variable {s : State} (h : Canon s)
include h

theorem fenceUmpire_canon (v : Nat) : Canon (s.fenceUmpire v) := by
  unfold State.fenceUmpire
  grind [takeover_canon]

theorem fenceVat_canon (v : Nat) : Canon (s.fenceVat v) := by
  unfold State.fenceVat
  split
  · exact h
  refine fenceUmpire_canon (foldl_canon (fun t e ht => ?_) _ ?_) v
  · split
    · rwa [Canon, logEvent_mem, State.setPart_mem]
    · exact ht
  rw [Canon, logEvent_mem]
  refine foldl_canon (fun t l ht => settleLaunch_canon ht _ _ _) _ ?_
  refine foldl_canon (fun t e ht => stopQueue_canon ht _ _ _ _) _ ?_
  refine foldl_canon (fun t cl ht => stopCluster_canon ht _ _ _) _ ?_
  rwa [Canon, State.setVat_mem, loseStores_mem]

theorem execVatFence_canon : CanonNext (execVatFence s) :=
  mailbox_canon h _ _ (fenceVat_canon h _)

theorem readmitVat_canon (v : Nat) : Canon (s.readmitVat v) := by
  unfold State.readmitVat
  refine foldl_canon (fun t e ht => ?_) _ (foldl_canon (fun t cl ht => ?_) _ ?_)
  · split
    · rwa [Canon, State.setPart_mem]
    · exact ht
  · exact foldl_canon (fun u k hu => by rwa [Canon, State.setCore_mem]) _ (by rwa [Canon, State.setCluster_mem])
  · rw [Canon, State.setVat_mem]
    exact wf_filter _ h

theorem execVatReadmit_canon : CanonNext (execVatReadmit s) :=
  mailbox_canon h _ _ (readmitVat_canon h _)

theorem execDeepOffEnter_canon : CanonNext (execDeepOffEnter s) := by
  unfold execDeepOffEnter
  split
  · exact mailbox_canon h _ _ h
  · exact h

theorem execDeepOffLeave_canon : CanonNext (execDeepOffLeave s) := by
  unfold execDeepOffLeave
  split
  · exact mailbox_canon h _ _ h
  · exact h

theorem execGovernorPeriod_canon (draw : Nat) (draws overrun : List (Nat × Nat)) (short : List (Nat × Nat × Nat)) :
    CanonNext (execGovernorPeriod draw draws overrun short s) := by
  unfold execGovernorPeriod
  change Canon _
  refine foldl_canon (fun t x ht => by rwa [Canon, logEvent_mem]) _ ?_
  rw [Canon, State.tickFree_mem]
  refine foldl_canon (fun t d ht => by rwa [Canon, setDwell_mem]) _ ?_
  rwa [Canon, allotClusters_mem]

theorem execDarkDwellExpires_canon (k : CoreId) : CanonNext (execDarkDwellExpires k s) := by
  unfold execDarkDwellExpires
  grind [State.setCore_mem, CanonNext]

theorem execClusterDark_canon (cl : Nat) : CanonNext (execClusterDark cl s) := by
  unfold execClusterDark
  change Canon _
  dsimp only
  split
  · exact h
  · rw [Canon, State.setCluster_mem]
    refine foldl_canon (fun t l ht => by rwa [Canon, dropCopies_mem]) _ ?_
    exact foldl_canon (fun t x ht => performStore_canon ht x) _ h

theorem execClusterWake_canon (cl : Nat) : CanonNext (execClusterWake cl s) := by
  unfold execClusterWake
  grind [State.setCluster_mem, CanonNext]

omit h in
theorem execPowerLoss_canon (s : State) : CanonNext (execPowerLoss s) := reset_mem_wf

theorem execColdBoot_canon : CanonNext (execColdBoot s) := by
  unfold execColdBoot
  grind [scanStep_mem, bootGoesOn_mem, bootBegin_mem, CanonNext]

theorem execImageDelivery_canon (n : Nat) : CanonNext (execImageDelivery n s) := by
  obtain ⟨write, hw, written⟩ := slotWrite_opaque
  unfold execImageDelivery
  rw [hw]
  change Canon _
  split
  · exact h
  dsimp only
  split
  · exact h
  split
  · exact h
  split
  next u e => exact takeItem_state h e
  next u slot e =>
    split
    · exact takeItem_state h e
    next v ev =>
      have hv : Canon v := written (takeItem_state h e) _ _ _ ev
      rw [Canon, postSup_mem]
      exact hv

theorem execPartitionCoreResume_canon (cl : Nat) : CanonNext (execPartitionCoreResume cl s) := by
  unfold execPartitionCoreResume
  grind [State.setCore_mem, State.setCluster_mem, CanonNext]

theorem execUncorrectableError_canon (site : ErrorSite) : CanonNext (execUncorrectableError site s) := by
  unfold execUncorrectableError
  grind [logEvent_mem, State.poisonLine_mem, State.setCore_mem, onWs_mem, retireCore_mem,
    endLost_canon, takeover_canon, stopCluster_canon, fenceVat_canon, CanonNext]

theorem execHeartbeatCheck_canon (alive : Bool) : CanonNext (execHeartbeatCheck alive s) := by
  unfold execHeartbeatCheck
  grind [takeover_canon, CanonNext]

theorem recordRepair_canon (ty ver body : Nat) {effect : State → State} (he : ∀ t, (effect t).mem = t.mem) :
    Canon (s.recordRepair ty ver body effect) := by
  rwa [Canon, State.recordRepair, putRecord_mem _ _ _ he]

theorem execRepairRecord_canon (r : Repair) : CanonNext (execRepairRecord r s) := by
  have ht : Canon s.disableFlagged := by rwa [Canon, disableFlagged_mem]
  cases r with
  | spares k seg ver =>
    unfold execRepairRecord
    change Canon _
    dsimp only
    split
    · exact ht
    · exact recordRepair_canon ht _ _ _ fun t => onWs_mem _ _ _
  | disableEngine k slot ver =>
    unfold execRepairRecord
    change Canon _
    dsimp only
    split
    · exact ht
    · exact recordRepair_canon ht _ _ _ fun t => disableEngine_mem _ _ _
  | disableCore k ver => exact recordRepair_canon ht _ _ _ fun t => State.setCore_mem _ _
  | readmit v ver =>
    unfold execRepairRecord
    change Canon _
    dsimp only
    split
    · exact recordRepair_canon ht _ _ _ fun t => State.setVat_mem _ _ _
    · exact ht
  | record ty ver len body sign whole =>
    unfold execRepairRecord
    change Canon _
    dsimp only
    rwa [Canon, putRecord_mem _ _ _ (effect := id) fun _ => rfl]

theorem execGorquePortLinkFailure_canon (port : Nat) : CanonNext (execGorquePortLinkFailure port s) := by
  unfold execGorquePortLinkFailure
  grind [CanonNext]

theorem execRowRefreshManagement_canon (vat bank row : Nat) : CanonNext (execRowRefreshManagement vat bank row s) := by
  unfold execRowRefreshManagement
  grind [State.setVat_mem, CanonNext]

theorem execActivationWindow_canon (vat : Nat) : CanonNext (execActivationWindow vat s) := by
  unfold execActivationWindow
  grind [State.setVat_mem, CanonNext]

theorem execHbmTemperatureChange_canon (vat celsius : Nat) : CanonNext (execHbmTemperatureChange vat celsius s) := by
  unfold execHbmTemperatureChange
  grind [State.setVat_mem, fenceVat_canon, CanonNext]

theorem execRhcfgWrite_canon (vat : Nat) (val : Word) : CanonNext (execRhcfgWrite vat val s) := by
  unfold execRhcfgWrite
  grind [State.setVat_mem, CanonNext]

theorem answerReceipt_canon (r : Receipt) : Canon (s.answerReceipt r) := by
  unfold State.answerReceipt
  extract_lets p stat
  have told {t : State} (ht : Canon t) (n : Nat) : Canon (stat t n) := by
    unfold stat
    split
    next u e => exact writeRange_canon ht _ _ _ _ _ e
    · exact ht
  split
  · split
    · exact told h _
    · exact h
  dsimp only
  split
  · exact told h _
  split
  · exact told h _
  split
  next u e =>
    have hu : Canon u := writeRange_canon (by rwa [Canon, observeTick_mem]) _ _ _ _ _ e
    exact told (by rwa [Canon, logEntry_mem]) _
  · rwa [Canon, observeTick_mem]

theorem execReceiptRequest_canon (part : Nat) : CanonNext (execReceiptRequest part s) := by
  unfold execReceiptRequest
  grind [serveWith_canon, answerReceipt_canon, takeItem_canon, CanonNext]

end Sys2Proof.Proofs

end

/-! O56, the X words, each through the combinators that prepare it. -/
section

namespace Sys2Proof.Proofs
open Sys2Proof.Machine Sys2Proof.Laws

/-- The preparation of an X word leaves memory canonical. -/
abbrev CanonPrep (p : Prep) : Prop := ∀ t, Canon t → CanonIssue (p t)

theorem localOperand_canon (off n align : Nat) {k : Nat → Prep} (hk : ∀ d, CanonPrep (k d)) :
    CanonPrep (localOperand off n align k) := by
  intro t ht
  unfold localOperand
  split
  · trivial
  split
  · trivial
  split
  · trivial
  split
  · exact ht
  split
  · trivial
  · exact hk _ t ht

theorem require_canon (b : Bool) {k : Prep} (hk : CanonPrep k) : CanonPrep (require b k) := by
  intro t ht
  unfold require
  split
  · exact hk t ht
  · trivial

theorem globalOperand_canon (a : Nat) {k : Prep} (hk : CanonPrep k) : CanonPrep (globalOperand a k) := by
  intro t ht
  unfold globalOperand
  split
  · trivial
  · exact hk t ht

theorem cmdStart_canon (x : Xc) {k : Prep} (hk : CanonPrep k) : CanonPrep (cmdStart x k) := by
  intro t ht
  unfold cmdStart
  split
  · trivial
  · exact hk t ht

theorem addCmd_canon (m : Cmd) : CanonPrep (addCmd m) := fun _ ht => ht

theorem localRows_canon (rows : List Nat) (len : Nat) {k : Prep} (hk : CanonPrep k) : CanonPrep (localRows rows len k) := by
  intro t ht
  unfold localRows
  split
  · trivial
  split
  · exact ht
  · exact hk t ht

theorem copyIssue_canon (m : Cmd) : CanonPrep (copyIssue m) := by
  intro t ht
  unfold copyIssue
  split
  · trivial
  · exact localRows_canon _ _ (addCmd_canon _) t ht

/-- A descriptor in the scratchpad that is checked and then acted upon, behind the checks of a command. -/
theorem command_canon (x : Xc) (off : Nat) {ok : Nat → Bool} {k : Nat → Prep} (hk : ∀ d, CanonPrep (k d)) :
    CanonPrep (cmdStart x (localOperand off 64 64 fun d => require (ok d) (k d))) :=
  cmdStart_canon x (localOperand_canon _ _ _ fun d => require_canon _ (hk d))

theorem rowIndexIssue_canon (i : Instr) (a b : Reg) (x : Xc) (s : State) : CanonPrep (rowIndexIssue i a b x s) :=
  command_canon x _ fun _ => localOperand_canon _ _ _ fun _ => copyIssue_canon _

theorem xwinBody_canon (r ga : Word) (drop : Bool) : CanonPrep (xwinBody r ga drop) := by
  intro t ht
  unfold xwinBody
  split
  · split
    · trivial
    split
    · exact ht
    · exact ht
  · split
    · trivial
    · exact ht

theorem xwbBody_canon (i : Instr) (r : Word) (x : Xc) : CanonPrep (xwbBody i r x) := by
  refine cmdStart_canon x fun t ht => ?_
  split
  · trivial
  · exact ht

theorem xinvBody_canon (i : Instr) (r : Word) (x : Xc) : CanonPrep (xinvBody i r x) := by
  refine cmdStart_canon x fun t ht => ?_
  split
  · trivial
  · exact ht

theorem xcanBody_canon (mask : Word) : CanonPrep (xcanBody mask) := fun _ ht =>
  foldl_canon (fun _ _ hu => foldl_canon (fun _ _ hv => dropCmd_canon hv _ _) _ hu) _ ht

theorem secIssue_canon (m : Cmd) (ok : Bool) : CanonPrep (secIssue m ok) := by
  refine require_canon _ fun t ht => ?_
  dsimp only
  split
  · trivial
  split
  · exact ht
  · exact addCmd_canon m t ht

theorem streamIssue_canon (i : Instr) (x : Xc) (a b : Word) (align : Nat) : CanonPrep (streamIssue i x a b align) := by
  refine cmdStart_canon x fun t ht => ?_
  split
  · trivial
  split
  · trivial
  · exact ht

theorem launchIssue_canon (m : Cmd) : CanonPrep (launchIssue m) := fun _ ht => ht

variable {s : State} (h : Canon s)
include h

theorem execXcp_canon (a : Reg) (x : Xc) : CanonNext (execXcp a x s) :=
  slotExec_canon h _ _ (command_canon x _ (fun _ => copyIssue_canon _) s h)

theorem execXcph_canon (a b : Reg) (x : Xc) : CanonNext (execXcph a b x s) := by
  refine slotExec_canon h _ _ (command_canon x _ (fun d t ht => ?_) s h)
  split
  · trivial
  · exact copyIssue_canon _ t ht

theorem execXmc_canon (a b : Reg) (x : Xc) : CanonNext (execXmc a b x s) :=
  slotExec_canon h _ _ (command_canon x _ (fun _ => localOperand_canon _ _ _ fun _ => require_canon _ (copyIssue_canon _)) s h)

theorem execXgate_canon (a : Reg) (x : Xc) : CanonNext (execXgate a x s) := by
  refine slotExec_canon h _ _
    (command_canon x _ (fun d => globalOperand_canon _ (globalOperand_canon _ fun t ht => ?_)) s h)
  split
  · exact copyIssue_canon _ t ht
  · trivial

theorem execXhash_canon (a : Reg) (x : Xc) : CanonNext (execXhash a x s) :=
  slotExec_canon h _ _ (cmdStart_canon x (localOperand_canon _ _ _ fun _ => secIssue_canon _ _) s h)

theorem execXsign_canon (a : Reg) (x : Xc) : CanonNext (execXsign a x s) :=
  slotExec_canon h _ _ (cmdStart_canon x (localOperand_canon _ _ _ fun _ => secIssue_canon _ _) s h)

theorem execXvfy_canon (a : Reg) (x : Xc) : CanonNext (execXvfy a x s) :=
  slotExec_canon h _ _ (cmdStart_canon x (localOperand_canon _ _ _ fun _ => secIssue_canon _ _) s h)

theorem execXhint_canon (a b : Reg) : CanonNext (execXhint a b s) := by
  refine slotExec_canon h _ _
    (require_canon _ (localOperand_canon _ _ _ fun _ => require_canon _ fun t ht => ?_) s h)
  exact evalHints_canon ht t.c

theorem execXpwr_canon (a : Reg) : CanonNext (execXpwr a s) :=
  slotExec_canon h _ _ (require_canon (k := .ok) _ (fun _ ht => ht) s h)

theorem execXevt_canon (a : Reg) (code : BitVec 8) : CanonNext (execXevt a code s) := by
  refine slotExec_canon h _ _ ?_
  split
  · trivial
  · exact h

theorem execQenq_canon (p : PReg) (a b : Reg) : CanonNext (execQenq p a b s) := by
  refine slotExec_canon h _ _ ?_
  split
  · trivial
  · exact h

theorem execQdeq_canon (d a : Reg) : CanonNext (execQdeq d a s) := by
  refine slotExec_canon h _ _ ?_
  dsimp only
  split
  · trivial
  · exact h

theorem execTqpush_canon (p : PReg) (a b : Reg) : CanonNext (execTqpush p a b s) := by
  unfold execTqpush
  refine slotExec_canon h _ _ ?_
  dsimp only
  split
  · trivial
  · refine localOperand_canon _ _ _ (fun v t ht => ?_) s h
    split
    · trivial
    · exact ht

theorem execLaunch_canon (a : Reg) (x : Xc) : CanonNext (execLaunch a x s) := by
  refine slotExec_canon h _ _
    (command_canon x _ (fun d => globalOperand_canon _ (globalOperand_canon _ fun t ht => ?_)) s h)
  split
  · exact launchIssue_canon _ t ht
  · trivial

theorem execWjw_canon (a : Reg) (x : Xc) : CanonNext (execWjw a x s) := by
  refine slotExec_canon h _ _ (command_canon x _ (fun d t ht => ?_) s h)
  dsimp only
  split
  · trivial
  split
  · trivial
  split
  · exact ht
  · exact addCmd_canon _ t ht

theorem execWjc_canon (a : Reg) (x : Xc) : CanonNext (execWjc a x s) := by
  refine slotExec_canon h _ _ (command_canon x _ (fun d t ht => ?_) s h)
  split
  · exact addCmd_canon _ t ht
  · trivial

theorem execWja_canon (a : Reg) (x : Xc) : CanonNext (execWja a x s) :=
  slotExec_canon h _ _ (command_canon x _ (fun _ => addCmd_canon _) s h)

theorem execWjd_canon (a : Reg) (x : Xc) : CanonNext (execWjd a x s) :=
  slotExec_canon h _ _ (command_canon x _ (fun _ => addCmd_canon _) s h)

theorem execWwear_canon (d a : Reg) : CanonNext (execWwear d a s) := by
  refine slotExec_canon h _ _ ?_
  dsimp only
  split
  · trivial
  · exact h

theorem execVtoq_canon (a b : Reg) (t : IntTy) : CanonNext (execVtoq a b t s) := by
  refine slotExec_canon h _ _ ?_
  dsimp only
  split
  · trivial
  · exact h

theorem execMpoly_canon (t a : TileNo) (g : Fin 8) : CanonNext (execMpoly t a g s) := by
  refine slotExec_canon h _ _ ?_
  split
  · trivial
  · exact plainArray_canon h _ _ _

theorem execMiter_canon (t a : TileNo) (m : Bool) : CanonNext (execMiter t a m s) := by
  refine slotExec_canon h _ _ ?_
  split
  · trivial
  · exact plainArray_canon h _ _ _

end Sys2Proof.Proofs

end

/-! O56, every instruction and every event. -/
section

namespace Sys2Proof.Proofs
open Sys2Proof.Machine Sys2Proof.Laws

/-- Every instruction and every event keeps memory canonical. -/
theorem exec_canon {s : State} (h : Canon s) (i : Instr) : CanonNext (exec i s) := by
  unfold exec
  cases i with
  | nop | wtall | wtany | ldvx | stvx => exact slotExec_canon h _ _ h
  | stall | brScalar | brPredicate | j | call | lbrk | tend | tyield | trap | tffr | tclr | fence | qpop | sync
  | add | sub | addi | movi | movhi | mul | mulhi | mulhn | div | divn | rem | remn | and | or | xor | andn | andi
  | ori | xori | shl | shrl | shra | shli | shrli | shrai | clz | ctz | popc | min | max | minn | maxn | sel | cmp
  | cmpi | plog | pmov | addsc | ext | fadd | fsub | fmul | ffma | fcmp | fcvt | fmnx | vadd | vsub | vmul | vmulhi
  | vmad | vand | vor | vxor | vshl | vshrl | vshra | vmin | vmax | vabs | vneg | vsel | vcmp | vfadd | vfsub
  | vfmul | vffma | vfdiv | vfsqrt | vfrcp | vfrsq | vfexp2 | vflog2 | vfmin | vfmax | vfcmp | vcvt | vqnt | vdqnt
  | vred | vscan | vperm | vbcst | viota | vcmpr | vmovs | slz | gcur =>
    exact slotExec_canon h _ _ (onCore_canon h _)
  | jr | callr | ret => exact slotExec_canon h _ _ (branchReg_canon h _ _ _)
  | loop | loops => exact slotExec_canon h _ _ (armLoop_canon h _ _ _)
  | lds | sts | ldv | stv | ldvb | ldpm | stpm => exact slotExec_canon h _ _ (localAccess_canon h _ _ _ _)
  | ldg | atg | casg => exact slotExec_canon h _ _ (globalIssue_canon h _ _)
  | ats | cass => exact slotExec_canon h _ _ (clusterIssue_canon h _ _)
  | mzero | mtt | maddt | mscl | mtrn | mnorm => exact slotExec_canon h _ _ (plainArray_canon h _ _ _)
  | fmt | fmts => exact slotExec_canon h _ _ (fmtBody_canon h _)
  | sla | slb | slq => exact slotExec_canon h _ _ (latchBody_canon h _ _ _)
  | tret => exact slotExec_canon h _ _ (tretBody_canon h)
  | cbar => exact slotExec_canon h _ _ (cbarBody_canon h _ _)
  | mfc => exact slotExec_canon h _ _ (mfcBody_canon h _ _)
  | mtc => exact slotExec_canon h _ _ (mtcBody_canon h _ _)
  | vdefer => exact slotExec_canon h _ _ (vdeferBody_canon h _ _ _ _ _)
  | vdrain => exact slotExec_canon h _ _ (vdrainBody_canon h _ _ _ _ _)
  | vsred => exact slotExec_canon h _ _ (vsredBody_canon h _ _ _ _ _)
  | mldw => exact slotExec_canon h _ _ (mldwBody_canon h _ _ _)
  | mmul => exact slotExec_canon h _ _ (mmulBody_canon h _ _ _ _ _)
  | mload => exact slotExec_canon h _ _ (mloadBody_canon h _ _)
  | mdrain => exact slotExec_canon h _ _ (mdrainBody_canon h _ _ _ _ _)
  | stg => exact slotExec_canon h _ _ (stgBody_canon h _)
  | xga | xsc => exact slotExec_canon h _ _ (rowIndexIssue_canon _ _ _ _ _ s h)
  | xwin => exact slotExec_canon h _ _ (xwinBody_canon _ _ _ s h)
  | xwb => exact slotExec_canon h _ _ (xwbBody_canon _ _ _ s h)
  | xinv => exact slotExec_canon h _ _ (xinvBody_canon _ _ _ s h)
  | xcan => exact slotExec_canon h _ _ (xcanBody_canon _ s h)
  | gsmpl | gfork | gtrunc | gins | gsnap => exact slotExec_canon h _ _ (streamIssue_canon _ _ _ _ _ s h)
  | vtoq => exact execVtoq_canon h _ _ _
  | mpoly => exact execMpoly_canon h _ _ _
  | miter => exact execMiter_canon h _ _ _
  | xcp => exact execXcp_canon h _ _
  | xcph => exact execXcph_canon h _ _ _
  | xmc => exact execXmc_canon h _ _ _
  | xgate => exact execXgate_canon h _ _
  | qenq => exact execQenq_canon h _ _ _
  | qdeq => exact execQdeq_canon h _ _
  | tqpush => exact execTqpush_canon h _ _ _
  | launch => exact execLaunch_canon h _ _
  | wjw => exact execWjw_canon h _ _
  | wjc => exact execWjc_canon h _ _
  | wja => exact execWja_canon h _ _
  | wjd => exact execWjd_canon h _ _
  | wwear => exact execWwear_canon h _ _
  | xhash => exact execXhash_canon h _ _
  | xsign => exact execXsign_canon h _ _
  | xvfy => exact execXvfy_canon h _ _
  | xhint => exact execXhint_canon h _ _
  | xpwr => exact execXpwr_canon h _
  | xevt => exact execXevt_canon h _ _
  | shadowWriteLands => exact execShadowWriteLands_canon h _
  | interlockedResultArrives => exact execInterlockedResultArrives_canon h _ _
  | vtoqPushLands => exact execVtoqPushLands_canon h _
  | correctableErrorFreeze => exact execCorrectableErrorFreeze_canon h _
  | freezeEnd => exact execFreezeEnd_canon h _
  | instructionFetchFault => exact execInstructionFetchFault_canon h _
  | heldAccessFault => exact execHeldAccessFault_canon h _
  | sideLogReplay => exact execSideLogReplay_canon h _ _
  | gatherScatterElement => exact execGatherScatterElement_canon h _
  | vsredVectorRead => exact execVsredVectorRead_canon h _
  | mUnitCompletes => exact execMUnitCompletes_canon h _ _
  | miterPhaseEnd => exact execMiterPhaseEnd_canon h _
  | arrayPoisonDetected => exact execArrayPoisonDetected_canon h _ _
  | remoteAccessArrives => exact execRemoteAccessArrives_canon h _ _
  | waitConditionHolds => exact execWaitConditionHolds_canon h _
  | parkBoundExpires => exact execParkBoundExpires_canon h _
  | parkedConditionHolds => exact execParkedConditionHolds_canon h _ _
  | tendWaitEnds => exact execTendWaitEnds_canon h _
  | completionSignals => exact execCompletionSignals_canon h _
  | sliceExpiry => exact execSliceExpiry_canon h _
  | priorityPreemption => exact execPriorityPreemption_canon h _
  | preempted => exact execPreempted_canon h _
  | supqItemAppend => exact execSupqItemAppend_canon h _
  | schedulerBind => exact execSchedulerBind_canon h _
  | copyBoxComplete => exact execCopyBoxComplete_canon h _ _ _
  | engineFaultDelivery => exact execEngineFaultDelivery_canon h _
  | commandCompletes => exact execCommandCompletes_canon h _ _
  | windowFillCompletes => exact execWindowFillCompletes_canon h _
  | backgroundWriteback => exact execBackgroundWriteback_canon h _ _ _
  | storeAcknowledged => exact execStoreAcknowledged_canon h _ _
  | fenceMarkerAck => exact execFenceMarkerAck_canon h _ _
  | qdeqItemDelivered => exact execQdeqItemDelivered_canon h _ _
  | queueStart => exact execQueueStart_canon h _ _
  | registerWrite => exact execRegisterWrite_canon h _ _ _ _ _
  | cqtailDoorbell => exact execCqtailDoorbell_canon h _ _
  | cpheadWrite => exact execCpheadWrite_canon h _ _
  | ringEnable => exact execRingEnable_canon h _ _
  | pushRecord => exact execPushRecord_canon h _
  | pushItem => exact execPushItem_canon h _
  | gorqueLaunchPacket => exact execGorqueLaunchPacket_canon h _ _ _ _ _
  | partCreate => exact execPartCreate_canon h
  | partDestroy => exact execPartDestroy_canon h
  | vfAssign => exact execVfAssign_canon h
  | ctxAssign => exact execCtxAssign_canon h
  | vatFence => exact execVatFence_canon h
  | vatReadmit => exact execVatReadmit_canon h
  | deepOffEnter => exact execDeepOffEnter_canon h
  | deepOffLeave => exact execDeepOffLeave_canon h
  | distributorPushChunk => exact execDistributorPushChunk_canon h _
  | chunkComplete => exact execChunkComplete_canon h _ _
  | governorPeriod => exact execGovernorPeriod_canon h _ _ _ _
  | darkDwellExpires => exact execDarkDwellExpires_canon h _
  | clusterDark => exact execClusterDark_canon h _
  | clusterWake => exact execClusterWake_canon h _
  | powerLoss => exact execPowerLoss_canon s
  | coldBoot => exact execColdBoot_canon h
  | imageDelivery => exact execImageDelivery_canon h _
  | partitionCoreResume => exact execPartitionCoreResume_canon h _
  | wjaApply => exact execWjaApply_canon h _
  | rollForwardRetry => exact execRollForwardRetry_canon h _
  | invalPage => exact execInvalPage_canon h _ _ _
  | invalContext => exact execInvalContext_canon h _ _
  | invalPartition => exact execInvalPartition_canon h _
  | slcmdReplay => exact execSlcmdReplay_canon h _ _
  | slcmdUnreplayable => exact execSlcmdUnreplayable_canon h _ _
  | pcselWrite => exact execPcselWrite_canon h _ _ _
  | maskDeadlineExpires => exact execMaskDeadlineExpires_canon h _ _
  | getVersion => exact execGetVersion_canon h _ _
  | getCapabilities => exact execGetCapabilities_canon h _ _
  | negotiateAlgorithms => exact execNegotiateAlgorithms_canon h _ _
  | getCertificate => exact execGetCertificate_canon h _ _ _ _ _
  | challenge => exact execChallenge_canon h _ _ _
  | getMeasurements => exact execGetMeasurements_canon h _ _ _ _ _
  | keyExchange => exact execKeyExchange_canon h _ _
  | finish => exact execFinish_canon h _ _ _ _
  | endSession => exact execEndSession_canon h _
  | compCreate => exact execCompCreate_canon h _
  | compClaim => exact execCompClaim_canon h _ _
  | keyLoad => exact execKeyLoad_canon h _ _ _ _ _ _
  | keyRetire => exact execKeyRetire_canon h _ _
  | keySlotDrained => exact execKeySlotDrained_canon h _
  | codeSeal => exact execCodeSeal_canon h _ _ _ _
  | grantSet => exact execGrantSet_canon h _ _ _ _
  | gateSet => exact execGateSet_canon h _ _ _ _ _ _ _ _
  | lockInterfaceRequest => exact execLockInterfaceRequest_canon h _ _
  | startInterfaceRequest => exact execStartInterfaceRequest_canon h _ _ _
  | stopInterfaceRequest => exact execStopInterfaceRequest_canon h _ _
  | getDeviceInterfaceReport => exact execGetDeviceInterfaceReport_canon h _ _
  | getDeviceInterfaceState => exact execGetDeviceInterfaceState_canon h _ _
  | ideFailure => exact execIdeFailure_canon h _
  | hotReset => exact execHotReset_canon h _
  | linkDown => exact execLinkDown_canon h _
  | uncorrectableError => exact execUncorrectableError_canon h _
  | heartbeatCheck => exact execHeartbeatCheck_canon h _
  | rowRefreshManagement => exact execRowRefreshManagement_canon h _ _ _
  | hbmTemperatureChange => exact execHbmTemperatureChange_canon h _ _
  | activationWindow => exact execActivationWindow_canon h _
  | rhcfgWrite => exact execRhcfgWrite_canon h _ _
  | receiptRequest => exact execReceiptRequest_canon h _
  | repairRecord => exact execRepairRecord_canon h _
  | storeRetiresIntoSideLog => exact execStoreRetiresIntoSideLog_canon h _
  | gorquePortLinkFailure => exact execGorquePortLinkFailure_canon h _
  | spdmUnsupportedRequest => exact execSpdmUnsupportedRequest_canon h _ _
  | registerRead => exact execRegisterRead_canon h _ _ _
  | invalidationCompletes => exact execInvalidationCompletes_canon h _

end Sys2Proof.Proofs

end

/-! O56, bundles, turns and the step. -/
section

namespace Sys2Proof.Proofs
open Sys2Proof.Machine Sys2Proof.Laws

/-- An attempt to issue leaves memory canonical where it goes on from a state. -/
def CanonAttempt : Attempt → Prop
  | .held s _ => Canon s
  | .ready s _ => Canon s
  | .stop o => CanonNext o
  | _ => True

variable {s : State} (h : Canon s)
include h

theorem exec_next {i : Instr} {t : State} (e : exec i s = .next t) : Canon t := by
  simpa only [e, CanonNext] using exec_canon h i

theorem execBehind_canon (w : Nat) (i : Instr) : CanonNext (s.execBehind w i) := by
  unfold State.execBehind
  dsimp only
  split
  · rwa [CanonNext, Canon, gatherAll_mem]
  have ran : CanonNext (exec i { s.gatherAll 129 with c := { (s.gatherAll 129).c with v := s.c.v }, word := w }) :=
    exec_canon (by rwa [Canon, gatherAll_mem]) i
  split
  next t e => simpa only [e, CanonNext] using ran
  · exact ran

theorem runSlots_canon (l : Bool) (ws : List (Nat × Instr)) (t : Option Trap) : CanonAttempt (s.runSlots l ws t) := by
  induction ws generalizing s l t with
  | nil =>
    cases t with
    | none => exact h
    | some t => trivial
  | cons w rest ih =>
    obtain ⟨w, i⟩ := w
    have ran : CanonNext (if l && accessesAtIssue i && s.c.gather.isSome then s.execBehind w i else exec i { s with word := w }) := by
      split
      · exact execBehind_canon h w i
      · exact exec_canon (s := { s with word := w }) h i
    unfold State.runSlots
    split
    next u e =>
      have hu : Canon u := by simpa only [e, CanonNext] using ran
      split
      · exact ih hu _ _
      · exact hu
      · exact ih h _ _
    · exact ran

theorem tryBundle_canon (b : Bundle) : CanonAttempt (s.tryBundle b) := by
  have ran := runSlots_canon (s := { s with c := { s.c with flow := { Flow.none with succ := b.succ } } }) h false b.words none
  unfold State.tryBundle
  split
  · split
    · trivial
    dsimp only
    split
    · exact h
    · exact h
  next t x e =>
    have ht : Canon t := by simpa only [e, CanonAttempt] using ran
    dsimp only
    split
    · exact h
    split
    · exact ht
    split
    · trivial
    · exact ht
  · exact ran

theorem attempt_canon : CanonAttempt s.attempt := by
  unfold State.attempt
  split
  · trivial
  split
  · trivial
  split
  · trivial
  split
  · exact h
  · exact tryBundle_canon h _

theorem lateStore_canon (a : Access) : Canon (s.lateStore a) := by
  unfold State.lateStore
  dsimp only
  split
  · exact h
  split
  · exact enterLog_canon h _ _ _
  split
  · split
    · exact enterLog_canon h _ _ _
    · exact h
  · exact h

theorem bundleTrap_canon (t : Trap) (late : List Access) : Canon (s.bundleTrap t late) := by
  have hl : Canon (late.foldl State.lateStore s) := foldl_canon (fun _ a hu => lateStore_canon hu a) _ h
  exact trapNow_canon (s := { late.foldl State.lateStore s with c := (late.foldl State.lateStore s).c.waitTaken t }) hl t

theorem perform_canon (i : Instr) : Canon (s.perform i) := by
  unfold State.perform
  split
  next t e => exact exec_next h e
  · exact h

theorem retireOwn_canon (k : CoreId) : Canon (s.retireOwn k) :=
  foldl_canon (fun _ _ ht => perform_canon ht _) _ h

omit h in
theorem withCore_canon {t : State} (ht : Canon t) (c : Core) : Canon { t with c := c } := ht

omit h in
theorem withVerdict_canon {t : State} (ht : Canon t) (v : Verdict) : Canon { t with verdict := v } := ht

omit h in
theorem withAgenda_canon {t : State} (ht : Canon t) (is : List Instr) : Canon { t with agenda := is } := ht

theorem cycle_canon : Canon s.cycle := by
  unfold State.cycle
  extract_lets k pushed counted landed checked turned iterated
  have hp : Canon pushed := perform_canon (retireOwn_canon h k) _
  have hl : Canon landed := perform_canon (withCore_canon hp _) _
  have hc : Canon checked := perform_canon (perform_canon hl _) _
  have hi : Canon iterated := perform_canon (withCore_canon hc _) _
  exact perform_canon (perform_canon hi _) _

theorem cycles_canon (n : Nat) : Canon (s.cycles n) := by
  induction n generalizing s with
  | zero => exact h
  | succ n ih => exact ih (cycle_canon h)

theorem yieldEnd_canon : Canon s.yieldEnd := by
  unfold State.yieldEnd
  split
  · split
    · exact saveTask_canon h _ _ _
    · exact h
  · exact h

theorem commit_canon (skip : Bool × Nat) : Canon (s.commit skip) := by
  unfold State.commit
  extract_lets f t u v w
  have ht : Canon t := cycles_canon (by rwa [Canon, forgetFills_mem]) _
  have hu : Canon u := by
    unfold u
    split
    · exact withCore_canon ht _
    · exact ht
  have hv : Canon v := by
    unfold v
    split
    · rwa [Canon, cbarEnd_mem]
    · exact hu
  have hw : Canon w := by
    unfold w
    split
    · exact yieldEnd_canon hv
    · exact hv
  split
  · exact trapNow_canon hw _
  · exact hw

theorem takeDue_canon {t : State} (e : s.takeDue = some t) : Canon t := by
  unfold State.takeDue at e
  split at e
  · cases e
    exact trapNow_canon (withCore_canon h _) _
  split at e
  · cases e
    exact perform_canon h _
  split at e
  · split at e
    · cases e
      exact perform_canon h _
    · cases e
  · cases e

theorem preempt_canon : Canon s.preempt := by
  unfold State.preempt
  extract_lets k cl t
  have ht : Canon t := by
    unfold t
    split
    · exact perform_canon h _
    · exact h
  split
  · exact h
  split
  · exact ht
  split
  · exact perform_canon ht _
  · exact ht

theorem hold_canon {before : State} (hb : Canon before) (counts : Bool) : Canon (s.hold before counts) := by
  unfold State.hold
  split
  · have started : Canon (if before.qpopWaits then { before with c := before.c.decouple 1 } else before) := by
      split
      · exact withCore_canon hb _
      · exact hb
    exact withVerdict_canon (cycle_canon started) _
  · refine withVerdict_canon ?_ _
    split
    · exact withCore_canon h _
    · exact h

theorem boundary_canon : CanonNext s.boundary := by
  unfold State.boundary
  split
  next t e => exact takeDue_canon h e
  have hp := preempt_canon h
  have tried := attempt_canon hp
  dsimp only
  split
  · exact hp
  split
  next e =>
    rw [e] at tried
    exact hold_canon tried hp _
  next e =>
    rw [e] at tried
    rw [CanonNext, Canon, remember_mem]
    exact commit_canon tried _
  next e =>
    rw [e] at tried
    exact tried
  · exact bundleTrap_canon hp _ _
  · exact hp

theorem bundleTurn_canon : CanonNext s.bundleTurn := by
  unfold State.bundleTurn
  split
  · exact saveStep_canon h _
  split
  · dsimp only
    split
    next t e => exact takeDue_canon (withCore_canon h _) e
    · exact perform_canon (withCore_canon h _) _
  · have hc : Canon s.clearFence := by rwa [Canon, clearFence_mem]
    dsimp only
    split
    · exact perform_canon hc _
    · exact bundleTrap_canon hc _ _
    · exact boundary_canon hc

theorem coreTurn_canon : CanonNext s.coreTurn := by
  unfold State.coreTurn
  split
  · exact bundleTurn_canon h
  split
  · trivial
  · exact h

theorem innerTurn_canon : CanonNext s.innerTurn := by
  unfold State.innerTurn
  split
  · exact coreTurn_canon h
  split
  · exact coreTurn_canon h
  · exact exec_canon h _

omit h in
theorem settled_canon {o : Host.Outcome State Fault Refusal} (ho : CanonNext o) : CanonNext (settled o) := by
  cases o with
  | next t => exact foldl_canon (fun _ k hu => retireOwn_canon hu k) _ ho
  | fault f => trivial
  | refused r => trivial

theorem step_canon : CanonNext (step s) := by
  have hc : Canon s.tickFree.chosen := by rwa [Canon, chosen_mem, State.tickFree_mem]
  unfold step State.turn
  dsimp only
  split
  · split
    · exact settled_canon (exec_canon (withAgenda_canon hc _) _)
    · exact withAgenda_canon hc _
  · split
    · exact settled_canon (innerTurn_canon hc)
    · exact exec_canon hc _

omit h in
/-- Settles O56: a step is built from operations that write memory, each of which keeps the canonical form, and from functions
that leave memory as it is. -/
theorem stepKeepsMemoryCanonical : Obligations.StepKeepsMemoryCanonical := by
  intro s t h e
  simpa only [e, CanonNext] using step_canon h

end Sys2Proof.Proofs

end

/-! O43, the register pages: accesses to them, the commands that their registers give, and a load that reaches one. -/
section

namespace Sys2Proof.Proofs
open Sys2Proof.Machine Sys2Proof.Laws

/-! ### Registers -/

/-- An access that R336 does not refuse is served by its page. -/
theorem execRegisterWrite_served {s : State} {by' : Requester} {page : Page}
    (served : isPrivate page = false ∨ s.trusted by' page = true) (off n val : Nat) :
    execRegisterWrite by' page off n val s = .next (s.pageWrite by' page off n val) := by
  rcases served with pub | trusted
  · simp [execRegisterWrite, pub]
  · simp [execRegisterWrite, trusted]

theorem execRegisterRead_served {s : State} {by' : Requester} {page : Page}
    (served : isPrivate page = false ∨ s.trusted by' page = true) (off : Nat) :
    execRegisterRead by' page off s = .next (s.reply ⟨0x52454144, s.pageRead by' page off, []⟩) := by
  rcases served with pub | trusted
  · simp [execRegisterRead, pub]
  · simp [execRegisterRead, trusted]

/-- A whole register is written: a field of it is that of the written value. -/
theorem bits_setBits_whole (old val : Nat) : bits (setBits old 0 64 val) 12 37 = bits val 12 37 := by
  unfold setBits bits
  omega

theorem pageWrite_doorbell {s : State} (by' : Requester) (free : s.mbBusy = false) (ok : s.mbOk = true) :
    s.pageWrite by' .pf 0x1100 8 1 = { s with umpire := { s.umpire with mbst := s.umpire.mbst ||| 1 } } := by
  simp [State.pageWrite, State.writePf, free, ok]

theorem pageWrite_stbase {s : State} {by' : Requester} {part : Nat} (may : s.mayMapContexts by' part = true) (val : Nat) :
    s.pageWrite by' (.contextTable part) 0x8020 8 val =
      s.setPart part { s.part part with stbase := BitVec.ofNat 64 (bits val 12 37 * 2 ^ 12) } := by
  simp [State.pageWrite, may, State.writeCtxReg, bits_setBits_whole]

/-- An invalidation completes where no pending store and no stale copy is of its partition (R322). -/
theorem execInvalidationCompletes_of_performed {s : State} {part : Nat} {i : Nat × Nat × Nat} {rest : List (Nat × Nat × Nat)}
    (oldest : (s.part part).inval = i :: rest)
    (stores : ∀ x ∈ s.stores, (s.part part).clusters.getLsbD (clusterOf x.src) = false)
    (stale : ∀ y ∈ s.stale, (s.part part).clusters.getLsbD (clusterOf y.src) = false) :
    execInvalidationCompletes part s = .next { s.setPart part { s.part part with inval := rest } with
      cached := s.cached.filter (fun c => !s.removes part i c) } := by
  have performed : (s.stores.any (fun x => (s.part part).clusters.getLsbD (clusterOf x.src)) ||
      s.stale.any (fun y => (s.part part).clusters.getLsbD (clusterOf y.src))) = false := by
    simp only [Bool.or_eq_false_iff, List.any_eq_false]
    exact ⟨fun x hx => by simp [stores x hx], fun y hy => by simp [stale y hy]⟩
  unfold execInvalidationCompletes
  simp only [oldest, performed]
  rfl

theorem core_self (s : State) : s.core s.c.id = s.c := if_pos rfl

/-- The side log of the task that stands on the core that steps. -/
theorem onSideLog_resident {s : State} {t : Machine.Task} (resident : s.c.task = some t) (f : LogEntry → LogEntry) :
    s.onSideLog t.ctx t.slot f = s.setCore { s.c with log := s.c.log.map f } := by
  simp [State.onSideLog, State.cores, core_self, resident]

theorem writePcsel_own {s : State} {w : Word} {part cl : Nat} (small : w.toNat < 512) (own : (s.ctx w.toNat).part = some part)
    (held : s.partOf cl = part) :
    s.writePcsel (.core (.partition cl)) part w = s.setCore { s.core (.partition cl) with pcselNext := some w.toNat } := by
  have named : bits w.toNat 0 9 = w.toNat := by
    unfold bits
    omega
  simp [State.writePcsel, named, small, own, held]

/-! ### A load that reaches a register page -/

theorem remember_eq (s : State) (ctx va : Nat) : ∃ l, s.remember ctx va = { s with cached := l } := by
  unfold State.remember
  split
  · exact ⟨s.cached, rfl⟩
  · exact ⟨_, rfl⟩

theorem countHints_eq (c : Core) (va n : Nat) : ∃ hs, c.countHints va n = { c with hints := hs } := by
  unfold Core.countHints
  split
  · exact ⟨c.hints, rfl⟩
  · exact ⟨_, rfl⟩

/-- What an access leaves of the state as it is translated: cached translations and hints alone. -/
def touched (s : State) (l : List Cached) (hs : List Hint) : State := { s with cached := l, c := { s.c with hints := hs } }

theorem remember_countHints_eq (s : State) (ctx va n : Nat) :
    ∃ l hs, (s.remember ctx va).setCore (((s.remember ctx va).core s.c.id).countHints va n) = touched s l hs := by
  obtain ⟨l, hl⟩ := remember_eq s ctx va
  obtain ⟨hs, hh⟩ := countHints_eq s.c va n
  refine ⟨l, hs, ?_⟩
  rw [hl, show ({ s with cached := l } : State).core s.c.id = s.c from if_pos rfl, hh]
  exact if_pos rfl

theorem tryPage_load {s : State} {k : CoreId} {x : Xlat} {a : Access} (page : Page) (off : Nat) (load : a.isAtomic = false)
    (free : ∀ y ∈ s.stores, clusterOf y.src = clusterOf k → overlap y.pa y.bytes.length x.pa a.size = false) :
    s.tryPage k x a page off = .done s (s.readTablePage (.core k) page off % 256 ^ a.size) := by
  have none : s.stores.any (fun y => decide (clusterOf y.src = clusterOf k) && overlap y.pa y.bytes.length x.pa a.size) = false := by
    simp only [List.any_eq_false, Bool.and_eq_true, decide_eq_true_eq, not_and, Bool.not_eq_true]
    exact free
  simp [State.tryPage, load, none]

theorem tryGlobal_registerPage {s : State} {a : Access} {d x : Reg} {ty : IntTy} {os : OrdScope} {z : Xlat} {page : Page} {off : Nat}
    (load : a.instr = .ldg d x ty os) (translated : s.translate s.c.party a.addr .read = .ok z)
    (register : s.registerPage z.pa = some (page, off))
    (free : ∀ y ∈ s.stores, clusterOf y.src = clusterOf s.c.id → overlap y.pa y.bytes.length z.pa a.size = false) :
    ∃ l hs, s.tryGlobal s.c.id a =
      .done (touched s l hs) (s.readTablePage (.core s.c.id) page off % 256 ^ a.size) := by
  obtain ⟨l, hs, asTouched⟩ := remember_countHints_eq s s.c.party.ctx a.addr a.size
  refine ⟨l, hs, ?_⟩
  have need : a.need = .read := by simp [Access.need, load]
  have plain : a.isAtomic = false := by simp [Access.isAtomic, load]
  have stays : (touched s l hs).registerPage z.pa = some (page, off) := register
  unfold State.tryGlobal
  simp only [core_self, need, translated, asTouched, load, stays]
  exact tryPage_load page off plain free

/-- A load whose register page is read as it arrives (R276). -/
theorem execInterlockedResultArrives_registerPage {s : State} {n age : Nat} {dest : Option Dest} {a : Access} {d x : Reg} {ty : IntTy}
    {os : OrdScope} {z : Xlat} {page : Page} {off : Nat} (outstanding : s.c.ilk[n]? = some ⟨.access a none, dest, age⟩)
    (load : a.instr = .ldg d x ty os) (empty : s.c.log = []) (ready : s.behind s.c.id a (s.c.ilk.take n) = false)
    (translated : s.translate s.c.party a.addr .read = .ok z) (register : s.registerPage z.pa = some (page, off))
    (free : ∀ y ∈ s.stores, clusterOf y.src = clusterOf s.c.id → overlap y.pa y.bytes.length z.pa a.size = false) :
    ∃ l hs, execInterlockedResultArrives s.c.id n s = .next ((touched s l hs).deliver s.c.id n dest
      (a.result (s.readTablePage (.core s.c.id) page off % 256 ^ a.size)).toNat) := by
  obtain ⟨l, hs, tried⟩ := tryGlobal_registerPage load translated register free
  refine ⟨l, hs, ?_⟩
  have here : a.isRemote = false := by simp [Access.isRemote, load]
  have need : a.need = .read := by simp [Access.need, load]
  have plain : a.isAtomic = false := by simp [Access.isAtomic, load]
  have unlogged : logOverlap s.c.log a = [] := by simp [logOverlap, empty]
  have noAtomic : s.pageAtomic s.c.id a = none := by
    simp [State.pageAtomic, core_self, need, translated, register, plain]
  have access : s.tryAccess s.c.id a = s.tryGlobal s.c.id a := by
    simp [State.tryAccess, here, core_self, unlogged]
  unfold execInterlockedResultArrives
  simp only [core_self, outstanding, here, ready, unlogged, List.isEmpty_nil, Bool.not_true, Bool.or_false, Bool.false_eq_true,
    if_false, noAtomic, State.globalArrives, access, tried]

/-- Settles O43, clause by clause from what each register page, command and load does. -/
theorem registerPagesAreServed : Obligations.RegisterPagesAreServed := by
  intro s by' page off n val part p ctx cl w i rest t a z d x ty os dest age
  refine ⟨?untrusted, ?served, ?doorbell, ?stbase, rfl, rfl, rfl, execInvalidationCompletes_of_performed, ?slcmd, ?pcsel, ?load⟩
  case untrusted =>
    intro priv distrusted
    have refused : (isPrivate page && !s.trusted by' page) = true := by simp [priv, distrusted]
    exact ⟨congrArg Host.Outcome.next (if_pos refused), congrArg Host.Outcome.next (if_pos refused)⟩
  case served =>
    intro served
    exact ⟨execRegisterRead_served served off, execRegisterWrite_served served off n val⟩
  case doorbell =>
    intro free ok
    exact (execRegisterWrite_served (.inl rfl) _ _ _).trans (congrArg Host.Outcome.next (pageWrite_doorbell by' free ok))
  case stbase =>
    intro may
    exact (execRegisterWrite_served (.inl rfl) _ _ _).trans (congrArg Host.Outcome.next (pageWrite_stbase may val))
  case slcmd =>
    rintro resident rfl rfl
    exact ⟨congrArg _ (onSideLog_resident resident _), congrArg _ (onSideLog_resident resident _)⟩
  case pcsel =>
    intro small own held
    exact congrArg _ (writePcsel_own small own held)
  case load =>
    intro outstanding load empty ready translated register free
    obtain ⟨l, hs, arrived⟩ :=
      execInterlockedResultArrives_registerPage outstanding load empty ready translated register free
    exact ⟨touched s l hs, rfl, rfl, rfl, rfl, rfl, arrived⟩

end Sys2Proof.Proofs

end


/-! Rules of the state that the words and events of the issue cycle share: the core that steps, and what a scratchpad reads as. -/
section

namespace Sys2Proof.Proofs
open Sys2Proof.Machine Sys2Proof.Laws

theorem setCore_own {s : State} {c : Core} (own : c.id = s.c.id) : s.setCore c = { s with c := c } := if_pos own.symm

theorem natOfBytes_lt : ∀ bs : List (BitVec 8), natOfBytes bs < 256 ^ bs.length
  | [] => Nat.one_pos
  | b :: bs => by
    have low := b.isLt
    have high := natOfBytes_lt bs
    rw [natOfBytes, List.length_cons, Nat.pow_succ]
    omega

theorem scratchRead_lt {c : Core} (wf : Memory.wf c.scratch = true) (off n : Nat) : c.scratchRead off n < 256 ^ n := by
  rw [Core.scratchRead, memRead_eq wf]
  exact (natOfBytes_lt _).trans_eq (by rw [List.length_map, List.length_range])

theorem scratchPut_id (c : Core) (off n v : Nat) : (c.scratchPut off n v).id = c.id := by
  obtain ⟨w, put⟩ := scratchWrite_eq c off (bytesOf n v)
  rw [Core.scratchPut, put]

end Sys2Proof.Proofs

end


/-! The writes of memory leave every core as it was. -/
section

namespace Sys2Proof.Proofs
open Sys2Proof.Machine Sys2Proof.Laws

/-- No core of the module has changed. -/
def SameCores (s t : State) : Prop := t.c = s.c ∧ t.others = s.others

theorem SameCores.rfl {s : State} : SameCores s s := ⟨Eq.refl _, Eq.refl _⟩

theorem SameCores.trans {s t u : State} (a : SameCores s t) (b : SameCores t u) : SameCores s u :=
  ⟨b.1.trans a.1, b.2.trans a.2⟩

theorem SameCores.core {s t : State} (h : SameCores s t) (k : CoreId) : t.core k = s.core k := by
  unfold State.core
  rw [h.1, h.2]

theorem foldl_sameCores {β : Type} {f : State → β → State} (hf : ∀ t b, SameCores t (f t b)) (l : List β) (s : State) :
    SameCores s (l.foldl f s) :=
  List.foldlRecOn l f (motive := SameCores s) SameCores.rfl fun t ht b _ => ht.trans (hf t b)

theorem writeLine_sameCores (s : State) (l : Nat × Nat) (pa : Nat) (bs : List (BitVec 8)) : SameCores s (s.writeLine l pa bs) := by
  obtain ⟨m, y, p, written⟩ := writeLine_frame s l pa bs
  rw [written]
  exact SameCores.rfl

theorem takeStore_sameCores (s : State) (x : PStore) : SameCores s (s.takeStore x) := by
  unfold State.takeStore
  dsimp only
  split
  · exact writeLine_sameCores s x.label x.pa x.bytes
  · exact writeLine_sameCores s x.label x.pa x.bytes

theorem dropCopies_sameCores (s : State) (cl : Option Nat) (line : Nat) : SameCores s (s.dropCopies cl line) := by
  unfold State.dropCopies
  split <;> exact SameCores.rfl

theorem acknowledge_sameCores (s : State) (x : PStore) : SameCores s (s.acknowledge x) := by
  have taken := (takeStore_sameCores s x).trans (dropCopies_sameCores _ (some (clusterOf x.src)) (x.pa / 64))
  unfold State.acknowledge
  dsimp only
  split <;> exact taken

theorem settle_sameCores (s : State) (cl pa n : Nat) : SameCores s (s.settle cl pa n) := foldl_sameCores acknowledge_sameCores _ s

theorem storeHome_sameCores (s : State) (src : CoreId) (x : Xlat) (bs : List (BitVec 8)) (rmw : Bool) :
    SameCores s (s.storeHome src x bs rmw) := by
  unfold State.storeHome State.storeHomeBy
  refine SameCores.trans ?_ (dropCopies_sameCores _ _ _)
  refine SameCores.trans ?_ (writeLine_sameCores _ _ _ _)
  exact settle_sameCores s (clusterOf src) x.pa bs.length

theorem writeVirtual_sameCores (s : State) (p : Party) (va n v : Nat) : Yields (SameCores s) (s.writeVirtual p va n v) :=
  yields_after fun _ => yields_pure (storeHome_sameCores _ _ _ _ _)

theorem writeRange_sameCores (s : State) (p : Party) (va n v : Nat) : Yields (SameCores s) (s.writeRange p va n v) :=
  yields_foldlM (fun t _ ht u e => ht.trans (writeVirtual_sameCores t _ _ _ _ u e)) _ SameCores.rfl

end Sys2Proof.Proofs

end


/-! What a state gives of memory and translation while only its cores, its translation cache and what its cores have heard change. -/
section

namespace Sys2Proof.Proofs
open Sys2Proof.Machine Sys2Proof.Laws

/-- The states differ in cores, cached translations and heard carries alone. -/
def Recored (s t : State) : Prop := ∃ c o l h, t = { s with c := c, others := o, cached := l, heard := h }

theorem Recored.trans {s t u : State} (a : Recored s t) (b : Recored t u) : Recored s u := by
  obtain ⟨_, _, _, _, rfl⟩ := a
  obtain ⟨_, _, _, _, rfl⟩ := b
  exact ⟨_, _, _, _, rfl⟩

theorem Recored.mem {s t : State} (h : Recored s t) : t.mem = s.mem := by
  obtain ⟨_, _, _, _, rfl⟩ := h
  rfl

theorem Recored.stores {s t : State} (h : Recored s t) : t.stores = s.stores := by
  obtain ⟨_, _, _, _, rfl⟩ := h
  rfl

theorem setCore_recored (s : State) (x : Core) : Recored s (s.setCore x) := by
  unfold State.setCore
  split
  · exact ⟨x, s.others, s.cached, s.heard, rfl⟩
  · exact ⟨s.c, put s.others x.id x, s.cached, s.heard, rfl⟩

theorem remember_recored (s : State) (ctx va : Nat) : Recored s (s.remember ctx va) := by
  obtain ⟨l, remembered⟩ := remember_eq s ctx va
  rw [remembered]
  exact ⟨s.c, s.others, l, s.heard, rfl⟩

theorem hear_recored (s : State) (k : CoreId) (pa n : Nat) : Recored s (s.hear k pa n) := ⟨s.c, s.others, s.cached, _, rfl⟩

/-- Translation reads no core. -/
theorem translate_setCore (s : State) (x : Core) (p : Party) (va : Nat) (need : Need) :
    (s.setCore x).translate p va need = s.translate p va need := by
  unfold State.setCore
  split <;> rfl

/-! ### What the cluster store shows (R249) -/

/-- A state with other cores, cached translations and heard carries. -/
def recore (c : Core) (o : List (CoreId × Core)) (l : List Cached) (h : List (CoreId × Hearing)) (s : State) : State :=
  { s with c := c, others := o, cached := l, heard := h }

section
variable (s : State) (c : Core) (o : List (CoreId × Core)) (l : List Cached) (h : List (CoreId × Hearing))

theorem recore_writeLine (lb : Nat × Nat) (pa : Nat) (bs : List (BitVec 8)) :
    (recore c o l h s).writeLine lb pa bs = recore c o l h (s.writeLine lb pa bs) := by
  unfold State.writeLine
  simp only [apply_ite (recore c o l h)]
  rfl

theorem recore_takeStore (x : PStore) : (recore c o l h s).takeStore x = recore c o l h (s.takeStore x) := by
  unfold State.takeStore
  simp only [apply_ite (recore c o l h), recore_writeLine]
  rfl

theorem recore_staleBytes (y : Stale) : (recore c o l h s).staleBytes y = recore c o l h (s.staleBytes y) := by
  unfold State.staleBytes
  simp only [apply_ite (recore c o l h)]
  rfl

theorem recore_view (cl : Nat) : (recore c o l h s).view cl = recore c o l h (s.view cl) := by
  unfold State.view
  rw [List.foldr_hom (recore c o l h) (fun y t => recore_staleBytes t c o l h y),
    List.foldl_hom (recore c o l h) (fun t x => recore_takeStore t c o l h x)]
  rfl

end

theorem Recored.readGlobal {s t : State} (h : Recored s t) (k : CoreId) (z : Xlat) (n : Nat) : t.readGlobal k z n = s.readGlobal k z n := by
  obtain ⟨c, o, l, h, rfl⟩ := h
  unfold State.readGlobal
  rw [show State.view { s with c := c, others := o, cached := l, heard := h } _ = _ from recore_view s c o l h _]
  rfl

/-! ### Memory under its labels -/

/-- The states differ in cores, cached translations, heard carries, stale copies and the count of stores alone. -/
def Unwritten (s t : State) : Prop := ∃ c o l h y i, t = { s with c := c, others := o, cached := l, heard := h, stale := y, ids := i }

theorem Recored.unwritten {s t : State} (h : Recored s t) : Unwritten s t := by
  obtain ⟨c, o, l, h, rfl⟩ := h
  exact ⟨c, o, l, h, s.stale, s.ids, rfl⟩

theorem Unwritten.trans {s t u : State} (a : Unwritten s t) (b : Unwritten t u) : Unwritten s u := by
  obtain ⟨_, _, _, _, _, _, rfl⟩ := a
  obtain ⟨_, _, _, _, _, _, rfl⟩ := b
  exact ⟨_, _, _, _, _, _, rfl⟩

section
variable {s t : State} (h : Unwritten s t)
include h

theorem Unwritten.mem : t.mem = s.mem := by
  obtain ⟨_, _, _, _, _, _, rfl⟩ := h
  rfl

theorem Unwritten.poisoned (line : Nat) : t.poisoned line = s.poisoned line := by
  obtain ⟨_, _, _, _, _, _, rfl⟩ := h
  rfl

theorem Unwritten.plain (l : Nat × Nat) (pa n : Nat) : t.plain l pa n = s.plain l pa n := by
  obtain ⟨_, _, _, _, _, _, rfl⟩ := h
  rfl

theorem Unwritten.writeLine_mem (l : Nat × Nat) (pa : Nat) (bs : List (BitVec 8)) : (t.writeLine l pa bs).mem = (s.writeLine l pa bs).mem := by
  obtain ⟨_, _, _, _, _, _, rfl⟩ := h
  unfold State.writeLine
  simp only [apply_ite State.mem]
  rfl

end

end Sys2Proof.Proofs

end

/-! O16, global loads and atomics at issue. -/
section

namespace Sys2Proof.Proofs
open Sys2Proof.Machine Sys2Proof.Laws

/-- The destination of an access to register d: none for s0 (R15). -/
def scalarDest (d : Reg) : Option Dest := if d = 0 then none else some (.scalar d)

/-- The fence behind a bundle with an access of an order, where the bundle has asked for another already (R134). -/
def fenceBehind (os : OrdScope) (asked : Option OrdScope) : Option OrdScope :=
  if os.ord = .acq ∨ os.ord = .ar ∨ os.ord = .sc then some ⟨.acq, os.scope⟩ else asked

theorem acquireAfter_eq (c : Core) (os : OrdScope) :
    c.acquireAfter os = { c with flow := { c.flow with fence := fenceBehind os c.flow.fence } } := by
  obtain ⟨o, sc⟩ := os
  cases o <;> rfl

/-- The registers that global and cluster accesses write. -/
theorem reg_dest {a : Access} {d : Reg} (named : (∃ x w os, a.instr = .ldg d x w os) ∨ (∃ x op w os, a.instr = .atg d x op w os) ∨
    (∃ x b w os, a.instr = .casg d x b w os) ∨ (∃ x op w os, a.instr = .ats d x op w os) ∨ ∃ x b w os, a.instr = .cass d x b w os) :
    a.reg.map Dest.scalar = scalarDest d := by
  have discarded : (match (some d : Option Reg) with | some 0 => none | x => x).map Dest.scalar = scalarDest d := by
    unfold scalarDest
    split
    next zero => simp [Option.some.inj zero]
    next other => rw [if_neg fun zero => other (congrArg some zero)]; rfl
  rcases named with ⟨x, w, os, e⟩ | ⟨x, op, w, os, e⟩ | ⟨x, b, w, os, e⟩ | ⟨x, op, w, os, e⟩ | ⟨x, b, w, os, e⟩ <;>
    · simp only [Access.reg, e]
      exact discarded

/-- An access becomes outstanding, and its order asks for a fence behind its bundle. -/
theorem outstanding_acquireAfter {a : Access} {d : Reg} (dest : a.reg.map Dest.scalar = scalarDest d) (c : Core) (got : Option Nat)
    (os : OrdScope) :
    (c.outstanding a got).acquireAfter os = { c with
      ilk := c.ilk ++ [⟨.access a got, scalarDest d, c.age⟩]
      flow := { c.flow with fence := fenceBehind os c.flow.fence } } := by
  rw [acquireAfter_eq, Core.outstanding, dest]

theorem globalTrap_good {x : Word} {n : Nat} (small : x.toNat < 2 ^ 49) (aligned : x.toNat % n = 0) : globalTrap x n = none := by
  rw [globalTrap, if_neg (Nat.not_le.mpr small), if_neg (not_not.mpr aligned)]

theorem globalTrap_far {x : Word} (n : Nat) (far : 2 ^ 49 ≤ x.toNat) : globalTrap x n = some ⟨.translation, addrInfo x.toNat⟩ :=
  if_pos far

theorem globalTrap_misaligned {x : Word} {n : Nat} (small : x.toNat < 2 ^ 49) (odd : x.toNat % n ≠ 0) :
    globalTrap x n = some ⟨.misaligned, addrInfo x.toNat⟩ := by
  rw [globalTrap, if_neg (Nat.not_le.mpr small), if_pos odd]

theorem globalIssue_ok {s : State} {a : Access} {d : Reg} (dest : a.reg.map Dest.scalar = scalarDest d)
    (good : globalTrap (BitVec.ofNat 64 a.addr) a.size = none) (os : OrdScope) :
    globalIssue a os s = .ok { s with c := { s.c with
      ilk := s.c.ilk ++ [⟨.access a none, scalarDest d, s.c.age⟩]
      flow := { s.c.flow with fence := fenceBehind os s.c.flow.fence } } } := by
  simp only [globalIssue, good, outstanding_acquireAfter dest]

theorem globalIssue_trap {s : State} {a : Access} {t : Trap} (bad : globalTrap (BitVec.ofNat 64 a.addr) a.size = some t) (os : OrdScope) :
    globalIssue a os s = .trap t := by
  simp only [globalIssue, bad]

/-- Settles O16: the three forms are one global access, whose address is checked at issue. -/
theorem globalAccessesBecomeOutstanding : Obligations.GlobalAccessesBecomeOutstanding := by
  intro s d a b w op wd os i data expect form issues x
  have runs : exec i s = slotExec 3 i (globalIssue x os) s := by
    rcases form with ⟨rfl, rfl, rfl⟩ | ⟨rfl, rfl, rfl⟩ | ⟨rfl, rfl, rfl⟩ <;> rfl
  have slot : i.slot.getD 0 = 3 := by
    rcases form with ⟨rfl, -⟩ | ⟨rfl, -⟩ | ⟨rfl, -⟩ <;> rfl
  have dest : x.reg.map Dest.scalar = scalarDest d := reg_dest <| by
    rcases form with ⟨e, -⟩ | ⟨e, -⟩ | ⟨e, -⟩
    · exact .inl ⟨_, _, _, e⟩
    · exact .inr (.inl ⟨_, _, _, _, e⟩)
    · exact .inr (.inr (.inl ⟨_, _, _, _, e⟩))
  have addr : BitVec.ofNat 64 x.addr = s.c.rs a := by simp [x, Core.xn]
  rw [runs]
  refine ⟨fun small aligned => ?_, fun far => ?_, fun small odd => ?_⟩
  · exact slotExec_ok issues slot (globalIssue_ok dest (addr ▸ globalTrap_good small aligned) os)
  · exact ⟨_, slotExec_trap issues slot (globalIssue_trap (addr ▸ globalTrap_far _ far) os)⟩
  · exact ⟨_, slotExec_trap issues slot (globalIssue_trap (addr ▸ globalTrap_misaligned small odd) os)⟩

end Sys2Proof.Proofs

end


/-! O18, the atomics: what they store and give, and those by cluster address. -/
section

namespace Sys2Proof.Proofs
open Sys2Proof.Machine Sys2Proof.Laws

/-! ### Signed values (R46) -/

theorem intValue_signed {w x : Nat} (h : x < 2 ^ w) : intValue true w x = signedLane w x := by
  simp [intValue, signedLane, Nat.mod_eq_of_lt h]

/-- Patterns of one width with one signed value are one pattern. -/
theorem signedLane_inj {w x y : Nat} (hx : x < 2 ^ w) (hy : y < 2 ^ w) (e : signedLane w x = signedLane w y) : x = y := by
  have hx : (x : Int) < 2 ^ w := by exact_mod_cast hx
  have hy : (y : Int) < 2 ^ w := by exact_mod_cast hy
  unfold signedLane at e
  split at e <;> split at e <;> omega

theorem intMinMax_signed_min {w x y : Nat} (hx : x < 2 ^ w) (hy : y < 2 ^ w) :
    intMinMax true w false x y = if signedLane w y < signedLane w x then y else x := by
  have same := signedLane_inj hx hy
  simp only [intMinMax, intValue_signed hx, intValue_signed hy, Nat.mod_eq_of_lt hx, Nat.mod_eq_of_lt hy, bne_iff_ne, ne_eq,
    decide_eq_false_iff_not, not_not]
  split <;> split <;> omega

theorem intMinMax_signed_max {w x y : Nat} (hx : x < 2 ^ w) (hy : y < 2 ^ w) :
    intMinMax true w true x y = if signedLane w x < signedLane w y then y else x := by
  simp only [intMinMax, intValue_signed hx, intValue_signed hy, Nat.mod_eq_of_lt hx, Nat.mod_eq_of_lt hy, bne_iff_ne, ne_eq,
    decide_eq_true_eq, ite_not]

theorem intMinMax_unsigned_min {w x y : Nat} (hx : x < 2 ^ w) (hy : y < 2 ^ w) :
    intMinMax false w false x y = if y < x then y else x := by
  simp only [intMinMax, intValue, Bool.false_eq_true, false_and, if_false, Nat.mod_eq_of_lt hx, Nat.mod_eq_of_lt hy, bne_iff_ne, ne_eq,
    decide_eq_false_iff_not, not_not]
  split <;> split <;> omega

theorem intMinMax_unsigned_max {w x y : Nat} (hx : x < 2 ^ w) (hy : y < 2 ^ w) :
    intMinMax false w true x y = if x < y then y else x := by
  simp only [intMinMax, intValue, Bool.false_eq_true, false_and, if_false, Nat.mod_eq_of_lt hx, Nat.mod_eq_of_lt hy, bne_iff_ne, ne_eq,
    decide_eq_true_eq]
  split <;> split <;> omega

/-- A sign extension by its value is that of the bit vector (R46). -/
theorem sext64_eq {w : Nat} (pos : 0 < w) (x : Nat) : sext64 w x = (BitVec.ofNat w x).signExtend 64 := by
  have half : 2 ^ w = 2 * 2 ^ (w - 1) := by rw [← Nat.pow_succ', Nat.succ_eq_add_one, Nat.sub_add_cancel pos]
  have value : intValue true w x = (BitVec.ofNat w x).toInt := by
    simp only [intValue, BitVec.toInt, BitVec.toNat_ofNat, true_and]
    split <;> split <;> omega
  rw [sext64, value]
  rfl

/-! ### What an atomic stores and gives (R138, R139) -/

/-- Bits of an atomic's width. -/
def wdBits (wd : Bool) : Nat := if wd then 64 else 32

theorem eight_wdBytes (wd : Bool) : 8 * wdBytes wd = wdBits wd := by cases wd <;> rfl

theorem wdBits_pos (wd : Bool) : 0 < wdBits wd := by cases wd <;> decide

theorem pow_wdBytes (wd : Bool) : 256 ^ wdBytes wd = 2 ^ wdBits wd := by rw [← eight_wdBytes, Nat.pow_mul]

theorem aopApply_eq_table (op : Aop) {w old v : Nat} (ho : old < 2 ^ w) (hv : v < 2 ^ w) :
    aopApply op w old v = atomicTable op w old v := by
  cases op with
  | add | and | or | xor => rfl
  | min => exact intMinMax_signed_min ho hv
  | max => exact intMinMax_signed_max ho hv
  | minn => exact intMinMax_unsigned_min ho hv
  | maxn => exact intMinMax_unsigned_max ho hv
  | xchg => exact Nat.mod_eq_of_lt hv

theorem atomicTable_lt (op : Aop) {w old v : Nat} (ho : old < 2 ^ w) (hv : v < 2 ^ w) : atomicTable op w old v < 2 ^ w := by
  cases op with
  | add => exact Nat.mod_lt _ (Nat.two_pow_pos w)
  | and => exact Nat.and_lt_two_pow _ hv
  | or => exact Nat.or_lt_two_pow ho hv
  | xor => exact Nat.xor_lt_two_pow ho hv
  | min | max | minn | maxn =>
    unfold atomicTable
    dsimp only
    split <;> assumption
  | xchg => exact hv

/-- An atomic by R138's table, global or by cluster address. -/
theorem newValue_table {x : Access} {d a : Reg} {op : Aop} {wd : Bool} {os : OrdScope}
    (form : x.instr = .atg d a op wd os ∨ x.instr = .ats d a op wd os) {old : Nat} (ho : old < 2 ^ wdBits wd) :
    x.newValue old = some (atomicTable op (wdBits wd) old (x.data.toNat % 2 ^ wdBits wd)) := by
  rw [← aopApply_eq_table op ho (Nat.mod_lt _ (Nat.two_pow_pos _)), ← eight_wdBytes]
  rcases form with e | e <;> simp [Access.newValue, Access.size, e]

/-- A compare of R139, global or by cluster address. -/
theorem newValue_compare {x : Access} {d a b : Reg} {wd : Bool} {os : OrdScope}
    (form : x.instr = .casg d a b wd os ∨ x.instr = .cass d a b wd os) (old : Nat) :
    x.newValue old = if old = x.expect.toNat % 2 ^ wdBits wd then some (x.data.toNat % 2 ^ wdBits wd) else none := by
  rw [← eight_wdBytes]
  rcases form with e | e <;> simp [Access.newValue, Access.size, e]

theorem result_atomic {x : Access} {d a b : Reg} {op : Aop} {wd : Bool} {os : OrdScope}
    (form : x.instr ∈ [.atg d a op wd os, .ats d a op wd os, .casg d a b wd os, .cass d a b wd os]) (old : Nat) :
    x.result old = (BitVec.ofNat (wdBits wd) old).signExtend 64 := by
  rw [← sext64_eq (wdBits_pos wd), ← eight_wdBytes]
  simp only [List.mem_cons, List.not_mem_nil, or_false] at form
  rcases form with e | e | e | e <;> simp [Access.result, Access.size, e]

end Sys2Proof.Proofs

end


/-! O18, the atomics by cluster address at issue. -/
section

namespace Sys2Proof.Proofs
open Sys2Proof.Machine Sys2Proof.Laws

/-! ### A scratchpad that an access may store to -/

/-- A core whose scratchpad takes a value, if there is one (R139). -/
def stored (c : Core) (off n : Nat) : Option Nat → Core
  | some v => c.scratchPut off n v
  | none => c

theorem stored_frame (c : Core) (off n : Nat) (v : Option Nat) :
    ∃ m p w, stored c off n v = { c with scratch := m, poison := p, wins := w } := by
  cases v with
  | none => exact ⟨c.scratch, c.poison, c.wins, rfl⟩
  | some v =>
    obtain ⟨w, put⟩ := scratchWrite_eq c off (bytesOf n v)
    exact ⟨_, _, w, put⟩

theorem stored_read {c : Core} (wf : Memory.wf c.scratch = true) (off n : Nat) (v : Option Nat) :
    (stored c off n v).scratchRead off n = v.elim (c.scratchRead off n) (· % 256 ^ n) := by
  cases v with
  | none => rfl
  | some v =>
    unfold Core.scratchRead stored
    rw [scratchPut_scratch]
    exact memRead_memPut_same wf off n v

theorem stored_byte {c : Core} (wf : Memory.wf c.scratch = true) {off n y : Nat} (outside : y < off ∨ off + n ≤ y) (v : Option Nat) :
    (stored c off n v).byte y = c.byte y := by
  cases v with
  | none => rfl
  | some v =>
    unfold Core.byte stored
    rw [scratchPut_scratch, memGet_memPut wf, if_neg (by omega)]

/-! ### An access of the own scratchpad -/

/-- An access by a cluster address that reaches the own core, which no freeze, fill or poison keeps from it. -/
theorem tryRemote_own {s : State} {a : Access} (own : caTarget s.c.id a.addr = s.c.id) (going : s.c.freeze = 0)
    (filled : s.c.needsFill (a.addr % 2 ^ 20) a.size = false) (clean : s.c.scratchPoisoned (a.addr % 2 ^ 20) a.size = false) :
    ∃ h l, s.tryRemote s.c.id a = .done { s with
        c := stored s.c (a.addr % 2 ^ 20) a.size (a.newValue (s.c.scratchRead (a.addr % 2 ^ 20) a.size)), heard := h, carry := l }
      (s.c.scratchRead (a.addr % 2 ^ 20) a.size) := by
  simp only [State.tryRemote, own, core_self, going, filled, clean, ne_eq, not_true_eq_false, false_and, if_false, Bool.false_eq_true]
  cases a.newValue (s.c.scratchRead (a.addr % 2 ^ 20) a.size) with
  | none => exact ⟨_, _, rfl⟩
  | some v =>
    dsimp only
    exact ⟨_, _, congrArg (Tried.done · _) (setCore_own (scratchPut_id s.c _ _ v))⟩

theorem clusterIssue_remote {s : State} {a : Access} (valid : caValid a.addr = true) (aligned : a.addr % a.size = 0)
    (remote : caTarget s.c.id a.addr ≠ s.c.id) (os : OrdScope) :
    clusterIssue a os s = .ok { s with c := (s.c.outstanding a none).acquireAfter os } := by
  simp [clusterIssue, valid, aligned, remote]

theorem clusterIssue_own {s t : State} {a : Access} {v : Nat} (valid : caValid a.addr = true) (aligned : a.addr % a.size = 0)
    (own : caTarget s.c.id a.addr = s.c.id) (free : s.c.bankConflict (a.addr % 2 ^ 20) a.size = false)
    (filled : s.c.needsFill (a.addr % 2 ^ 20) a.size = false) (tried : s.tryRemote s.c.id a = .done t v) (os : OrdScope) :
    clusterIssue a os s = .ok { t with c := (t.c.outstanding a (some (a.result v).toNat)).acquireAfter os } := by
  simp only [clusterIssue, valid, aligned, own, free, filled, tried, decide_true, Bool.and_false, Bool.not_true, Bool.false_eq_true,
    ne_eq, not_true_eq_false, if_false]

/-- What an access by a cluster address leaves of its own core, beside the scratchpad. -/
def outstandingCore (c : Core) (x : Access) (got : Option Nat) (d : Reg) (os : OrdScope) : Core :=
  { c with ilk := c.ilk ++ [⟨.access x got, scalarDest d, c.age⟩], flow := { c.flow with fence := fenceBehind os c.flow.fence } }

section
variable {s : State} {i : Instr} {x : Access} {d : Reg} (issues : s.Issues i) (slot : i.slot.getD 0 = 3)
  (dest : x.reg.map Dest.scalar = scalarDest d) (valid : caValid x.addr = true) (aligned : x.addr % x.size = 0)
include issues slot dest valid aligned

theorem slotExec_clusterIssue_remote (remote : caTarget s.c.id x.addr ≠ s.c.id) (os : OrdScope) :
    slotExec 3 i (clusterIssue x os) s = .next (s.after (outstandingCore s.c x none d os)) := by
  rw [slotExec_ok issues slot (clusterIssue_remote valid aligned remote os), outstanding_acquireAfter dest]
  rfl

theorem slotExec_clusterIssue_own (own : caTarget s.c.id x.addr = s.c.id) (wf : Memory.wf s.c.scratch = true) (going : s.c.freeze = 0)
    (free : s.c.bankConflict (x.addr % 2 ^ 20) x.size = false) (filled : s.c.needsFill (x.addr % 2 ^ 20) x.size = false)
    (clean : s.c.scratchPoisoned (x.addr % 2 ^ 20) x.size = false) (os : OrdScope) :
    let off := x.addr % 2 ^ 20
    let old := s.c.scratchRead off x.size
    ∃ t : State, slotExec 3 i (clusterIssue x os) s = .next t ∧ t.verdict = .issued ∧ t.mem = s.mem ∧ t.stores = s.stores ∧
      t.others = s.others ∧
      t.c = { outstandingCore s.c x (some (x.result old).toNat) d os with scratch := t.c.scratch, poison := t.c.poison, wins := t.c.wins } ∧
      t.c.scratchRead off x.size = (x.newValue old).elim old (· % 256 ^ x.size) ∧
      ∀ y, (y < off ∨ off + x.size ≤ y) → t.c.byte y = s.c.byte y := by
  intro off old
  obtain ⟨h, l, tried⟩ := tryRemote_own own going filled clean
  have done := slotExec_ok issues slot (clusterIssue_own valid aligned own free filled tried os)
  rw [outstanding_acquireAfter dest] at done
  refine ⟨_, done, rfl, rfl, rfl, rfl, ?frame, ?read, fun y outside => ?byte⟩
  case frame =>
    obtain ⟨m, p, w, frame⟩ := stored_frame s.c off x.size (x.newValue old)
    dsimp only
    rw [frame]
    rfl
  case read => exact stored_read wf off x.size (x.newValue old)
  case byte => exact stored_byte wf outside (x.newValue old)

end

/-- Settles O18: the operations by R138's table and R139's comparison, then an access of another core's scratchpad and of the own. -/
theorem clusterAtomics : Obligations.ClusterAtomics := by
  refine ⟨?ops, ?issue⟩
  case ops =>
    intro i d a b op wd os addr old age v e w x small
    exact ⟨fun form => newValue_table (x := x) form small, fun form => newValue_compare (x := x) form old,
      fun form => result_atomic (x := x) form old⟩
  case issue =>
    intro s d a b op wd os i x new w form issues valid aligned k off fence out
    have runs : exec i s = slotExec 3 i (clusterIssue x os) s := by
      rcases form with ⟨rfl, rfl, -⟩ | ⟨rfl, rfl, -⟩ <;> rfl
    have slot : i.slot.getD 0 = 3 := by
      rcases form with ⟨rfl, -⟩ | ⟨rfl, -⟩ <;> rfl
    have addr : x.addr = s.c.xn a := by
      rcases form with ⟨-, rfl, -⟩ | ⟨-, rfl, -⟩ <;> rfl
    have size : x.size = wdBytes wd := by
      rcases form with ⟨rfl, rfl, -⟩ | ⟨rfl, rfl, -⟩ <;> rfl
    have dest : x.reg.map Dest.scalar = scalarDest d := reg_dest <| by
      rcases form with ⟨rfl, rfl, -⟩ | ⟨rfl, rfl, -⟩
      · exact .inr (.inr (.inr (.inl ⟨_, _, _, _, rfl⟩)))
      · exact .inr (.inr (.inr (.inr ⟨_, _, _, _, rfl⟩)))
    have result (v : Nat) : x.result v = (BitVec.ofNat (wdBits wd) v).signExtend 64 := by
      refine result_atomic (d := d) (a := a) (b := b) (op := op) (os := os) ?_ v
      rcases form with ⟨rfl, rfl, -⟩ | ⟨rfl, rfl, -⟩ <;> simp
    have leaves (old : Nat) (small : old < 256 ^ wdBytes wd) : (x.newValue old).elim old (· % 256 ^ wdBytes wd) = new old := by
      rw [pow_wdBytes] at small ⊢
      rcases form with ⟨rfl, rfl, rfl⟩ | ⟨rfl, rfl, rfl⟩
      · rw [newValue_table (.inr rfl) small]
        exact Nat.mod_eq_of_lt (atomicTable_lt op small (Nat.mod_lt _ (Nat.two_pow_pos _)))
      · rw [newValue_compare (.inr rfl), apply_ite (Option.elim · old (· % 2 ^ wdBits wd))]
        exact if_congr Iff.rfl (Nat.mod_mod _ _) rfl
    rw [runs]
    refine ⟨?remote, ?own⟩
    case remote =>
      intro remote
      exact slotExec_clusterIssue_remote issues slot dest (addr ▸ valid) (addr ▸ size ▸ aligned) (addr ▸ remote) os
    case own =>
      intro own wf going free filled clean old
      have done := slotExec_clusterIssue_own issues slot dest (addr ▸ valid) (addr ▸ size ▸ aligned) (addr ▸ own) wf going
        (addr ▸ size ▸ free) (addr ▸ size ▸ filled) (addr ▸ size ▸ clean) os
      simp only [addr, size, result, leaves _ (scratchRead_lt wf _ _)] at done
      exact done

end Sys2Proof.Proofs

end


/-! O26, the control registers that MFC reads and MTC writes. -/
section

namespace Sys2Proof.Proofs
open Sys2Proof.Machine Sys2Proof.Laws

/-! ### The registers of R16 -/

/-- The registers that MTC may not write, on a compute core and on the others. -/
def readOnlyCrs (own : Bool) : List Nat :=
  if own then [2, 0x11, 0x14, 0x15, 0x16, 0x17, 0x38, 0x39, 0x40, 0x41, 0x42, 0x48, 0x49, 0x4A, 0x4C, 0x4D] else [0x11, 0x39, 0x48, 0x49]

/-- The registers that MTC may write, on a compute core and on the others. -/
def writableCrs (own : Bool) : List Nat :=
  if own then [0, 1, 4, 5, 6, 8, 9, 10, 0x10, 0x20, 0x21, 0x22, 0x23, 0x24, 0x25, 0x26, 0x27, 0x28, 0x29, 0x2A, 0x30, 0x31, 0x32, 0x50]
  else [0, 4, 5, 6, 8, 9, 10, 0x10, 0x38, 0x40, 0x41, 0x42]

theorem crExists_of_mem : ∀ (own : Bool), ∀ k ∈ readOnlyCrs own ++ writableCrs own, crExists own k = true := by decide

theorem crKind_beyond {k : Nat} (beyond : 0x50 < k) : crKind k = none := by
  unfold crKind
  repeat rw [if_neg (by omega)]

theorem mem_of_crExists_low : ∀ (own : Bool), ∀ k < 0x51, crExists own k = true → k ∈ readOnlyCrs own ++ writableCrs own := by decide

theorem mem_of_crExists {own : Bool} {k : Nat} (h : crExists own k = true) : k ∈ readOnlyCrs own ++ writableCrs own := by
  by_cases beyond : 0x50 < k
  · simp [crExists, crKind_beyond beyond] at h
  · exact mem_of_crExists_low own k (by omega) h

theorem crExists_false {own : Bool} {k : Nat} (absent : k ∉ readOnlyCrs own ++ writableCrs own) : crExists own k = false :=
  Bool.eq_false_iff.mpr fun h => absent (mem_of_crExists h)

theorem crWritable_false : ∀ (own : Bool), ∀ k ∈ readOnlyCrs own, crWritable own k = false := by decide

theorem crWritable_true : ∀ (own : Bool), ∀ k ∈ writableCrs own, crWritable own k = true := by decide

theorem corenoOf_toNat (standby : Bool) (k : CoreId) : (corenoOf standby k).toNat = corenoFields standby k % 2 ^ 64 := by
  cases k <;> cases standby <;> simp [corenoOf, corenoFields, dieCluster, isCompute, clusterOf, coreNumber]

/-- The bits of a field that starts at bit 0, under its mask. -/
theorem and_crMask : ∀ (own : Bool), ∀ k ∈ writableCrs own, k ∉ [0, 1, 0x10] →
    crMask k = BitVec.ofNat 64 (2 ^ crBits k - 1) ∧ crBits k ≤ 64 := by decide

theorem and_mask_toNat {n : Nat} (h : n ≤ 64) (x : Word) : (x &&& BitVec.ofNat 64 (2 ^ n - 1)).toNat = x.toNat % 2 ^ n := by
  have fits : 2 ^ n - 1 < 2 ^ 64 := by
    have := Nat.pow_le_pow_right (n := 2) (by decide) h
    have := Nat.two_pow_pos n
    omega
  rw [BitVec.toNat_and, BitVec.toNat_ofNat, Nat.mod_eq_of_lt fits, Nat.and_two_pow_sub_one_eq_mod]

/-- The two bits of corecfg, and no other, are set. -/
theorem and_three_eq {x : Word} : x &&& 3#64 = x ↔ x.toNat < 4 := by
  have low : (x &&& 3#64).toNat = x.toNat % 2 ^ 2 := and_mask_toNat (n := 2) (by decide) x
  rw [← BitVec.toNat_inj, low]
  omega

/-! ### What MFC and MTC do (R17, R108) -/

/-- What MFC reads of a register, as R16 and R19 give it. -/
theorem readCr_toNat (s : State) (k : Nat) :
    (s.readCr k).toNat = if k = 0x11 then corenoFields s.umpire.standby s.c.id % 2 ^ 64 else (s.c.cr (Fin.ofNat 96 k)).toNat := by
  unfold State.readCr
  split
  · exact corenoOf_toNat _ _
  · rfl

section
variable {s : State} {d a : Reg} {n : BitVec 12}

theorem mfcBody_absent (absent : crExists (isCompute s.c.id) n.toNat = false) : mfcBody d n s = .trap s.illegal5 := by
  simp [mfcBody, absent]

theorem mfcBody_tick (tick : n.toNat = 0x39) :
    mfcBody d n s = .ok { s with c := { s.c with ilk := s.c.ilk ++ [⟨.tick, scalarDest d, s.c.age⟩] } } := by
  have present : crExists (isCompute s.c.id) 0x39 = true := by cases isCompute s.c.id <;> rfl
  simp [mfcBody, tick, present, scalarDest]

theorem mfcBody_interlocked (present : crExists (isCompute s.c.id) n.toNat = true) (fixed : n.toNat = 0x38 ∨ n.toNat = 0x32) :
    mfcBody d n s = .ok { s with c := { s.c with ilk := s.c.ilk ++ [⟨.value (s.readCr n.toNat).toNat, scalarDest d, s.c.age⟩] } } := by
  have other : n.toNat ≠ 0x39 := by omega
  simp [mfcBody, present, other, fixed, scalarDest]

theorem mfcBody_plain (present : crExists (isCompute s.c.id) n.toNat = true) (plain : n.toNat ∉ [0x32, 0x38, 0x39]) :
    mfcBody d n s = .ok { s with c := s.c.enter 0 1 (.scalar d) (s.readCr n.toNat).toNat 0 } := by
  simp only [List.mem_cons, List.not_mem_nil, or_false, not_or] at plain
  simp [mfcBody, present, plain, Core.enterS]

theorem mtcBody_absent (absent : crExists (isCompute s.c.id) n.toNat = false) : mtcBody a n s = .trap s.illegal5 := by
  simp [mtcBody, absent]

theorem mtcBody_readOnly (present : crExists (isCompute s.c.id) n.toNat = true) (fixed : crWritable (isCompute s.c.id) n.toNat = false) :
    mtcBody a n s = .trap (s.openTrap .privilege) := by
  simp [mtcBody, present, fixed]

theorem mtcBody_tagbits (tagbits : n.toNat = 0) : mtcBody a n s = .ok { s with c := s.c.clearTags (s.c.rs a) } := by
  have present : crExists (isCompute s.c.id) 0 = true := by cases isCompute s.c.id <;> rfl
  have free : crWritable (isCompute s.c.id) 0 = true := by cases isCompute s.c.id <;> rfl
  simp [mtcBody, tagbits, present, free]

theorem mtcBody_fmt (fmt : n.toNat = 1) (own : isCompute s.c.id = true) :
    mtcBody a n s = if fmtBad (s.c.rs a) then .trap s.illegal5 else .ok { s with c := s.c.enter 0 5 (.fmt true) (s.c.xn a) 0 } := by
  have present : crExists true 1 = true := rfl
  have free : crWritable true 1 = true := rfl
  simp [mtcBody, fmt, own, present, free, Core.xn]

theorem mtcBody_corecfg (corecfg : n.toNat = 0x10) :
    mtcBody a n s = if s.c.xn a < 4 then .ok { s with c := s.c.enter 0 1 (.ctl (Fin.ofNat 96 n.toNat)) (s.c.xn a) 0 } else .trap s.illegal5 := by
  have present : crExists (isCompute s.c.id) 0x10 = true := by cases isCompute s.c.id <;> rfl
  have free : crWritable (isCompute s.c.id) 0x10 = true := by cases isCompute s.c.id <;> rfl
  simp [mtcBody, corecfg, present, free, and_three_eq, Core.xn, Core.enterCr, -Nat.not_lt, -not_lt]

theorem mtcBody_field (present : crExists (isCompute s.c.id) n.toNat = true) (free : crWritable (isCompute s.c.id) n.toNat = true)
    (plain : n.toNat ∉ [0, 1, 0x10]) :
    mtcBody a n s = .ok { s with c := s.c.enter 0 1 (.ctl (Fin.ofNat 96 n.toNat)) (s.c.rs a &&& crMask n.toNat).toNat 0 } := by
  simp only [List.mem_cons, List.not_mem_nil, or_false, not_or] at plain
  simp [mtcBody, present, free, plain, Core.enterCr]

end

/-- Settles O26: the lists of R16 are those of the model, and each group of registers has one effect. -/
theorem controlRegisterForms : Obligations.ControlRegisterForms := by
  intro s d a n k held own ro rw' dest
  have heldValue : (s.readCr k).toNat = held := readCr_toNat s k
  have present (listed : k ∈ ro ++ rw') : crExists own k = true := crExists_of_mem own k listed
  have free (listed : k ∈ rw') : crWritable own k = true := crWritable_true own k listed
  refine ⟨fun issues => ⟨?absent, ?tick, ?fixed, ?plain⟩, fun issues => ⟨?wAbsent, ?readOnly, ?tagbits, ?fmt, ?corecfg, ?field⟩⟩
  case absent => exact fun absent => slotExec_trap issues rfl (mfcBody_absent (crExists_false absent))
  case tick => exact fun tick => slotExec_ok issues rfl (mfcBody_tick tick)
  case fixed =>
    intro fixed
    have there : crExists own k = true := by
      rcases fixed with slice | ⟨decoupst, compute⟩
      · rw [slice]
        cases own <;> rfl
      · rw [decoupst, compute]
        rfl
    rw [← heldValue]
    exact slotExec_ok issues rfl (mfcBody_interlocked there (fixed.imp_right And.left))
  case plain =>
    intro listed plain
    rw [← heldValue]
    exact slotExec_ok issues rfl (mfcBody_plain (present listed) plain)
  case wAbsent => exact fun absent => slotExec_trap issues rfl (mtcBody_absent (crExists_false absent))
  case readOnly =>
    exact fun listed => ⟨_, slotExec_trap issues rfl (mtcBody_readOnly (present (List.mem_append_left _ listed)) (crWritable_false own k listed))⟩
  case tagbits => exact fun tagbits => slotExec_ok issues rfl (mtcBody_tagbits tagbits)
  case fmt =>
    intro fmt compute
    have body := mtcBody_fmt (a := a) fmt compute
    split
    next bad => exact slotExec_trap issues rfl (body.trans (if_pos bad))
    next good => exact slotExec_ok issues rfl (body.trans (if_neg good))
  case corecfg =>
    intro corecfg
    have body := mtcBody_corecfg (s := s) (a := a) corecfg
    split
    next small => exact slotExec_ok issues rfl (body.trans (if_pos small))
    next large => exact slotExec_trap issues rfl (body.trans (if_neg large))
  case field =>
    intro listed plain
    obtain ⟨mask, fits⟩ := and_crMask own k listed plain
    have value : (s.c.rs a &&& crMask k).toNat = s.c.xn a % 2 ^ crBits k := by rw [mask]; exact and_mask_toNat fits _
    rw [← value]
    exact slotExec_ok issues rfl (mtcBody_field (present (List.mem_append_right _ listed)) (free listed) plain)

end Sys2Proof.Proofs

end


/-! O34, the queue forms at issue, and the append that follows their release. -/
section

namespace Sys2Proof.Proofs
open Sys2Proof.Machine Sys2Proof.Laws

/-! ### At issue (R203 to R205) -/

theorem handleTrap_none {s : State} {h : Word} {task : Bool} (ok : s.handleOk h task) : s.handleTrap h task = none := by
  obtain ⟨small, part, running, kind, valid, reserved, ctx⟩ := ok
  simp only [State.handleTrap, Queue.kindNow, Queue.ctxOf, Queue.isTask, kindValid, running, kind, valid, reserved, Bool.false_eq_true,
    if_false, ne_eq, not_false_eq_true, and_self, decide_true, Bool.not_true, not_true_eq_false, false_or]
  rw [if_neg]
  rintro (large | far | ⟨compute, other⟩)
  · omega
  · omega
  · exact other (ctx compute)

theorem recTrap_none {s : State} {q : Queue} {r : BitVec 512} (fresh : recResume r = false) (formed : recMalformed r = false)
    (near : recFar r = none) (comp : isCompute s.c.id = true → recField r 40 1 = s.c.party.comp) : s.recTrap q r = none := by
  simp only [State.recTrap, fresh, formed, near, Bool.false_eq_true, if_false]
  exact if_neg fun h => h.2 (comp h.1)

theorem exec_qenq {s : State} {p : PReg} {a b : Reg} (issues : s.Issues (.qenq p a b)) (ok : s.handleOk (s.c.rs a) false) :
    exec (.qenq p a b) s = .next (s.after { s.c with
      ilk := s.c.ilk ++ [⟨.enq (s.partOf (clusterOf s.c.id)) (s.c.xn a) (s.c.rs b), pushDest p, s.c.age⟩] }) := by
  show execQenq p a b s = _
  unfold execQenq
  refine slotExec_ok (t := { s with c := s.c.afterRelease _ (pushDest p) }) issues rfl ?_
  simp only [handleTrap_none ok]
  rfl

theorem exec_qdeq {s : State} {d a : Reg} (issues : s.Issues (.qdeq d a)) (ok : s.handleOk (s.c.rs a) false) :
    let here := s.partOf (clusterOf s.c.id)
    exec (.qdeq d a) s = .next { s.after { s.c with ilk := s.c.ilk ++ [⟨.qdeq here (s.c.xn a) none, scalarDest d, s.c.age⟩] } with
      queues := put s.queues (here, s.c.xn a) { s.queue here (s.c.xn a) with
        waiters := (s.queue here (s.c.xn a)).waiters ++ [.core s.c.id] } } := by
  show execQdeq d a s = _
  unfold execQdeq
  refine slotExec_ok (t := { s with c := { s.c with ilk := s.c.ilk ++ [⟨.qdeq _ _ none, scalarDest d, s.c.age⟩] }, queues := put s.queues _ _ })
    issues rfl ?_
  simp only [handleTrap_none ok]
  rfl

theorem exec_tqpush {s : State} {p : PReg} {a b : Reg} (issues : s.Issues (.tqpush p a b)) (ok : s.handleOk (s.c.rs a) true)
    (readable : s.c.operandOk (s.c.xn b) 64 64)
    (good : ∀ q, s.recTrap q (BitVec.ofNat 512 (s.c.scratchRead (s.c.xn b) 64)) = none) :
    exec (.tqpush p a b) s = .next (s.after { s.c with
      ilk := s.c.ilk ++ [⟨.push (s.partOf (clusterOf s.c.id)) (s.c.xn a) (BitVec.ofNat 512 (s.c.scratchRead (s.c.xn b) 64)) (s.c.xn b),
        pushDest p, s.c.age⟩] }) := by
  show execTqpush p a b s = _
  unfold execTqpush
  refine slotExec_ok (t := { s with c := s.c.afterRelease _ (pushDest p) }) issues rfl ?_
  simp only [handleTrap_none ok]
  refine (localOperand_pass readable).trans ?_
  simp only [good]
  rfl

/-! ### Behind the release (R105, R277, R279) -/

theorem releaseReady_of_released {s : State} (h : s.released) (age : Nat) :
    s.releaseReady { s.coreBefore s.c age with ilk := [] } .mod = true := by
  obtain ⟨held, stq, log, gather, lost, marks, covered⟩ := h
  have performed : ∀ i ∈ (s.c.ord.before age).covered, s.isPending i = false := by
    intro i hi
    refine covered i ?_
    simp only [Ordering.covered, idsOf, Ordering.before, List.mem_append, List.mem_map, List.mem_filter] at hi ⊢
    exact hi.imp (fun ⟨e, he, x⟩ => ⟨e, he.1, x⟩) (fun ⟨e, he, x⟩ => ⟨e, he.1, x⟩)
  have all : (s.c.ord.before age).covered.all (s.performedAt s.c.id .mod) = true :=
    List.all_eq_true.mpr fun i hi => by simp [State.performedAt, performed i hi]
  have noMarks : (s.c.ord.before age).marks = [] := marks
  have noLoss : (s.c.ord.before age).lost = none := by simp [Ordering.before, lost]
  simp only [Ordering.covered] at all
  simp [State.releaseReady, Core.loadsDone, Core.accessesDone, State.storesDone, State.coreBefore, held, stq, log, gather, noLoss, noMarks,
    Ordering.covered, all]

/-- The one outstanding operation of the stepping core, behind a release that is performed, is done and gives its result. -/
theorem releasedArrives_of_released {s : State} {kind : IlkKind} {dest : Option Dest} {age : Nat} (only : s.c.ilk = [⟨kind, dest, age⟩])
    (h : s.released) :
    s.releasedArrives s.c.id 0 ⟨kind, dest, age⟩ =
      (s.releasedOp s.c.id kind).1.deliver s.c.id 0 dest (s.releasedOp s.c.id kind).2 := by
  have ready := releaseReady_of_released h (age + 1)
  simp only [State.releasedArrives, core_self, only, List.take_zero, List.all_nil, Bool.not_true, Bool.false_eq_true, if_false, ready, if_true]

/-- The predicate that an append delivers. -/
def pushed (c : Core) (p : PReg) (took : Bool) : Core :=
  ({ c with ilk := [] } : Core).writeP p (if took then BitVec.allOnes 512 else 0)

/-- An item or a record that passes, whose release is performed, is appended. -/
theorem exec_append {s : State} {p : PReg} {part qn age x : Nat} {kind : IlkKind}
    (value : (∃ v : Word, kind = .enq part qn v ∧ x = v.toNat) ∨
      ∃ r off, kind = .push part qn r off ∧ recTooLarge r = false ∧ x = r.toNat)
    (only : s.c.ilk = [⟨kind, pushDest p, age⟩]) (h : s.released) :
    exec (.interlockedResultArrives s.c.id 0) s = .next ((s.append part qn x).1.deliver s.c.id 0 (pushDest p)
      (if (s.append part qn x).2 then 2 ^ 512 - 1 else 0)) := by
  have arrives := releasedArrives_of_released only h
  show execInterlockedResultArrives s.c.id 0 s = _
  unfold execInterlockedResultArrives
  rw [core_self, only]
  rcases value with ⟨v, rfl, rfl⟩ | ⟨r, off, rfl, small, rfl⟩
  · exact congrArg Host.Outcome.next arrives
  · refine congrArg Host.Outcome.next (arrives.trans ?_)
    simp only [State.releasedOp, State.pushRecord, small, Bool.and_false, Bool.false_eq_true, if_false]

theorem writeP_id (c : Core) (p : PReg) (x : Pred) : (c.writeP p x).id = c.id := by
  unfold Core.writeP
  split <;> rfl

theorem deliver_pushed {s t : State} {p : PReg} {o : Ilk} (cores : SameCores s t) (only : s.c.ilk = [o]) (took : Bool) :
    t.deliver s.c.id 0 (pushDest p) (if took then 2 ^ 512 - 1 else 0) = { t with c := pushed s.c p took } := by
  have own : (pushed s.c p took).id = t.c.id := (writeP_id _ p _).trans (congrArg Core.id cores.1).symm
  have gone : ({ s.c with ilk := dropNth s.c.ilk 0 } : Core) = { s.c with ilk := [] } := by rw [only]; rfl
  have bits : BitVec.ofNat 512 (if took then 2 ^ 512 - 1 else 0) = if took then BitVec.allOnes 512 else 0 := by
    cases took with
    | true => exact BitVec.eq_of_toNat_eq (by
        rw [if_pos rfl, if_pos rfl, BitVec.toNat_ofNat, BitVec.toNat_allOnes, Nat.mod_eq_of_lt (Nat.sub_one_lt (Nat.two_pow_pos 512).ne')])
    | false => rfl
  refine Eq.trans ?_ (setCore_own own)
  unfold State.deliver pushed pushDest
  rw [cores.core, core_self, gone]
  by_cases zero : p = 0
  · simp only [zero, Core.writeP, if_true]
  · simp only [zero, if_false, Core.writeDest, bits]

theorem pushed_ilk (c : Core) (p : PReg) (took : Bool) : (pushed c p took).ilk = [] := by simp [pushed]

theorem pushed_taken (c : Core) (p : PReg) : (pushed c p true).rp p = BitVec.allOnes 512 := by
  by_cases zero : p = 0
  · simp [Core.rp, zero]
  · simp [pushed, Core.rp, Core.writeP, zero]

/-! ### The append (R277, R279) -/

theorem append_full {s : State} {part qn : Nat} (full : (s.queue part qn).used = (s.queue part qn).size) (v : Nat) :
    s.append part qn v = (s, false) := by
  simp [State.append, Queue.shut, full]

/-- The tail of a queue stands while its waiters are sorted out. -/
theorem look_map_tail {κ : Type} [DecidableEq κ] {f : Queue → Queue} (kept : ∀ q, (f q).tail = q.tail) (d : Queue) (k : κ) :
    ∀ l : List (κ × Queue), (look d (l.map fun e => (e.1, f e.2)) k).tail = (look d l k).tail
  | [] => rfl
  | e :: l => by
    simp only [List.map_cons, look]
    split
    · exact kept _
    · exact look_map_tail kept d k l

theorem endTrapped_kept (s : State) (part qn addr : Nat) (i j : Nat) :
    SameCores s (s.endTrapped part qn addr) ∧ ((s.endTrapped part qn addr).queue i j).tail = (s.queue i j).tail := by
  unfold State.endTrapped
  split
  · exact ⟨SameCores.rfl, look_map_tail (f := fun q => { q with waiters := q.waiters.filter _ }) (fun _ => rfl) _ _ _⟩
  · exact ⟨SameCores.rfl, rfl⟩

theorem append_room {s u : State} {part qn v : Nat} (going : (s.queue part qn).stopped = false)
    (room : (s.queue part qn).used ≠ (s.queue part qn).size)
    (written : s.writeRange (queueParty (s.queue part qn)) ((s.queue part qn).slotAddr (s.queue part qn).tail)
      (s.queue part qn).slotBytes v = .ok u) :
    (s.append part qn v).2 = true ∧ SameCores s (s.append part qn v).1 ∧ (s.append part qn v).1.mem = u.mem ∧
      ((s.append part qn v).1.queue part qn).tail = ((s.queue part qn).tail + 1) % 2 ^ 32 := by
  have cores : SameCores s u := writeRange_sameCores s _ _ _ _ u written
  simp only [State.append, Queue.shut, going, room, decide_false, Bool.or_false, Bool.false_eq_true, if_false, written, true_and]
  have tail : ((u.setQueue part qn { u.queue part qn with tail := ((s.queue part qn).tail + 1) % 2 ^ 32 }).queue part qn).tail =
      ((s.queue part qn).tail + 1) % 2 ^ 32 := congrArg Queue.tail (look_put_same ..)
  split
  · exact ⟨cores, rfl, tail⟩
  · obtain ⟨same, kept⟩ := endTrapped_kept (u.setQueue part qn { u.queue part qn with tail := ((s.queue part qn).tail + 1) % 2 ^ 32 })
      part qn v part qn
    exact ⟨cores.trans same, endTrapped_mem .., kept.trans tail⟩

/-- Settles O34: the three words at issue by their slot's rules; an item or a record behind its release through `exec_append`. -/
theorem queueForms : Obligations.QueueForms := by
  unfold Obligations.QueueForms
  intro s p d a b part qn off age v rec' kind here own q r pd ends outstanding
  refine ⟨exec_qenq, fun issues ok readable fresh formed near comp =>
    exec_tqpush issues ok readable fun _ => recTrap_none fresh formed near comp, exec_qdeq, fun x value only released => ?_⟩
  have appends := exec_append (value.imp (fun h => ⟨v, h⟩) fun h => ⟨rec', off, h⟩) only released
  refine ⟨fun _ full => ?_, fun u going room written => ?_⟩
  · rw [appends, append_full full]
    exact congrArg Host.Outcome.next (deliver_pushed SameCores.rfl only false)
  · obtain ⟨took, cores, mem, tail⟩ := append_room going room written
    rw [took, deliver_pushed cores only true] at appends
    exact ⟨_, appends, mem, tail, pushed_ilk .., pushed_taken ..⟩

end Sys2Proof.Proofs

end


/-! O59, what a word of slot C, V, M or F that issues leaves as it was. -/
section

namespace Sys2Proof.Proofs
open Sys2Proof.Machine Sys2Proof.Laws

/-! ### What stands -/

/-- The registers of a core that its words change after issue only. -/
structure Registers where
  s : Vector Word 32
  v : Vector Vec 32
  p : Vector Pred 8
  ctl : Vector Word 96
  pc : BitVec 49
  tiles : Vector TileBits 4
  wbuf : Vector WBuf 2
  sla : BitVec 32768
  slb : BitVec 32768
  slq : BitVec 4096

def registersOf (c : Core) : Registers := ⟨c.s, c.v, c.p, c.ctl, c.pc, c.tiles, c.wbuf, c.sla, c.slb, c.slq⟩

/-- Memory, the other cores and the registers of the stepping core stand. -/
structure RegistersStand (s t : State) : Prop where
  mem : t.mem = s.mem
  stores : t.stores = s.stores
  host : t.host = s.host
  others : t.others = s.others
  regs : registersOf t.c = registersOf s.c

/-- Its scratchpad stands as well. -/
structure AllStands (s t : State) : Prop extends RegistersStand s t where
  scratch : t.c.scratch = s.c.scratch
  poison : t.c.poison = s.c.poison

theorem allStands_self (s : State) : AllStands s s := ⟨⟨rfl, rfl, rfl, rfl, rfl⟩, rfl, rfl⟩

theorem AllStands.trans {s t u : State} (a : AllStands s t) (b : AllStands t u) : AllStands s u :=
  ⟨⟨b.mem.trans a.mem, b.stores.trans a.stores, b.host.trans a.host, b.others.trans a.others, b.regs.trans a.regs⟩,
    b.scratch.trans a.scratch, b.poison.trans a.poison⟩

/-- Work that issues leaves the registers and the scratchpad. -/
def Leaves (s : State) : Issue → Prop
  | .ok t => AllStands s t
  | _ => True

/-- An instruction that issues leaves them. -/
def LeavesNext (s : State) (o : Host.Outcome State Fault Refusal) : Prop := ∀ t, o = .next t → t.verdict = .issued → AllStands s t

theorem slotExec_leaves {s : State} (slot : Nat) (i : Instr) {body : State → Issue} (hb : Leaves s (body s)) :
    LeavesNext s (slotExec slot i body s) := by
  intro t answers issued
  obtain ⟨u, worked, rfl⟩ := slotExec_issued answers issued
  rw [worked] at hb
  exact hb.trans ⟨⟨rfl, rfl, rfl, rfl, rfl⟩, rfl, rfl⟩

/-! ### The work of each kind of word -/

variable {s : State}

/-- Work that changes nothing of the core but what is pending there. -/
theorem leaves_core {c : Core} (regs : registersOf c = registersOf s.c) (scratch : c.scratch = s.c.scratch) (poison : c.poison = s.c.poison) :
    Leaves s (.ok { s with c := c }) := ⟨⟨rfl, rfl, rfl, rfl, regs⟩, scratch, poison⟩

theorem branchReg_leaves (call : Bool) (x : Word) {f : Core → Core} (regs : registersOf (f s.c) = registersOf s.c)
    (scratch : (f s.c).scratch = s.c.scratch) (poison : (f s.c).poison = s.c.poison) : Leaves s (branchReg call x f s) := by
  unfold branchReg
  split
  · trivial
  · exact leaves_core regs scratch poison

theorem armLoop_leaves (l : Fin 2) (cnt endoff : Nat) : Leaves s (armLoop l cnt endoff s) := by
  unfold armLoop
  dsimp only
  split
  · trivial
  split
  · trivial
  split <;> exact leaves_core rfl rfl rfl

theorem tretBody_leaves : Leaves s (tretBody s) := by
  unfold tretBody
  split
  · trivial
  split
  · trivial
  split
  · trivial
  · exact leaves_core rfl rfl rfl

theorem cbarBody_leaves (a : Reg) (b : Fin 16) : Leaves s (cbarBody a b s) := by
  unfold cbarBody
  dsimp only
  split
  · trivial
  split
  · trivial
  · exact leaves_core rfl rfl rfl

theorem mfcBody_leaves (d : Reg) (n : BitVec 12) : Leaves s (mfcBody d n s) := by
  unfold mfcBody
  dsimp only
  split
  · trivial
  split
  · exact leaves_core rfl rfl rfl
  split <;> exact leaves_core rfl rfl rfl

theorem mtcBody_leaves (a : Reg) (n : BitVec 12) : Leaves s (mtcBody a n s) := by
  unfold mtcBody
  dsimp only
  split
  · trivial
  split
  · trivial
  split
  · exact leaves_core rfl rfl rfl
  split
  · split
    · trivial
    · exact leaves_core rfl rfl rfl
  split
  · split
    · trivial
    · exact leaves_core rfl rfl rfl
  · exact leaves_core rfl rfl rfl

theorem vsredBody_leaves (d a b : Reg) (r : Rop) (t : RedTy) : Leaves s (vsredBody d a b r t s) := by
  unfold vsredBody
  dsimp only
  split
  · trivial
  split
  · trivial
  · exact leaves_core rfl rfl rfl

/-- The writes of a VDRAIN are entered, and land later (R162). -/
theorem drainEnter_registers (c : Core) (d sc : Reg) (p : PReg) (n m : Nat) (es : List Nat) :
    registersOf (c.drainEnter d sc p n m es) = registersOf c ∧ (c.drainEnter d sc p n m es).scratch = c.scratch ∧
      (c.drainEnter d sc p n m es).poison = c.poison := by
  unfold Core.drainEnter
  dsimp only
  split
  · exact ⟨rfl, rfl, rfl⟩
  · exact List.foldlRecOn (motive := fun c' => registersOf c' = registersOf c ∧ c'.scratch = c.scratch ∧ c'.poison = c.poison) _ _
      ⟨rfl, rfl, rfl⟩ fun _ h _ _ => h

theorem vdrainBody_leaves (d sc : Reg) (p : PReg) (l : Bool) (n : Fin 4) : Leaves s (vdrainBody d sc p l n s) := by
  unfold vdrainBody wheyAccess
  dsimp only
  split
  · trivial
  split
  · trivial
  split
  · trivial
  split
  · trivial
  · obtain ⟨regs, scratch, poison⟩ := drainEnter_registers s.c d sc p n.val (s.c.drainCount l)
      ((s.c.wheyOffs s.c.ri.toNat (s.c.drainCount l)).map fun o => s.c.scratchRead o 16)
    exact leaves_core regs scratch poison

theorem withFill_leaves (rs : List (Nat × Nat)) {f : State → Issue} (hf : Leaves s (f s)) : Leaves s (withFill rs f s) := by
  unfold withFill
  split
  · trivial
  · exact hf

theorem startArray_stands (s : State) (i : Instr) (a b : Nat) (p : Pred) (total : Nat) (rows : List Nat) :
    AllStands s (s.startArray i a b p total rows) := ⟨⟨rfl, rfl, rfl, rfl, rfl⟩, rfl, rfl⟩

/-- A task that becomes a reader of the sets it reads changes nothing else (R252). -/
theorem wsRegister_stands (s : State) (off n : Nat) : AllStands s (s.wsRegister off n) := by
  unfold State.wsRegister
  refine List.foldlRecOn _ _ (allStands_self s) fun t stands g _ => ?_
  split
  · exact stands
  dsimp only
  split
  · exact stands
  · exact stands.trans ⟨⟨rfl, rfl, rfl, rfl, rfl⟩, rfl, rfl⟩

theorem plainArray_leaves (i : Instr) (b total : Nat) : Leaves s (plainArray i b total s) := startArray_stands ..

theorem mloadBody_leaves (t : TileNo) (a : Reg) : Leaves s (mloadBody t a s) := by
  unfold mloadBody
  dsimp only
  split
  · trivial
  · exact withFill_leaves _ (startArray_stands ..)

theorem mldwBody_leaves (w : Fin 2) (f : Bool) (a : Reg) : Leaves s (mldwBody w f a s) := by
  unfold mldwBody
  dsimp only
  split
  · split
    · trivial
    · exact withFill_leaves _ (leaves_core rfl rfl rfl)
  split
  · trivial
  split
  · trivial
  · exact (wsRegister_stands ..).trans ⟨⟨rfl, rfl, rfl, rfl, rfl⟩, rfl, rfl⟩

theorem mmulBody_leaves (i : Instr) (a : Reg) (g : Fin 4) (b : Fin 8) (r : Reg) : Leaves s (mmulBody i a g b r s) := by
  unfold mmulBody
  dsimp only
  split
  · trivial
  split
  · trivial
  split
  · exact withFill_leaves _ (startArray_stands ..)
  split
  · split
    · trivial
    split
    · trivial
    · exact withFill_leaves _ ((wsRegister_stands ..).trans (startArray_stands ..))
  split
  · trivial
  split
  · trivial
  · exact withFill_leaves _ (startArray_stands ..)

theorem mdrainBody_leaves (t : TileNo) (a : Reg) (ty : Ty) (p : PReg) (clr : Bool) : Leaves s (mdrainBody t a ty p clr s) := by
  unfold mdrainBody
  dsimp only
  split
  · trivial
  · exact withFill_leaves _ (leaves_core rfl rfl rfl)

theorem fmtBody_leaves (v : Nat) : Leaves s (fmtBody v s) := by
  unfold fmtBody
  split
  · trivial
  · exact leaves_core rfl rfl rfl

theorem latchBody_leaves (i : Fin 4) (n : Nat) (a : Reg) : Leaves s (latchBody i n a s) := by
  unfold latchBody
  dsimp only
  split
  · trivial
  split
  · trivial
  split
  · trivial
  refine withFill_leaves _ ?_
  split
  · trivial
  · exact leaves_core rfl rfl rfl

/-! ### Every word of the four slots -/

/-- The slots C, V, M and F. -/
def InControlVectorMatrix (i : Instr) : Prop := i.slot = some 0 ∨ i.slot = some 4 ∨ i.slot = some 5 ∨ i.slot = some 6

theorem abCode_outside (y : AB) : y.code ≠ 0 ∧ y.code ≠ 4 ∧ y.code ≠ 5 ∧ y.code ≠ 6 := by cases y <;> decide

theorem exec_leaves {i : Instr} (slot : InControlVectorMatrix i) (other : ∀ a b e p n, i ≠ .vdefer a b e p n) : LeavesNext s (exec i s) := by
  unfold exec
  cases i with
  | vdefer a b e p n => exact absurd rfl (other a b e p n)
  | nop | wtall | wtany => exact slotExec_leaves _ _ (allStands_self s)
  | stall | j | call | lbrk | tend | tyield | trap | tffr | tclr | fence | qpop | sync
  | vadd | vsub | vmul | vmulhi | vmad | vand | vor | vxor | vshl | vshrl | vshra | vmin | vmax | vabs | vneg | vsel | vcmp | vfadd
  | vfsub | vfmul | vffma | vfdiv | vfsqrt | vfrcp | vfrsq | vfexp2 | vflog2 | vfmin | vfmax | vfcmp | vcvt | vqnt | vred | vscan
  | vperm | vbcst | viota | vcmpr | slz =>
    exact slotExec_leaves _ _ (leaves_core rfl rfl rfl)
  | brScalar | brPredicate | vdqnt | vmovs =>
    refine slotExec_leaves _ _ ?_
    dsimp only [onCore]
    split <;> exact leaves_core rfl rfl rfl
  | jr | callr | ret => exact slotExec_leaves _ _ (branchReg_leaves _ _ rfl rfl rfl)
  | loop | loops => exact slotExec_leaves _ _ (armLoop_leaves _ _ _)
  | tret => exact slotExec_leaves _ _ tretBody_leaves
  | cbar => exact slotExec_leaves _ _ (cbarBody_leaves _ _)
  | mfc => exact slotExec_leaves _ _ (mfcBody_leaves _ _)
  | mtc => exact slotExec_leaves _ _ (mtcBody_leaves _ _)
  | vtoq =>
    refine slotExec_leaves _ _ ?_
    dsimp only
    split
    · trivial
    · exact leaves_core rfl rfl rfl
  | vdrain => exact slotExec_leaves _ _ (vdrainBody_leaves _ _ _ _ _)
  | vsred => exact slotExec_leaves _ _ (vsredBody_leaves _ _ _ _ _)
  | mzero | mtt | maddt | mscl | mtrn | mnorm => exact slotExec_leaves _ _ (plainArray_leaves _ _ _)
  | mpoly | miter =>
    refine slotExec_leaves _ _ ?_
    split
    · trivial
    · exact plainArray_leaves _ _ _
  | mload => exact slotExec_leaves _ _ (mloadBody_leaves _ _)
  | mldw => exact slotExec_leaves _ _ (mldwBody_leaves _ _ _)
  | mmul => exact slotExec_leaves _ _ (mmulBody_leaves _ _ _ _ _)
  | mdrain => exact slotExec_leaves _ _ (mdrainBody_leaves _ _ _ _ _)
  | fmt | fmts => exact slotExec_leaves _ _ (fmtBody_leaves _)
  | sla | slb | slq => exact slotExec_leaves _ _ (latchBody_leaves _ _ _)
  | _ => simp [InControlVectorMatrix, Instr.slot, abCode_outside] at slot

/-! ### VDEFER stores its entries (R161) -/

theorem scratchPut_registers (c : Core) (off n v : Nat) : registersOf (c.scratchPut off n v) = registersOf c := by
  obtain ⟨w, put⟩ := scratchWrite_eq c off (bytesOf n v)
  rw [Core.scratchPut, put]
  rfl

theorem vdeferBody_leaves {u : State} {a b e : Reg} {p : PReg} {n : Fin 4} (worked : vdeferBody a b e p n s = .ok u) :
    RegistersStand s u := by
  unfold vdeferBody wheyAccess at worked
  dsimp only at worked
  split at worked
  · cases worked
  split at worked
  · cases worked
  split at worked
  · cases worked
  split at worked
  · cases worked
  split at worked
  · cases worked
  · cases worked
    refine ⟨rfl, rfl, rfl, rfl, ?_⟩
    exact List.foldlRecOn (motive := fun c => registersOf c = registersOf s.c) _ _ rfl
      fun c h x _ => (scratchPut_registers c _ _ _).trans h

theorem exec_registersStand {t : State} {i : Instr} (slot : InControlVectorMatrix i) (answers : exec i s = .next t)
    (issued : t.verdict = .issued) : RegistersStand s t := by
  by_cases defer : ∃ a b e p n, i = .vdefer a b e p n
  · obtain ⟨a, b, e, p, n, rfl⟩ := defer
    obtain ⟨u, worked, rfl⟩ := slotExec_issued (show slotExec 4 _ (vdeferBody a b e p n) s = .next t from answers) issued
    obtain ⟨mem, stores, host, others, regs⟩ := vdeferBody_leaves worked
    exact ⟨mem, stores, host, others, regs⟩
  · exact (exec_leaves slot (fun a b e p n same => defer ⟨a, b, e, p, n, same⟩) t answers issued).toRegistersStand

/-- Settles O59: the work of every word of the four slots leaves them (`exec_leaves`), but for the entries that VDEFER stores. -/
theorem controlVectorMatrixFrame : Obligations.ControlVectorMatrixFrame := by
  unfold Obligations.ControlVectorMatrixFrame
  intro s t i slot answers issued
  obtain ⟨mem, stores, host, others, regs⟩ := exec_registersStand slot answers issued
  injection regs with s' v p ctl pc tiles wbuf sla slb slq
  refine ⟨mem, stores, host, others, s', v, p, ctl, pc, tiles, wbuf, sla, slb, slq, fun other => ?_⟩
  have stands := exec_leaves slot other t answers issued
  exact ⟨stands.scratch, stands.poison⟩

end Sys2Proof.Proofs

end


/-! O36, results that land. -/
section

namespace Sys2Proof.Proofs
open Sys2Proof.Machine Sys2Proof.Laws

/-! ### A scalar register behind a write (R15) -/

theorem rs_writeS (c : Core) (d : Reg) (x : Word) (r : Reg) :
    (c.writeS d x).rs r = if r = 0 then 0 else if d = r then x else c.rs r := by
  unfold Core.writeS Core.rs
  by_cases zero : r = 0
  · simp [zero]
  · by_cases discarded : d = 0
    · simp [zero, discarded, Ne.symm zero]
    · simp [zero, discarded, Vector.getElem_set, Fin.val_inj]

theorem rs_writeS_self (c : Core) (d : Reg) (x : Word) : (c.writeS d x).rs d = if d = 0 then 0 else x := by
  rw [rs_writeS, if_pos rfl]

theorem writeS_ctl (c : Core) (r : Reg) (x : Word) : (c.writeS r x).ctl = c.ctl := by
  unfold Core.writeS
  split <;> rfl

/-! ### Flags (R38) -/

section
variable {c : Core} (compute : isCompute c.id = true) (f : Flags)
include compute

theorem setFlags_cr : (c.setFlags f).cr crFmt = c.cr crFmt ||| (f.zeroExtend 64 <<< 16) := by
  unfold Core.setFlags
  rw [if_pos compute]
  simp [Core.setCr, Core.cr]

theorem setFlags_rs (r : Reg) : (c.setFlags f).rs r = c.rs r := by
  unfold Core.setFlags
  rw [if_pos compute]
  rfl

theorem setFlags_shadow : (c.setFlags f).shadow = c.shadow := by
  unfold Core.setFlags
  rw [if_pos compute]
  rfl

end

theorem flagsOf_single (x : Entry) : flagsOf [x] = x.flags := BitVec.zero_or

theorem flagsOf_pair (x y : Entry) : flagsOf [x, y] = x.flags ||| y.flags := congrArg (· ||| y.flags) BitVec.zero_or

/-! ### Two entries of one cycle (R30) -/

/-- One entry lands before another: its bundle issued earlier, or its slot is the lower one of their bundle. -/
def landsFirst (x y : Entry) : Prop := x.age < y.age ∨ (x.age = y.age ∧ x.slot < y.slot)

theorem sortEntries_pair {x y : Entry} (first : landsFirst x y) : sortEntries [x, y] = [x, y] ∧ sortEntries [y, x] = [x, y] := by
  unfold landsFirst at first
  constructor <;> simp only [sortEntries, List.foldr, insertEntry, Entry.before, Bool.or_eq_true, Bool.and_eq_true, decide_eq_true_eq]
  · exact if_neg (by omega)
  · exact if_pos (by omega)

theorem landsFirst_or {x y : Entry} (apart : x.age ≠ y.age ∨ x.slot ≠ y.slot) (h : ¬ landsFirst x y) : landsFirst y x := by
  unfold landsFirst at h ⊢
  omega

/-- Two entries for scalars land, the others stay. -/
theorem landDue_pair {c : Core} {x y : Entry} {a b : Reg} {rest : List Entry} (compute : isCompute c.id = true)
    (due : sortEntries (c.shadow.filter fun e => decide (e.remaining = 0)) = [x, y])
    (waits : c.shadow.filter (fun e => decide (e.remaining ≠ 0)) = rest) (hx : x.dest = .scalar a) (hy : y.dest = .scalar b) :
    c.landDue.shadow = rest ∧ c.landDue.cr crFmt = c.cr crFmt ||| ((x.flags ||| y.flags).zeroExtend 64 <<< 16) ∧
      ∀ r : Reg, c.landDue.rs r = if r = 0 then 0 else if y.dest = .scalar r then BitVec.ofNat 64 y.value
        else if x.dest = .scalar r then BitVec.ofNat 64 x.value else c.rs r := by
  have lands : c.landDue = ((({ c with shadow := rest } : Core).writeS a (BitVec.ofNat 64 x.value)).writeS b
      (BitVec.ofNat 64 y.value)).setFlags (x.flags ||| y.flags) := by
    simp only [Core.landDue, due, waits, Core.landAll, flagsOf_pair, List.foldl_cons, List.foldl_nil, Core.writeDest, hx, hy]
  have compute' : isCompute ((({ c with shadow := rest } : Core).writeS a (BitVec.ofNat 64 x.value)).writeS b
      (BitVec.ofNat 64 y.value)).id = true := by rwa [Core.writeS_id, Core.writeS_id]
  rw [lands]
  refine ⟨?_, ?_, fun r => ?_⟩
  · rw [setFlags_shadow compute', Core.writeS_shadow, Core.writeS_shadow]
  · rw [setFlags_cr compute', Core.cr, writeS_ctl, writeS_ctl]
    rfl
  · rw [setFlags_rs compute', rs_writeS, rs_writeS, hx, hy]
    simp only [Dest.scalar.injEq]
    split
    · rfl
    · rfl

/-- One entry for a scalar lands. -/
theorem landDue_single {c : Core} {d : Reg} {v age slot : Nat} {f : Flags} (only : c.shadow = [⟨.scalar d, v, f, 0, age, slot⟩]) :
    c.landDue = (({ c with shadow := [] } : Core).writeS d (BitVec.ofNat 64 v)).setFlags f := by
  simp only [Core.landDue, only, List.filter, ne_eq, decide_true, not_true_eq_false, decide_false, sortEntries, List.foldr, insertEntry,
    Core.landAll, flagsOf_single, List.foldl_cons, List.foldl_nil, Core.writeDest]

/-! ### Results that arrive (R28, R109) and freezes (R36) -/

theorem logEvent_core (s : State) (code : Nat) (k : CoreId) (pay : Nat) : (s.logEvent code k pay).c = s.c := by
  unfold State.logEvent State.logEntry
  rfl

/-- A core that a correctable error has stopped (R36). -/
def stopped (c : Core) (counted : Nat) (ticks : List Nat) : Core := { c with freeze := 24, corrected := counted, freezeTicks := ticks }

theorem exec_correctableErrorFreeze (s : State) : ∃ (t : State) (counted : Nat) (ticks : List Nat),
    exec (.correctableErrorFreeze s.c.id) s = .next t ∧ t.c = stopped s.c counted ticks := by
  show ∃ t _ _, execCorrectableErrorFreeze s.c.id s = .next t ∧ _
  unfold execCorrectableErrorFreeze
  extract_lets u c ticks w noticed
  have own : c = s.c := core_self s
  have frozen : w = { u with c := stopped c (Nat.min (c.corrected + 1) (2 ^ 32 - 1)) ticks } := setCore_own (congrArg Core.id own :)
  have core : w.c = stopped s.c (Nat.min (c.corrected + 1) (2 ^ 32 - 1)) ticks := by rw [frozen, own]
  have noted : noticed.c = stopped s.c (Nat.min (c.corrected + 1) (2 ^ 32 - 1)) ticks :=
    (logEvent_core w 0x58 s.c.id (w.core s.c.id).corrected).trans core
  clear_value noticed
  refine ⟨_, Nat.min (c.corrected + 1) (2 ^ 32 - 1), ticks, rfl, ?_⟩
  split
  · exact noted
  · exact core

/-- Settles O36: the landing of due entries by `landDue_single` and `landDue_pair`; each other event writes one scalar by `rs_writeS_self`. -/
theorem resultsLandAndFreezesEnd : Obligations.ResultsLandAndFreezesEnd := by
  unfold Obligations.ResultsLandAndFreezesEnd
  intro s k n v age slot d f e rest c got
  refine ⟨fun only compute => ?_, ?_, fun due => ?_, fun pending oldest landed => ?_, ?_, rfl⟩
  · have compute' : isCompute (({ c with shadow := [] } : Core).writeS d (BitVec.ofNat 64 v)).id = true := by rwa [Core.writeS_id]
    refine ⟨c.landDue, rfl, ?_⟩
    rw [landDue_single only]
    refine ⟨?_, ?_, ?_⟩
    · rw [setFlags_shadow compute', Core.writeS_shadow]
    · exact (setFlags_rs compute' f d).trans (rs_writeS_self ..)
    · rw [setFlags_cr compute', Core.cr, writeS_ctl]
      rfl
  · intro x y z a b three compute dx dy hx hy hz apart last first
    have due : c.shadow.filter (fun e => decide (e.remaining = 0)) = [x, y] := by simp [three, hx, hy, hz]
    have waits : c.shadow.filter (fun e => decide (e.remaining ≠ 0)) = [z] := by simp [three, hx, hy, hz]
    refine ⟨c.landDue, rfl, ?_⟩
    by_cases order : landsFirst x y
    · have sorted := (congrArg sortEntries due).trans (sortEntries_pair order).1
      simpa only [last, first, if_pos (show x.age < y.age ∨ (x.age = y.age ∧ x.slot < y.slot) from order)] using
        landDue_pair compute sorted waits dx dy
    · have sorted := (congrArg sortEntries due).trans (sortEntries_pair (landsFirst_or apart order)).2
      simpa only [last, first, if_neg (show ¬ (x.age < y.age ∨ (x.age = y.age ∧ x.slot < y.slot)) from order),
        BitVec.or_comm y.flags] using landDue_pair compute sorted waits dy dx
  · refine ⟨({ c with ilk := dropNth c.ilk n } : Core).writeS d (BitVec.ofNat 64 v), ?_, Core.writeS_ilk .., rs_writeS_self ..⟩
    show execInterlockedResultArrives k n s = _
    unfold execInterlockedResultArrives
    rw [due]
    rfl
  · refine ⟨{ c.writeS d e.value with qpop := none, rq := rest }, ?_, rfl, rfl, rs_writeS_self ..⟩
    have takes : c.qpopTake = { c.writeS d e.value with qpop := none, rq := rest } := by
      simp only [Core.qpopTake, pending, oldest, landed, if_true]
    exact congrArg (fun c' => Host.Outcome.next (s.setCore c')) takes
  · rintro rfl
    obtain ⟨t, counted, ticks, answers, frozen⟩ := exec_correctableErrorFreeze s
    exact ⟨t, answers, (congrArg Core.freeze frozen :), (congrArg Core.pc frozen :), (congrArg Core.s frozen :)⟩

end Sys2Proof.Proofs

end


/-! O58, the words of slots A and B, and a bundle of two words. -/
section

namespace Sys2Proof.Proofs
open Sys2Proof.Machine Sys2Proof.Laws

/-! ### What a word of slot A or B adds to its core -/

/-- The shadow queue and the outstanding operations gain entries for the given destinations; of an earlier operation of the same cycle on
such a destination the new one's result stands (R30). -/
def Gains (b : Core) (ds : List Dest) (sh : List Entry) (ilk ops : List Ilk) : Prop :=
  ilk.length = b.ilk.length ∧
    (∀ (n : Nat) (o : Ilk), b.ilk[n]? = some o → ilk[n]? = some o ∨
      (ilk[n]? = some { o with dest := none } ∧ o.age = b.age ∧ ∃ p ∈ ops, p.dest = o.dest ∧ p.dest.isSome = true)) ∧
    (∀ e ∈ sh, e.dest ∈ ds) ∧ ∀ o ∈ ops, ∀ d, o.dest = some d → d ∈ ds

/-- The work of a word adds to the two queues of its core, and changes nothing else. -/
def Adds (b : Core) (ds : List Dest) (c : Core) : Prop :=
  ∃ sh ilk ops, c = { b with shadow := b.shadow ++ sh, ilk := ilk ++ ops } ∧ Gains b ds sh ilk ops

theorem enter_adds {c : Core} {ds : List Dest} {d : Dest} (listed : d ∈ ds) (slot lat v : Nat) (f : Flags) :
    Adds c ds (c.enter slot lat d v f) := by
  refine ⟨[⟨d, v, f, lat, c.age, slot⟩], c.ilk, [], ?_, rfl, fun n o h => .inl h, ?_, fun o h => nomatch h⟩
  · rw [List.append_nil]
    rfl
  · intro e he
    rw [List.mem_singleton.mp he]
    exact listed

/-- An earlier operation beside a later one for a scalar: of one cycle's two on one register the later slot's result stands (R30). -/
def superseded (c : Core) (d : Reg) (o : Ilk) : Ilk :=
  if (scalarDest d).isSome ∧ o.dest = scalarDest d ∧ o.age = c.age then { o with dest := none } else o

theorem await_adds {c : Core} {ds : List Dest} {d : Reg} (listed : .scalar d ∈ ds) (x : Word) : Adds c ds (c.await d x) := by
  refine ⟨[], c.ilk.map (superseded c d), [⟨.value x.toNat, scalarDest d, c.age⟩], ?_, ?_, ?_, fun e h => (nomatch h), ?_⟩
  · rw [List.append_nil]
    rfl
  · exact List.length_map ..
  · intro n o h
    rw [List.getElem?_map, h]
    by_cases twin : (scalarDest d).isSome ∧ o.dest = scalarDest d ∧ o.age = c.age
    · refine .inr ⟨congrArg some (if_pos twin), twin.2.2, _, List.mem_singleton_self _, twin.2.1.symm, twin.1⟩
    · exact .inl (congrArg some (if_neg twin))
  · intro o ho e he
    rw [List.mem_singleton.mp ho] at he
    unfold scalarDest at he
    split at he
    · cases he
    · cases he
      exact listed

/-- An outcome that, where it issues, adds to the core. -/
def AddsNext (s : State) (ds : List Dest) (o : Host.Outcome State Fault Refusal) : Prop :=
  ∀ t, o = .next t → t.verdict = .issued → ∃ c, t = s.after c ∧ Adds s.c ds c

theorem onCore_adds {s : State} {ds : List Dest} {f : Core → Core} (h : Adds s.c ds (f s.c)) (slot : Nat) (i : Instr) :
    AddsNext s ds (slotExec slot i (onCore f) s) :=
  fun _ answers issued => ⟨_, slotExec_onCore_issued answers issued, h⟩

/-- Every word of the two slots. -/
theorem exec_adds {s : State} {i : Instr} (slot : i.slot = some 1 ∨ i.slot = some 2) :
    AddsNext s ((dsts s.c i).map (·.1)) (exec i s) := by
  unfold exec
  cases i with
  | add | sub | addi | movi | movhi | mul | mulhi | mulhn | and | or | xor | andn | andi | ori | xori | shl | shrl | shra | shli | shrli
  | shrai | clz | ctz | popc | min | max | minn | maxn | sel | cmp | cmpi | plog | addsc | ext | fadd | fsub | fmul | ffma | fcmp
  | fcvt | fmnx =>
    exact onCore_adds (enter_adds (List.mem_cons_self ..) _ _ _ _) _ _
  | div | divn | rem | remn => exact onCore_adds (await_adds (List.mem_cons_self ..) _) _ _
  | pmov y dir x p =>
    refine onCore_adds ?_ _ _
    cases dir with
    | true => exact enter_adds (List.mem_cons_self ..) _ _ _ _
    | false => exact enter_adds (List.mem_cons_self ..) _ _ _ _
  | _ => simp [Instr.slot] at slot

/-! ### A bundle of two words is formed (R68 to R71) -/

theorem decodeSlot_ok {s : State} {w : Nat} {i : Instr} (has : isCompute s.c.id = true ∨ bits w 28 3 < 4 ∨ bits w 28 3 = 7)
    (there : Fin.ofNat 8 (bits w 28 3) ∉ s.c.off) (decodes : decodeWord w = .ok i) : s.decodeSlot w = .ok (w, i) := by
  have kind : (!isCompute s.c.id && decide (4 ≤ bits w 28 3 ∧ bits w 28 3 ≤ 6)) = false := by
    rcases has with compute | low | seven
    · rw [compute]
      rfl
    · rw [decide_eq_false (by omega), Bool.and_false]
    · rw [decide_eq_false (by omega), Bool.and_false]
  simp only [State.decodeSlot, kind, Bool.false_eq_true, if_false, there, decodes]

/-- The words of a bundle end where the packet does, at a fill word, or where the next bundle starts. -/
theorem bundleWords_end {get : Nat → Except Trap Nat} {n va lo : Nat}
    (ends : n = 0 ∨ ∃ x, get va = .ok x ∧ (x = 0 ∨ x.testBit 31 = true)) : bundleWords get n va false lo = .ok [] := by
  cases n with
  | zero => rfl
  | succ n =>
    obtain full | ⟨x, there, stop⟩ := ends
    · cases full
    · simp only [bundleWords, there]
      rcases stop with rfl | start
      · rfl
      · simp [bitAt, start]

section
variable {s : State} {a w1 w2 n : Nat} (first : s.get a = .ok w1) (nz1 : w1 ≠ 0) (second : s.get (a + 4) = .ok w2) (nz2 : w2 ≠ 0)
  (inside : w2.testBit 31 = false)
include first nz1 second nz2 inside

theorem bundleWords_pair (rising : bits w1 28 3 < bits w2 28 3)
    (ends : n = 0 ∨ ∃ x, s.get (a + 8) = .ok x ∧ (x = 0 ∨ x.testBit 31 = true)) :
    bundleWords s.get (n + 2) a true 0 = .ok [w1, w2] := by
  have rest : bundleWords s.get n (a + 4 + 4) false (bits w2 28 3 + 1) = .ok [] := bundleWords_end ends
  simp only [bundleWords, first, nz1, second, nz2, bitAt, inside, rest, Nat.not_lt_zero, Nat.not_lt.mpr (Nat.succ_le_of_lt rising),
    Bool.not_true, Bool.false_and, Bool.and_false, Bool.false_eq_true, if_false]

theorem bundleWords_order (falling : bits w2 28 3 ≤ bits w1 28 3) :
    bundleWords s.get (n + 2) a true 0 = .error ⟨.illegal, encInfo 4 w2 (bits w2 28 3)⟩ := by
  simp only [bundleWords, first, nz1, second, nz2, bitAt, inside, Nat.not_lt_zero, Nat.lt_succ_of_le falling,
    Bool.not_true, Bool.false_and, Bool.and_false, Bool.false_eq_true, if_false, if_true]

end

/-- A packet has room for two words at every address but its last word's. -/
theorem bundleRoom_two {a : Nat} (h : a % 64 < 60) (aligned : a % 4 = 0) : ∃ n, bundleRoom a = n + 2 ∧ (a % 64 = 56 → n = 0) := by
  refine ⟨bundleRoom a - 2, ?_, fun last => ?_⟩ <;> simp only [bundleRoom, Nat.min_def] <;> split <;> omega

/-! ### Its two words issue (R29, R74) -/

theorem startsGather_false {i : Instr} (load : ∀ d b x p z, i ≠ .ldvx d b x p z) (store : ∀ d b x p z, i ≠ .stvx d b x p z) :
    startsGather i = false := by
  cases i with
  | ldvx d b x p z => exact absurd rfl (load d b x p z)
  | stvx d b x p z => exact absurd rfl (store d b x p z)
  | _ => rfl

section
variable {s r : State} {w : Nat} {i : Instr} {rest : List (Nat × Instr)} {t : Option Trap} (answers : exec i { s with word := w } = .next r)
include answers

theorem runSlots_issued (issued : r.verdict = .issued) :
    s.runSlots false ((w, i) :: rest) t = r.runSlots (startsGather i) rest t := by
  simp only [State.runSlots, Bool.false_and, Bool.false_eq_true, if_false, answers, issued, Bool.false_or]

theorem runSlots_trapped {u : Trap} (trapped : r.verdict = .trapped u) :
    s.runSlots false ((w, i) :: rest) t = s.runSlots false rest (some (t.getD u)) := by
  simp only [State.runSlots, Bool.false_and, Bool.false_eq_true, if_false, answers, trapped]
  cases t <;> rfl

/-- Where an earlier word has trapped, a last word that nothing holds leaves that trap. -/
theorem runSlots_behind_trap {u : Trap} (going : ∀ n, r.verdict ≠ .held n) : ∃ late, s.runSlots false [(w, i)] (some u) = .trap u late := by
  simp only [State.runSlots, Bool.false_and, Bool.false_eq_true, if_false, answers]
  cases verdict : r.verdict with
  | issued => exact ⟨_, rfl⟩
  | held n => exact absurd verdict (going n)
  | trapped x => exact ⟨_, rfl⟩

end

/-- What settles a bundle's results leaves its flow but for a wait. -/
theorem settleTwin_flow (c : Core) (slot : Nat) (r : Reg) : (c.settleTwin slot r).flow = c.flow := by
  unfold Core.settleTwin
  dsimp only
  split <;> rfl

theorem settleBundle_skipTo (c : Core) (words : List (Nat × Instr)) : (c.settleBundle words).flow.skipTo = c.flow.skipTo := by
  have settled (ws : List (Nat × Instr)) : (ws.foldl (fun c w =>
      match fixedResult w.2 with | some r => c.settleTwin (bits w.1 28 3) r | none => c) c).flow = c.flow := by
    refine List.foldlRecOn (motive := fun c' => c'.flow = c.flow) _ _ rfl fun (c' : Core) h w _ => ?_
    split
    · exact (settleTwin_flow ..).trans h
    · exact h
  unfold Core.settleBundle
  split
  · rfl
  · dsimp only
    split
    · exact (congrArg Flow.skipTo (settled words) :)
    · exact congrArg Flow.skipTo (settled words)

/-- The state on which the words of a bundle execute. -/
def begun (s : State) (succ : Nat) : State := { s with c := { s.c with flow := { Flow.none with succ := succ } } }

theorem tryBundle_trap {s : State} {b : Bundle} {t : Trap} {late : List Access}
    (ran : (begun s b.succ).runSlots false b.words none = .trap t late) : s.tryBundle b = .trap t late := by
  unfold begun at ran
  simp only [State.tryBundle, ran]

theorem tryBundle_ready {s r : State} {b : Bundle} (ran : (begun s b.succ).runSlots false b.words none = .ready r (true, 0))
    (room : s.c.pendingAfter (r.c.settleBundle b.words) ≤ 16) (on : r.c.flow.skipTo = none) :
    s.tryBundle b = .ready { r with c := r.c.settleBundle b.words } (true, 0) := by
  unfold begun at ran
  have skip : (r.c.settleBundle b.words).flow.skipTo = none := (settleBundle_skipTo ..).trans on
  simp only [State.tryBundle, ran, Nat.not_lt.mpr room, if_false, skip]

/-- Settles O58: the words of slots A and B by `exec_adds`; two words are formed by `bundleWords_pair`, and run slot by slot. -/
theorem registerWordsFrame : Obligations.RegisterWordsFrame := by
  unfold Obligations.RegisterWordsFrame
  refine ⟨fun s t i slot answers issued => ?_, ?_⟩
  · obtain ⟨c, rfl, sh, ilk, ops, rfl, gains⟩ := exec_adds slot t answers issued
    exact ⟨sh, ilk, ops, rfl, gains⟩
  intro s r1 r2 r w1 w2 a succ i j t1 t2 n1 n2 has u both
  refine ⟨fun near aligned first nz1 second nz2 inside => ?_, fun load store => ⟨fun answers1 issued1 => ?_, ?_⟩⟩
  · obtain ⟨n, room, last⟩ := bundleRoom_two near aligned
    refine ⟨fun rising ends decodes1 decodes2 has1 has2 => ?_, fun falling => ?_⟩
    · have words := bundleWords_pair (n := n) first nz1 second nz2 inside rising (ends.imp_left last)
      simp only [State.formBundle, room, words, List.mapM_cons, List.mapM_nil, decodeSlot_ok has1.1 has1.2 decodes1,
        decodeSlot_ok has2.1 has2.2 decodes2, bind, Except.bind, pure, Except.pure, List.length_cons, List.length_nil]
    · have words := bundleWords_order (n := n) first nz1 second nz2 inside falling
      simp only [State.formBundle, room, words, bind, Except.bind]
      rfl
  · have step (rest : List (Nat × Instr)) : (begun s succ).runSlots false ((w1, i) :: rest) none = r1.runSlots false rest none :=
      startsGather_false load store ▸ runSlots_issued answers1 issued1
    refine ⟨fun answers issued room on => ?_, fun answers2 trapped2 => ?_⟩
    · exact tryBundle_ready ((step _).trans (runSlots_issued answers issued)) room on
    · exact tryBundle_trap ((step _).trans (runSlots_trapped answers2 trapped2))
  · intro answers1 trapped1 answers2 going
    obtain ⟨late, ran⟩ := runSlots_behind_trap (u := t1) answers2 going
    exact ⟨late, tryBundle_trap ((runSlots_trapped answers1 trapped1).trans ran)⟩

end Sys2Proof.Proofs

end


/-! O38, stores that are acknowledged, and markers that return. -/
section

namespace Sys2Proof.Proofs
open Sys2Proof.Machine Sys2Proof.Laws

/-! ### The home orders a store (R249) -/

theorem writeLine_stores (s : State) (l : Nat × Nat) (pa : Nat) (bs : List (BitVec 8)) : (s.writeLine l pa bs).stores = s.stores := by
  obtain ⟨m, y, p, written⟩ := writeLine_frame s l pa bs
  rw [written]

theorem takeStore_stores_mem (s : State) (x : PStore) :
    (s.takeStore x).stores = s.stores ∧ (s.takeStore x).mem = (s.writeLine x.label x.pa x.bytes).mem := by
  unfold State.takeStore
  dsimp only
  split <;> exact ⟨writeLine_stores .., rfl⟩

theorem dropCopies_eq (s : State) (cl : Option Nat) (line : Nat) : ∃ l, s.dropCopies cl line = { s with stale := l } := by
  unfold State.dropCopies
  split
  · exact ⟨s.stale, rfl⟩
  · exact ⟨_, rfl⟩

theorem acknowledge_stores_mem (s : State) (x : PStore) :
    (s.acknowledge x).stores = s.stores.filter (fun y => decide (y.id ≠ x.id)) ∧
      (s.acknowledge x).mem = (s.writeLine x.label x.pa x.bytes).mem := by
  obtain ⟨stores, mem⟩ := takeStore_stores_mem s x
  obtain ⟨l, dropped⟩ := dropCopies_eq (s.takeStore x) (some (clusterOf x.src)) (x.pa / 64)
  unfold State.acknowledge
  dsimp only
  rw [dropped]
  split <;> exact ⟨congrArg (List.filter _) stores, mem⟩

/-- A store with no earlier one of its cluster on its bytes is performed. -/
theorem exec_storeAcknowledged {s : State} {cl n : Nat} {x : PStore}
    (pending : (s.stores.filter (fun y => decide (clusterOf y.src = cl))).find? (fun y => decide (y.id = n)) = some x)
    (first : ∀ y ∈ (s.stores.filter (fun y => decide (clusterOf y.src = cl))).takeWhile (fun y => decide (y.id ≠ n)),
      overlap y.pa y.bytes.length x.pa x.bytes.length = false) :
    exec (.storeAcknowledged cl n) s = .next (s.performStore x) := by
  have free : ((s.stores.filter (fun y => decide (clusterOf y.src = cl))).takeWhile (fun y => decide (y.id ≠ n))).any
      (fun y => overlap y.pa y.bytes.length x.pa x.bytes.length) = false :=
    List.any_eq_false.mpr fun y hy => Bool.eq_false_iff.mp (first y hy)
  show execStoreAcknowledged cl n s = _
  simp only [execStoreAcknowledged, pending, free, Bool.false_eq_true, if_false]

theorem performStore_home {s : State} {x : PStore} (home : s.registerPage x.pa = none) : s.performStore x = s.acknowledge x := by
  simp only [State.performStore, home]

theorem performStore_page {s : State} {x : PStore} {page : Page} {off : Nat} (there : s.registerPage x.pa = some (page, off))
    (lit : s.umpire.deepOff = false) :
    s.performStore x = State.pageWrite { s with stores := s.stores.filter (fun y => decide (y.id ≠ x.id)) } (.core x.src) page off
      x.bytes.length (natOfBytes x.bytes) := by
  simp only [State.performStore, there, lit, Bool.false_eq_true, if_false]

/-- A store that its home has ordered loses its last stale copy. -/
theorem exec_storeAcknowledged_stale {s : State} {cl n cp : Nat} {y : Stale} (ordered : ∀ x ∈ s.stores, x.id ≠ n) (only : s.stale = [y])
    (same : y.id = n) (copy : y.cls = [cp]) :
    exec (.storeAcknowledged cl n) s = .next { s with stale := [], freeCtr := s.freeCtr + 1 } := by
  have unlisted : (s.stores.filter (fun x => decide (clusterOf x.src = cl))).find? (fun x => decide (x.id = n)) = none :=
    List.find?_eq_none.mpr fun x hx => by simpa using ordered x (List.mem_filter.mp hx).1
  have gone : s.dropCopies (some cp) (y.pa / 64) = { s with stale := [] } := by
    simp [State.dropCopies, only, copy]
  show execStoreAcknowledged cl n s = _
  simp only [execStoreAcknowledged, unlisted, State.invalidateCopy, only, List.find?, same, decide_true, copy, List.length_singleton,
    Nat.mod_one, List.getD_cons_zero, gone, State.tickFree]

/-! ### A marker returns (R250) -/

theorem exec_fenceMarkerAck {s : State} {k : CoreId} {v : Nat}
    (apart : ∀ y ∈ s.stores, (y.src = k ∧ y.eng = none) ∨ y.id ∈ idsOf (s.core k).ord.own → homeOf y.pa ≠ v) :
    exec (.fenceMarkerAck k v) s = .next (s.setCore { s.core k with ord := { (s.core k).ord with
      marks := (s.core k).ord.marks.filter (fun m => decide (m ≠ v)) } }) := by
  have free : s.stores.any (fun x => decide ((x.src = k ∧ x.eng = none ∨ x.id ∈ idsOf (s.core k).ord.own) ∧ homeOf x.pa = v)) =
      false :=
    List.any_eq_false.mpr fun x hx => by simpa using fun h => apart x hx h
  show execFenceMarkerAck k v s = _
  simp only [execFenceMarkerAck, free, Bool.false_eq_true, if_false]

end Sys2Proof.Proofs

end


/-! O38, global accesses that are tried after issue: stores that become pending, are held or enter the side log. -/
section

namespace Sys2Proof.Proofs
open Sys2Proof.Machine Sys2Proof.Laws

theorem core_setCore {s : State} {x : Core} {k : CoreId} (id : x.id = k) : (s.setCore x).core k = x := by
  subst id
  exact State.setCore_core s x

theorem setCore_eq (s : State) (x : Core) : ∃ c o, s.setCore x = { s with c := c, others := o } := by
  unfold State.setCore
  split
  · exact ⟨x, s.others, rfl⟩
  · exact ⟨s.c, _, rfl⟩

/-- What trying an access leaves before its own work: cached translations, and hints of its core. -/
theorem touch_core {s : State} {k : CoreId} (id : (s.core k).id = k) (ctx va n : Nat) :
    ∃ t hs, (s.remember ctx va).setCore (((s.remember ctx va).core k).countHints va n) = t ∧ Recored s t ∧
      t.core k = { s.core k with hints := hs } := by
  obtain ⟨l, remembered⟩ := remember_eq s ctx va
  obtain ⟨hs, hinted⟩ := countHints_eq (s.core k) va n
  have counted : ((s.remember ctx va).core k).countHints va n = { s.core k with hints := hs } := by
    rw [remembered]
    exact hinted
  refine ⟨_, hs, rfl, (remember_recored s ctx va).trans (setCore_recored _ _), ?_⟩
  rw [counted]
  exact core_setCore id

/-! ### Stores (R132, R249) -/

/-- The pending store that an access makes. -/
def pendingStore (s : State) (k : CoreId) (a : Access) (z : Xlat) : PStore :=
  ⟨s.ids, k, none, z.pa, bytesOf a.size a.data.toNat, z.label, false, s.writer k (.access a.age), false,
    s.writeCarries (s.core k).ord (osOf a.instr) a.age⟩

theorem storeAs_access {s : State} {k : CoreId} {z : Xlat} (id : (s.core k).id = k) (live : s.fenced z.pa = false) (age : Nat)
    (bs : List (BitVec 8)) (psn : Bool) (ids : List (Scope × Nat)) :
    ∃ t o, s.storeAs k (.access age) z bs psn ids = t ∧ t.mem = s.mem ∧ t.core k = { s.core k with ord := o } ∧
      t.stores = s.stores ++ [⟨s.ids, k, none, z.pa, bs, z.label, psn, s.writer k (.access age), false, ids⟩] := by
  obtain ⟨c, o, put⟩ := setCore_eq s (s.countStore (s.core k) (.access age) (homeOf z.pa))
  have core : State.core { s with c := c, others := o } k = s.countStore (s.core k) (.access age) (homeOf z.pa) :=
    (congrArg (State.core · k) put).symm.trans (core_setCore id)
  have pended : s.storeAs k (.access age) z bs psn ids = { s with
      c := c, others := o, ids := s.ids + 1
      stores := s.stores ++ [⟨s.ids, k, none, z.pa, bs, z.label, psn, s.writer k (.access age), false, ids⟩] } := by
    simp only [State.storeAs, live, Bool.false_eq_true, if_false, put]
    rfl
  exact ⟨_, _, pended, rfl, core, rfl⟩

/-- An access is a store. -/
def IsStg (a : Access) : Prop := ∃ b r w os, a.instr = .stg b r w os

section
variable {a : Access} (stg : IsStg a)
include stg

theorem isStg_need : a.need = .write := by
  obtain ⟨b, r, w, os, instr⟩ := stg
  simp only [Access.need, instr]

theorem isStg_plain : a.isAtomic = false ∧ a.isRemote = false := by
  obtain ⟨b, r, w, os, instr⟩ := stg
  simp only [Access.isAtomic, Access.isRemote, instr, and_self]

theorem isStg_pageAtomic (s : State) (k : CoreId) : s.pageAtomic k a = none := by
  unfold State.pageAtomic
  split
  · rfl
  split
  · rfl
  · rw [(isStg_plain stg).1]
    rfl

theorem tryGlobal_stg {s : State} {k : CoreId} {z : Xlat} (id : (s.core k).id = k)
    (translated : s.translate (s.core k).party a.addr .write = .ok z) (live : s.fenced z.pa = false) :
    ∃ t hs o, s.tryGlobal k a = .done t 0 ∧ t.mem = s.mem ∧ t.stores = s.stores ++ [pendingStore s k a z] ∧
      t.core k = { s.core k with hints := hs, ord := o } := by
  have need := isStg_need stg
  obtain ⟨b, r, w, os, instr⟩ := stg
  obtain ⟨u, hs, touched, ⟨c, o, l, h, rfl⟩, core⟩ := touch_core (n := a.size) id (s.core k).party.ctx a.addr
  obtain ⟨t, o', stored, mem, core', stores⟩ := storeAs_access (s := { s with c := c, others := o, cached := l, heard := h })
    (by rw [core]; exact id) live a.age (bytesOf a.size a.data.toNat) false
    (State.writeCarries { s with c := c, others := o, cached := l, heard := h } (s.core k).ord (some os) a.age)
  refine ⟨t, hs, o', ?_, mem, ?_, ?_⟩
  · simp only [State.tryGlobal, need, translated, touched, instr, State.storeGlobal, core]
    exact congrArg (Tried.done · 0) stored
  · rw [stores]
    unfold pendingStore State.writer
    rw [core, instr]
    rfl
  · rw [core', core]

end

/-! ### Accesses that fault (R135, R136) -/

theorem tryGlobal_fault {s : State} {k : CoreId} {a : Access} {f : Cause}
    (faults : s.translate (s.core k).party a.addr a.need = .error f) : s.tryGlobal k a = .fault f := by
  simp only [State.tryGlobal, faults]

theorem counterFull_other {s : State} {k : CoreId} {a : Access} (other : ¬ IsStg a) : s.counterFull k a = false := by
  unfold State.counterFull
  split
  · next b r w os instr => exact absurd ⟨b, r, w, os, instr⟩ other
  · rfl

/-- The one outstanding access of a core, which is no store, is behind nothing. -/
theorem behind_none {s : State} {k : CoreId} {a : Access} (other : ¬ IsStg a) : s.behind k a [] = false := by
  simp only [State.behind, counterFull_other other, List.any_nil, Bool.or_false]

theorem tryAccess_unlogged {s : State} {k : CoreId} {a : Access} (here : a.isRemote = false) (empty : (s.core k).log = []) :
    s.tryAccess k a = s.tryGlobal k a := by
  simp [State.tryAccess, here, empty, logOverlap]

theorem not_isStg {a : Access} (load : a.isStore = false) : ¬ IsStg a := by
  rintro ⟨b, r, w, os, instr⟩
  simp [Access.isStore, instr] at load

/-- The only outstanding access, which is no store, is held with its trap due where its address does not translate. -/
theorem exec_heldAccessFault {s : State} {k : CoreId} {a : Access} {dest : Option Dest} {age : Nat} {f : Cause} (free : (s.core k).held = none)
    (only : (s.core k).ilk = [⟨.access a none, dest, age⟩]) (here : a.isRemote = false) (load : a.isStore = false)
    (empty : (s.core k).log = []) (faults : s.translate (s.core k).party a.addr a.need = .error f) :
    exec (.heldAccessFault k) s = .next (s.setCore { s.core k with
      ilk := [], held := some (a, dest), due := (s.core k).due ++ [⟨f, addrInfo a.addr⟩] }) := by
  have tried := (tryAccess_unlogged here empty).trans (tryGlobal_fault faults)
  have found : s.faulting k (s.core k).ilk 0 = some (0, ⟨.access a none, dest, age⟩, a, f) := by
    simp only [only, State.faulting, List.take_zero, behind_none (not_isStg load), tried, load, Bool.false_and, Bool.false_eq_true, if_false]
  have gone : dropNth (s.core k).ilk 0 = [] := by rw [only]; rfl
  show execHeldAccessFault k s = _
  simp only [execHeldAccessFault, free, Option.isSome_none, found, State.told, here, Bool.false_eq_true, if_false, gone]

/-! ### The store that is tried again (R136, R317) -/

theorem logOverlap_empty {log : List LogEntry} (empty : log = []) (a : Access) : logOverlap log a = [] := by rw [empty]; rfl

theorem retireStore_done {s t : State} {k : CoreId} {a : Access} {v : Nat} (empty : (s.core k).log = []) (tried : s.tryGlobal k a = .done t v) :
    s.retireStore k a = t := by
  simp [State.retireStore, logOverlap_empty empty, tried]

theorem retireStore_fault {s : State} {k : CoreId} {a : Access} {f : Cause} (empty : (s.core k).log = [])
    (tried : s.tryGlobal k a = .fault f) (repairable : f.repairable = true) : s.retireStore k a = s.enterLog k a (some f) := by
  simp [State.retireStore, logOverlap_empty empty, tried, repairable]

/-- A write of a task's slot leaves the cores and the pending stores. -/
def SlotOnly (s t : State) : Prop := SameCores s t ∧ t.stores = s.stores

theorem SlotOnly.trans {s t u : State} (a : SlotOnly s t) (b : SlotOnly t u) : SlotOnly s u := ⟨a.1.trans b.1, b.2.trans a.2⟩

theorem writeBlock_slotOnly (s : State) (l : Nat × Nat) (pa v : Nat) : SlotOnly s (s.writeBlock l pa v) := by
  unfold State.writeBlock
  split <;> exact ⟨SameCores.rfl, rfl⟩

theorem slotWrite_slotOnly (s : State) (ctx : Nat) (bs : List (Nat × Nat)) : Yields (SlotOnly s) (s.slotWrite ctx bs) :=
  yields_after fun xs => yields_pure (List.foldlRecOn xs _ (motive := SlotOnly s) ⟨SameCores.rfl, rfl⟩
    fun t ht _ _ => ht.trans (writeBlock_slotOnly t _ _ _))

theorem slotSet_slotOnly (s : State) (ctx va off n v : Nat) : Yields (SlotOnly s) (s.slotSet ctx va off n v) :=
  yields_after fun _ => slotWrite_slotOnly s ctx _

/-- What a fault notes for the supervisor leaves the cores and the pending stores. -/
theorem postSide_slotOnly (s : State) (k : CoreId) (log : List LogEntry) (e : LogEntry) (f : Cause) : SlotOnly s (s.postSide k log e f) := by
  have self : SlotOnly s s := ⟨SameCores.rfl, rfl⟩
  unfold State.postSide
  split
  · exact self
  split
  · exact self
  next t _ _ =>
    have posted : SlotOnly s (s.postSup k t (supItem f.code true k t.slot)) := ⟨SameCores.rfl, rfl⟩
    dsimp only
    split
    · next u written => exact posted.trans (slotSet_slotOnly _ _ _ _ _ _ u written)
    · exact posted

/-- A store that faults enters an empty side log. -/
theorem enterLog_empty {s : State} {k : CoreId} {a : Access} {f : Cause} (id : (s.core k).id = k) (empty : (s.core k).log = []) :
    ∃ t, s.enterLog k a (some f) = t ∧ t.stores = s.stores ∧
      t.core k = { s.core k with log := [⟨{ a with instr := accessNorm a.instr }, 0⟩] } := by
  obtain ⟨cores, stores⟩ := postSide_slotOnly s k [] ⟨{ a with instr := accessNorm a.instr }, entryState [] a (some f)⟩ f
  refine ⟨_, rfl, ?_⟩
  simp only [State.enterLog, empty, List.length_nil, cores.core, List.nil_append]
  rw [if_neg (by omega)]
  exact ⟨(State.setCore_stores ..).trans stores, core_setCore id⟩

/-- The core that has taken its one waiting store from the queue. -/
def unqueued (c : Core) : Core := { c with stq := [] }

theorem exec_storeRetires {s : State} {k : CoreId} {a : Access} (stg : IsStg a) (free : (s.core k).held = none)
    (empty : (s.core k).log = []) (only : (s.core k).stq = [a]) :
    exec (.storeRetiresIntoSideLog k) s = .next ((s.setCore (unqueued (s.core k))).retireStore k a) := by
  have notHeld : s.heldBefore k a = false := by simp only [State.heldBefore, free]
  show execStoreRetiresIntoSideLog k s = _
  simp only [execStoreRetiresIntoSideLog, only, notHeld, Bool.false_eq_true, if_false, logOverlap_empty empty, List.isEmpty_nil, if_true,
    isStg_pageAtomic stg]
  rfl

theorem pendingStore_unqueued {s : State} {k : CoreId} (id : (s.core k).id = k) (a : Access) (z : Xlat) :
    pendingStore (s.setCore (unqueued (s.core k))) k a z = pendingStore s k a z := by
  have core : (s.setCore (unqueued (s.core k))).core k = unqueued (s.core k) := core_setCore id
  unfold pendingStore State.writer
  rw [core]
  obtain ⟨c, o, put⟩ := setCore_eq s (unqueued (s.core k))
  rw [put]
  rfl

/-- The waiting store becomes pending where its address translates. -/
theorem storeRetires_pends {s : State} {k : CoreId} {a : Access} {z : Xlat} (id : (s.core k).id = k) (stg : IsStg a)
    (free : (s.core k).held = none) (empty : (s.core k).log = []) (only : (s.core k).stq = [a])
    (translated : s.translate (s.core k).party a.addr .write = .ok z) (live : s.fenced z.pa = false) :
    ∃ t, exec (.storeRetiresIntoSideLog k) s = .next t ∧ (t.mem = s.mem ∧ t.stores = s.stores ++ [pendingStore s k a z]) ∧
      (t.core k).stq = [] ∧ (t.core k).log = [] := by
  have core : (s.setCore (unqueued (s.core k))).core k = unqueued (s.core k) := core_setCore id
  have unfenced : (s.setCore (unqueued (s.core k))).fenced z.pa = false := by
    obtain ⟨c, o, put⟩ := setCore_eq s (unqueued (s.core k))
    rw [put]
    exact live
  obtain ⟨t, hs, o, tried, mem, stores, core'⟩ := tryGlobal_stg stg (s := s.setCore (unqueued (s.core k))) (k := k)
    (by rw [core]; exact id) (by rw [core, translate_setCore]; exact translated) unfenced
  have retires := retireStore_done (by rw [core]; exact empty) tried
  rw [pendingStore_unqueued id, State.setCore_stores] at stores
  rw [core] at core'
  refine ⟨t, (exec_storeRetires stg free empty only).trans (congrArg _ retires), ⟨mem.trans (State.setCore_mem ..), stores⟩, ?_, ?_⟩
  · rw [core']
    rfl
  · rw [core']
    exact empty

/-- It enters the empty side log where its address does not translate. -/
theorem storeRetires_logs {s : State} {k : CoreId} {a : Access} {f : Cause} (id : (s.core k).id = k) (stg : IsStg a)
    (free : (s.core k).held = none) (empty : (s.core k).log = []) (only : (s.core k).stq = [a])
    (faults : s.translate (s.core k).party a.addr .write = .error f) (repairable : f.repairable = true) :
    ∃ t, exec (.storeRetiresIntoSideLog k) s = .next t ∧ t.stores = s.stores ∧ (t.core k).stq = [] ∧
      (t.core k).log = [⟨{ a with instr := accessNorm a.instr }, 0⟩] := by
  have core : (s.setCore (unqueued (s.core k))).core k = unqueued (s.core k) := core_setCore id
  have tried : (s.setCore (unqueued (s.core k))).tryGlobal k a = .fault f :=
    tryGlobal_fault (by rw [core, translate_setCore, isStg_need stg]; exact faults)
  have empty' : ((s.setCore (unqueued (s.core k))).core k).log = [] := by rw [core]; exact empty
  obtain ⟨t, entered, stores, core'⟩ := enterLog_empty (f := f) (a := a) (by rw [core]; exact id) empty'
  have retires := (retireStore_fault empty' tried repairable).trans entered
  rw [core] at core'
  refine ⟨t, (exec_storeRetires stg free empty only).trans (congrArg _ retires), stores.trans (State.setCore_stores ..), ?_, ?_⟩
  · rw [core']
    rfl
  · rw [core']

/-- The one entry of a side log that awaits its replay is replayed. -/
theorem sideLogReplay_pends {s : State} {k : CoreId} {a : Access} {z : Xlat} (id : (s.core k).id = k)
    (only : (s.core k).log = [⟨a, 1⟩]) (stg : IsStg a) (translated : s.translate (s.core k).party a.addr .write = .ok z)
    (live : s.fenced z.pa = false) :
    ∃ t, exec (.sideLogReplay (.core k) 0) s = .next t ∧ (t.mem = s.mem ∧ t.stores = s.stores ++ [pendingStore s k a z]) ∧
      (t.core k).log = [] := by
  obtain ⟨t, hs, o, tried, mem, stores, core⟩ := tryGlobal_stg stg id translated live
  have replays : s.replayCore k 0 = t.replayed k 0 := by
    simp [State.replayCore, only, replayable, logOverlap, isStg_pageAtomic stg, tried]
  have done : (t.replayed k 0).core k = { t.core k with log := dropNth (t.core k).log 0 } := core_setCore (by rw [core]; exact id)
  refine ⟨_, congrArg Host.Outcome.next replays, ⟨(State.setCore_mem ..).trans mem, (State.setCore_stores ..).trans stores⟩, ?_⟩
  rw [done, core, only]
  rfl

end Sys2Proof.Proofs

end


/-! O38, accesses that arrive: a remote atomic at its core, a load and an atomic at an ordinary address. -/
section

namespace Sys2Proof.Proofs
open Sys2Proof.Machine Sys2Proof.Laws

/-! ### At another core's scratchpad (R23, R140) -/

theorem remote_not_isStg {a : Access} (remote : a.isRemote = true) : ¬ IsStg a := by
  rintro ⟨b, r, w, os, instr⟩
  simp [Access.isRemote, instr] at remote

/-- A remote atomic at a core of the same task that no freeze, fill or poison keeps from it. -/
theorem tryRemote_performed {s : State} {k : CoreId} {a : Access} {m : Nat}
    (same : s.sameTask k (caTarget k a.addr) = true) (going : (s.core (caTarget k a.addr)).freeze = 0)
    (filled : (s.core (caTarget k a.addr)).needsFill (a.addr % 2 ^ 20) a.size = false)
    (clean : (s.core (caTarget k a.addr)).scratchPoisoned (a.addr % 2 ^ 20) a.size = false)
    (stores : a.newValue ((s.core (caTarget k a.addr)).scratchRead (a.addr % 2 ^ 20) a.size) = some m) :
    ∃ h l, s.tryRemote k a = .done (State.setCore { s with heard := h, carry := l }
        ((s.core (caTarget k a.addr)).scratchPut (a.addr % 2 ^ 20) a.size m))
      ((s.core (caTarget k a.addr)).scratchRead (a.addr % 2 ^ 20) a.size) := by
  simp only [State.tryRemote, same, going, filled, clean, stores, ne_eq, Bool.not_true, Bool.false_eq_true, and_false, if_false,
    not_true_eq_false]
  exact ⟨_, _, rfl⟩

theorem exec_remoteAccessArrives {s t : State} {k : CoreId} {a : Access} {dest : Option Dest} {age v : Nat}
    (only : (s.core k).ilk = [⟨.access a none, dest, age⟩]) (remote : a.isRemote = true) (tried : s.tryRemote k a = .done t v)
    (kept : t.core k = s.core k) :
    exec (.remoteAccessArrives k 0) s = .next (t.setCore { s.core k with ilk := [⟨.access a (some (a.result v).toNat), dest, age⟩] }) := by
  have put (o : Ilk) : setNth (s.core k).ilk 0 o = [o] := by
    rw [only]
    rfl
  have first : (s.core k).ilk[0]? = some ⟨.access a none, dest, age⟩ := by rw [only]; rfl
  show execRemoteAccessArrives k 0 s = _
  simp only [execRemoteAccessArrives, first, remote, List.take_zero, behind_none (remote_not_isStg remote), Bool.not_true, Bool.or_self,
    Bool.false_eq_true, if_false, tried, kept, put]

theorem remoteAccessArrives_stores {s : State} {k : CoreId} {a : Access} {dest : Option Dest} {age m : Nat}
    (id : (s.core k).id = k) (there : (s.core (caTarget k a.addr)).id = caTarget k a.addr) (other : caTarget k a.addr ≠ k)
    (only : (s.core k).ilk = [⟨.access a none, dest, age⟩]) (remote : a.isRemote = true)
    (same : s.sameTask k (caTarget k a.addr) = true) (going : (s.core (caTarget k a.addr)).freeze = 0)
    (filled : (s.core (caTarget k a.addr)).needsFill (a.addr % 2 ^ 20) a.size = false)
    (clean : (s.core (caTarget k a.addr)).scratchPoisoned (a.addr % 2 ^ 20) a.size = false)
    (stores : a.newValue ((s.core (caTarget k a.addr)).scratchRead (a.addr % 2 ^ 20) a.size) = some m) :
    ∃ t, exec (.remoteAccessArrives k 0) s = .next t ∧ t.mem = s.mem ∧
      t.core (caTarget k a.addr) = (s.core (caTarget k a.addr)).scratchPut (a.addr % 2 ^ 20) a.size m ∧
      t.core k = { s.core k with ilk := [⟨.access a
        (some (a.result ((s.core (caTarget k a.addr)).scratchRead (a.addr % 2 ^ 20) a.size)).toNat), dest, age⟩] } := by
  obtain ⟨h, l, tried⟩ := tryRemote_performed same going filled clean stores
  have putId := (scratchPut_id (s.core (caTarget k a.addr)) (a.addr % 2 ^ 20) a.size m).trans there
  have kept := State.setCore_core_other { s with heard := h, carry := l }
    ((s.core (caTarget k a.addr)).scratchPut (a.addr % 2 ^ 20) a.size m) k (by rw [putId]; exact other.symm)
  refine ⟨_, exec_remoteAccessArrives only remote tried kept, ?_, ?_, core_setCore id⟩
  · rw [State.setCore_mem, State.setCore_mem]
  · rw [State.setCore_core_other _ _ _ (by rw [show Core.id { s.core k with ilk := _ } = _ from id]; exact other)]
    exact core_setCore putId

/-! ### At an ordinary address (R132, R138, R139) -/

/-- A core that has taken the result of its one outstanding operation. -/
def delivered (c : Core) (dest : Option Dest) (v : Nat) : Core :=
  match dest with
  | some d => ({ c with ilk := [] } : Core).writeDest d v
  | none => { c with ilk := [] }

theorem delivered_id {c : Core} {dest : Option Dest} (scalar : dest = none ∨ ∃ r, dest = some (.scalar r)) (v : Nat) :
    (delivered c dest v).id = c.id := by
  rcases scalar with rfl | ⟨d, rfl⟩
  · rfl
  · exact Core.writeS_id ..

theorem deliver_only {t : State} {k : CoreId} {o : Ilk} (only : (t.core k).ilk = [o]) (dest : Option Dest) (v : Nat) :
    t.deliver k 0 dest v = t.setCore (delivered (t.core k) dest v) := by
  have gone : dropNth (t.core k).ilk 0 = [] := by rw [only]; rfl
  unfold State.deliver
  rw [gone]
  cases dest <;> rfl

theorem delivered_ilk {c : Core} {dest : Option Dest} (scalar : dest = none ∨ ∃ r, dest = some (.scalar r)) (v : Nat) :
    (delivered c dest v).ilk = [] := by
  rcases scalar with rfl | ⟨d, rfl⟩
  · rfl
  · exact Core.writeS_ilk ..

theorem delivered_rs {c : Core} {dest : Option Dest} (scalar : dest = none ∨ ∃ r, dest = some (.scalar r)) (w : Word) (r : Reg) :
    (delivered c dest w.toNat).rs r = if r ≠ 0 ∧ dest = some (.scalar r) then w else c.rs r := by
  rcases scalar with rfl | ⟨d, rfl⟩
  · exact (if_neg (fun h => nomatch h.2)).symm
  · have written : delivered c (some (.scalar d)) w.toNat = ({ c with ilk := [] } : Core).writeS d w := by
      rw [show delivered c (some (.scalar d)) w.toNat = ({ c with ilk := [] } : Core).writeS d (BitVec.ofNat 64 w.toNat) from rfl,
        BitVec.ofNat_toNat, BitVec.setWidth_eq]
    rw [written, rs_writeS]
    by_cases zero : r = 0
    · rw [if_pos zero, if_neg (fun h => h.1 zero), zero]
      rfl
    · simp only [zero, if_false, ne_eq, not_false_eq_true, true_and, Option.some.injEq, Dest.scalar.injEq]
      rfl

/-- What an access that arrives leaves of its core: its result, beside hints and what the core has observed. -/
theorem deliver_got {s t : State} {k : CoreId} {o : Ilk} {dest : Option Dest} {hs : List Hint} {ord : Machine.Ordering} (w : Word)
    (id : (s.core k).id = k) (only : (s.core k).ilk = [o]) (scalar : dest = none ∨ ∃ r, dest = some (.scalar r))
    (core : t.core k = { s.core k with hints := hs, ord := ord }) :
    ((t.deliver k 0 dest w.toNat).core k).ilk = [] ∧
      ∀ r : Reg, ((t.deliver k 0 dest w.toNat).core k).rs r = if r ≠ 0 ∧ dest = some (.scalar r) then w else (s.core k).rs r := by
  have only' : (t.core k).ilk = [o] := by rw [core]; exact only
  have id' : (delivered (t.core k) dest w.toNat).id = k := (delivered_id scalar _).trans (by rw [core]; exact id)
  have same (r : Reg) : (t.core k).rs r = (s.core k).rs r := by rw [core]; rfl
  rw [deliver_only only', core_setCore id']
  exact ⟨delivered_ilk scalar _, fun r => (delivered_rs scalar w r).trans (by rw [same])⟩

theorem exec_accessArrives {s t : State} {k : CoreId} {a : Access} {dest : Option Dest} {age v : Nat} {z : Xlat}
    (only : (s.core k).ilk = [⟨.access a none, dest, age⟩]) (here : a.isRemote = false) (load : ¬ IsStg a) (empty : (s.core k).log = [])
    (translated : s.translate (s.core k).party a.addr a.need = .ok z) (home : s.registerPage z.pa = none)
    (tried : s.tryGlobal k a = .done t v) :
    exec (.interlockedResultArrives k 0) s = .next (t.deliver k 0 dest (a.result v).toNat) := by
  have first : (s.core k).ilk[0]? = some ⟨.access a none, dest, age⟩ := by rw [only]; rfl
  have noPage : s.pageAtomic k a = none := by simp only [State.pageAtomic, translated, home]
  show execInterlockedResultArrives k 0 s = _
  simp only [execInterlockedResultArrives, first, here, List.take_zero, behind_none load, logOverlap_empty empty, List.isEmpty_nil,
    Bool.not_true, Bool.or_self, Bool.false_eq_true, if_false, noPage, State.globalArrives, tryAccess_unlogged here empty, tried]

theorem tryGlobal_ldg {s : State} {k : CoreId} {a : Access} {z : Xlat} {v : Nat} (id : (s.core k).id = k)
    (load : ∃ d r w os, a.instr = .ldg d r w os) (translated : s.translate (s.core k).party a.addr a.need = .ok z)
    (home : s.registerPage z.pa = none) (read : s.readGlobal k z a.size = .ok v) :
    ∃ t hs o, s.tryGlobal k a = .done t v ∧ t.mem = s.mem ∧ t.stores = s.stores ∧ t.core k = { s.core k with hints := hs, ord := o } := by
  obtain ⟨d, r, w, os, instr⟩ := load
  obtain ⟨u, hs, touched, same, core⟩ := touch_core (n := a.size) id (s.core k).party.ctx a.addr
  have read' := (same.readGlobal k z a.size).trans read
  have home' : u.registerPage z.pa = none := by
    obtain ⟨_, _, _, _, rfl⟩ := same
    exact home
  have seen : Recored u ((u.setCore ((u.core k).observe (u.observed k z.pa a.size) a.age)).hear k z.pa a.size) :=
    (setCore_recored ..).trans (hear_recored ..)
  refine ⟨_, hs, (s.core k).ord.observe (u.observed k z.pa a.size) a.age, ?_, (same.trans seen).mem, (same.trans seen).stores, ?_⟩
  · simp only [State.tryGlobal, translated, touched, instr, home', read']
  · rw [show ∀ t : State, (t.hear k z.pa a.size).core k = t.core k from fun _ => rfl, core_setCore (by rw [core]; exact id), core]
    rfl

/-! ### A read-modify-write at its home (R138, R139, R242) -/

theorem settleList_none {rs : List (Nat × Nat)} : ∀ {l : List PStore},
    (∀ x ∈ l, rs.any (fun r => overlap x.pa x.bytes.length r.1 r.2) = false) → settleList rs l = []
  | [], _ => rfl
  | x :: xs, apart => by
    rw [settleList, apart x (List.mem_cons_self ..)]
    exact settleList_none fun y hy => apart y (List.mem_cons_of_mem _ hy)

theorem settle_none {s : State} {cl pa n : Nat}
    (apart : ∀ y ∈ s.stores, clusterOf y.src = cl → overlap y.pa y.bytes.length pa n = false) : s.settle cl pa n = s := by
  have nothing : settleList [(pa, n)] (s.stores.filter (fun x => decide (clusterOf x.src = cl))).reverse = [] := by
    refine settleList_none fun x hx => ?_
    rw [List.mem_reverse, List.mem_filter, decide_eq_true_eq] at hx
    simp [apart x hx.1 hx.2]
  simp only [State.settle, nothing, List.reverse_nil, List.foldl_nil]

/-- The store of an atomic is written home at once. -/
theorem storeAtomic_written {s : State} {k : CoreId} {z : Xlat} (id : (s.core k).id = k) (bs : List (BitVec 8)) (os : Option OrdScope) (age : Nat) :
    (s.storeAtomic k z bs os age).mem = (s.writeLine z.label z.pa bs).mem ∧
      ∃ o, (s.storeAtomic k z bs os age).core k = { s.core k with ord := o } := by
  unfold State.storeAtomic
  extract_lets c y u
  have unwritten : Unwritten s { u with ids := u.ids + 1 } :=
    (setCore_recored ..).unwritten.trans ⟨u.c, u.others, u.cached, u.heard, u.stale, _, rfl⟩
  have core : u.core k = { s.core k with ord := s.addOwn c.ord s.ids age } := core_setCore id
  refine ⟨(acknowledge_stores_mem ..).2.trans (unwritten.writeLine_mem ..), s.addOwn c.ord s.ids age, ?_⟩
  rw [(acknowledge_sameCores ..).core, ← core]
  rfl

theorem rmwGlobal_done {s : State} {k : CoreId} {a : Access} {z : Xlat} (id : (s.core k).id = k) (plain : z.psn = false)
    (clean : s.poisoned (z.pa / 64) = false)
    (apart : ∀ y ∈ s.stores, clusterOf y.src = clusterOf k → overlap y.pa y.bytes.length z.pa a.size = false) :
    ∃ t o, s.rmwGlobal k z a = .done t (s.plain z.label z.pa a.size) ∧ t.core k = { s.core k with ord := o } ∧
      (a.newValue (s.plain z.label z.pa a.size) = none → t.mem = s.mem) ∧
      ∀ v, a.newValue (s.plain z.label z.pa a.size) = some v → t.mem = (s.writeLine z.label z.pa (bytesOf a.size v)).mem := by
  obtain ⟨y, dropped⟩ := dropCopies_eq s (some (clusterOf k)) (z.pa / 64)
  unfold State.rmwGlobal
  rw [settle_none apart, dropped]
  extract_lets u1 u2 u3 old
  have core2 : u2.core k = { s.core k with ord := (s.core k).ord.observe (u1.observed k z.pa a.size) a.age } := core_setCore id
  have un2 : Unwritten s u2 := Unwritten.trans ⟨s.c, s.others, s.cached, s.heard, y, s.ids, rfl⟩ (setCore_recored u1 _).unwritten
  have un3 : Unwritten s u3 := un2.trans (hear_recored ..).unwritten
  have core3 : u3.core k = { s.core k with ord := (s.core k).ord.observe (u1.observed k z.pa a.size) a.age } := core2
  have same : old = s.plain z.label z.pa a.size := un3.plain ..
  have clean2 : (z.psn || u2.poisoned (z.pa / 64)) = false := by rw [un2.poisoned, plain, clean]; rfl
  rw [if_neg (by rw [clean2]; exact Bool.false_ne_true), same]
  cases value : a.newValue (s.plain z.label z.pa a.size) with
  | none => exact ⟨u3, _, rfl, core3, fun _ => un3.mem, fun v h => (nomatch h)⟩
  | some v =>
    obtain ⟨mem, o, core⟩ := storeAtomic_written (s := u3) (z := z) (by rw [core3]; exact id) (bytesOf a.size v) (osOf a.instr) a.age
    refine ⟨_, o, rfl, by rw [core, core3], fun h => (nomatch h), ?_⟩
    rintro _ ⟨⟩
    exact mem.trans (un3.writeLine_mem ..)

theorem tryGlobal_atomic {s : State} {k : CoreId} {a : Access} {z : Xlat} (id : (s.core k).id = k)
    (atomic : (∃ d r op w os, a.instr = .atg d r op w os) ∨ ∃ d r b w os, a.instr = .casg d r b w os)
    (translated : s.translate (s.core k).party a.addr a.need = .ok z) (home : s.registerPage z.pa = none) (plain : z.psn = false)
    (clean : s.poisoned (z.pa / 64) = false)
    (apart : ∀ y ∈ s.stores, clusterOf y.src = clusterOf k → overlap y.pa y.bytes.length z.pa a.size = false) :
    ∃ t hs o, s.tryGlobal k a = .done t (s.plain z.label z.pa a.size) ∧ t.core k = { s.core k with hints := hs, ord := o } ∧
      (a.newValue (s.plain z.label z.pa a.size) = none → t.mem = s.mem) ∧
      ∀ v, a.newValue (s.plain z.label z.pa a.size) = some v → t.mem = (s.writeLine z.label z.pa (bytesOf a.size v)).mem := by
  obtain ⟨u, hs, touched, same, core⟩ := touch_core (n := a.size) id (s.core k).party.ctx a.addr
  have un := same.unwritten
  have home' : u.registerPage z.pa = none := by
    obtain ⟨_, _, _, _, rfl⟩ := same
    exact home
  obtain ⟨t, o, done, core', keeps, writes⟩ := rmwGlobal_done (s := u) (a := a) (by rw [core]; exact id) plain
    (by rw [un.poisoned]; exact clean) (by rw [same.stores]; exact apart)
  rw [un.plain] at done keeps writes
  refine ⟨t, hs, o, ?_, by rw [core', core], fun h => (keeps h).trans un.mem, fun v h => (writes v h).trans (un.writeLine_mem ..)⟩
  have rmw : s.tryGlobal k a = u.rmwGlobal k z a := by
    rcases atomic with ⟨d, r, op, w, os, instr⟩ | ⟨d, r, b, w, os, instr⟩ <;>
      simp only [State.tryGlobal, translated, touched, instr, home']
  exact rmw.trans done

/-- The byte law of a write within a line that stands under its label. -/
theorem writeLine_bytes {s : State} {l : Nat × Nat} {pa n : Nat} (wf : Memory.wf s.mem = true) (label : s.labelOf (pa / 64) = l)
    (live : s.fenced pa = false) (v b : Nat) :
    memGet (s.writeLine l pa (bytesOf n v)).mem b =
      if pa ≤ b ∧ b < pa + n then BitVec.ofNat 8 (v / 256 ^ (b - pa)) else memGet s.mem b := by
  have mem : (s.writeLine l pa (bytesOf n v)).mem = memPut s.mem pa n v := by
    unfold State.writeLine
    rw [if_neg (by rw [live]; exact Bool.false_ne_true), if_pos label]
    split <;> rfl
  rw [mem]
  exact memGet_memPut wf pa n v b

end Sys2Proof.Proofs

end


/-! O38, the memory events together. -/
section

namespace Sys2Proof.Proofs
open Sys2Proof.Machine Sys2Proof.Laws

theorem readGlobal_plain {s : State} {k : CoreId} {z : Xlat} (plain : z.psn = false)
    (clean : (s.view (clusterOf k)).poisoned (z.pa / 64) = false) (n : Nat) :
    s.readGlobal k z n = .ok ((s.view (clusterOf k)).plain z.label z.pa n) := by
  simp only [State.readGlobal, plain, clean, Bool.or_self, Bool.false_eq_true, if_false]

/-- The one outstanding access of a core at an ordinary address. -/
structure Arriving (s : State) (k : CoreId) (a : Access) (dest : Option Dest) (age : Nat) (z : Xlat) : Prop where
  id : (s.core k).id = k
  empty : (s.core k).log = []
  only : (s.core k).ilk = [⟨.access a none, dest, age⟩]
  scalar : dest = none ∨ ∃ r, dest = some (.scalar r)
  translated : s.translate (s.core k).party a.addr a.need = .ok z
  home : s.registerPage z.pa = none
  plain : z.psn = false

section
variable {s : State} {k : CoreId} {a : Access} {dest : Option Dest} {age : Nat} {z : Xlat} (h : Arriving s k a dest age z)
include h

/-- The core has the result of its access. -/
def Got (s t : State) (k : CoreId) (a : Access) (dest : Option Dest) (v : Nat) : Prop :=
  (t.core k).ilk = [] ∧ ∀ r : Reg, (t.core k).rs r = if r ≠ 0 ∧ dest = some (.scalar r) then a.result v else (s.core k).rs r

theorem exec_loadArrives (load : ∃ d r w os, a.instr = .ldg d r w os) (clean : (s.view (clusterOf k)).poisoned (z.pa / 64) = false) :
    ∃ t, exec (.interlockedResultArrives k 0) s = .next t ∧ t.mem = s.mem ∧ t.stores = s.stores ∧
      Got s t k a dest ((s.view (clusterOf k)).plain z.label z.pa a.size) := by
  obtain ⟨t, hs, o, tried, mem, stores, core⟩ := tryGlobal_ldg h.id load h.translated h.home (readGlobal_plain h.plain clean a.size)
  obtain ⟨d, r, w, os, instr⟩ := load
  have here : a.isRemote = false := by simp only [Access.isRemote, instr]
  have noStore : ¬ IsStg a := not_isStg (by simp only [Access.isStore, instr])
  refine ⟨_, exec_accessArrives h.only here noStore h.empty h.translated h.home tried, (deliver_mem ..).trans mem, ?_,
    deliver_got _ h.id h.only h.scalar core⟩
  exact (State.setCore_stores ..).trans stores

theorem exec_atomicArrives (atomic : (∃ d r op w os, a.instr = .atg d r op w os) ∨ ∃ d r b w os, a.instr = .casg d r b w os)
    (clean : s.poisoned (z.pa / 64) = false)
    (apart : ∀ y ∈ s.stores, clusterOf y.src = clusterOf k → overlap y.pa y.bytes.length z.pa a.size = false) :
    ∃ t, exec (.interlockedResultArrives k 0) s = .next t ∧ Got s t k a dest (s.plain z.label z.pa a.size) ∧
      (a.newValue (s.plain z.label z.pa a.size) = none → t.mem = s.mem) ∧
      ∀ v, a.newValue (s.plain z.label z.pa a.size) = some v → t.mem = (s.writeLine z.label z.pa (bytesOf a.size v)).mem := by
  obtain ⟨t, hs, o, tried, core, keeps, writes⟩ := tryGlobal_atomic h.id atomic h.translated h.home h.plain clean apart
  have kinds : a.isRemote = false ∧ ¬ IsStg a := by
    rcases atomic with ⟨d, r, op, w, os, instr⟩ | ⟨d, r, b, w, os, instr⟩ <;>
      refine ⟨by simp only [Access.isRemote, instr], ?_⟩ <;>
      rintro ⟨b', r', w', os', same⟩ <;> simp [instr] at same
  refine ⟨_, exec_accessArrives h.only kinds.1 kinds.2 h.empty h.translated h.home tried, deliver_got _ h.id h.only h.scalar core,
    fun h => (deliver_mem ..).trans (keeps h), fun v h => (deliver_mem ..).trans (writes v h)⟩

end

/-- Settles O38, clause by clause from what each event does. -/
theorem memoryEventsGoOn : Obligations.MemoryEventsGoOn := by
  unfold Obligations.MemoryEventsGoOn
  intro s k cl n v m cp age x y a f dest z c own isStg pended got
  refine ⟨fun pending first => ?acknowledged, exec_storeAcknowledged_stale, exec_fenceMarkerAck, exec_heldAccessFault, ?retires,
    sideLogReplay_pends, ?remote, ?arrives⟩
  case acknowledged =>
    have id : x.id = n := by simpa using List.find?_some pending
    have performs := exec_storeAcknowledged pending first
    refine ⟨fun home => ?_, fun page off there lit => ?_⟩
    · obtain ⟨stores, mem⟩ := acknowledge_stores_mem s x
      rw [performStore_home home] at performs
      exact ⟨_, performs, id ▸ stores, mem⟩
    · rw [performs, performStore_page there lit, id]
  case retires =>
    exact fun id free empty only stg => ⟨storeRetires_pends id stg free empty only, storeRetires_logs id stg free empty only⟩
  case remote =>
    exact fun id there other only remote => remoteAccessArrives_stores id there other only remote
  case arrives =>
    intro id empty only scalar translated home plain
    have arriving : Arriving s k a dest age z := ⟨id, empty, only, scalar, translated, home, plain⟩
    refine ⟨exec_loadArrives arriving, fun atomic clean live _ apart => ?_⟩
    obtain ⟨t, arrives, result, keeps, writes⟩ := exec_atomicArrives arriving atomic clean apart
    refine ⟨t, arrives, result, keeps, fun v value => ⟨writes v value, fun wf label b => ?_⟩⟩
    rw [writes v value]
    exact writeLine_bytes wf label live v b

end Sys2Proof.Proofs

end

/-! O50, the reset. -/
section

namespace Sys2Proof.Proofs
open Sys2Proof.Machine Sys2Proof.Laws

theorem reset_poisoned (line : Nat) : State.reset.poisoned line = false := by
  have live : (State.reset.vat (homeOf (64 * line))).state = .live := rfl
  have clean : State.reset.poison = [] := rfl
  simp [State.poisoned, State.fenced, live, clean]

theorem reset_core (k : CoreId) : State.reset.core k = Core.dark k := by
  unfold State.core
  split
  next h =>
    subst h
    rfl
  next => rfl

theorem dark_cr (k : CoreId) (n : Fin 96) : (Core.dark k).cr n = 0 := by
  simp [Core.cr, Core.dark]

/-- Before the boot the step is the boot, whichever core would step. -/
theorem step_unbooted {s : State} (quiet : s.tickFree.chosen.agenda = []) (dark : s.tickFree.chosen.booted = false) :
    step s = exec .coldBoot s.tickFree.chosen := by
  simp [step, State.turn, quiet, dark]

/-- A boot whose first steps leave no journal to scan ends at once. -/
theorem exec_coldBoot_of_no_scan {s : State} (dark : s.booted = false) (fresh : s.scans = none) (none_left : s.bootBegin.scans = some []) :
    exec .coldBoot s = .next s.bootBegin.bootEnd := by
  show execColdBoot s = _
  simp [execColdBoot, dark, fresh, State.bootGoesOn, none_left]

theorem reset_bootBegin_scans : State.reset.tickFree.bootBegin.scans = some [] := by decide +kernel

/-- Settles O50: every core of the reset state is a dark one, and the boot finds no journal to scan. -/
theorem resetLeaves : Obligations.ResetLeaves := by
  refine ⟨fun a => ⟨rfl, rfl, reset_poisoned a⟩, ?cores, fun cl => rfl, rfl, rfl, rfl, rfl, rfl, rfl, ?boot⟩
  case cores =>
    intro k n a
    rw [reset_core]
    exact ⟨dark_cr k n, rfl, rfl, rfl, rfl, rfl, rfl, rfl, rfl⟩
  case boot =>
    exact ⟨_, (step_unbooted rfl rfl).trans (exec_coldBoot_of_no_scan rfl rfl reset_bootBegin_scans), rfl⟩

end Sys2Proof.Proofs

end


/-! O25, the formats that FMT and FMTS enter and the images that the scale-latch forms enter. -/
section

namespace Sys2Proof.Proofs
open Sys2Proof.Machine Sys2Proof.Laws

/-! ### The format shadow (R37, R172) -/

/-- The codes below 6 of a left operand and below 7 of a right one are those that fmt may take. -/
theorem formatBad_iff {v : Nat} : formatBad v = true ↔ ¬(v % 8 < 6 ∧ v / 8 % 8 < 7) := by
  have left : bits v 0 3 = v % 8 := by simp [bits]
  have right : bits v 3 3 = v / 8 % 8 := rfl
  simp only [formatBad, left, right, Bool.or_eq_true, decide_eq_true_eq]
  omega

section
variable {s : State} {i : Instr} {v : Nat}

theorem slotExec_fmtBody_good (issues : s.Issues i) (slot : i.slot.getD 0 = 6) (good : v % 8 < 6 ∧ v / 8 % 8 < 7) :
    slotExec 6 i (fmtBody v) s = .next (s.entered 6 5 (.fmt false) (v % 1024) 0) := by
  have low : bits v 0 10 = v % 1024 := by simp [bits]
  have body : fmtBody v s = .ok { s with c := s.c.enter 6 5 (.fmt false) (bits v 0 10) 0 } :=
    if_neg fun bad => formatBad_iff.mp bad good
  rw [← low]
  exact slotExec_ok issues slot body

theorem slotExec_fmtBody_bad (issues : s.Issues i) (slot : i.slot.getD 0 = 6) (bad : ¬(v % 8 < 6 ∧ v / 8 % 8 < 7)) :
    slotExec 6 i (fmtBody v) s = .next (s.trapNow s.illegal5) :=
  slotExec_trap issues slot (if_pos (formatBad_iff.mpr bad))

end

/-- The two codes of a format lie in its low ten bits. -/
theorem formatGood_mod_iff {v : Nat} : (v % 1024 % 8 < 6 ∧ v % 1024 / 8 % 8 < 7) ↔ (v % 8 < 6 ∧ v / 8 % 8 < 7) := by
  omega

/-! ### The scale latches (R173) -/

theorem withFill_single {f : State → Issue} {s : State} {off n : Nat} (filled : s.c.needsFill off n = false) :
    withFill [(off, n)] f s = f s := by
  simp [withFill, filled]

/-- The region of a latch image passes every check of R173: aligned, within the megabyte, in no reserved group, filled and not poisoned. -/
def LatchReady (c : Core) (off n : Nat) : Prop :=
  off % 512 = 0 ∧ off + n ≤ 0x100000 ∧ c.bankConflict off n = false ∧ c.needsFill off n = false ∧ c.scratchPoisoned off n = false

theorem latchBody_ready {s : State} {l : Fin 4} {n : Nat} {a : Reg} (ready : LatchReady s.c (s.c.xn a) n) :
    latchBody l n a s = .ok { s with c := s.c.enter 6 3 (.latch l) (s.c.scratchRead (s.c.xn a) n) 0 } := by
  obtain ⟨aligned, inside, free, filled, clean⟩ := ready
  unfold Core.xn at *
  simp [latchBody, aligned, Nat.not_lt.mpr inside, free, withFill_single filled, clean]

theorem slotExec_latchBody {s : State} {i : Instr} {l : Fin 4} {n : Nat} {a : Reg} (issues : s.Issues i) (slot : i.slot.getD 0 = 6)
    (ready : LatchReady s.c (s.c.xn a) n) :
    slotExec 6 i (latchBody l n a) s = .next (s.entered 6 3 (.latch l) (s.c.scratchRead (s.c.xn a) n) 0) :=
  slotExec_ok issues slot (latchBody_ready ready)

/-- Settles O25: the format forms by `formatBad_iff`, an image by the checks of its region, and SLZ as a write that reads nothing. -/
theorem formatAndLatchWrites : Obligations.FormatAndLatchWrites := by
  intro s f a good ready
  refine ⟨?fmt, ?fmts, ?sla, ?slb, ?slq, ?slz⟩
  case fmt =>
    intro issues
    refine ⟨fun legal => ?_, slotExec_fmtBody_bad issues rfl⟩
    have done := slotExec_fmtBody_good issues rfl legal
    rwa [Nat.mod_eq_of_lt f.isLt] at done
  case fmts =>
    exact fun issues => ⟨fun legal => slotExec_fmtBody_good issues rfl (formatGood_mod_iff.mp legal),
      fun reserved => slotExec_fmtBody_bad issues rfl (reserved ∘ formatGood_mod_iff.mpr)⟩
  case sla => exact fun issues region => slotExec_latchBody issues rfl region
  case slb => exact fun issues region => slotExec_latchBody issues rfl region
  case slq => exact fun issues region => slotExec_latchBody issues rfl region
  case slz => exact fun issues => slotExec_onCore (n := 6) (f := fun c => c.enter 6 3 (.latch 3) 0 0) issues rfl

end Sys2Proof.Proofs

end
/-! # Proofs: layouts of words -/

section

namespace Sys2Proof.Proofs
open Sys2Proof.Machine Sys2Proof.Laws

/-! ### Words made of fields -/

/-- The fields of a word from the top down: the number in each and its width. -/
abbrev Layout := List (Nat × Nat)

/-- How many bits the fields take. -/
def Layout.width : Layout → Nat
  | [] => 0
  | (_, n) :: l => width l + n

/-- The word that the fields make. -/
def Layout.pack : Layout → Nat
  | [] => 0
  | (v, _) :: l => v * 2 ^ width l + pack l

/-- Each number is one of its field's. -/
def Layout.Fits : Layout → Prop
  | [] => True
  | (v, n) :: l => v < 2 ^ n ∧ Fits l

/-- A word holds in each field the field's number. -/
def Layout.Reads (w : Nat) : Layout → Prop
  | [] => True
  | (v, n) :: l => fld w (width l) n = v ∧ Reads w l

theorem fld_lt (w lo n : Nat) : fld w lo n < 2 ^ n := Nat.mod_lt _ (Nat.two_pow_pos n)

/-- The bits of a word below the end of a field are those of the field and those below it. -/
theorem mod_eq_fld_add (w lo n : Nat) : w % 2 ^ (lo + n) = fld w lo n * 2 ^ lo + w % 2 ^ lo := by
  rw [Nat.pow_add, Nat.mod_mul, fld, Nat.mul_comm, Nat.add_comm]

theorem Layout.Fits.pack_lt : ∀ {l : Layout}, l.Fits → l.pack < 2 ^ l.width
  | [], _ => Nat.one_pos
  | (v, n) :: l, ⟨here, below⟩ => by
    calc v * 2 ^ width l + pack l < (v + 1) * 2 ^ width l := by rw [Nat.add_one_mul]; exact Nat.add_lt_add_left below.pack_lt _
      _ ≤ 2 ^ n * 2 ^ width l := Nat.mul_le_mul_right _ here
      _ = 2 ^ (width l + n) := by rw [Nat.pow_add, Nat.mul_comm]

theorem Layout.Reads.mod_width {w : Nat} : ∀ {l : Layout}, l.Reads w → w % 2 ^ l.width = l.pack
  | [], _ => Nat.mod_one w
  | (v, n) :: l, ⟨here, below⟩ => by rw [width, mod_eq_fld_add, here, below.mod_width, pack]

/-- A number is in one way a multiple and a rest below what is multiplied. -/
theorem mul_add_inj {b q r q' r' : Nat} (small : r < b) (small' : r' < b) (same : q * b + r = q' * b + r') : q = q' ∧ r = r' := by
  have quotient {x y : Nat} (below : y < b) : (x * b + y) / b = x := by
    rw [Nat.mul_comm, Nat.mul_add_div (Nat.zero_lt_of_lt small), Nat.div_eq_of_lt below, Nat.add_zero]
  have quotients : q = q' := by rw [← quotient (x := q) small, same, quotient small']
  subst quotients
  exact ⟨rfl, Nat.add_left_cancel same⟩

theorem Layout.Fits.reads {w : Nat} : ∀ {l : Layout}, l.Fits → w % 2 ^ l.width = l.pack → l.Reads w
  | [], _, _ => trivial
  | (v, n) :: l, ⟨_, below⟩, made => by
    rw [width, mod_eq_fld_add, pack] at made
    obtain ⟨here, rest⟩ := mul_add_inj (Nat.mod_lt w (Nat.two_pow_pos (width l))) below.pack_lt made
    exact ⟨here, below.reads rest⟩

/-! ### The layouts of R80 to R86 -/

/-- The layout of an instruction's word below the start bit (R67, R80 to R86): the slot, the opcode and the form's fields; bits that the form
leaves reserved or unused are a field that holds 0. A step has none. -/
def layout : Instr → Option Layout
  | .nop => some [(0, 3), (0x0, 7), (0, 21)]
  | .stall n => some [(0, 3), (0x1, 7), (0, 9), (n.toNat, 12)]
  | .brScalar nz a o => some [(0, 3), (0x2, 7), (0, 1), (nz.toNat, 1), (a.val, 5), (o.toNat, 14)]
  | .brPredicate neg p o => some [(0, 3), (0x2, 7), (1, 1), (neg.toNat, 1), (0, 2), (p.val, 3), (o.toNat, 14)]
  | .j o => some [(0, 3), (0x3, 7), (o.toNat, 21)]
  | .jr a => some [(0, 3), (0x4, 7), (a.val, 5), (0, 16)]
  | .call o => some [(0, 3), (0x5, 7), (o.toNat, 21)]
  | .callr a => some [(0, 3), (0x6, 7), (a.val, 5), (0, 16)]
  | .ret => some [(0, 3), (0x7, 7), (0, 21)]
  | .loop l c e => some [(0, 3), (0x8, 7), (l.val, 1), (c.toNat, 10), (e.toNat, 10)]
  | .loops l a e => some [(0, 3), (0x9, 7), (l.val, 1), (a.val, 5), (0, 5), (e.toNat, 10)]
  | .lbrk l => some [(0, 3), (0xa, 7), (l.val, 1), (0, 20)]
  | .tend => some [(0, 3), (0xb, 7), (0, 21)]
  | .tyield => some [(0, 3), (0xc, 7), (0, 21)]
  | .trap c => some [(0, 3), (0xd, 7), (0, 13), (c.toNat, 8)]
  | .tret => some [(0, 3), (0xe, 7), (0, 21)]
  | .wtall a => some [(0, 3), (0xf, 7), (a.val, 5), (0, 16)]
  | .wtany a => some [(0, 3), (0x10, 7), (a.val, 5), (0, 16)]
  | .tffr d a => some [(0, 3), (0x11, 7), (d.val, 5), (a.val, 5), (0, 11)]
  | .tclr a => some [(0, 3), (0x12, 7), (a.val, 5), (0, 16)]
  | .cbar a b => some [(0, 3), (0x13, 7), (a.val, 5), (b.val, 4), (0, 12)]
  | .fence os => some [(0, 3), (0x14, 7), (os.code, 5), (0, 16)]
  | .mfc d c => some [(0, 3), (0x15, 7), (d.val, 5), (c.toNat, 12), (0, 4)]
  | .mtc a c => some [(0, 3), (0x16, 7), (a.val, 5), (c.toNat, 12), (0, 4)]
  | .qpop d => some [(0, 3), (0x17, 7), (d.val, 5), (0, 16)]
  | .sync => some [(0, 3), (0x18, 7), (0, 21)]
  | .add y d a b => some [(y.code, 3), (0x0, 7), (d.val, 5), (a.val, 5), (b.val, 5), (0, 6)]
  | .sub y d a b => some [(y.code, 3), (0x1, 7), (d.val, 5), (a.val, 5), (b.val, 5), (0, 6)]
  | .addi y d a i => some [(y.code, 3), (0x2, 7), (d.val, 5), (a.val, 5), (i.toNat, 11)]
  | .movi y d i => some [(y.code, 3), (0x3, 7), (d.val, 5), (i.toNat, 16)]
  | .movhi y d i => some [(y.code, 3), (0x4, 7), (d.val, 5), (i.toNat, 16)]
  | .mul y d a b => some [(y.code, 3), (0x5, 7), (d.val, 5), (a.val, 5), (b.val, 5), (0, 6)]
  | .mulhi y d a b => some [(y.code, 3), (0x6, 7), (d.val, 5), (a.val, 5), (b.val, 5), (0, 6)]
  | .mulhn y d a b => some [(y.code, 3), (0x7, 7), (d.val, 5), (a.val, 5), (b.val, 5), (0, 6)]
  | .div y d a b => some [(y.code, 3), (0x8, 7), (d.val, 5), (a.val, 5), (b.val, 5), (0, 6)]
  | .divn y d a b => some [(y.code, 3), (0x9, 7), (d.val, 5), (a.val, 5), (b.val, 5), (0, 6)]
  | .rem y d a b => some [(y.code, 3), (0xa, 7), (d.val, 5), (a.val, 5), (b.val, 5), (0, 6)]
  | .remn y d a b => some [(y.code, 3), (0xb, 7), (d.val, 5), (a.val, 5), (b.val, 5), (0, 6)]
  | .and y d a b => some [(y.code, 3), (0xc, 7), (d.val, 5), (a.val, 5), (b.val, 5), (0, 6)]
  | .or y d a b => some [(y.code, 3), (0xd, 7), (d.val, 5), (a.val, 5), (b.val, 5), (0, 6)]
  | .xor y d a b => some [(y.code, 3), (0xe, 7), (d.val, 5), (a.val, 5), (b.val, 5), (0, 6)]
  | .andn y d a b => some [(y.code, 3), (0xf, 7), (d.val, 5), (a.val, 5), (b.val, 5), (0, 6)]
  | .andi y d a i => some [(y.code, 3), (0x10, 7), (d.val, 5), (a.val, 5), (i.toNat, 11)]
  | .ori y d a i => some [(y.code, 3), (0x11, 7), (d.val, 5), (a.val, 5), (i.toNat, 11)]
  | .xori y d a i => some [(y.code, 3), (0x12, 7), (d.val, 5), (a.val, 5), (i.toNat, 11)]
  | .shl y d a b => some [(y.code, 3), (0x13, 7), (d.val, 5), (a.val, 5), (b.val, 5), (0, 6)]
  | .shrl y d a b => some [(y.code, 3), (0x14, 7), (d.val, 5), (a.val, 5), (b.val, 5), (0, 6)]
  | .shra y d a b => some [(y.code, 3), (0x15, 7), (d.val, 5), (a.val, 5), (b.val, 5), (0, 6)]
  | .shli y d a h => some [(y.code, 3), (0x16, 7), (d.val, 5), (a.val, 5), (0, 5), (h.val, 6)]
  | .shrli y d a h => some [(y.code, 3), (0x17, 7), (d.val, 5), (a.val, 5), (0, 5), (h.val, 6)]
  | .shrai y d a h => some [(y.code, 3), (0x18, 7), (d.val, 5), (a.val, 5), (0, 5), (h.val, 6)]
  | .clz y d a => some [(y.code, 3), (0x19, 7), (d.val, 5), (a.val, 5), (0, 11)]
  | .ctz y d a => some [(y.code, 3), (0x1a, 7), (d.val, 5), (a.val, 5), (0, 11)]
  | .popc y d a => some [(y.code, 3), (0x1b, 7), (d.val, 5), (a.val, 5), (0, 11)]
  | .min y d a b => some [(y.code, 3), (0x1c, 7), (d.val, 5), (a.val, 5), (b.val, 5), (0, 6)]
  | .max y d a b => some [(y.code, 3), (0x1d, 7), (d.val, 5), (a.val, 5), (b.val, 5), (0, 6)]
  | .minn y d a b => some [(y.code, 3), (0x1e, 7), (d.val, 5), (a.val, 5), (b.val, 5), (0, 6)]
  | .maxn y d a b => some [(y.code, 3), (0x1f, 7), (d.val, 5), (a.val, 5), (b.val, 5), (0, 6)]
  | .sel y d a b p => some [(y.code, 3), (0x20, 7), (d.val, 5), (a.val, 5), (b.val, 5), (p.val, 3), (0, 3)]
  | .cmp y d a b c => some [(y.code, 3), (0x21, 7), (d.val, 5), (a.val, 5), (b.val, 5), (c.code, 3), (0, 3)]
  | .cmpi y d a c i => some [(y.code, 3), (0x22, 7), (d.val, 5), (a.val, 5), (c.code, 3), (i.toNat, 8)]
  | .plog y d a b f => some [(y.code, 3), (0x23, 7), (d.val, 3), (a.val, 3), (b.val, 3), (f.toNat, 4), (0, 8)]
  | .pmov y dir x p => some [(y.code, 3), (0x24, 7), (dir.toNat, 1), (x.val, 5), (p.val, 3), (0, 12)]
  | .addsc y d a b h => some [(y.code, 3), (0x25, 7), (d.val, 5), (a.val, 5), (b.val, 5), (h.val, 3), (0, 3)]
  | .ext y d a p l => some [(y.code, 3), (0x26, 7), (d.val, 5), (a.val, 5), (p.val, 6), (l.val, 5)]
  | .fadd y d a b f => some [(y.code, 3), (0x27, 7), (d.val, 5), (a.val, 5), (b.val, 5), (f.code, 1), (0, 5)]
  | .fsub y d a b f => some [(y.code, 3), (0x28, 7), (d.val, 5), (a.val, 5), (b.val, 5), (f.code, 1), (0, 5)]
  | .fmul y d a b f => some [(y.code, 3), (0x29, 7), (d.val, 5), (a.val, 5), (b.val, 5), (f.code, 1), (0, 5)]
  | .ffma y d a b c f => some [(y.code, 3), (0x2a, 7), (d.val, 5), (a.val, 5), (b.val, 5), (c.val, 5), (f.code, 1)]
  | .fcmp y d a b c f => some [(y.code, 3), (0x2b, 7), (d.val, 5), (a.val, 5), (b.val, 5), (c.code, 3), (f.code, 1), (0, 2)]
  | .fcvt y d a t f => some [(y.code, 3), (0x2c, 7), (d.val, 5), (a.val, 5), (t.code, 4), (f.code, 4), (0, 3)]
  | .fmnx y d a b f m => some [(y.code, 3), (0x2d, 7), (d.val, 5), (a.val, 5), (b.val, 5), (f.code, 1), (m.toNat, 1), (0, 4)]
  | .lds d a w o => some [(3, 3), (0x0, 7), (d.val, 5), (a.val, 5), (w.code, 3), (o.toNat, 8)]
  | .sts b a w o => some [(3, 3), (0x1, 7), (b.val, 5), (a.val, 5), (0, 1), (w.code, 2), (o.toNat, 8)]
  | .ldv d a p o => some [(3, 3), (0x2, 7), (d.val, 5), (a.val, 5), (p.val, 3), (o.toNat, 8)]
  | .stv b a p o => some [(3, 3), (0x3, 7), (b.val, 5), (a.val, 5), (p.val, 3), (o.toNat, 8)]
  | .ldvb d a s o => some [(3, 3), (0x4, 7), (d.val, 5), (a.val, 5), (0, 1), (s.code, 2), (o.toNat, 8)]
  | .ldvx d a b p s => some [(3, 3), (0x5, 7), (d.val, 5), (a.val, 5), (b.val, 5), (p.val, 3), (s.code, 2), (0, 1)]
  | .stvx c a b p s => some [(3, 3), (0x6, 7), (c.val, 5), (a.val, 5), (b.val, 5), (p.val, 3), (s.code, 2), (0, 1)]
  | .ldpm d a o => some [(3, 3), (0x7, 7), (d.val, 3), (0, 2), (a.val, 5), (0, 3), (o.toNat, 8)]
  | .stpm b a o => some [(3, 3), (0x8, 7), (b.val, 3), (0, 2), (a.val, 5), (0, 3), (o.toNat, 8)]
  | .ldg d a w os => some [(3, 3), (0x9, 7), (d.val, 5), (a.val, 5), (w.code, 3), (os.code, 5), (0, 3)]
  | .stg b a w os => some [(3, 3), (0xa, 7), (b.val, 5), (a.val, 5), (0, 1), (w.code, 2), (os.code, 5), (0, 3)]
  | .atg d a p w os => some [(3, 3), (0xb, 7), (d.val, 5), (a.val, 5), (p.code, 4), (w.toNat, 1), (os.code, 5), (0, 1)]
  | .casg d a b w os => some [(3, 3), (0xc, 7), (d.val, 5), (a.val, 5), (b.val, 5), (w.toNat, 1), (os.code, 5)]
  | .ats d a p w os => some [(3, 3), (0xd, 7), (d.val, 5), (a.val, 5), (p.code, 4), (w.toNat, 1), (os.code, 5), (0, 1)]
  | .cass d a b w os => some [(3, 3), (0xe, 7), (d.val, 5), (a.val, 5), (b.val, 5), (w.toNat, 1), (os.code, 5)]
  | .vadd d a b p t => some [(4, 3), (0x0, 7), (d.val, 5), (a.val, 5), (b.val, 5), (p.val, 3), (t.code, 3)]
  | .vsub d a b p t => some [(4, 3), (0x1, 7), (d.val, 5), (a.val, 5), (b.val, 5), (p.val, 3), (t.code, 3)]
  | .vmul d a b p t => some [(4, 3), (0x2, 7), (d.val, 5), (a.val, 5), (b.val, 5), (p.val, 3), (t.code, 3)]
  | .vmulhi d a b p t => some [(4, 3), (0x3, 7), (d.val, 5), (a.val, 5), (b.val, 5), (p.val, 3), (t.code, 3)]
  | .vmad d a b p t => some [(4, 3), (0x4, 7), (d.val, 5), (a.val, 5), (b.val, 5), (p.val, 3), (t.code, 3)]
  | .vand d a b p t => some [(4, 3), (0x5, 7), (d.val, 5), (a.val, 5), (b.val, 5), (p.val, 3), (t.code, 3)]
  | .vor d a b p t => some [(4, 3), (0x6, 7), (d.val, 5), (a.val, 5), (b.val, 5), (p.val, 3), (t.code, 3)]
  | .vxor d a b p t => some [(4, 3), (0x7, 7), (d.val, 5), (a.val, 5), (b.val, 5), (p.val, 3), (t.code, 3)]
  | .vshl d a b p t => some [(4, 3), (0x8, 7), (d.val, 5), (a.val, 5), (b.val, 5), (p.val, 3), (t.code, 3)]
  | .vshrl d a b p t => some [(4, 3), (0x9, 7), (d.val, 5), (a.val, 5), (b.val, 5), (p.val, 3), (t.code, 3)]
  | .vshra d a b p t => some [(4, 3), (0xa, 7), (d.val, 5), (a.val, 5), (b.val, 5), (p.val, 3), (t.code, 3)]
  | .vmin d a b p t => some [(4, 3), (0xb, 7), (d.val, 5), (a.val, 5), (b.val, 5), (p.val, 3), (t.code, 3)]
  | .vmax d a b p t => some [(4, 3), (0xc, 7), (d.val, 5), (a.val, 5), (b.val, 5), (p.val, 3), (t.code, 3)]
  | .vabs d a p t => some [(4, 3), (0xd, 7), (d.val, 5), (a.val, 5), (0, 5), (p.val, 3), (t.code, 3)]
  | .vneg d a p t => some [(4, 3), (0xe, 7), (d.val, 5), (a.val, 5), (0, 5), (p.val, 3), (t.code, 3)]
  | .vsel d a b p t => some [(4, 3), (0xf, 7), (d.val, 5), (a.val, 5), (b.val, 5), (p.val, 3), (t.code, 3)]
  | .vcmp d c a b t => some [(4, 3), (0x10, 7), (d.val, 3), (c.code, 3), (a.val, 5), (b.val, 5), (t.code, 3), (0, 2)]
  | .vfadd d a b p t => some [(4, 3), (0x11, 7), (d.val, 5), (a.val, 5), (b.val, 5), (p.val, 3), (t.code, 3)]
  | .vfsub d a b p t => some [(4, 3), (0x12, 7), (d.val, 5), (a.val, 5), (b.val, 5), (p.val, 3), (t.code, 3)]
  | .vfmul d a b p t => some [(4, 3), (0x13, 7), (d.val, 5), (a.val, 5), (b.val, 5), (p.val, 3), (t.code, 3)]
  | .vffma d a b p t => some [(4, 3), (0x14, 7), (d.val, 5), (a.val, 5), (b.val, 5), (p.val, 3), (t.code, 3)]
  | .vfdiv d a b p t => some [(4, 3), (0x15, 7), (d.val, 5), (a.val, 5), (b.val, 5), (p.val, 3), (t.code, 3)]
  | .vfsqrt d a p t => some [(4, 3), (0x16, 7), (d.val, 5), (a.val, 5), (0, 5), (p.val, 3), (t.code, 3)]
  | .vfrcp d a p t => some [(4, 3), (0x17, 7), (d.val, 5), (a.val, 5), (0, 5), (p.val, 3), (t.code, 3)]
  | .vfrsq d a p t => some [(4, 3), (0x18, 7), (d.val, 5), (a.val, 5), (0, 5), (p.val, 3), (t.code, 3)]
  | .vfexp2 d a p t => some [(4, 3), (0x19, 7), (d.val, 5), (a.val, 5), (0, 5), (p.val, 3), (t.code, 3)]
  | .vflog2 d a p t => some [(4, 3), (0x1a, 7), (d.val, 5), (a.val, 5), (0, 5), (p.val, 3), (t.code, 3)]
  | .vfmin d a b p t => some [(4, 3), (0x1b, 7), (d.val, 5), (a.val, 5), (b.val, 5), (p.val, 3), (t.code, 3)]
  | .vfmax d a b p t => some [(4, 3), (0x1c, 7), (d.val, 5), (a.val, 5), (b.val, 5), (p.val, 3), (t.code, 3)]
  | .vfcmp d c a b t => some [(4, 3), (0x1d, 7), (d.val, 3), (c.code, 3), (a.val, 5), (b.val, 5), (t.code, 3), (0, 2)]
  | .vcvt d a t f p => some [(4, 3), (0x1e, 7), (d.val, 5), (a.val, 5), (t.code, 4), (f.code, 4), (p.val, 3)]
  | .vqnt d a t f p => some [(4, 3), (0x1f, 7), (d.val, 5), (a.val, 5), (t.code, 4), (f.code, 4), (p.val, 3)]
  | .vdqnt d a t f p => some [(4, 3), (0x20, 7), (d.val, 5), (a.val, 5), (t.code, 4), (f.code, 4), (p.val, 3)]
  | .vred d a r p t => some [(4, 3), (0x21, 7), (d.val, 5), (a.val, 5), (r.code, 3), (p.val, 3), (t.fl, 1), (t.code, 3), (0, 1)]
  | .vscan d a r p t e => some [(4, 3), (0x22, 7), (d.val, 5), (a.val, 5), (r.code, 3), (p.val, 3), (t.fl, 1), (t.code, 3), (e.toNat, 1)]
  | .vperm d a b p t => some [(4, 3), (0x23, 7), (d.val, 5), (a.val, 5), (b.val, 5), (p.val, 3), (t.code, 3)]
  | .vbcst d a p t => some [(4, 3), (0x24, 7), (d.val, 5), (a.val, 5), (0, 5), (p.val, 3), (t.code, 3)]
  | .viota d a p t => some [(4, 3), (0x25, 7), (d.val, 5), (a.val, 5), (0, 5), (p.val, 3), (t.code, 3)]
  | .vcmpr d a p t => some [(4, 3), (0x26, 7), (d.val, 5), (a.val, 5), (0, 5), (p.val, 3), (t.code, 3)]
  | .vmovs d a b dir t => some [(4, 3), (0x27, 7), (d.val, 5), (a.val, 5), (b.val, 5), (dir.toNat, 1), (0, 2), (t.code, 3)]
  | .vdefer a b c p n => some [(4, 3), (0x28, 7), (a.val, 5), (b.val, 5), (c.val, 5), (p.val, 3), (n.val, 2), (0, 1)]
  | .vdrain d c p l n => some [(4, 3), (0x29, 7), (d.val, 5), (c.val, 5), (p.val, 3), (l.toNat, 1), (n.val, 2), (0, 5)]
  | .vtoq a b t => some [(4, 3), (0x2a, 7), (0, 5), (a.val, 5), (b.val, 5), (0, 3), (t.code, 3)]
  | .vsred d a b r t => some [(4, 3), (0x2b, 7), (d.val, 5), (a.val, 5), (b.val, 5), (r.code, 2), (t.fl, 1), (t.code, 3)]
  | .mldw w f a => some [(5, 3), (0x0, 7), (w.val, 1), (f.toNat, 1), (a.val, 5), (0, 14)]
  | .mmul t a g b c => some [(5, 3), (0x1, 7), (t.val, 2), (a.val, 5), (g.val, 2), (b.val, 3), (c.val, 5), (0, 4)]
  | .mzero t => some [(5, 3), (0x2, 7), (t.val, 2), (0, 19)]
  | .mload t a => some [(5, 3), (0x3, 7), (t.val, 2), (a.val, 5), (0, 14)]
  | .mdrain t a k p c => some [(5, 3), (0x4, 7), (t.val, 2), (a.val, 5), (k.code, 4), (p.val, 3), (c.toNat, 1), (0, 6)]
  | .mtt t a b => some [(5, 3), (0x5, 7), (t.val, 2), (a.val, 2), (b.val, 2), (0, 15)]
  | .maddt t a b => some [(5, 3), (0x6, 7), (t.val, 2), (a.val, 2), (b.val, 2), (0, 15)]
  | .mscl t a s => some [(5, 3), (0x7, 7), (t.val, 2), (a.val, 2), (s.val, 5), (0, 12)]
  | .mtrn t a => some [(5, 3), (0x8, 7), (t.val, 2), (a.val, 2), (0, 17)]
  | .mnorm d a => some [(5, 3), (0x9, 7), (d.val, 5), (a.val, 2), (0, 14)]
  | .mpoly t a g => some [(5, 3), (0xa, 7), (t.val, 2), (a.val, 2), (g.val, 3), (0, 14)]
  | .miter t a m => some [(5, 3), (0xb, 7), (t.val, 2), (a.val, 2), (m.toNat, 1), (0, 16)]
  | .fmt f => some [(6, 3), (0x0, 7), (0, 11), (f.toNat, 10)]
  | .fmts a => some [(6, 3), (0x1, 7), (a.val, 5), (0, 16)]
  | .sla a => some [(6, 3), (0x2, 7), (a.val, 5), (0, 16)]
  | .slb a => some [(6, 3), (0x3, 7), (a.val, 5), (0, 16)]
  | .slq a => some [(6, 3), (0x4, 7), (a.val, 5), (0, 16)]
  | .slz => some [(6, 3), (0x5, 7), (0, 21)]
  | .xcp a x => some [(7, 3), (0x0, 7), (a.val, 5), (0, 5), (x.code, 11)]
  | .xcph a b x => some [(7, 3), (0x1, 7), (a.val, 5), (b.val, 5), (x.code, 11)]
  | .xmc a b x => some [(7, 3), (0x2, 7), (a.val, 5), (b.val, 5), (x.code, 11)]
  | .xga a b x => some [(7, 3), (0x3, 7), (a.val, 5), (b.val, 5), (x.code, 11)]
  | .xsc a b x => some [(7, 3), (0x4, 7), (a.val, 5), (b.val, 5), (x.code, 11)]
  | .xwin a b drop => some [(7, 3), (0x5, 7), (a.val, 5), (b.val, 5), (drop.toNat, 2), (0, 9)]
  | .xwb a x => some [(7, 3), (0x6, 7), (a.val, 5), (0, 5), (x.code, 11)]
  | .xinv a x => some [(7, 3), (0x7, 7), (a.val, 5), (0, 5), (x.code, 11)]
  | .xgate a x => some [(7, 3), (0x8, 7), (a.val, 5), (0, 5), (x.code, 11)]
  | .xcan a => some [(7, 3), (0x9, 7), (a.val, 5), (0, 16)]
  | .qenq p a b => some [(7, 3), (0xa, 7), (p.val, 3), (a.val, 5), (b.val, 5), (0, 8)]
  | .qdeq d a => some [(7, 3), (0xb, 7), (d.val, 5), (a.val, 5), (0, 5), (0, 6)]
  | .tqpush p a b => some [(7, 3), (0xc, 7), (p.val, 3), (a.val, 5), (b.val, 5), (0, 8)]
  | .launch a x => some [(7, 3), (0xd, 7), (a.val, 5), (0, 5), (x.code, 11)]
  | .gsmpl a b x => some [(7, 3), (0xe, 7), (a.val, 5), (b.val, 5), (x.code, 11)]
  | .gfork a b x => some [(7, 3), (0xf, 7), (a.val, 5), (b.val, 5), (x.code, 11)]
  | .gtrunc a b x => some [(7, 3), (0x10, 7), (a.val, 5), (b.val, 5), (x.code, 11)]
  | .gcur a b => some [(7, 3), (0x11, 7), (0, 5), (a.val, 5), (b.val, 5), (0, 6)]
  | .gins a b x => some [(7, 3), (0x12, 7), (a.val, 5), (b.val, 5), (x.code, 11)]
  | .gsnap a x => some [(7, 3), (0x13, 7), (a.val, 5), (0, 5), (x.code, 11)]
  | .wjw a x => some [(7, 3), (0x14, 7), (a.val, 5), (0, 5), (x.code, 11)]
  | .wjc a x => some [(7, 3), (0x15, 7), (a.val, 5), (0, 5), (x.code, 11)]
  | .wja a x => some [(7, 3), (0x16, 7), (a.val, 5), (0, 5), (x.code, 11)]
  | .wjd a x => some [(7, 3), (0x17, 7), (a.val, 5), (0, 5), (x.code, 11)]
  | .wwear d a => some [(7, 3), (0x18, 7), (d.val, 5), (a.val, 5), (0, 5), (0, 6)]
  | .xhash a x => some [(7, 3), (0x19, 7), (a.val, 5), (0, 5), (x.code, 11)]
  | .xsign a x => some [(7, 3), (0x1a, 7), (a.val, 5), (0, 5), (x.code, 11)]
  | .xvfy a x => some [(7, 3), (0x1b, 7), (a.val, 5), (0, 5), (x.code, 11)]
  | .xhint a b => some [(7, 3), (0x1c, 7), (0, 5), (a.val, 5), (b.val, 5), (0, 6)]
  | .xpwr a => some [(7, 3), (0x1d, 7), (a.val, 5), (0, 16)]
  | .xevt a c => some [(7, 3), (0x1e, 7), (a.val, 5), (c.toNat, 8), (0, 8)]
  | _ => none

theorem encode_eq_layout (i : Instr) : encode i = (layout i).map Layout.pack := by
  cases i
  all_goals
    unfold encode layout
    simp only [Option.map, Layout.pack, Layout.width, word, Option.some.injEq] <;> omega

theorem layout_of_slot {i : Instr} {n : Nat} (slot : i.slot = some n) : ∃ l, layout i = some l := by
  cases i <;> cases slot <;> exact ⟨_, rfl⟩

theorem encode_of_step {i : Instr} (step : i.slot = none) : encode i = none := by
  cases i <;> cases step <;> rfl

theorem AB.code_lt (y : AB) : y.code < 8 := by cases y <;> decide

theorem FpTy.code_lt_eight (t : FpTy) : t.code < 8 := (Laws.FpTy.code_lt t).trans (by decide)

theorem Fcc.code_lt_eight (c : Fcc) : c.code < 8 := (Laws.Fcc.code_lt c).trans (by decide)

theorem Rop.code_lt_four {r : Rop} (order : r.isOrder = true) : r.code < 4 := by
  cases r <;> cases order <;> decide

theorem toNat_lt_four (b : Bool) : b.toNat < 4 := b.toNat_lt.trans (by decide)

/-- A word has 31 bits below its start bit, and what a well-formed instruction puts into a field has room there. -/
theorem layout_fits {i : Instr} {l : Layout} (good : i.wf = true) (made : layout i = some l) : l.width = 31 ∧ l.Fits := by
  cases i <;> cases made
  case' vsred => have order := Rop.code_lt_four good
  all_goals
    refine ⟨rfl, ?_⟩
    simp only [Layout.Fits, Nat.reducePow, Nat.reduceLT, Bool.toNat_lt, toNat_lt_four, AB.code_lt, Laws.Ty.code_lt, Laws.IntTy.code_lt,
      FpTy.code_lt_eight, Laws.Size.code_lt, Laws.FD.code_lt, Laws.Cc.code_lt, Fcc.code_lt_eight, Laws.Aop.code_lt, Laws.Rop.code_lt,
      Laws.OrdScope.code_lt, Laws.RedTy.fl_lt, Laws.RedTy.code_lt, Laws.Xc.code_lt, and_true, true_and] <;> omega

/-- The instruction is well formed, and the word holds its layout. -/
def Holds (w : Nat) (i : Instr) : Prop := i.wf = true ∧ ∃ l, layout i = some l ∧ l.Reads w

theorem holds_iff_encode {w : Nat} {i : Instr} : Holds w i ↔ i.wf = true ∧ encode i = some (w % 2 ^ 31) := by
  rw [encode_eq_layout]
  constructor
  · rintro ⟨good, l, made, reads⟩
    rw [made, Option.map_some, ← reads.mod_width, (layout_fits good made).1]
    exact ⟨good, rfl⟩
  · rintro ⟨good, packed⟩
    obtain ⟨l, made, pack⟩ := Option.map_eq_some_iff.mp packed
    obtain ⟨width, fits⟩ := layout_fits good made
    exact ⟨good, l, made, fits.reads (by rw [width, pack])⟩

theorem Holds.slot {w : Nat} {i : Instr} (holds : Holds w i) : i.slot = some (fld w 28 3) := by
  obtain ⟨-, l, made, reads⟩ := holds
  cases i <;> cases made <;> exact congrArg some reads.1.symm

end Sys2Proof.Proofs

end

/-! # Proofs: what the decoder reads -/

section

namespace Sys2Proof.Proofs
open Sys2Proof.Machine Sys2Proof.Laws

/-! ### Reserved bits and unused fields -/

/-- A mask of n bits from bit lo tests the field of those bits. -/
theorem land_run_eq_zero_iff (w lo n : Nat) : w &&& (2 ^ n - 1) * 2 ^ lo = 0 ↔ fld w lo n = 0 := by
  have field : fld w lo n = w >>> lo &&& (2 ^ n - 1) := by
    rw [fld, Nat.and_two_pow_sub_one_eq_mod, Nat.shiftRight_eq_div_pow]
  rw [field, ← Nat.shiftLeft_eq]
  simp only [Nat.eq_iff_testBit_eq, Nat.testBit_and, Nat.testBit_shiftLeft, Nat.testBit_shiftRight, Nat.testBit_two_pow_sub_one,
    Nat.zero_testBit]
  constructor
  · intro clear i
    simpa using clear (lo + i)
  · intro clear i
    by_cases above : lo ≤ i
    · simpa [above] using clear (i - lo)
    · simp [above]

theorem land_runs_eq_zero_iff (w lo n hi m : Nat) :
    w &&& ((2 ^ n - 1) * 2 ^ lo ||| (2 ^ m - 1) * 2 ^ hi) = 0 ↔ fld w lo n = 0 ∧ fld w hi m = 0 := by
  rw [Nat.and_or_distrib_left, Nat.or_eq_zero_iff, land_run_eq_zero_iff, land_run_eq_zero_iff]

/-- The fields that the decoder's masks test. -/
theorem mask_iff (w : Nat) :
    (w &&& 0x1 = 0 ↔ fld w 0 1 = 0) ∧ (w &&& 0x3 = 0 ↔ fld w 0 2 = 0) ∧ (w &&& 0x7 = 0 ↔ fld w 0 3 = 0) ∧
    (w &&& 0xf = 0 ↔ fld w 0 4 = 0) ∧ (w &&& 0x1f = 0 ↔ fld w 0 5 = 0) ∧ (w &&& 0x3f = 0 ↔ fld w 0 6 = 0) ∧
    (w &&& 0xff = 0 ↔ fld w 0 8 = 0) ∧ (w &&& 0x1ff = 0 ↔ fld w 0 9 = 0) ∧ (w &&& 0x7ff = 0 ↔ fld w 0 11 = 0) ∧
    (w &&& 0xfff = 0 ↔ fld w 0 12 = 0) ∧ (w &&& 0x3fff = 0 ↔ fld w 0 14 = 0) ∧ (w &&& 0x7fff = 0 ↔ fld w 0 15 = 0) ∧
    (w &&& 0xffff = 0 ↔ fld w 0 16 = 0) ∧ (w &&& 0x1ffff = 0 ↔ fld w 0 17 = 0) ∧ (w &&& 0x7ffff = 0 ↔ fld w 0 19 = 0) ∧
    (w &&& 0xfffff = 0 ↔ fld w 0 20 = 0) ∧ (w &&& 0x1fffff = 0 ↔ fld w 0 21 = 0) ∧
    (w &&& 0x18 = 0 ↔ fld w 3 2 = 0) ∧ (w &&& 0x7c0 = 0 ↔ fld w 6 5 = 0) ∧ (w &&& 0x1fff00 = 0 ↔ fld w 8 13 = 0) ∧
    (w &&& 0x400 = 0 ↔ fld w 10 1 = 0) ∧ (w &&& 0x7c00 = 0 ↔ fld w 10 5 = 0) ∧ (w &&& 0x1ffc00 = 0 ↔ fld w 10 11 = 0) ∧
    (w &&& 0xf800 = 0 ↔ fld w 11 5 = 0) ∧ (w &&& 0x1ff000 = 0 ↔ fld w 12 9 = 0) ∧ (w &&& 0x1f0000 = 0 ↔ fld w 16 5 = 0) ∧
    (w &&& 0x60000 = 0 ↔ fld w 17 2 = 0) ∧ (w &&& 0x100000 = 0 ↔ fld w 20 1 = 0) ∧
    (w &&& 0x30700 = 0 ↔ fld w 8 3 = 0 ∧ fld w 16 2 = 0) ∧ (w &&& 0x1f0038 = 0 ↔ fld w 3 3 = 0 ∧ fld w 16 5 = 0) := by
  have low (n : Nat) : w &&& (2 ^ n - 1) = 0 ↔ fld w 0 n = 0 := by simpa using land_run_eq_zero_iff w 0 n
  have run := land_run_eq_zero_iff w
  exact ⟨low 1, low 2, low 3, low 4, low 5, low 6, low 8, low 9, low 11, low 12, low 14, low 15, low 16, low 17, low 19, low 20, low 21,
    run 3 2, run 6 5, run 8 13, run 10 1, run 10 5, run 10 11, run 11 5, run 12 9, run 16 5, run 17 2, run 20 1,
    land_runs_eq_zero_iff w 8 3 16 2, land_runs_eq_zero_iff w 3 3 16 5⟩

/-! ### Numbers in fields -/

theorem reg_val (w lo : Nat) : (reg w lo).val = fld w lo 5 := rfl

theorem preg_val (w lo : Nat) : (preg w lo).val = fld w lo 3 := rfl

theorem num_val (w lo : Nat) :
    (num 2 w lo).val = fld w lo 1 ∧ (num 4 w lo).val = fld w lo 2 ∧ (num 8 w lo).val = fld w lo 3 ∧ (num 16 w lo).val = fld w lo 4 ∧
    (num 32 w lo).val = fld w lo 5 ∧ (num 64 w lo).val = fld w lo 6 :=
  ⟨rfl, rfl, rfl, rfl, rfl, rfl⟩

theorem imm_toNat (n w lo : Nat) : (imm n w lo).toNat = fld w lo n := BitVec.toNat_ofNat _ _

theorem bit_toNat (w lo : Nat) : (bit w lo).toNat = fld w lo 1 := by
  have small := fld_lt w lo 1
  unfold bit
  interval_cases fld w lo 1 <;> rfl

theorem bit_eq_iff {w lo : Nat} {b : Bool} : bit w lo = b ↔ fld w lo 1 = b.toNat := by
  rw [← bit_toNat]
  cases bit w lo <;> cases b <;> decide

theorem xc_code (w : Nat) : (xc w).code = fld w 0 11 := by
  have made : (xc w).code = (bit w 10).toNat * 2 ^ 10 + (bit w 9).toNat * 2 ^ 9 + w / 2 ^ 6 % 8 * 2 ^ 6 + w % 64 := rfl
  rw [made, bit_toNat, bit_toNat]
  unfold fld
  omega

theorem xc_eq_iff {w : Nat} {x : Xc} : xc w = x ↔ fld w 0 11 = x.code := by
  refine ⟨fun same => same ▸ (xc_code w).symm, fun read => ?_⟩
  obtain ⟨acq, rel, sc, tag⟩ := x
  have acq2 := acq.toNat_lt
  have rel2 := rel.toNat_lt
  simp only [Xc.code, fld] at read
  have hacq : bit w 10 = acq := bit_eq_iff.mpr (by unfold fld; omega)
  have hrel : bit w 9 = rel := bit_eq_iff.mpr (by unfold fld; omega)
  have hsc : Fin.ofNat 8 (w / 2 ^ 6) = sc := Fin.ext (by rw [Fin.val_ofNat]; omega)
  have htag : Fin.ofNat 64 w = tag := Fin.ext (by rw [Fin.val_ofNat]; omega)
  rw [← hacq, ← hrel, ← hsc, ← htag]
  rfl

/-! ### Codes in fields -/

theorem Ty.code_ofCode {n : Nat} (small : n < 16) : (Ty.ofCode n).code = n := by
  interval_cases n <;> rfl

theorem IntTy.code_ofCode {n : Nat} (small : n < 8) : (IntTy.ofCode n).code = n := by
  interval_cases n <;> rfl

theorem Size.code_ofCode {n : Nat} (small : n < 4) : (Size.ofCode n).code = n := by
  interval_cases n <;> rfl

theorem FD.code_ofCode {n : Nat} (small : n < 2) : (FD.ofCode n).code = n := by
  interval_cases n <;> rfl

/-- The code of a type that is read from a field is the field. -/
theorem code_ofCode_fld (w lo : Nat) :
    (Ty.ofCode (fld w lo 4)).code = fld w lo 4 ∧ (IntTy.ofCode (fld w lo 3)).code = fld w lo 3 ∧
    (Size.ofCode (fld w lo 2)).code = fld w lo 2 ∧ (FD.ofCode (fld w lo 1)).code = fld w lo 1 :=
  ⟨Ty.code_ofCode (fld_lt w lo 4), IntTy.code_ofCode (fld_lt w lo 3), Size.code_ofCode (fld_lt w lo 2), FD.code_ofCode (fld_lt w lo 1)⟩

theorem Ty.ofCode_code (t : Ty) : Ty.ofCode t.code = t := by cases t <;> rfl

theorem IntTy.ofCode_code (t : IntTy) : IntTy.ofCode t.code = t := by cases t <;> rfl

theorem Size.ofCode_code (t : Size) : Size.ofCode t.code = t := by cases t <;> rfl

theorem FD.ofCode_code (t : FD) : FD.ofCode t.code = t := by cases t <;> rfl

theorem FpTy.ofCode?_eq_some {n : Nat} {t : FpTy} : FpTy.ofCode? n = some t ↔ n = t.code := by
  fun_cases FpTy.ofCode? n <;> cases t <;> simp_all [FpTy.code]

theorem Cc.ofCode?_eq_some {n : Nat} {c : Cc} : Cc.ofCode? n = some c ↔ n = c.code := by
  fun_cases Cc.ofCode? n <;> cases c <;> simp_all [Cc.code]

theorem Fcc.ofCode?_eq_some {n : Nat} {c : Fcc} : Fcc.ofCode? n = some c ↔ n = c.code := by
  fun_cases Fcc.ofCode? n <;> cases c <;> simp_all [Fcc.code]

theorem Aop.ofCode?_eq_some {n : Nat} {p : Aop} : Aop.ofCode? n = some p ↔ n = p.code := by
  fun_cases Aop.ofCode? n <;> cases p <;> simp_all [Aop.code]

theorem Rop.ofCode?_eq_some {n : Nat} {r : Rop} : Rop.ofCode? n = some r ↔ n = r.code := by
  fun_cases Rop.ofCode? n <;> cases r <;> simp_all [Rop.code]

theorem Order.ofCode?_eq_some {n : Nat} {o : Order} : Order.ofCode? n = some o ↔ n = o.code := by
  fun_cases Order.ofCode? n <;> cases o <;> simp_all [Order.code]

theorem Scope.ofCode?_eq_some {n : Nat} {x : Scope} : Scope.ofCode? n = some x ↔ n = x.code := by
  fun_cases Scope.ofCode? n <;> cases x <;> simp_all [Scope.code]

theorem bool2?_eq_some {n : Nat} {b : Bool} : bool2? n = some b ↔ n = b.toNat := by
  fun_cases bool2? n <;> cases b <;> simp_all

theorem OrdScope.ofCode?_eq_some {n : Nat} {os : OrdScope} : OrdScope.ofCode? n = some os ↔ n = os.code := by
  unfold OrdScope.ofCode?
  constructor
  · intro read
    split at read
    next o x order scope =>
      cases read
      rw [Order.ofCode?_eq_some] at order
      rw [Scope.ofCode?_eq_some] at scope
      rw [OrdScope.code, ← order, ← scope]
      omega
    next => cases read
  · rintro rfl
    obtain ⟨o, x⟩ := os
    cases o <;> cases x <;> rfl

theorem RedTy.ofCode?_code (t : RedTy) : RedTy.ofCode? t.fl t.code = some t := by
  cases t with
  | int t => simp only [RedTy.ofCode?, RedTy.fl, RedTy.code, if_true, IntTy.ofCode_code]
  | fp t => simp only [RedTy.ofCode?, RedTy.fl, RedTy.code, one_ne_zero, if_false, (FpTy.ofCode?_eq_some (t := t)).mpr rfl, Option.map_some]

theorem RedTy.ofCode?_eq_some {w lo hi : Nat} {t : RedTy} :
    RedTy.ofCode? (fld w hi 1) (fld w lo 3) = some t ↔ fld w hi 1 = t.fl ∧ fld w lo 3 = t.code := by
  refine ⟨fun read => ?_, fun ⟨fl, code⟩ => by rw [fl, code, RedTy.ofCode?_code]⟩
  have fl2 := fld_lt w hi 1
  unfold RedTy.ofCode? at read
  split at read
  next int =>
    cases read
    exact ⟨int, (IntTy.code_ofCode (fld_lt w lo 3)).symm⟩
  next fp =>
    obtain ⟨x, code, rfl⟩ := Option.map_eq_some_iff.mp read
    exact ⟨by rw [RedTy.fl]; omega, FpTy.ofCode?_eq_some.mp code⟩

/-! ### What the decoder's steps accept (R71, R73) -/

section
variable {w m : Nat} {i j : Instr} {k : Except DecodeError Instr}

theorem res_eq_ok : res w m k = .ok i ↔ w &&& m = 0 ∧ k = .ok i := by
  unfold res
  split <;> simp [*]

theorem zero_eq_ok : zero w m k = .ok i ↔ w &&& m = 0 ∧ k = .ok i := by
  unfold zero
  split <;> simp [*]

theorem acc_eq_ok {α : Type} {c : Option α} {k : α → Except DecodeError Instr} : acc c k = .ok i ↔ ∃ x, c = some x ∧ k x = .ok i := by
  cases c <;> simp [acc]

theorem chk_eq_ok : chk j = .ok i ↔ j = i ∧ i.wf = true := by
  unfold chk
  split <;> grind

theorem not_ok_of_error {e : DecodeError} {p : Prop} : (Except.error e : Except DecodeError Instr) = .ok i → p := nofun

end

end Sys2Proof.Proofs

end

/-! # Proofs: the decoder and the encoder agree (O52, O53, O54) -/

section

namespace Sys2Proof.Proofs
open Sys2Proof.Machine Sys2Proof.Laws

/-! ### Every row of the tables reads its form's layout (R80 to R86) -/

/-- The table of a slot (R67). -/
def slotTable : Nat → Nat → Except DecodeError Instr
  | 0 => decodeC
  | 1 => decodeAB .a
  | 2 => decodeAB .b
  | 3 => decodeL
  | 4 => decodeV
  | 5 => decodeM
  | 6 => decodeF
  | _ => decodeX

theorem slotTable_eq : slotTable 0 = decodeC ∧ (∀ y : AB, slotTable y.code = decodeAB y) ∧ slotTable 3 = decodeL ∧
    slotTable 4 = decodeV ∧ slotTable 5 = decodeM ∧ slotTable 6 = decodeF ∧ slotTable 7 = decodeX :=
  ⟨rfl, fun y => by cases y <;> rfl, rfl, rfl, rfl, rfl, rfl⟩

theorem decodeWord_eq_slotTable (w : Nat) : decodeWord w = slotTable (fld w 28 3) w := by
  unfold decodeWord slotTable
  split <;> simp_all

/-- What a row accepts is well formed, and the word holds its layout: the slot and the opcode led to the row, the row's masks and codes give
the other fields. -/
theorem holds_of_decodeWord {w : Nat} {i : Instr} : decodeWord w = .ok i → Holds w i := by
  have slot8 := fld_lt w 28 3
  have form2 := fld_lt w 20 1
  rw [decodeWord_eq_slotTable]
  interval_cases slot : fld w 28 3
  all_goals
    simp only [slotTable, decodeC, decodeAB, decodeL, decodeV, decodeVHigh, decodeM, decodeF, decodeX]
    repeat' split
  -- an unassigned opcode decodes to nothing
  any_goals exact not_ok_of_error
  all_goals
    simp only [res_eq_ok, zero_eq_ok, acc_eq_ok, chk_eq_ok, mask_iff, FpTy.ofCode?_eq_some, Cc.ofCode?_eq_some, Fcc.ofCode?_eq_some,
      Aop.ofCode?_eq_some, Rop.ofCode?_eq_some, OrdScope.ofCode?_eq_some, RedTy.ofCode?_eq_some, bool2?_eq_some, and_imp, exists_imp]
    intros
    subst_vars
    refine ⟨‹_›, _, rfl, ?_⟩
    simp [Layout.Reads, Layout.width, AB.code, reg_val, preg_val, num_val, imm_toNat, bit_toNat, xc_code, code_ofCode_fld, *] <;> omega

/-- A word that holds an instruction's layout decodes to it: slot and opcode lead to the form's row, each step of the row finds the field
that it reads. -/
theorem Holds.decodeWord {w : Nat} {i : Instr} (holds : Holds w i) : decodeWord w = .ok i := by
  obtain ⟨good, l, made, reads⟩ := holds
  rw [decodeWord_eq_slotTable]
  cases i <;> cases made
  all_goals
    simp only [Layout.Reads, Layout.width, Nat.reduceAdd] at reads
    obtain ⟨slot, op, fields⟩ := reads
    rw [slot]
    simp only [slotTable_eq]
    delta decodeC decodeAB decodeL decodeV decodeVHigh decodeM decodeF decodeX
    rw [op]
    -- the step that the form's row begins with
    first
      | change res _ _ _ = _ | change zero _ _ _ = _ | change acc _ _ = _ | change chk _ = _
      | change (if fld w 20 1 = 0 then _ else _) = _
    simp only [res_eq_ok, zero_eq_ok, acc_eq_ok, chk_eq_ok, mask_iff, FpTy.ofCode?_eq_some, Cc.ofCode?_eq_some, Fcc.ofCode?_eq_some,
      Aop.ofCode?_eq_some, Rop.ofCode?_eq_some, OrdScope.ofCode?_eq_some, RedTy.ofCode?_code, bool2?_eq_some, fields, good, if_true,
      one_ne_zero, if_false]
    simp [Fin.ext_iff, reg_val, preg_val, num_val, BitVec.toNat_eq, imm_toNat, bit_eq_iff, xc_eq_iff, Ty.ofCode_code, IntTy.ofCode_code,
      Size.ofCode_code, FD.ofCode_code, fields]

theorem decodeWord_eq_ok_iff {w : Nat} {i : Instr} : decodeWord w = .ok i ↔ i.wf = true ∧ encode i = some (w % 2 ^ 31) :=
  ⟨fun decodes => holds_iff_encode.mp (holds_of_decodeWord decodes), fun encodes => (holds_iff_encode.mpr encodes).decodeWord⟩

/-- Settles O53: a word decodes as its low 31 bits say (`decodeWord_eq_ok_iff`), whatever its start bit. -/
theorem decodeOfEncode : Obligations.DecodeOfEncode := by
  intro i good
  refine ⟨encode_of_step, fun n slot => ?_⟩
  obtain ⟨l, made⟩ := layout_of_slot slot
  obtain ⟨width, fits⟩ := layout_fits good made
  have encodes : encode i = some l.pack := by rw [encode_eq_layout, made, Option.map_some]
  have below : l.pack < 2 ^ 31 := width ▸ fits.pack_lt
  have decodes {w : Nat} (low : w % 2 ^ 31 = l.pack) : Holds w i := holds_iff_encode.mpr ⟨good, low.symm ▸ encodes⟩
  have bare := decodes (Nat.mod_eq_of_lt below)
  have started : Holds (withStart l.pack) i := decodes (by unfold withStart; omega)
  exact ⟨l.pack, encodes, below, Option.some.inj (bare.slot.symm.trans slot), bare.decodeWord, started.decodeWord⟩

/-- Settles O54: every row of the decoder's tables reads a layout that leaves no bit over. -/
theorem encodeOfDecode : Obligations.EncodeOfDecode :=
  fun _ _ _ decodes => decodeWord_eq_ok_iff.mp decodes

/-- Settles O52: the decoder run on each word. -/
theorem encodedWordsDecode : Obligations.EncodedWordsDecode := by
  unfold Obligations.EncodedWordsDecode
  decide

end Sys2Proof.Proofs

end

/-! # Proofs: the step of a bundle of one word (O51) -/

section

namespace Sys2Proof.Proofs
open Sys2Proof.Machine Sys2Proof.Laws

/-! ### What clearing its fences leaves of a core (R105) -/

/-- A core with another ordering state in which it waits as before. -/
def OrdersAnew (c d : Core) : Prop := ∃ o : Machine.Ordering, o.wait = c.ord.wait ∧ d = { c with ord := o }

theorem acquire_ordersAnew (s : State) (age : Nat) : OrdersAnew s.c (s.acquire s.c.id age).c := by
  refine ⟨(s.acquire s.c.id age).c.ord, ?_, ?_⟩ <;> simp [State.acquire, State.core, State.setCore, Core.observe, Machine.Ordering.observe]

theorem OrdersAnew.trans {a b c : Core} (first : OrdersAnew a b) (second : OrdersAnew b c) : OrdersAnew a c := by
  obtain ⟨o, wait, rfl⟩ := first
  obtain ⟨p, wait', rfl⟩ := second
  exact ⟨p, wait'.trans wait, rfl⟩

theorem clearFence_ordersAnew (s : State) : OrdersAnew s.c s.clearFence.c := by
  have acquired (l : List (OrdScope × Nat)) : OrdersAnew s.c (l.foldl (fun s f => s.acquire s.c.id (f.2 - 1)) s).c :=
    List.foldlRecOn l _ (motive := fun t => OrdersAnew s.c t.c) ⟨_, rfl, rfl⟩ fun t ht f _ => ht.trans (acquire_ordersAnew t _)
  exact (acquired ((s.c.ord.fence.filter (s.fenceReady s.c)).filter fun f => Order.isAcq f.1.ord)).trans ⟨s.clearFence.c.ord, rfl, rfl⟩

/-! ### A bundle of one word (R67 to R71) -/

section
variable {s r : State} {a w : Nat} {i : Instr}

theorem bundleRoom_one (aligned : a % 4 = 0) : ∃ n, bundleRoom a = n + 1 ∧ (a % 64 = 60 → n = 0) := by
  refine ⟨bundleRoom a - 1, ?_, fun last => ?_⟩ <;> simp only [bundleRoom, Nat.min_def] <;> split <;> omega

/-- A word with its start bit that ends its bundle and decodes is a bundle of its own. -/
theorem formBundle_one (there : s.get a = .ok w) (start : w.testBit 31 = true) (decodes : decodeWord w = .ok i)
    (ends : a % 64 = 60 ∨ ∃ x, s.get (a + 4) = .ok x ∧ (x = 0 ∨ x.testBit 31 = true)) (aligned : a % 4 = 0)
    (has : isCompute s.c.id = true ∨ bits w 28 3 < 4 ∨ bits w 28 3 = 7) (on : Fin.ofNat 8 (bits w 28 3) ∉ s.c.off) :
    s.formBundle a = .ok ⟨[(w, i)], successorOf s.get a 1⟩ := by
  obtain ⟨n, room, last⟩ := bundleRoom_one aligned
  have nonzero : w ≠ 0 := by
    rintro rfl
    simp at start
  have rest : bundleWords s.get n (a + 4) false (bits w 28 3 + 1) = .ok [] := bundleWords_end (ends.imp_left last)
  have words : bundleWords s.get (n + 1) a true 0 = .ok [w] := by
    simp only [bundleWords, there, nonzero, rest, Nat.not_lt_zero, Bool.not_true, Bool.false_and, Bool.false_eq_true, if_false]
  simp only [State.formBundle, room, words, List.mapM_cons, List.mapM_nil, decodeSlot_ok has on decodes, bind, Except.bind, pure,
    Except.pure, List.length_cons, List.length_nil]

theorem tryBundle_one_ready {succ : Nat} (answers : exec i { begun s succ with word := w } = .next r) (issued : r.verdict = .issued)
    (room : s.c.pendingAfter r.c ≤ 16) (onward : r.c.flow.skipTo = none) : s.tryBundle ⟨[(w, i)], succ⟩ = .ready r (true, 0) :=
  tryBundle_ready (b := ⟨[(w, i)], succ⟩) (runSlots_issued (s := begun s succ) (rest := []) (t := none) answers issued) room onward

theorem tryBundle_one_trap {succ : Nat} {x : Trap} (answers : exec i { begun s succ with word := w } = .next r) (trapped : r.verdict = .trapped x) :
    s.tryBundle ⟨[(w, i)], succ⟩ = .trap x s.c.lateStores :=
  tryBundle_trap (b := ⟨[(w, i)], succ⟩) (runSlots_trapped (s := begun s succ) (rest := []) (t := none) answers trapped)

theorem tryBundle_one_held {succ : Nat} {n : Bool} (answers : exec i { begun s succ with word := w } = .next r) (held : r.verdict = .held n)
    (filled : s.c.failedFill r.c = none) : s.tryBundle ⟨[(w, i)], succ⟩ = .held { s with c := s.c.heldAfter r.c } n := by
  have ran : (begun s succ).runSlots false [(w, i)] none = .held r n := by
    simp only [State.runSlots, Bool.false_and, Bool.false_eq_true, if_false, answers, held]
  unfold begun at ran
  simp only [State.tryBundle, ran, filled, List.length_cons, List.length_nil, Nat.zero_add, le_refl, if_true]

/-! ### From the step to the attempt (R92, R304) -/

theorem chosen_self (turn : s.turns = [s.c.id] ∨ (s.turns = [] ∧ s.rivals = [])) : s.chosen = { s with turns := [] } := by
  obtain named | ⟨free, alone⟩ := turn
  · simp [State.chosen, named, State.switch]
  · have same : ({ s with turns := [] } : State) = s := by rw [← free]
    rw [same]
    simp only [State.chosen, free, alone]

theorem innerTurn_bundleTurn (quiet : s.events = [] ∨ Config.pickEvent s.freeCtr % (s.events.length + 1) = 0) (runs : s.runs = true) :
    s.innerTurn = s.bundleTurn := by
  have turn : s.coreTurn = s.bundleTurn := if_pos runs
  unfold State.innerTurn
  split
  · exact turn
  · next evs hev =>
    obtain idle | later := quiet
    · exact absurd idle hev
    · rw [later]
      exact turn

/-- A compute core that runs holds a task. -/
theorem task_of_runs (runs : s.runs = true) : (isCompute s.c.id && s.c.task.isNone) = false := by
  unfold State.runs State.coreRuns at runs
  cases kind : s.c.id with
  | compute cl k =>
    simp only [kind, Bool.and_eq_true] at runs
    obtain ⟨-, ⟨task, -⟩, -⟩ := runs
    rw [Option.isNone_eq_false_iff.mpr task, Bool.and_false]
  | partition cl => rfl
  | umpire => rfl

/-- A bundle of one word is tried once nothing that its predecessors left is in its way. -/
theorem attempt_one {b : Bundle} (there : s.get s.c.pc.toNat = .ok w) (start : w.testBit 31 = true) (arrived : s.c.arrived = none)
    (formed : s.formBundle s.c.pc.toNat = .ok b) (free : s.c.ord.wait = none) (redoing : s.c.redoing = false) :
    s.attempt = s.tryBundle b := by
  have decoded : s.decodeBundle w = .ok b := by simp only [State.decodeBundle, arrived, bitAt, start, if_true, formed]
  simp only [State.attempt, there, decoded, free, redoing, Option.bind_none, Option.isSome_none, Bool.or_false, Bool.false_eq_true, if_false]

/-! ### What a turn makes of the attempt (R74, R304) -/

section
variable (going : s.c.saving = none) (ended : s.c.tendDone = false)
include going ended

theorem bundleTurn_trap {x : Trap} {late : List Access} (tried : s.clearFence.attempt = .trap x late) :
    s.bundleTurn = .next (s.clearFence.bundleTrap x late) := by
  simp only [State.bundleTurn, going, ended, tried, Option.isSome_none, Bool.false_eq_true, if_false]

variable (clear : s.clearFence.takeDue = none) (keeps : s.clearFence.preempt = s.clearFence) (saving : s.clearFence.c.saving = none)
  (task : (isCompute s.clearFence.c.id && s.clearFence.c.task.isNone) = false)
include clear keeps saving task

theorem bundleTurn_ready {skip : Bool × Nat} (tried : s.clearFence.attempt = .ready r skip) :
    s.bundleTurn = .next ((r.commit skip).remember s.clearFence.c.party.ctx s.clearFence.c.pc.toNat) := by
  simp only [State.bundleTurn, State.boundary, going, ended, tried, clear, keeps, saving, task, Option.isSome_none, Bool.false_or,
    Bool.false_eq_true, if_false]

theorem bundleTurn_held {h : State} {n : Bool} (tried : s.clearFence.attempt = .held h n) :
    s.bundleTurn = .next (h.hold s.clearFence n) := by
  simp only [State.bundleTurn, State.boundary, going, ended, tried, clear, keeps, saving, task, Option.isSome_none, Bool.false_or,
    Bool.false_eq_true, if_false]

end

end

theorem step_innerTurn {s : State} (booted : s.booted = true) (quiet : s.agenda = [])
    (turn : s.turns = [s.c.id] ∨ (s.turns = [] ∧ s.tickFree.rivals = [])) :
    step s = settled ({ s.tickFree with turns := [] } : State).innerTurn := by
  have chosen : s.tickFree.chosen = { s.tickFree with turns := [] } := chosen_self turn
  simp only [step, State.turn, chosen, State.tickFree_agenda, quiet, State.tickFree_booted, booted, if_true]

/-- Settles O51: the turn is that of the core that steps, its bundle is the one word, and the word's verdict says what the turn makes of
the attempt. -/
theorem stepRunsTheDecodedWord : Obligations.StepRunsTheDecodedWord := by
  intro s r i w booted agenda turn o quiet runs saving redoing tend free arrived t a clear keeps there start decodes ends aligned has on u
    answers
  have stepped : step s = settled o.bundleTurn := by
    rw [step_innerTurn booted agenda turn, innerTurn_bundleTurn quiet runs]
  obtain ⟨ord, wait, same⟩ : OrdersAnew o.c t.c := clearFence_ordersAnew o
  have waits : t.c.ord.wait = none := by rw [same]; exact wait.trans free
  have later : t.c.saving = none := by rw [same]; exact saving
  have task : (isCompute t.c.id && t.c.task.isNone) = false := by rw [same]; exact task_of_runs runs
  have tried : t.attempt = t.tryBundle ⟨[(w, i)], successorOf t.get a 1⟩ :=
    attempt_one there start (by rw [same]; exact arrived) (formBundle_one there start decodes ends aligned has on) waits
      (by rw [same]; exact redoing)
  refine ⟨fun issued onward room => ?_, fun x trapped => ?_, fun n held filled => ?_⟩
  · rw [stepped, bundleTurn_ready (s := o) saving tend clear keeps later task (tried.trans (tryBundle_one_ready answers issued room onward))]
    rfl
  · rw [stepped, bundleTurn_trap (s := o) saving tend (tried.trans (tryBundle_one_trap answers trapped))]
    rfl
  · rw [stepped, bundleTurn_held (s := o) saving tend clear keeps later task (tried.trans (tryBundle_one_held answers held filled))]
    rfl

end Sys2Proof.Proofs

end

/-! O1 to O5, the words of slots A and B: the table of R111 on 64-bit words. -/
section

namespace Sys2Proof.Proofs
open Sys2Proof.Machine Sys2Proof.Laws

/-! ### Arithmetic modulo 2^64 (R111) -/

section
variable {α β : Type} [LinearOrder α] {f : β → α} {g : α → β} (inverse : ∀ x, g (f x) = x) (x y : β)
include inverse

/-- The one of two words with the smaller value. -/
theorem inverse_min : g (Min.min (f x) (f y)) = if f x < f y then x else y := by
  by_cases less : f x < f y
  · rw [if_pos less, min_eq_left less.le, inverse]
  · rw [if_neg less, min_eq_right (not_lt.mp less), inverse]

/-- The one of two words with the greater value. -/
theorem inverse_max : g (Max.max (f x) (f y)) = if f x < f y then y else x := by
  by_cases less : f x < f y
  · rw [if_pos less, max_eq_right less.le, inverse]
  · rw [if_neg less, max_eq_left (not_lt.mp less), inverse]

end

section
variable (x y : Word)

theorem ofInt_toNat : BitVec.ofInt 64 (x.toNat : Int) = x := by rw [BitVec.ofInt_natCast, BitVec.ofNat_toNat, BitVec.setWidth_eq]

theorem ofInt_of_toNat_eq {x : Word} {n : Nat} (value : x.toNat = n) : BitVec.ofInt 64 (n : Int) = x := value ▸ ofInt_toNat x

theorem ofInt_add_toNat (z : Int) : BitVec.ofInt 64 (x.toNat + z) = x + BitVec.ofInt 64 z := by rw [BitVec.ofInt_add, ofInt_toNat]

theorem ofInt_mul_toNat : BitVec.ofInt 64 (x.toNat * y.toNat) = x * y := by rw [BitVec.ofInt_mul, ofInt_toNat, ofInt_toNat]

theorem ofInt_sub_toNat : BitVec.ofInt 64 (x.toNat - y.toNat) = x - y := by
  rw [Int.sub_eq_add_neg, BitVec.ofInt_add, BitVec.ofInt_neg, ofInt_toNat, ofInt_toNat, BitVec.sub_eq_add_neg]

theorem ofInt_mul_two_pow (k : Nat) : BitVec.ofInt 64 (x.toNat * 2 ^ k) = x <<< k := by
  refine (BitVec.ofInt_natCast 64 (x.toNat * 2 ^ k)).trans (BitVec.eq_of_toNat_eq ?_)
  rw [BitVec.toNat_ofNat, BitVec.toNat_shiftLeft, Nat.shiftLeft_eq]

theorem ofInt_div_two_pow (k : Nat) : BitVec.ofInt 64 (x.toNat / 2 ^ k) = x >>> k := by
  refine (BitVec.ofInt_natCast 64 (x.toNat / 2 ^ k)).trans ?_
  rw [← Nat.shiftRight_eq_div_pow, ← BitVec.toNat_ushiftRight, BitVec.ofNat_toNat, BitVec.setWidth_eq]

theorem ofInt_toInt_div_two_pow (k : Nat) : BitVec.ofInt 64 (x.toInt / 2 ^ k) = x.sshiftRight k := by
  rw [BitVec.sshiftRight, Int.shiftRight_eq_div_pow]
  rfl

/-- The 16 low bits that a left shift frees take the immediate. -/
theorem ofInt_movhi (i : BitVec 16) : BitVec.ofInt 64 (x.toNat * 2 ^ 16 + i.toNat) = (x <<< 16) ||| i.zeroExtend 64 := by
  have apart : x <<< 16 &&& i.zeroExtend 64 = 0#64 := by
    ext j _
    by_cases low : j < 16
    · simp [low]
    · simp [BitVec.getLsbD_of_ge i j (by omega)]
  rw [← BitVec.add_eq_or_of_and_eq_zero _ _ apart, BitVec.ofInt_add]
  exact congrArg₂ (· + ·) (ofInt_mul_two_pow x 16) (BitVec.ofInt_natCast 64 i.toNat |>.trans (BitVec.ofNat_toNat 64 i))

theorem zeroExtend_toNat (i : BitVec 11) : (i.zeroExtend 64).toNat = i.toNat := BitVec.toNat_setWidth_of_le (by decide)

theorem ofInt_and_not : BitVec.ofInt 64 (x.toNat &&& (2 ^ 64 - 1 - y.toNat) : Nat) = x &&& ~~~y := by
  rw [BitVec.ofInt_natCast, ← BitVec.toNat_not, ← BitVec.toNat_and, BitVec.ofNat_toNat, BitVec.setWidth_eq]

theorem ofInt_min : BitVec.ofInt 64 (Min.min x.toInt y.toInt) = if x.slt y then x else y := by
  simp only [BitVec.slt, decide_eq_true_eq]
  exact inverse_min (fun _ => BitVec.ofInt_toInt) x y

theorem ofInt_max : BitVec.ofInt 64 (Max.max x.toInt y.toInt) = if x.slt y then y else x := by
  simp only [BitVec.slt, decide_eq_true_eq]
  exact inverse_max (fun _ => BitVec.ofInt_toInt) x y

theorem ofInt_minn : BitVec.ofInt 64 (Nat.min x.toNat y.toNat : Nat) = if x.ult y then x else y := by
  simp only [BitVec.ult, decide_eq_true_eq]
  exact inverse_min (g := fun n : Nat => BitVec.ofInt 64 n) ofInt_toNat x y

theorem ofInt_maxn : BitVec.ofInt 64 (Nat.max x.toNat y.toNat : Nat) = if x.ult y then y else x := by
  simp only [BitVec.ult, decide_eq_true_eq]
  exact inverse_max (g := fun n : Nat => BitVec.ofInt 64 n) ofInt_toNat x y

theorem leadingZeros_eq (n : Nat) :
    leadingZeros x n = ((List.range n).reverse.takeWhile (fun i => !x.toNat.testBit i)).length := by
  induction n with
  | zero => rfl
  | succ n ih =>
    rw [leadingZeros, List.range_succ, List.reverse_append, List.reverse_singleton, List.singleton_append, List.takeWhile_cons,
      BitVec.testBit_toNat, ih]
    cases x.getLsbD n <;> rfl

theorem trailingZeros_eq (n : Nat) : ∀ i : Nat,
    trailingZeros x n i = ((List.range' i n).takeWhile (fun j => !x.toNat.testBit j)).length := by
  induction n with
  | zero => exact fun _ => rfl
  | succ n ih =>
    intro i
    rw [trailingZeros, List.range'_succ, List.takeWhile_cons, BitVec.testBit_toNat, ih]
    cases x.getLsbD i <;> rfl

theorem onesBelow_eq (n : Nat) : onesBelow x n = ((List.range n).filter (fun i => x.toNat.testBit i)).length := by
  induction n with
  | zero => rfl
  | succ n ih =>
    rw [onesBelow, List.range_succ, List.filter_append, List.length_append, List.filter_singleton, BitVec.testBit_toNat, ih, Nat.add_comm]
    cases x.getLsbD n <;> rfl

end

/-! ### The table of R111 -/

theorem abSlot_eq_code (y : AB) : abSlot y = y.code := by cases y <;> rfl

section
variable {s : State} {i : Instr} {y : AB} (issues : s.Issues i) (slot : i.slot = some y.code)
include issues slot

/-- A word of slot A or B that works on its core alone. -/
theorem slotExec_abSlot {f : Core → Core} {t : State} (effect : s.after (f s.c) = t) : slotExec (abSlot y) i (onCore f) s = .next t :=
  effect ▸ slotExec_onCore issues (by rw [slot, abSlot_eq_code]; rfl)

theorem slotExec_enterS {d : Reg} {lat : Nat} {x : Core → Word} {r : Int} (value : BitVec.ofInt 64 r = x s.c) :
    slotExec (abSlot y) i (onCore fun c => c.enterS (abSlot y) lat d (x c)) s =
      .next (s.entered y.code lat (.scalar d) (BitVec.ofInt 64 r).toNat 0) := by
  rw [slotExec_abSlot issues slot rfl, value, abSlot_eq_code]
  rfl

end

/-- Settles O1, row by row of the table: the model's word is the table's number modulo 2^64. -/
theorem integerFormsCompute : Obligations.IntegerFormsCompute := by
  intro s i y d lat r table issues
  unfold exec
  cases i with
  | add => cases table; exact slotExec_enterS issues rfl ((ofInt_add_toNat ..).trans (congrArg _ (ofInt_toNat _)))
  | sub => cases table; exact slotExec_enterS issues rfl (ofInt_sub_toNat ..)
  | addi => cases table; exact slotExec_enterS issues rfl (ofInt_add_toNat ..)
  | movi => cases table; exact slotExec_enterS issues rfl rfl
  | movhi => cases table; exact slotExec_enterS issues rfl (ofInt_movhi ..)
  | mul => cases table; exact slotExec_enterS issues rfl (ofInt_mul_toNat ..)
  | mulhi => cases table; exact slotExec_enterS issues rfl rfl
  | mulhn => cases table; exact slotExec_enterS issues rfl (BitVec.ofInt_natCast 64 _)
  | and => cases table; exact slotExec_enterS issues rfl (ofInt_of_toNat_eq (BitVec.toNat_and ..))
  | or => cases table; exact slotExec_enterS issues rfl (ofInt_of_toNat_eq (BitVec.toNat_or ..))
  | xor => cases table; exact slotExec_enterS issues rfl (ofInt_of_toNat_eq (BitVec.toNat_xor ..))
  | andi => cases table; exact slotExec_enterS issues rfl (ofInt_of_toNat_eq ((BitVec.toNat_and ..).trans (congrArg _ (zeroExtend_toNat _))))
  | ori => cases table; exact slotExec_enterS issues rfl (ofInt_of_toNat_eq ((BitVec.toNat_or ..).trans (congrArg _ (zeroExtend_toNat _))))
  | xori => cases table; exact slotExec_enterS issues rfl (ofInt_of_toNat_eq ((BitVec.toNat_xor ..).trans (congrArg _ (zeroExtend_toNat _))))
  | andn => cases table; exact slotExec_enterS issues rfl (ofInt_and_not ..)
  | shl | shli => cases table; exact slotExec_enterS issues rfl (ofInt_mul_two_pow ..)
  | shrl | shrli => cases table; exact slotExec_enterS issues rfl (ofInt_div_two_pow ..)
  | shra | shrai => cases table; exact slotExec_enterS issues rfl (ofInt_toInt_div_two_pow ..)
  | clz => cases table; exact slotExec_enterS issues rfl (by rw [leadingZeros_eq]; exact BitVec.ofInt_natCast 64 _)
  | ctz => cases table; exact slotExec_enterS issues rfl (by rw [trailingZeros_eq]; exact BitVec.ofInt_natCast 64 _)
  | popc => cases table; exact slotExec_enterS issues rfl (by rw [onesBelow_eq]; exact BitVec.ofInt_natCast 64 _)
  | min => cases table; exact slotExec_enterS issues rfl (ofInt_min ..)
  | max => cases table; exact slotExec_enterS issues rfl (ofInt_max ..)
  | minn => cases table; exact slotExec_enterS issues rfl (ofInt_minn ..)
  | maxn => cases table; exact slotExec_enterS issues rfl (ofInt_maxn ..)
  | addsc => cases table; exact slotExec_enterS issues rfl ((ofInt_add_toNat ..).trans (congrArg _ (ofInt_mul_two_pow ..)))
  | ext => cases table; exact slotExec_enterS issues rfl (BitVec.ofInt_natCast 64 _)
  | _ => cases table

end Sys2Proof.Proofs
end
/-! A number packed from elements, bit by bit (R142). -/
section

namespace Sys2Proof.Proofs
open Sys2Proof.Machine Sys2Proof.Laws

theorem testBit_packLanes {w : Nat} (pos : 0 < w) : ∀ (xs : List Nat) (j : Nat),
    (packLanes w xs).testBit j = (xs.getD (j / w) 0).testBit (j % w)
  | [], j => by rw [packLanes, List.getD_nil]; exact Nat.zero_testBit _ |>.trans (Nat.zero_testBit _).symm
  | x :: xs, j => by
    rw [packLanes, Nat.add_comm, Nat.testBit_two_pow_mul_add _ (Nat.mod_lt _ (Nat.two_pow_pos w)), testBit_packLanes pos xs]
    by_cases first : j < w
    · rw [if_pos first, Nat.testBit_mod_two_pow, Nat.div_eq_of_lt first, Nat.mod_eq_of_lt first, List.getD_cons_zero, decide_eq_true first,
        Bool.true_and]
    · obtain ⟨i, rfl⟩ := Nat.exists_eq_add_of_le (not_lt.mp first)
      rw [if_neg first, Nat.add_sub_cancel_left, Nat.add_div_left _ pos, Nat.add_mod_left, List.getD_cons_succ]

/-- Every bit of an element is the element's. -/
theorem getLsbD_spreadBits {w : Nat} (bytes : 8 ≤ w) (bs : List Bool) {j : Nat} (small : j < 512) :
    (spreadBits w bs).getLsbD j = bs.getD (j / (w / 8)) false := by
  have pos : 0 < w / 8 := by omega
  rw [spreadBits, BitVec.getLsbD_ofNat, testBit_packLanes pos, decide_eq_true small, Bool.true_and, List.getD_eq_getElem?_getD,
    List.getElem?_map, List.getD_eq_getElem?_getD]
  cases bs[j / (w / 8)]? with
  | none => exact Nat.zero_testBit _
  | some b =>
    cases b with
    | false => exact Nat.zero_testBit _
    | true => exact (Nat.testBit_two_pow_sub_one ..).trans (decide_eq_true (Nat.mod_lt _ pos))

end Sys2Proof.Proofs

end
/-! O2 to O5, divisions, compares, predicates and floating-point forms of slots A and B. -/
section

namespace Sys2Proof.Proofs
open Sys2Proof.Machine Sys2Proof.Laws

/-! ### Divisions (R112) -/

theorem divide_by_zero (signed : Bool) (x : Word) : divide signed x 0 = (BitVec.allOnes 64, x) := if_pos rfl

theorem divide_signed (x y : Word) :
    divide true x y = (BitVec.ofInt 64 (quotient x.toInt y.toInt), BitVec.ofInt 64 (remainder x.toInt y.toInt)) := by
  by_cases zero : y = 0
  · subst zero
    rw [divide_by_zero]
    exact Prod.ext rfl BitVec.ofInt_toInt.symm
  · have nonzero : y.toInt ≠ 0 := fun h => zero (BitVec.eq_of_toInt_eq h)
    have rest : remainder x.toInt y.toInt = x.toInt.tmod y.toInt := by
      rw [remainder, quotient, if_neg nonzero, if_neg nonzero, Int.tmod_def, Int.mul_comm]
    rw [divide, if_neg zero, if_pos rfl, rest, quotient, if_neg nonzero]
    split
    · next corner => rw [corner.1, corner.2]; decide
    · rfl

theorem divide_unsigned (x y : Word) :
    divide false x y = (BitVec.ofInt 64 (quotient x.toNat y.toNat), BitVec.ofInt 64 (remainder x.toNat y.toNat)) := by
  by_cases zero : y = 0
  · subst zero
    rw [divide_by_zero]
    exact Prod.ext rfl (ofInt_toNat x).symm
  · have nonzero : (y.toNat : Int) ≠ 0 := fun h => zero (BitVec.eq_of_toNat_eq (Int.ofNat.inj h))
    have whole : quotient x.toNat y.toNat = (x.toNat / y.toNat : Nat) := by rw [quotient, if_neg nonzero]; rfl
    have rest : remainder x.toNat y.toNat = (x.toNat % y.toNat : Nat) := by
      rw [remainder, if_neg nonzero, whole, Int.mul_comm]
      have := Nat.div_add_mod x.toNat y.toNat
      omega
    rw [divide, if_neg zero, whole, rest, BitVec.ofInt_natCast, BitVec.ofInt_natCast]
    rfl

section
variable {s : State} {i : Instr} {y : AB} (issues : s.Issues i) (slot : i.slot = some y.code)
include issues slot

theorem slotExec_await {d : Reg} {x : Core → Word} {r : Int} (value : x s.c = BitVec.ofInt 64 r) :
    slotExec (abSlot y) i (onCore fun c => c.await d (x c)) s = .next (s.after { s.c with
      ilk := s.c.ilk.map (fun o => if d ≠ 0 ∧ o.dest = some (.scalar d) ∧ o.age = s.c.age then { o with dest := none } else o) ++
        [⟨.value (BitVec.ofInt 64 r).toNat, if d = 0 then none else some (.scalar d), s.c.age⟩] }) := by
  rw [slotExec_abSlot issues slot rfl, value, Core.await, Core.awaitKind]
  by_cases discarded : d = 0 <;> simp [discarded]

end

/-- Settles O2: the model's four results are those of R112. -/
theorem divisionsAreInterlocked : Obligations.DivisionsAreInterlocked := by
  intro s i d r table issues
  unfold exec
  cases i with
  | div => cases table; exact slotExec_await issues rfl (congrArg Prod.fst (divide_signed ..))
  | divn => cases table; exact slotExec_await issues rfl (congrArg Prod.fst (divide_unsigned ..))
  | rem => cases table; exact slotExec_await issues rfl (congrArg Prod.snd (divide_signed ..))
  | remn => cases table; exact slotExec_await issues rfl (congrArg Prod.snd (divide_unsigned ..))
  | _ => cases table

/-! ### Compares and selection (R79, R113) -/

theorem intValue_word (x : Word) : intValue true 64 x.toNat = x.toInt := by
  simp only [intValue, BitVec.toInt, true_and, Nat.mod_eq_of_lt x.isLt]
  split <;> split <;> omega

theorem ccHolds_iff (cc : Cc) (x y : Word) : ccHolds 64 cc x.toNat y.toNat = true ↔ condHolds cc x y := by
  cases cc with
  | eq => exact decide_eq_true_iff.trans BitVec.toNat_inj
  | ne => exact decide_eq_true_iff.trans (not_congr BitVec.toNat_inj)
  | lt => rw [ccHolds, intValue_word, intValue_word]; exact decide_eq_true_iff
  | le => rw [ccHolds, intValue_word, intValue_word]; exact decide_eq_true_iff
  | ltn | len => exact decide_eq_true_iff

theorem compare_result (cc : Cc) (x y : Word) :
    (condHolds cc x y → (if ccHolds 64 cc x.toNat y.toNat then 1 else 0 : Word).toNat = 1) ∧
      (¬condHolds cc x y → (if ccHolds 64 cc x.toNat y.toNat then 1 else 0 : Word).toNat = 0) :=
  ⟨fun holds => by rw [if_pos ((ccHolds_iff ..).mpr holds)]; rfl, fun fails => by rw [if_neg (mt (ccHolds_iff ..).mp fails)]; rfl⟩

/-- Settles O3: the model's condition is that of R79 (`ccHolds_iff`). -/
theorem selectAndCompareForms : Obligations.SelectAndCompareForms := by
  intro s y d a b cc v p
  rw [← abSlot_eq_code]
  unfold exec
  exact ⟨fun issues => ⟨_, slotExec_abSlot issues rfl rfl, compare_result ..⟩, fun issues => ⟨_, slotExec_abSlot issues rfl rfl, compare_result ..⟩,
    fun issues => slotExec_abSlot issues rfl rfl⟩

/-! ### Predicates (R114) -/

theorem getLsbD_ite_zero (c : Bool) (m : Pred) (j : Nat) : (if c then m else 0).getLsbD j = (c && m.getLsbD j) := by
  cases c with
  | true => exact (Bool.true_and _).symm
  | false => exact BitVec.getLsbD_zero.trans (Bool.false_and _).symm

theorem getLsbD_predTable (f : BitVec 4) (x y : Pred) {j : Nat} (small : j < 512) :
    (predTable f x y).getLsbD j = tableBit f x y j := by
  simp only [predTable, tableBit, BitVec.getLsbD_or, BitVec.getLsbD_and, BitVec.getLsbD_not, getLsbD_ite_zero, small, decide_true,
    Bool.true_and]
  cases x.getLsbD j <;> cases y.getLsbD j <;> simp

theorem getD_map_range {α : Type} (f : Nat → α) (n : Nat) (d : α) {i : Nat} (small : i < n) :
    ((List.range n).map f).getD i d = f i := by
  rw [List.getD_eq_getElem?_getD, List.getElem?_map, List.getElem?_range small]
  rfl

theorem getLsbD_predOfScalar (x : Word) {j : Nat} (small : j < 512) : (predOfScalar x).getLsbD j = x.getLsbD (j / 8) := by
  rw [predOfScalar, getLsbD_spreadBits (by decide) _ small]
  exact getD_map_range _ _ _ (by omega)

theorem getLsbD_scalarOfPred (p : Pred) {e : Nat} (small : e < 64) : (scalarOfPred p).getLsbD e = p.getLsbD (8 * e) := by
  rw [scalarOfPred, BitVec.getLsbD_ofNat, testBit_packLanes Nat.one_pos, decide_eq_true small, Bool.true_and, Nat.div_one, Nat.mod_one,
    getD_map_range _ _ _ small]
  cases p.getLsbD (8 * e) <;> rfl

/-- Settles O4: bit by bit. -/
theorem predicateForms : Obligations.PredicateForms := by
  intro s y d a b f x
  rw [← abSlot_eq_code]
  unfold exec
  exact ⟨fun issues => ⟨_, slotExec_abSlot issues rfl rfl, fun _ => getLsbD_predTable f _ _⟩,
    fun issues => ⟨_, slotExec_abSlot issues rfl rfl, fun _ => getLsbD_predOfScalar _⟩,
    fun issues => ⟨_, slotExec_abSlot issues rfl rfl, fun _ => getLsbD_scalarOfPred _⟩⟩

/-! ### Scalar floating-point forms (R116 to R118) -/

/-- Settles O5: each form enters the result of its operation. -/
theorem scalarFloatForms : Obligations.ScalarFloatForms := by
  intro s y d a b e f cc m t u
  rw [← abSlot_eq_code]
  unfold exec
  exact ⟨fun issues => slotExec_abSlot issues rfl rfl, fun issues => slotExec_abSlot issues rfl rfl, fun issues => slotExec_abSlot issues rfl rfl,
    fun issues => slotExec_abSlot issues rfl rfl, fun issues => slotExec_abSlot issues rfl rfl, fun issues => slotExec_abSlot issues rfl rfl,
    fun issues => slotExec_abSlot issues rfl rfl⟩

end Sys2Proof.Proofs

end

/-! O6, compares of NaN and of zeros. -/
section

namespace Sys2Proof.Proofs
open Sys2Proof.Machine Sys2Proof.Laws

theorem sigFlag_eq (a : Ext) : sigFlag a = if a = .nan true then flagI else 0 := by
  cases a with
  | nan s => cases s <;> rfl
  | inf | fin => rfl

/-- The signalling operands of a pair set `fi` (R41). -/
theorem sigFlag_or (a b : Ext) : sigFlag a ||| sigFlag b = if a = .nan true ∨ b = .nan true then flagI else 0 := by
  rw [sigFlag_eq, sigFlag_eq]
  by_cases ha : a = .nan true <;> by_cases hb : b = .nan true <;> simp [ha, hb]

section
variable {f : Fmt} {x y : Nat}

theorem fpCompare_nan (nan : (f.value x).isNaN = true ∨ (f.value y).isNaN = true) (c : Fcc) :
    fpCompare f c x y = match c with
      | .eq => (false, sigFlag (f.value x) ||| sigFlag (f.value y))
      | .un => (true, sigFlag (f.value x) ||| sigFlag (f.value y))
      | .lt | .le => (false, flagI) := by
  unfold fpCompare
  cases c <;> exact if_pos ((Bool.or_eq_true ..).mpr nan)

theorem cmpExt_zeros (m n : Bool) (e e' : Int) : cmpExt (.fin m 0 e false) (.fin n 0 e' false) = 0 := by
  cases m <;> cases n <;> simp [cmpExt, Ext.scaled]

theorem fpCompare_zeros {m n : Bool} {e e' : Int} (first : f.value x = .fin m 0 e false) (second : f.value y = .fin n 0 e' false) :
    fpCompare f .eq x y = (true, 0) ∧ fpCompare f .lt x y = (false, 0) := by
  simp only [fpCompare, first, second, Ext.isNaN, Bool.or_self, Bool.false_eq_true, if_false, cmpExt_zeros]
  exact ⟨rfl, rfl⟩

end

theorem value_zero (f : FD) {x : Nat} (zero : x % 2 ^ ((fdFmt f).width - 1) = 0) :
    ∃ neg, (fdFmt f).value x = .fin neg 0 (fdFmt f).qmin false := by
  refine ⟨decide (x / 2 ^ ((fdFmt f).width - 1) % 2 = 1), ?_⟩
  unfold Fmt.value
  rw [zero]
  cases f <;> rfl

/-- Settles O6: a compare with a NaN by its condition (`fpCompare_nan`), one of two zeros by their equal values. -/
theorem comparesOfNaN : Obligations.ComparesOfNaN := by
  intro f x y _ _ nan snan zero
  refine ⟨fun given => ?_, fun first second => ?_⟩
  · rw [fpCompare_nan given, fpCompare_nan given, fpCompare_nan given, fpCompare_nan given]
    exact ⟨rfl, rfl, rfl, rfl, sigFlag_or .., sigFlag_or ..⟩
  · obtain ⟨m, hx⟩ := value_zero f first
    obtain ⟨n, hy⟩ := value_zero f second
    exact fpCompare_zeros hx hy

end Sys2Proof.Proofs

end

/-! O7, O8, O9, O11 and O27, the words of slot C. -/
section

namespace Sys2Proof.Proofs
open Sys2Proof.Machine Sys2Proof.Laws

/-- A word that issues leaves what its work makes of the state. -/
theorem slotExec_effect {s t u : State} {i : Instr} {n : Nat} {body : State → Issue} (issues : s.Issues i) (slot : i.slot.getD 0 = n)
    (works : body s = .ok t) (effect : { t with verdict := .issued } = u) : slotExec n i body s = .next u :=
  effect ▸ slotExec_ok issues slot works

/-- Settles O7: the work of each form is its request. -/
theorem flowRequestsStand : Obligations.FlowRequestsStand := by
  intro s i f asks issues
  unfold exec
  cases i with
  | nop | stall | lbrk | tend | tyield | trap | wtall | wtany | tclr | qpop | sync | gcur =>
    cases asks
    exact slotExec_effect issues rfl rfl rfl
  | _ => cases asks

/-! ### Targets (R95) -/

theorem relative_eq_wordTarget (c : Core) (off : Int) : c.relative off = wordTarget c.pc off := rfl

theorem targetTrap_good {x : Word} (good : goodTarget x) : targetTrap x = none := by
  rw [targetTrap, if_neg (not_not.mpr good.1), if_neg (Nat.not_le.mpr good.2)]

theorem targetTrap_misaligned {x : Word} (odd : x.toNat % 4 ≠ 0) : targetTrap x = some ⟨.misaligned, addrInfo x.toNat⟩ := if_pos odd

theorem targetTrap_far {x : Word} (aligned : x.toNat % 4 = 0) (far : 2 ^ 49 ≤ x.toNat) : targetTrap x = some ⟨.translation, x⟩ := by
  rw [targetTrap, if_neg (not_not.mpr aligned), if_pos far]

theorem branchReg_good {x : Word} (good : goodTarget x) (call : Bool) (f : Core → Core) (s : State) :
    branchReg call x f s = .ok { s with c := (f s.c).branchTo call x.toNat } := by
  rw [branchReg, targetTrap_good good]

theorem branchReg_bad {x : Word} {t : Trap} (bad : targetTrap x = some t) (call : Bool) (f : Core → Core) (s : State) :
    branchReg call x f s = .trap t := by
  rw [branchReg, bad]

theorem pred_eq_zero_iff {m : Pred} : m = 0 ↔ ∀ j < 512, m.getLsbD j = false :=
  ⟨fun zero _ _ => zero ▸ BitVec.getLsbD_zero, fun clear => BitVec.eq_of_getLsbD_eq fun j small => (clear j small).trans BitVec.getLsbD_zero.symm⟩

theorem pred_ne_zero_iff {m : Pred} : m ≠ 0 ↔ ∃ j < 512, m.getLsbD j = true := by
  rw [ne_eq, pred_eq_zero_iff]
  simp

/-- Settles O8: the targets of R95. -/
theorem branchTargets : Obligations.BranchTargets := by
  intro s a p b o14 o21 link
  unfold exec
  refine ⟨fun issues => slotExec_effect issues rfl rfl rfl, fun issues => slotExec_effect issues rfl rfl rfl,
    fun issues => slotExec_effect issues rfl rfl rfl, fun issues => ⟨fun taken => ?_, fun passed => ?_⟩,
    fun issues good => slotExec_effect issues rfl (branchReg_good good ..) rfl,
    fun issues good => slotExec_effect issues rfl (branchReg_good good ..) rfl,
    fun issues good => slotExec_effect issues rfl (branchReg_good good ..) rfl⟩
  · have holds : decide (s.c.rp p = 0) = b := by
      obtain ⟨rfl, some⟩ | ⟨rfl, clear⟩ := taken
      · exact decide_eq_false (pred_ne_zero_iff.mpr some)
      · exact decide_eq_true (pred_eq_zero_iff.mpr clear)
    exact slotExec_effect issues rfl rfl (congrArg s.after (if_pos holds))
  · have fails : decide (s.c.rp p = 0) ≠ b := by
      obtain ⟨rfl, clear⟩ | ⟨rfl, some⟩ := passed
      · rw [decide_eq_true (pred_eq_zero_iff.mpr clear)]; decide
      · rw [decide_eq_false (pred_ne_zero_iff.mpr some)]; decide
    exact slotExec_effect issues rfl rfl (congrArg s.after (if_neg fails))

/-- The three forms that branch to a register raise what their target does. -/
theorem exec_badTarget {s : State} {i : Instr} {x : Word} {t : Trap} (issues : s.Issues i)
    (form : (∃ a, i = .jr a ∧ x = s.c.rs a) ∨ (∃ a, i = .callr a ∧ x = s.c.rs a) ∨ (i = .ret ∧ x = s.c.rs 31))
    (bad : targetTrap x = some t) : exec i s = .next (s.trapNow t) := by
  unfold exec
  obtain ⟨a, rfl, rfl⟩ | ⟨a, rfl, rfl⟩ | ⟨rfl, rfl⟩ := form <;> exact slotExec_trap issues rfl (branchReg_bad bad ..)

/-- Settles O9: alignment is checked first. -/
theorem badRegisterTargetsTrap : Obligations.BadRegisterTargetsTrap := fun _ _ _ issues form =>
  ⟨fun odd => ⟨_, exec_badTarget issues form (targetTrap_misaligned odd)⟩,
    fun aligned far => exec_badTarget issues form (targetTrap_far aligned far)⟩

/-! ### Tags, fences and barriers (R104, R105, R107) -/

theorem lowestBit_spec (x : Word) : ∀ n i : Nat, i ≤ lowestBit x n i ∧ lowestBit x n i ≤ i + n ∧
    (∀ j, i ≤ j → j < lowestBit x n i → x.getLsbD j = false) ∧ (lowestBit x n i < i + n → x.getLsbD (lowestBit x n i) = true)
  | 0, i => ⟨le_rfl, le_rfl, fun j low high => absurd (low.trans_lt high) (lt_irrefl i), fun h => absurd h (lt_irrefl i)⟩
  | n + 1, i => by
    rw [lowestBit]
    by_cases set : x.getLsbD i = true
    · rw [if_pos set]
      exact ⟨le_rfl, by omega, fun j low high => absurd (low.trans_lt high) (lt_irrefl i), fun _ => set⟩
    · obtain ⟨least, most, clear, hit⟩ := lowestBit_spec x n (i + 1)
      rw [if_neg set]
      refine ⟨by omega, by omega, fun j low high => ?_, fun inside => hit (by omega)⟩
      obtain rfl | above := low.eq_or_lt
      · exact Bool.eq_false_iff.mpr set
      · exact clear j above high

theorem insertNew_eq {α : Type} [DecidableEq α] (x : α) (l : List α) [Decidable (x ∈ l)] :
    insertNew x l = if x ∈ l then l else l ++ [x] := by
  unfold insertNew
  congr

theorem setFence_eq (c : Core) (os : OrdScope) (age : Nat) : c.setFence os age = { c with ord := { c.ord with
    fence := if (os, age) ∈ c.ord.fence then c.ord.fence else c.ord.fence ++ [(os, age)] } } := by
  rw [Core.setFence, insertNew_eq]

theorem barrierTrap_none {s : State} {b : Fin 16} {n : Nat}
    (free : ((s.cluster (clusterOf s.c.id)).barrier b).arrived = 0 ∨
      (((s.cluster (clusterOf s.c.id)).barrier b).owner = s.c.owner ∧ ((s.cluster (clusterOf s.c.id)).barrier b).count = n)) :
    s.barrierTrap b n = none := by
  unfold State.barrierTrap
  obtain empty | ⟨same, count⟩ := free
  · exact if_pos empty
  · simp [same, count]

theorem cbarBody_ok {s : State} {a : Reg} {b : Fin 16} (positive : 1 ≤ s.c.xn a) (small : s.c.xn a ≤ 48)
    (free : s.barrierTrap b (s.c.xn a) = none) :
    cbarBody a b s = .ok { s with c := s.c.withFlow (fun f => { f with cbar := some (b, s.c.xn a) }) } := by
  unfold Core.xn at *
  unfold cbarBody
  rw [if_neg (by omega), free]

/-- Settles O11. -/
theorem tagSearchAndFence : Obligations.TagSearchAndFence := by
  intro s d a os b
  unfold exec
  refine ⟨fun issues => ⟨_, slotExec_effect issues rfl rfl rfl, ?_⟩, fun issues => slotExec_effect issues rfl rfl (congrArg s.after (setFence_eq ..)),
    fun issues positive small free => slotExec_effect issues rfl (cbarBody_ok positive small (barrierTrap_none free)) rfl⟩
  obtain ⟨-, most, clear, hit⟩ := lowestBit_spec (s.c.cr crTagbits &&& s.c.rs a) 64 0
  have whole : (BitVec.ofNat 64 (lowestBit (s.c.cr crTagbits &&& s.c.rs a) 64 0)).toNat = lowestBit (s.c.cr crTagbits &&& s.c.rs a) 64 0 := by
    rw [BitVec.toNat_ofNat]
    omega
  rw [whole]
  refine ⟨fun j => clear j (Nat.zero_le j), ?_⟩
  obtain inside | full := (show _ ≤ 64 from most).lt_or_eq
  · exact .inl ⟨inside, hit inside⟩
  · exact .inr full

/-! ### TRET (R103, R316) -/

/-- Settles O27, branch by branch of its work. -/
theorem trapReturnForms : Obligations.TrapReturnForms := by
  intro s issues
  unfold exec
  refine ⟨fun own handler good => slotExec_effect (t := { s with c := _ }) issues rfl ?_ rfl, fun own free => slotExec_trap issues rfl ?_,
    fun compute => ⟨_, slotExec_trap issues rfl (if_pos compute)⟩⟩
  · have inside : s.c.frozen.isNone = false := by rw [← Option.not_isSome, handler]; rfl
    simp only [tretBody, own, inside, targetTrap_good good, Bool.false_eq_true, if_false]
    rfl
  · simp only [tretBody, own, free, Option.isNone_none, Bool.false_eq_true, if_false, if_true]

end Sys2Proof.Proofs

end

/-! O10, loops: arming a level, and the end of a bundle. -/
section

namespace Sys2Proof.Proofs
open Sys2Proof.Machine Sys2Proof.Laws

/-! ### Control registers -/

theorem cr_setCr (c : Core) (m n : Fin 96) (x : Word) : (c.setCr m x).cr n = if m = n then x else c.cr n := by
  simp only [Core.cr, Core.setCr_ctl, Fin.getElem_fin, Vector.getElem_set, Fin.val_inj]

theorem setCr_self (c : Core) (m : Fin 96) {x : Word} (same : x = c.cr m) : c.setCr m x = c := by
  subst same
  simp [Core.setCr, Core.cr]

theorem loopReg_zero (base : Fin 96) : loopReg base 0 = base := if_pos rfl
theorem loopReg_one (base : Fin 96) : loopReg base 1 = base + 4 := if_neg (by decide)

/-- A number that a control register holds. -/
def crNat (c : Core) (n : Fin 96) : Nat := (c.cr n).toNat

theorem ofNat_crNat (c : Core) (n : Fin 96) : BitVec.ofNat 64 (crNat c n) = c.cr n := by
  rw [crNat, BitVec.ofNat_toNat, BitVec.setWidth_eq]

theorem crNat_setCr_of_ne {c : Core} {m n : Fin 96} (apart : m ≠ n) (x : Word) : crNat (c.setCr m x) n = crNat c n := by
  rw [crNat, cr_setCr, if_neg apart, crNat]

/-! ### One level at its end (R97) -/

/-- The count of a level behind its end check, and its loop-back if there is one. -/
def levelEnd (n e b a : Nat) : Nat × Option Nat :=
  if 0 < n ∧ a = e then (if 1 < n then (n - 1, some b) else (0, none)) else (n, none)

theorem levelEnd_zero (e b a : Nat) : levelEnd 0 e b a = (0, none) := if_neg fun h => absurd h.1 (lt_irrefl 0)

/-- A level that loops back. -/
theorem levelEnd_back {n e a : Nat} (back : 0 < n ∧ a = e ∧ 1 < n) (b : Nat) : levelEnd n e b a = (n - 1, some b) := by
  rw [levelEnd, if_pos ⟨back.1, back.2.1⟩, if_pos back.2.2]

/-- A level that does not, with the count that R97 leaves it. -/
theorem levelEnd_on {n e a : Nat} (on : ¬(0 < n ∧ a = e ∧ 1 < n)) (b : Nat) :
    levelEnd n e b a = (if 0 < n ∧ a = e then 0 else n, none) := by
  rw [levelEnd]
  split
  · next ends => rw [if_neg fun more => on ⟨ends.1, ends.2, more⟩]
  · rfl

/-- R97's check of both levels is that of level 1 and, unless it loops back, that of level 0. -/
theorem loopEnd_eq (n1 e1 b1 n0 e0 b0 a succ : Nat) : loopEnd n1 e1 b1 n0 e0 b0 a succ =
    match (levelEnd n1 e1 b1 a).2 with
    | some x => (x, (levelEnd n1 e1 b1 a).1, n0)
    | none => ((levelEnd n0 e0 b0 a).2.getD succ, (levelEnd n1 e1 b1 a).1, (levelEnd n0 e0 b0 a).1) := by
  unfold loopEnd
  by_cases back : 0 < n1 ∧ a = e1 ∧ 1 < n1
  · rw [if_pos back, levelEnd_back back]
  · rw [if_neg back, levelEnd_on back, levelEnd]
    dsimp only
    split
    · split <;> rfl
    · rfl

theorem endLevel_eq (c : Core) (l : Fin 2) (a : Nat) : c.endLevel l a =
    let m := levelEnd (crNat c (loopReg crLcnt l)) (crNat c (loopReg crLend l)) (crNat c (loopReg crLbeg l)) a
    (c.setCr (loopReg crLcnt l) (BitVec.ofNat 64 m.1), m.2) := by
  unfold Core.endLevel levelEnd Core.lcnt crNat
  simp only [eq_comm (b := a)]
  split
  · split <;> rfl
  · exact Prod.ext (setCr_self c _ (ofNat_crNat c _)).symm rfl

theorem endLevel_zero (c : Core) (a : Nat) : c.endLevel 0 a =
    let m := levelEnd (crNat c 6) (crNat c 5) (crNat c 4) a
    (c.setCr 6 (BitVec.ofNat 64 m.1), m.2) := endLevel_eq c 0 a

theorem endLevel_one (c : Core) (a : Nat) : c.endLevel 1 a =
    let m := levelEnd (crNat c 10) (crNat c 9) (crNat c 8) a
    (c.setCr 10 (BitVec.ofNat 64 m.1), m.2) := endLevel_eq c 1 a

/-! ### The end check (R96, R97) -/

/-- Both counts are set. -/
theorem counted_cr (c : Core) (x y : Word) (n : Fin 96) :
    ((c.setCr 10 x).setCr 6 y).cr n = if 6 = n then y else if 10 = n then x else c.cr n := by rw [cr_setCr, cr_setCr]

theorem endCheck_none (c : Core) (a succ : Nat) : c.endCheck none a succ =
    let r := loopEnd (crNat c 10) (crNat c 9) (crNat c 8) (crNat c 6) (crNat c 5) (crNat c 4) a succ
    ((c.setCr 10 (BitVec.ofNat 64 r.2.1)).setCr 6 (BitVec.ofNat 64 r.2.2), r.1) := by
  simp (disch := decide) only [Core.endCheck, endLevel_zero, endLevel_one, loopEnd_eq, crNat_setCr_of_ne, reduceCtorEq, if_false]
  obtain ⟨n, back⟩ := levelEnd (crNat c 10) (crNat c 9) (crNat c 8) a
  cases back with
  | none => rfl
  | some x => exact Prod.ext (setCr_self _ _ (by rw [ofNat_crNat, cr_setCr, if_neg (by decide)])).symm rfl

theorem endCheck_level1 (c : Core) (a succ : Nat) : c.endCheck (some 0) a succ =
    let r := loopEnd (crNat c 10) (crNat c 9) (crNat c 8) 0 0 0 a succ
    (c.setCr 10 (BitVec.ofNat 64 r.2.1), r.1) := by
  simp only [Core.endCheck, endLevel_one, loopEnd_eq, levelEnd_zero, Option.some.injEq, zero_ne_one, if_false, if_true]
  obtain ⟨n, back⟩ := levelEnd (crNat c 10) (crNat c 9) (crNat c 8) a
  cases back <;> rfl

theorem endCheck_level0 (c : Core) (a succ : Nat) : c.endCheck (some 1) a succ =
    let r := loopEnd 0 0 0 (crNat c 6) (crNat c 5) (crNat c 4) a succ
    (c.setCr 6 (BitVec.ofNat 64 r.2.2), r.1) := by
  simp only [Core.endCheck, endLevel_zero, loopEnd_eq, levelEnd_zero, Option.some.injEq, one_ne_zero, if_false, if_true]

/-! ### The end of a bundle (R93, R97) -/

/-- A core whose bundle asks for f at its end. -/
def asking (c : Core) (f : Flow) : Core := { c with flow := f }

theorem asking_cr (c : Core) (f : Flow) (n : Fin 96) : (asking c f).cr n = c.cr n := rfl

theorem asking_crNat (c : Core) (f : Flow) (n : Fin 96) : crNat (asking c f) n = crNat c n := rfl

/-- The bundle ends no task, traps nowhere, clears no tag and sets no fence. -/
def GoesOn (f : Flow) : Prop := f.tend = false ∧ f.trapDone = none ∧ f.clear = 0 ∧ f.fence = none

section
variable {c d : Core} {f : Flow} {skip : Bool × Nat} (going : GoesOn f)
include going

/-- The program counter and the control registers behind a bundle, from its next bundle. -/
theorem bundleEnd_next {x : Nat} {far : Bool} (next : (asking c f).nextBundle skip = (d, x, far)) :
    ((asking c f).bundleEnd skip).pc = BitVec.ofNat 49 x ∧ ∀ n, ((asking c f).bundleEnd skip).cr n = (d.armed f.arm).cr n := by
  obtain ⟨tend, -, tags, fence⟩ := going
  have same : (asking c f).flow = f := rfl
  unfold Core.bundleEnd
  dsimp only
  rw [same, tend, tags, fence, next]
  have kept : (d.armed f.arm).setCr crTagbits ((d.armed f.arm).cr crTagbits &&& ~~~0) = d.armed f.arm :=
    setCr_self _ crTagbits BitVec.and_allOnes
  exact ⟨rfl, fun n => (congrArg (Core.cr · n) kept :)⟩

/-- A bundle that neither branches nor skips: the end check with the counts that LBRK leaves, then the level it arms. -/
theorem bundleEnd_straight (straight : f.branch = none) (on : f.skipTo = none) (left : (asking c f).leaveLoops f.lbrk = asking d f) :
    let r := loopEnd (crNat d 10) (crNat d 9) (crNat d 8) (crNat d 6) (crNat d 5) (crNat d 4) d.pc.toNat f.succ
    ((asking c f).bundleEnd skip).pc = BitVec.ofNat 49 r.1 ∧ ∀ n, ((asking c f).bundleEnd skip).cr n =
      ((asking ((d.setCr 10 (BitVec.ofNat 64 r.2.1)).setCr 6 (BitVec.ofNat 64 r.2.2)) f).armed f.arm).cr n := by
  refine bundleEnd_next going (far := false) ?_
  have same : (asking c f).flow = f := rfl
  have quiet : f.trapDone = none := going.2.1
  simp only [Core.nextBundle, same, quiet, straight, on, Option.isSome_none, Bool.false_eq_true, if_false, left, endCheck_none, asking_crNat]
  rfl

end

/-! ### A taken branch (R97) -/

/-- The numbers of a level's count, end and begin say that its range does not hold the target x of a taken branch. -/
abbrev Outside (c : Core) (x : Nat) (n e b : Fin 96) : Prop := 0 < crNat c n ∧ (x < crNat c b ∨ crNat c e < x)

/-- The count of a level is set to 0 where the target is outside its range. -/
def leaveLevel (c : Core) (x : Nat) (l : Fin 2) : Core :=
  if Outside c x (loopReg crLcnt l) (loopReg crLend l) (loopReg crLbeg l) then c.setCr (loopReg crLcnt l) 0 else c

theorem disarm_eq (c : Core) (x : Nat) : c.disarm x = leaveLevel (leaveLevel c x 0) x 1 := rfl

theorem leaveLevel_cr (c : Core) (x : Nat) (l : Fin 2) (n : Fin 96) : (leaveLevel c x l).cr n =
    if loopReg crLcnt l = n ∧ Outside c x (loopReg crLcnt l) (loopReg crLend l) (loopReg crLbeg l) then 0 else c.cr n := by
  unfold leaveLevel
  by_cases out : Outside c x (loopReg crLcnt l) (loopReg crLend l) (loopReg crLbeg l)
  · rw [if_pos out, cr_setCr]
    exact if_congr (and_iff_left out).symm rfl rfl
  · rw [if_neg out, if_neg fun h => out h.2]

theorem leaveLevel_zero_cr (c : Core) (x : Nat) (n : Fin 96) :
    (leaveLevel c x 0).cr n = if 6 = n ∧ Outside c x 6 5 4 then 0 else c.cr n := leaveLevel_cr c x 0 n

theorem leaveLevel_one_cr (c : Core) (x : Nat) (n : Fin 96) :
    (leaveLevel c x 1).cr n = if 10 = n ∧ Outside c x 10 9 8 then 0 else c.cr n := leaveLevel_cr c x 1 n

section
variable (c : Core) (x : Nat)

theorem disarm_cr_ten : (c.disarm x).cr 10 = if Outside c x 10 9 8 then 0 else c.cr 10 := by
  have kept {m : Fin 96} (other : 6 ≠ m) : crNat (leaveLevel c x 0) m = crNat c m := by
    rw [crNat, leaveLevel_zero_cr, if_neg fun h => other h.1, crNat]
  have same : Outside (leaveLevel c x 0) x 10 9 8 ↔ Outside c x 10 9 8 := by
    rw [Outside, kept (by decide), kept (by decide), kept (by decide)]
  rw [disarm_eq, leaveLevel_one_cr, leaveLevel_zero_cr, if_neg fun h : 6 = 10 ∧ _ => absurd h.1 (by decide)]
  exact if_congr ((and_iff_right rfl).trans same) rfl rfl

theorem disarm_cr_six : (c.disarm x).cr 6 = if Outside c x 6 5 4 then 0 else c.cr 6 := by
  rw [disarm_eq, leaveLevel_one_cr, if_neg fun h : 10 = 6 ∧ _ => absurd h.1 (by decide), leaveLevel_zero_cr]
  exact if_congr (and_iff_right rfl) rfl rfl

theorem disarm_cr_other {n : Fin 96} (not10 : n ≠ 10) (not6 : n ≠ 6) : (c.disarm x).cr n = c.cr n := by
  rw [disarm_eq, leaveLevel_one_cr, if_neg fun h => not10 h.1.symm, leaveLevel_zero_cr, if_neg fun h => not6 h.1.symm]

end

/-- A taken branch that is no call. -/
theorem bundleEnd_branch {c : Core} {f : Flow} {skip : Bool × Nat} {x : Nat} (going : GoesOn f)
    (next : (asking c f).nextBundle skip = ((asking c f).disarm x, x, true)) (armless : f.arm = none) (n : Fin 96) :
    let d := (asking c f).bundleEnd skip
    d.pc = BitVec.ofNat 49 x ∧ (Outside c x 10 9 8 → d.cr 10 = 0) ∧ (¬Outside c x 10 9 8 → d.cr 10 = c.cr 10) ∧
      (Outside c x 6 5 4 → d.cr 6 = 0) ∧ (¬Outside c x 6 5 4 → d.cr 6 = c.cr 6) ∧ (n ≠ 10 → n ≠ 6 → d.cr n = c.cr n) := by
  obtain ⟨pc, cr⟩ := bundleEnd_next going next
  simp only [armless, Core.armed] at cr
  refine ⟨pc, fun h => ?_, fun h => ?_, fun h => ?_, fun h => ?_, fun not10 not6 => (cr n).trans (disarm_cr_other _ x not10 not6)⟩
  · rw [cr, disarm_cr_ten]; exact if_pos h
  · rw [cr, disarm_cr_ten]; exact if_neg h
  · rw [cr, disarm_cr_six]; exact if_pos h
  · rw [cr, disarm_cr_six]; exact if_neg h

/-- A body of count 0 that is skipped, where a bundle starts at its end: the end check of the other level (R96). -/
theorem bundleEnd_skip {c : Core} {f : Flow} {l : Fin 2} {e y : Nat} (going : GoesOn f)
    (next : (asking c f).nextBundle (true, y) = (((asking c f).endCheck (some l) e y).1, ((asking c f).endCheck (some l) e y).2, false))
    (armless : f.arm = none) (n : Fin 96) :
    let d := (asking c f).bundleEnd (true, y)
    let w := if l = 0 then loopEnd (crNat c 10) (crNat c 9) (crNat c 8) 0 0 0 e y else loopEnd 0 0 0 (crNat c 6) (crNat c 5) (crNat c 4) e y
    d.pc = BitVec.ofNat 49 w.1 ∧ d.cr 10 = (if l = 1 then c.cr 10 else BitVec.ofNat 64 w.2.1) ∧
      d.cr 6 = (if l = 0 then c.cr 6 else BitVec.ofNat 64 w.2.2) ∧ (n ≠ 10 → n ≠ 6 → d.cr n = c.cr n) := by
  obtain ⟨pc, cr⟩ := bundleEnd_next going next
  simp only [armless, Core.armed] at cr
  fin_cases l
  · simp only [Fin.zero_eta, endCheck_level1, asking_crNat, cr_setCr, asking_cr] at pc cr
    exact ⟨pc, cr 10, cr 6, fun not10 _ => (cr n).trans (if_neg not10.symm)⟩
  · simp only [Fin.mk_one, endCheck_level0, asking_crNat, cr_setCr, asking_cr] at pc cr
    exact ⟨pc, cr 10, cr 6, fun _ not6 => (cr n).trans (if_neg not6.symm)⟩

/-! ### A level that is armed, and one that LBRK leaves (R96, R99) -/

theorem armed_cr (c : Core) (l : Fin 2) (cnt e : Nat) (n : Fin 96) : (c.armed (some (l, cnt, e))).cr n =
    if loopReg crLcnt l = n then BitVec.ofNat 64 cnt
    else if loopReg crLend l = n then BitVec.ofNat 64 e
    else if loopReg crLbeg l = n then BitVec.ofNat 64 c.flow.succ else c.cr n := by
  simp only [Core.armed, cr_setCr]

theorem loopEnd_leave (c : Core) (l : Fin 2) (a succ : Nat) :
    let d := c.setCr (loopReg crLcnt l) 0
    loopEnd (crNat d 10) (crNat d 9) (crNat d 8) (crNat d 6) (crNat d 5) (crNat d 4) a succ =
      loopEnd (if l = 1 then 0 else crNat c 10) (crNat c 9) (crNat c 8) (if l = 0 then 0 else crNat c 6) (crNat c 5) (crNat c 4) a succ := by
  have left (n : Fin 96) : crNat (c.setCr (loopReg crLcnt l) 0) n = if loopReg crLcnt l = n then 0 else crNat c n := by
    rw [crNat, cr_setCr, apply_ite BitVec.toNat]
    rfl
  simp only [left]
  fin_cases l <;> rfl

/-! ### LOOP and LOOPS at issue (R96) -/

theorem armLoop_eq (l : Fin 2) (cnt endoff : Nat) (s : State) : armLoop l cnt endoff s =
    if s.c.pc.toNat + 4 * endoff < s.c.flow.succ ∨
        (0 < (s.c.ctl[(if l = 0 then 6 else 10 : Fin 96)]).toNat ∧ (s.c.ctl[(if l = 0 then 5 else 9 : Fin 96)]).toNat = s.c.pc.toNat) then
      .trap s.illegal5
    else if cnt = 0 then .ok { s with c := { s.c with flow := { s.c.flow with skipTo := some (l, wordTarget s.c.pc endoff) } } }
    else .ok { s with c := { s.c with flow := { s.c.flow with arm := some (l, cnt, wordTarget s.c.pc endoff) } } } := by
  have same (x : Word) (a : BitVec 49) : x = a.zeroExtend 64 ↔ x.toNat = a.toNat := by
    rw [← BitVec.toNat_inj, BitVec.toNat_setWidth_of_le (by decide)]
  simp only [armLoop, Core.lcnt, Core.cr, loopReg, same, ite_or]
  rfl

/-- Settles O10. -/
theorem loopForms : Obligations.LoopForms := by
  refine ⟨fun s l cnt e a i c form issues => ?_, fun c x succ e y l n cnt => ?_⟩
  · intro endAt bad
    have works : exec i s = slotExec 0 i (armLoop l c e.toNat) s := by
      obtain ⟨rfl, rfl⟩ | ⟨rfl, rfl⟩ := form <;> rfl
    have slot : i.slot.getD 0 = 0 := by obtain ⟨rfl, rfl⟩ | ⟨rfl, rfl⟩ := form <;> rfl
    rw [works]
    exact ⟨fun h => slotExec_trap issues slot ((armLoop_eq ..).trans (if_pos h)),
      fun h empty => slotExec_effect issues slot ((armLoop_eq ..).trans ((if_neg h).trans (if_pos empty))) rfl,
      fun h counts => slotExec_effect issues slot ((armLoop_eq ..).trans ((if_neg h).trans (if_neg counts))) rfl⟩
  intro f v after r out
  have going (g : Flow) (h : g = { f with branch := g.branch, isCall := g.isCall, skipTo := g.skipTo, arm := g.arm, lbrk := g.lbrk }) :
      GoesOn g := by rw [h]; exact ⟨rfl, rfl, rfl, rfl⟩
  refine ⟨?_, ?_, ?_, ?_, ?_, ?_⟩
  · obtain ⟨pc, cr⟩ := bundleEnd_straight (c := c) (skip := (true, 0)) (going f rfl) rfl rfl rfl
    exact ⟨pc, (cr 10).trans (counted_cr ..), (cr 6).trans (counted_cr ..),
      fun not10 not6 => (cr n).trans ((counted_cr ..).trans ((if_neg not6.symm).trans (if_neg not10.symm)))⟩
  · exact bundleEnd_branch (c := c) (skip := (true, 0)) (going { f with branch := some x } rfl) rfl rfl n
  · obtain ⟨pc, cr⟩ := bundleEnd_next (c := c) (skip := (true, 0)) (going { f with branch := some x, isCall := true } rfl) rfl
    exact ⟨pc, cr n⟩
  · obtain ⟨pc, cr⟩ := bundleEnd_straight (c := c) (skip := (true, 0)) (going { f with arm := some (l, cnt, e) } rfl) rfl rfl rfl
    simp only [armed_cr, asking_cr, counted_cr] at cr
    refine ⟨pc, ?_⟩
    fin_cases l
    · refine ⟨cr 4, cr 5, cr 6, fun _ => cr 10, fun h => absurd h (by decide), fun h not10 not6 => ?_⟩
      obtain ⟨not4, not5⟩ : n ≠ 4 ∧ n ≠ 5 := h
      exact (cr n).trans ((if_neg not6.symm).trans ((if_neg not5.symm).trans ((if_neg not4.symm).trans
        ((if_neg not6.symm).trans (if_neg not10.symm)))))
    · refine ⟨cr 8, cr 9, cr 10, fun h => absurd h (by decide), fun _ => cr 6, fun h not10 not6 => ?_⟩
      obtain ⟨not8, not9⟩ : n ≠ 8 ∧ n ≠ 9 := h
      exact (cr n).trans ((if_neg not10.symm).trans ((if_neg not9.symm).trans ((if_neg not8.symm).trans
        ((if_neg not6.symm).trans (if_neg not10.symm)))))
  · obtain ⟨pc, cr⟩ := bundleEnd_straight (c := c) (d := c.setCr (loopReg crLcnt l) 0) (skip := (true, 0)) (going { f with lbrk := [l] } rfl)
      rfl rfl rfl
    simp only [loopEnd_leave] at pc cr
    refine ⟨pc, (cr 10).trans (counted_cr ..), (cr 6).trans (counted_cr ..), fun not10 not6 => (cr n).trans ((counted_cr ..).trans ?_)⟩
    rw [if_neg not6.symm, if_neg not10.symm, cr_setCr, if_neg]
    fin_cases l
    · exact not6.symm
    · exact not10.symm
  · obtain ⟨pc, ten, six, other⟩ := bundleEnd_skip (c := c) (l := l) (e := e) (y := y) (going { f with skipTo := some (l, e) } rfl) rfl rfl n
    obtain ⟨far, stands⟩ := bundleEnd_next (c := c) (skip := (false, y)) (going { f with skipTo := some (l, e) } rfl) rfl
    exact ⟨pc, ten, six, other, far, stands n⟩

end Sys2Proof.Proofs

end

/-! O60, what every word passes and how a trap is taken. -/

section

namespace Sys2Proof.Proofs

open Sys2Proof.Machine Sys2Proof.Laws

/-! ### The checks of every word (R14, R30, R35, R189, R222) -/

/-- Every word of a slot is checked and issued in one way. -/
theorem exec_eq_slotExec {i : Instr} {n : Nat} (slot : i.slot = some n) (s : State) : ∃ body, exec i s = slotExec n i body s := by
  unfold exec
  cases i with
  | add y | sub y | addi y | movi y | movhi y | mul y | mulhi y | mulhn y | and y | or y | xor y | andn y | andi y | ori y | xori y
  | shl y | shrl y | shra y | shli y | shrli y | shrai y | clz y | ctz y | popc y | min y | max y | minn y | maxn y | sel y | cmp y
  | cmpi y | plog y | addsc y | ext y | fadd y | fsub y | fmul y | ffma y | fcmp y | fcvt y | fmnx y | div y | divn y | rem y | remn y
  | pmov y =>
    cases slot
    cases y <;> exact ⟨_, rfl⟩
  | tqpush p a b =>
    cases slot
    dsimp only [execTqpush]
    exact ⟨_, rfl⟩
  | _ => cases slot <;> exact ⟨_, rfl⟩

/-- A word that nothing holds and a check of every word refuses takes that check's trap. -/
theorem exec_commonTrap {s : State} {i : Instr} {n : Nat} {t : Trap} (slot : i.slot = some n) (goes : s.preIssue n i = .go)
    (refused : s.commonTrap n i = some t) : exec i s = .next (s.trapNow t) := by
  obtain ⟨body, works⟩ := exec_eq_slotExec slot s
  rw [works, slotExec, goes, refused]


section
variable {s : State} {i : Instr} {n : Nat} (slot : i.slot = some n)
include slot

theorem kindTrap_of_slot (other : isCompute s.c.id = false) (low : 4 ≤ n) (high : n ≤ 6) :
    kindTrap s i = some ⟨.illegal, encInfo 3 s.word n⟩ := by
  unfold kindTrap
  split
  · next compute => exact absurd other (by rw [compute]; exact Bool.noConfusion)
  · rw [slot]
    obtain rfl | rfl | rfl : n = 4 ∨ n = 5 ∨ n = 6 := by omega
    all_goals rfl

/-- The forms that R189 denies a compute core are X-slot words. -/
theorem kindTrap_compute (compute : isCompute s.c.id = true) (inner : n ≠ 7) : kindTrap s i = none := by
  have apart : ∀ j : Instr, j.slot = some 7 → i ≠ j := fun j seven same => inner (Option.some.inj (slot.symm.trans (same ▸ seven)))
  unfold kindTrap
  split
  · split
    on_goal 9 => rfl
    all_goals exact absurd rfl (apart _ rfl)
  · next other =>
    cases id : s.c.id with
    | compute => exact absurd id (other _ _)
    | _ => simp [id, isCompute] at compute

end

/-- R189's table is among the checks of the kind of core. -/
theorem kindTrap_of_lacksForm {s : State} {i : Instr} {f : Cause} (lacks : lacksForm s.c.id i = some f) :
    ∃ v, kindTrap s i = some ⟨f, v⟩ := by
  unfold kindTrap
  cases id : s.c.id <;> rw [id] at lacks <;> cases i <;> cases lacks <;> exact ⟨_, rfl⟩

/-! #### The class of the register space (R169, R222) -/

theorem bits_zero (k n : Nat) : bits (0 : BitVec 512).toNat k n = 0 := by
  rw [show (0 : BitVec 512).toNat = 0 from BitVec.toNat_zero]
  simp [bits]

theorem tileCount_eq (c : Core) : c.tileCount = bits ((c.task.map Task.record).getD 0).toNat 296 3 := by
  unfold Core.tileCount
  cases c.task with
  | none => rw [Option.map_none, Option.getD_none, bits_zero]
  | some t => rfl

theorem vregs_eq (c : Core) :
    c.vregs = let code := bits ((c.task.map Task.record).getD 0).toNat 300 2; if code = 0 then 0 else 4 * 2 ^ code := by
  unfold Core.vregs
  cases c.task with
  | none =>
    rw [Option.map_none, Option.getD_none, bits_zero]
    rfl
  | some t =>
    have code : recRegs t.record < 4 := Nat.mod_lt _ (by decide)
    change _ = if recRegs t.record = 0 then 0 else 4 * 2 ^ recRegs t.record
    dsimp only
    interval_cases recRegs t.record <;> rfl

theorem dsts_vdrain (c : Core) (d sc : Reg) (p : PReg) (close : Bool) (k : Fin 4) : dsts c (.vdrain d sc p close k) =
    (.scalar sc, 6) :: (.pred p, 6) ::
      (if c.drainCount close = 0 then [] else (List.range (k.val + 1)).map (fun j => (.vector (Fin.ofNat 32 (d.val + j)), 6))) := rfl

section
variable {s : State} {i : Instr} {n : Nat} (compute : isCompute s.c.id = true)
include compute

theorem classTrap_vector {x : Reg} (named : .vector x ∈ srcs i ++ (dsts s.c i).map (·.1)) (outside : s.c.vregs ≤ x.val) :
    classTrap s n i = some s.illegal5 := by
  unfold classTrap
  rw [compute, Bool.not_true, if_neg Bool.false_ne_true]
  refine if_pos (List.any_eq_true.mpr ⟨Dest.vector x, ?_, decide_eq_true outside⟩)
  refine List.mem_append.mpr ((List.mem_append.mp named).imp id fun written => ?_)
  clear named
  split
  · next d sc p l k =>
    rw [dsts_vdrain, List.map_cons, List.map_cons, List.mem_cons, List.mem_cons] at written
    obtain same | same | drained := written
    · cases same
    · cases same
    · by_cases empty : s.c.drainCount l = 0
      · rw [if_pos empty] at drained
        cases drained
      · rwa [if_neg empty, List.map_map] at drained
  · exact written

theorem classTrap_tiles (tiles : needsTiles n i = true) (none : s.c.tileCount = 0) : classTrap s n i = some s.illegal5 := by
  unfold classTrap
  rw [compute, tiles, none]
  simp

end

theorem needsTiles_of_form {i : Instr} {n : Nat} {x : Reg} (slot : i.slot = some n)
    (form : n = 5 ∨ i = .sla x ∨ i = .slb x ∨ i = .slq x ∨ i = .slz) : n ≠ 7 ∧ needsTiles n i = true := by
  obtain rfl | rfl | rfl | rfl | rfl := form
  · exact ⟨by decide, rfl⟩
  all_goals
    cases slot
    exact ⟨by decide, rfl⟩

/-! #### The checking scoreboard (R30, R35) -/

section
variable {α : Type} {l : List α} {p q : α → Bool}

theorem not_of_find?_orElse_none {o : Unit → Option α} (nothing : (l.find? p).orElse o = none) : ∀ a ∈ l, ¬ p a = true := by
  cases found : l.find? p with
  | none => exact List.find?_eq_none.mp found
  | some a => rw [found] at nothing; cases nothing

theorem of_find?_orElse_some {a : α} (either : (l.find? p).orElse (fun _ => l.find? q) = some a) : a ∈ l ∧ (p a = true ∨ q a = true) := by
  cases found : l.find? p with
  | none =>
    rw [found] at either
    exact ⟨List.mem_of_find?_eq_some either, .inr (List.find?_some either)⟩
  | some b =>
    rw [found] at either
    cases either
    exact ⟨List.mem_of_find?_eq_some found, .inl (List.find?_some found)⟩

end

section
variable {s : State} {i : Instr}

/-- A write that lands in the cycle of a pending one is found first. -/
theorem scoreTrap_lands (chk : s.c.chk = true) {z : Dest × Nat} (written : z ∈ dsts s.c i) (kept : discards z.1 = false) (shadow : z.2 ≠ 0)
    (pending : ∃ e ∈ s.c.shadow, e.dest = z.1 ∧ e.remaining = z.2) : ∃ v, scoreTrap s i = some ⟨.illegal, v⟩ := by
  obtain ⟨e, mem, dest, remaining⟩ := pending
  unfold scoreTrap
  rw [chk, Bool.not_true, if_neg Bool.false_ne_true]
  dsimp only
  split
  · exact ⟨_, rfl⟩
  · next quiet =>
    refine absurd ?_ (not_of_find?_orElse_none quiet z (List.mem_filter.mpr ⟨written, by simp [kept]⟩))
    rw [decide_eq_true shadow, Bool.true_and, List.any_eq_true]
    exact ⟨e, mem, by simp [dest, remaining, clash]⟩

/-- A register that a pending entry of an earlier bundle names, where no write of the word meets another. -/
theorem scoreTrap_pending (chk : s.c.chk = true) {y : Dest} (named : y ∈ srcs i ++ (dsts s.c i).map (·.1))
    (register : (∃ q, y = .scalar q ∧ q ≠ 0) ∨ (∃ q, y = .vector q) ∨ (∃ q, y = .pred q ∧ q ≠ 0) ∨ ∃ q, y = .tstat q)
    (pending : ∃ e ∈ s.c.shadow, e.dest = y ∧ e.age < s.c.age)
    (apart : ∀ w ∈ dsts s.c i, (∀ e ∈ s.c.shadow, clash e.dest w.1 = true → e.remaining ≠ w.2) ∧ ∀ o ∈ s.c.ilk, o.dest ≠ some w.1)
    (earlier : ∀ e ∈ s.c.shadow, e.age < s.c.age) : ∃ v, scoreTrap s i = some ⟨.stallShort, v⟩ := by
  unfold scoreTrap
  rw [chk, Bool.not_true, if_neg Bool.false_ne_true]
  dsimp only
  split
  · next w found =>
    obtain ⟨mem, met⟩ := of_find?_orElse_some found
    obtain ⟨shadows, ilks⟩ := apart w (List.mem_filter.mp mem).1
    have unmatched : s.c.shadow.any (fun e => clash e.dest w.1 && decide (e.remaining = w.2)) = false :=
      List.any_eq_false.mpr fun e e_mem => by simpa using shadows e e_mem
    have untwinned : s.c.twinWrite i w.1 = false := by
      have old : ∀ e ∈ s.c.shadow, e.age ≠ s.c.age := fun e e_mem => (earlier e e_mem).ne
      simp +contextual [Core.twinWrite, ilks, old]
    have alone : s.c.ilk.any (fun o => decide (o.dest = some w.1 ∧ o.age = s.c.age)) = false :=
      List.any_eq_false.mpr fun o o_mem => by simp [ilks o o_mem]
    rw [unmatched, untwinned, alone, Bool.and_false, Bool.and_false, Bool.or_false, or_self] at met
    cases met
  split
  · exact ⟨_, rfl⟩
  · next quiet =>
    obtain ⟨e, mem, dest, before⟩ := pending
    have kept : discards y = false := by
      obtain ⟨q, rfl, other⟩ | ⟨q, rfl⟩ | ⟨q, rfl, other⟩ | ⟨q, rfl⟩ := register
      · exact decide_eq_false other
      · rfl
      · exact decide_eq_false other
      · rfl
    refine absurd ?_ (List.find?_eq_none.mp quiet y ?_)
    · have old : s.c.shadow.any (fun e => decide (e.dest = y ∧ e.age < s.c.age)) = true :=
        List.any_eq_true.mpr ⟨e, mem, decide_eq_true ⟨dest, before⟩⟩
      rw [kept, old]
      obtain ⟨q, rfl, -⟩ | ⟨q, rfl⟩ | ⟨q, rfl, -⟩ | ⟨q, rfl⟩ := register <;> rfl
    · refine List.mem_append.mpr ((List.mem_append.mp named).imp id fun written => ?_)
      obtain ⟨w, w_mem, rfl⟩ := List.mem_map.mp written
      exact List.mem_map_of_mem (List.mem_filter.mpr ⟨w_mem, by simp [kept]⟩)

end

/-! ### Taking a trap and leaving its handler (R304, R313, R316) -/

/-- The handler of a partition core or of the Umpire is entered. -/
theorem takeTrap_enters {s : State} {entry : Nat} (free : s.c.frozen = none)
    (own : ((∃ cl, s.c.id = .partition cl) ∧ entry = s.umpire.phandler) ∨ (s.c.id = .umpire ∧ entry = s.umpire.handler)) (t : Trap)
    (pc : BitVec 49) : s.takeTrap t pc = { s with c := (s.c.setTrap t pc).enterHandler (BitVec.ofNat 49 entry) } := by
  have unheld : (s.c.setTrap t pc).frozen.isSome = false := by
    rw [show (s.c.setTrap t pc).frozen = none from free]
    rfl
  obtain ⟨⟨cl, id⟩, rfl⟩ | ⟨id, rfl⟩ := own
  all_goals
    replace id : (s.c.setTrap t pc).id = _ := id
    simp only [State.takeTrap, id, unheld, Bool.false_eq_true, if_false]

/-- What the trap registers hold once a trap has written them. -/
theorem setTrap_cr (c : Core) (t : Trap) (pc : BitVec 49) :
    (c.setTrap t pc).cr crTrapcause = BitVec.ofNat 64 t.cause.code ∧ (c.setTrap t pc).cr crTrapinfo = t.info ∧
      (c.setTrap t pc).cr crTrappc = pc.zeroExtend 64 ∧
      ∀ n, n ≠ crTrapcause → n ≠ crTrapinfo → n ≠ crTrappc → (c.setTrap t pc).cr n = c.cr n := by
  simp only [Core.setTrap, cr_setCr]
  refine ⟨?_, ?_, ?_, fun n cause info address => ?_⟩
  · rw [if_neg (by decide), if_neg (by decide), if_true]
  · rw [if_neg (by decide), if_true]
  · rw [if_true]
  · rw [if_neg address.symm, if_neg info.symm, if_neg cause.symm]

theorem haltPartition_halts {s : State} {k : CoreId} (own : s.c.id = k) : (s.haltPartition k).c.halted = true := by
  subst own
  have halted : (s.setCore { s.core s.c.id with halted := true }).c.halted = true := by
    rw [core_self]
    exact congrArg (fun r => r.c.halted) (setCore_own (s := s) (c := { s.c with halted := true }) rfl)
  rw [State.haltPartition, logEvent_core]
  dsimp only
  split <;> exact halted

/-- A trap inside the handler halts a partition core. -/
theorem takeTrap_halts {s : State} {cl : Nat} (id : s.c.id = .partition cl) (inside : s.c.frozen.isSome = true) (t : Trap) (pc : BitVec 49) :
    (s.takeTrap t pc).c.halted = true := by
  have own : (s.c.setTrap t pc).id = .partition cl := id
  have within : (s.c.setTrap t pc).frozen.isSome = true := inside
  simp only [State.takeTrap, own, within, if_true]
  exact haltPartition_halts own

/-- A save that nothing holds up is done in one step, with an item for the supervisor of a task that a trap ends (log 52). -/
theorem saveStep_trapped {s u : State} {k : Machine.Task} {b : Bool} {id : CoreId} (own : s.c.id = id) (runs : s.c.task = some k)
    (saves : s.c.saving = some (.trapped b)) (going : s.c.freeze = 0) (ready : (s.awaitResults id).saveWaits id = false)
    (saved : (s.awaitResults id).trySave id k (.trapped b) = .ok u) :
    s.saveStep id = u.postItem id k (supItem (((s.awaitResults id).core id).cr crTrapcause).toNat false id k.slot)
      ((s.awaitResults id).openStores ((s.awaitResults id).core id)) (some (k.ctx, k.slot)) := by
  subst own
  unfold State.saveStep
  simp only [core_self, runs, saves, going, ready, saved, ne_eq, not_true_eq_false, Bool.false_eq_true, if_false]

theorem saveTask_fresh {s : State} {id : CoreId} (own : s.c.id = id) (fresh : s.c.saving = none) (k : Machine.Task) (st : TaskState) :
    s.saveTask id k st = State.saveStep { s with c := { s.c with saving := some st } } id := by
  subst own
  rw [State.saveTask, core_self, fresh, Option.isSome_none, if_neg Bool.false_ne_true]
  exact congrArg (State.saveStep · _) (setCore_own (s := s) (c := { s.c with saving := some st }) rfl)

/-- A compute core that a trap stops, before it saves its task. -/
def trapStopped (c : Core) (t : Trap) (pc : BitVec 49) : Core :=
  { c.setTrap t pc with flow := Flow.none, arrived := none, badFills := [], redo := none }

/-- A compute core that saves its task for a trap. -/
def trapSaving (c : Core) (t : Trap) (pc : BitVec 49) : Core := { trapStopped c t pc with saving := some (.trapped true) }

theorem trapSaving_keeps (c : Core) (t : Trap) (pc : BitVec 49) : (trapSaving c t pc).id = c.id ∧ (trapSaving c t pc).task = c.task ∧
    (trapSaving c t pc).saving = some (.trapped true) ∧ (trapSaving c t pc).freeze = c.freeze := by
  unfold trapSaving trapStopped Core.setTrap Core.setCr
  exact ⟨rfl, rfl, rfl, rfl⟩

theorem takeTrap_compute {s : State} {k : Machine.Task} (compute : isCompute s.c.id = true) (runs : s.c.task = some k) (t : Trap)
    (pc : BitVec 49) : s.takeTrap t pc = State.saveTask { s with c := trapStopped s.c t pc } s.c.id k (.trapped true) := by
  cases id : s.c.id with
  | compute x y =>
    have own : (s.c.setTrap t pc).id = .compute x y := id
    have works : (s.c.setTrap t pc).task = some k := runs
    simp only [State.takeTrap, own, works, trapStopped]
  | partition x => rw [id] at compute; cases compute
  | umpire => rw [id] at compute; cases compute

theorem takeTrap_saves {s v u : State} {k : Machine.Task} {t : Trap} {pc : BitVec 49} (compute : isCompute s.c.id = true)
    (runs : s.c.task = some k) (fresh : s.c.saving = none) (going : s.c.freeze = 0) (saving : v = { s with c := trapSaving s.c t pc })
    (ready : (v.awaitResults s.c.id).saveWaits s.c.id = false)
    (saved : (v.awaitResults s.c.id).trySave s.c.id k (.trapped true) = .ok u) :
    s.takeTrap t pc = u.postItem s.c.id k
      (supItem (((v.awaitResults s.c.id).core s.c.id).cr crTrapcause).toNat false s.c.id k.slot)
      ((v.awaitResults s.c.id).openStores ((v.awaitResults s.c.id).core s.c.id)) (some (k.ctx, k.slot)) := by
  have begun : s.takeTrap t pc = v.saveStep s.c.id := by
    rw [takeTrap_compute compute runs, saving]
    exact saveTask_fresh (s := { s with c := trapStopped s.c t pc }) rfl fresh k _
  obtain ⟨own, task, state, freeze⟩ := trapSaving_keeps s.c t pc
  have core : v.c = trapSaving s.c t pc := by rw [saving]
  rw [begun]
  rw [← core] at own task state freeze
  exact saveStep_trapped own (task.trans runs) state (freeze.trans going) ready saved

theorem requeue_keeps (c : Core) : c.requeue.frozen = c.frozen ∧ c.requeue.shadow = c.shadow ∧ c.requeue.qpop = c.qpop ∧
    c.requeue.ord = c.ord ∧ c.requeue.s = c.s := by
  unfold Core.requeue
  split
  · exact ⟨rfl, rfl, rfl, rfl, rfl⟩
  · split <;> exact ⟨rfl, rfl, rfl, rfl, rfl⟩

theorem requeue_none {c : Core} (none : c.held = none) : c.requeue = c := by
  rw [Core.requeue, none]

theorem requeue_some {c : Core} {a : Access} {d : Option Dest} (held : c.held = some (a, d)) :
    c.requeue.redo = some a ∧
      if a.isStore then c.requeue.stq = a :: c.stq else c.requeue.ilk = ⟨.access a none, d, a.age⟩ :: c.ilk := by
  rw [Core.requeue, held]
  dsimp only
  split
  · exact ⟨rfl, rfl⟩
  · exact ⟨rfl, rfl⟩

/-- A core as its handler leaves it, before the held access goes on. -/
def unfrozen (c : Core) (f : Frozen) : Core :=
  { c with
    frozen := none, shadow := f.shadow ++ c.shadow, qpop := f.qpop, cmds := c.cmds.map Cmd.resumed
    held := (match f.held with
      | some a => if c.cr crTrapcause = 0 then none else some (a, if a.isStore then none else a.reg.map .scalar)
      | none => none)
    due := c.pending.due ++ c.due, pending := { c.pending with due := [], tags := [] }, ord := { c.ord with wait := f.wait } }

theorem leaveHandler_eq {c : Core} {f : Frozen} (frozen : c.frozen = some f) : c.leaveHandler = (unfrozen c f).requeue := by
  rw [Core.leaveHandler, frozen]
  rfl

/-- Leaving the handler: the frozen entries and the wait are back, and the held access goes on unless trapcause is 0. -/
theorem leaveHandler_spec {c : Core} {f : Frozen} (frozen : c.frozen = some f) (empty : c.shadow = []) :
    c.leaveHandler.frozen = none ∧ c.leaveHandler.shadow = f.shadow ∧ c.leaveHandler.qpop = f.qpop ∧
      c.leaveHandler.ord.wait = f.wait ∧ c.leaveHandler.s = c.s := by
  obtain ⟨frozen', shadow, qpop, ord, regs⟩ := requeue_keeps (unfrozen c f)
  rw [leaveHandler_eq frozen, frozen', shadow, qpop, ord, regs]
  exact ⟨rfl, (congrArg (f.shadow ++ ·) empty).trans (List.append_nil _), rfl, rfl, rfl⟩

theorem leaveHandler_again {c : Core} {f : Frozen} {a : Access} (frozen : c.frozen = some f) (held : f.held = some a)
    (goes : c.cr crTrapcause ≠ 0) : c.leaveHandler.redo = some a ∧
      if a.isStore then c.leaveHandler.stq = a :: c.stq else ∃ d, c.leaveHandler.ilk = ⟨.access a none, d, a.age⟩ :: c.ilk := by
  have again : (unfrozen c f).held = some (a, if a.isStore then none else a.reg.map .scalar) := by
    simp only [unfrozen, held, goes, if_false]
  obtain ⟨redo, queued⟩ := requeue_some again
  rw [leaveHandler_eq frozen]
  refine ⟨redo, ?_⟩
  split at queued
  · next store => exact (if_pos store).mpr queued
  · next load => exact (if_neg load).mpr ⟨_, queued⟩

theorem leaveHandler_dropped {c : Core} {f : Frozen} (frozen : c.frozen = some f) (cleared : c.cr crTrapcause = 0) :
    c.leaveHandler.stq = c.stq ∧ c.leaveHandler.ilk = c.ilk := by
  have none : (unfrozen c f).held = none := by
    cases held : f.held <;> simp only [unfrozen, held, cleared, if_true]
  rw [leaveHandler_eq frozen, requeue_none none]
  exact ⟨rfl, rfl⟩

/-- Settles O60: the checks that precede every word's work, then the handler's entry and exit. -/
theorem trapEntryAndReturn : Obligations.TrapEntryAndReturn := by
  intro s t i n f x y z
  refine ⟨fun slot goes => ?_, fun entry own free => ?_, fun ⟨cl, id⟩ inside => takeTrap_halts id inside t s.c.pc,
    fun k u compute runs fresh going ready saved => ?_, fun f frozen empty => ?_⟩
  · have checked {t : Trap} (refused : s.commonTrap n i = some t) := exec_commonTrap slot goes refused
    refine ⟨fun other low high => checked ?_, fun lacks => ?_, fun compute kind named outside => checked ?_,
      fun compute tiles form => checked ?_, fun kind cls chk => ⟨fun written kept shadow pending => ?_,
        fun named register pending apart earlier => ?_⟩⟩
    · simp only [State.commonTrap, kindTrap_of_slot slot other low high]
    · obtain ⟨v, kind⟩ := kindTrap_of_lacksForm (s := s) lacks
      exact ⟨v, checked (by simp only [State.commonTrap, kind])⟩
    · simp only [State.commonTrap, kind, classTrap_vector compute named ((vregs_eq s.c).symm ▸ outside)]
    · obtain ⟨inner, works⟩ := needsTiles_of_form slot form
      simp only [State.commonTrap, kindTrap_compute slot compute inner, classTrap_tiles compute works ((tileCount_eq s.c).trans tiles)]
    · obtain ⟨v, score⟩ := scoreTrap_lands chk written kept shadow pending
      exact ⟨v, checked (by simp only [State.commonTrap, kind, cls, score])⟩
    · obtain ⟨v, score⟩ := scoreTrap_pending chk named register pending apart earlier
      exact ⟨v, checked (by simp only [State.commonTrap, kind, cls, score])⟩
  · have enters : s.trapNow t = { s with c := (s.c.setTrap t s.c.pc).enterHandler (BitVec.ofNat 49 entry), verdict := .trapped t } :=
      congrArg (fun r : State => { r with verdict := .trapped t }) (takeTrap_enters free own t s.c.pc)
    obtain ⟨cause, info, address, others⟩ := setTrap_cr s.c t s.c.pc
    rw [enters]
    exact ⟨cause, info, address, others, rfl, rfl, rfl, rfl, rfl, rfl, rfl, rfl, rfl, rfl, rfl, rfl, rfl⟩
  · refine congrArg (fun r : State => { r with verdict := .trapped t }) ?_
    exact takeTrap_saves compute runs fresh going rfl ready saved
  · obtain ⟨thawed, shadow, qpop, wait, regs⟩ := leaveHandler_spec frozen empty
    exact ⟨thawed, shadow, qpop, wait, regs, fun a held => ⟨leaveHandler_again frozen held, leaveHandler_dropped frozen⟩⟩

end Sys2Proof.Proofs

end

/-! O41, a core that stands under another core's name. -/

section

namespace Sys2Proof.Proofs

open Sys2Proof.Machine Sys2Proof.Laws

/-- Core 0 of cluster 0, in a wait. -/
def waitingCore (w : Wait) : Core := { Core.dark (.compute 0 0) with ord := { Ordering.none with wait := some w } }

/-- Core 0 is about to arrive at barrier 0 as its only member; under the name of core 1 stands a core 0 that waits at that generation. -/
def misnamed : State :=
  { State.reset with c := waitingCore (.arrive 0 1), others := [(.compute 0 1, waitingCore (.cbar 0 0))] }

/-- The departure of the generation rewrites what stands under the name of core 1, and so core 0, with a wait that is over. -/
theorem misnamed_waits_on : (State.core (misnamed.waitHolds (.compute 0 0) (.arrive 0 1)) (.compute 0 0)).ord.wait = some (.cbar 0 0) := by
  decide

/-- Refutes O41: its clause on a delayed arrival names the core that arrives and leaves the others free, so that one of them may stand
under a name that is not its own. On `misnamed` the arrival is the last of its generation, and the core is left in a wait, not in none. -/
theorem not_schedulingEventsGoOn : ¬ Obligations.SchedulingEventsGoOn := by
  intro holds
  obtain ⟨-, -, -, -, -, -, -, -, arrival, -⟩ := holds misnamed misnamed (.compute 0 0) 0 0 1 ⟨0, 0, 0, 0, none, none⟩
    ⟨0, 0, 0, 0, 0, 0, none, 0, []⟩ .met ⟨.illegal, 0⟩ 0 [] (Saved.bare ⟨0, 0, 0, 0, 0, 0, none, 0, []⟩ 0 .ready 0) 0 0 ⟨0, 0⟩
    ⟨0, (0, 0), false, 0⟩
  obtain ⟨r, answers, ended, -⟩ := arrival rfl rfl rfl (by decide) (.inl rfl)
  obtain rfl : misnamed.waitHolds (.compute 0 0) (.arrive 0 1) = r := Host.Outcome.next.inj answers
  rw [misnamed_waits_on] at ended
  exact absurd ended (by decide)

end Sys2Proof.Proofs

end

/-! Bytes and elements of vectors and of numbers read from a scratchpad (R5, R142). -/
section

namespace Sys2Proof.Proofs
open Sys2Proof.Machine Sys2Proof.Laws

theorem lanesOf_getElem? (w : Nat) : ∀ (n x : Nat) {i : Nat}, i < n → (lanesOf w n x)[i]? = some (x / 2 ^ (w * i) % 2 ^ w)
  | n + 1, x, 0, _ => by rw [lanesOf, List.getElem?_cons_zero, Nat.mul_zero, Nat.pow_zero, Nat.div_one]
  | n + 1, x, i + 1, small => by
    rw [lanesOf, List.getElem?_cons_succ, lanesOf_getElem? w n _ (Nat.lt_of_succ_lt_succ small), Nat.div_div_eq_div_mul, ← Nat.pow_add,
      Nat.mul_succ, Nat.add_comm w]

theorem vlanes_getElem? (w : Nat) (x : Vec) {i : Nat} (small : i < laneCount w) : (vlanes w x)[i]? = some (lane w x i) :=
  lanesOf_getElem? w _ _ small

/-- An element of a vector is the one that it was packed from. -/
theorem lane_packLanes {w : Nat} (xs : List Nat) {i : Nat} (pos : 0 < w) (inside : w * (i + 1) ≤ 4096) :
    lane w (BitVec.ofNat 4096 (packLanes w xs)) i = xs.getD i 0 % 2 ^ w := by
  refine Nat.eq_of_testBit_eq fun j => ?_
  rw [lane, Nat.testBit_mod_two_pow, Nat.testBit_mod_two_pow, Nat.testBit_div_two_pow, BitVec.testBit_toNat, BitVec.getLsbD_ofNat,
    testBit_packLanes pos]
  by_cases low : j < w
  · rw [Nat.mul_succ] at inside
    have place : (j + w * i) / w = i := by rw [Nat.add_mul_div_left _ _ pos, Nat.div_eq_of_lt low, Nat.zero_add]
    have rest : (j + w * i) % w = j := by rw [Nat.add_mul_mod_self_left, Nat.mod_eq_of_lt low]
    rw [place, rest, decide_eq_true (show j + w * i < 4096 by omega), Bool.true_and]
  · rw [decide_eq_false low, Bool.false_and, Bool.false_and]

theorem vbyte_eq (x : Vec) (j : Nat) : vbyte x j = BitVec.ofNat 8 (x.toNat / 256 ^ j) := by
  refine BitVec.eq_of_toNat_eq ?_
  rw [vbyte, lane, BitVec.toNat_ofNat, BitVec.toNat_ofNat, Nat.mod_mod, Nat.pow_mul]

/-- Merging takes a byte from the new vector where the predicate has its bit (R124). -/
theorem vbyte_mergeBytes (p : Pred) (old new : Vec) {j : Nat} (small : j < 512) :
    vbyte (mergeBytes p old new) j = if p.getLsbD j then vbyte new j else vbyte old j := by
  have bit : (governs 8 p)[j]? = some (p.getLsbD j) := by
    rw [governs, List.getElem?_map, List.getElem?_range (show j < laneCount 8 from small), Option.map_some, Nat.mul_one]
  have pair : ((vlanes 8 old).zip (vlanes 8 new))[j]? = some (lane 8 old j, lane 8 new j) := by
    rw [List.getElem?_zip_eq_some]
    exact ⟨vlanes_getElem? 8 old small, vlanes_getElem? 8 new small⟩
  rw [vbyte, mergeBytes, mergeLanes, lane_packLanes _ (by decide) (by omega), List.getD_eq_getElem?_getD, List.getElem?_zipWith, bit, pair]
  cases p.getLsbD j <;> exact BitVec.eq_of_toNat_eq (Nat.mod_mod _ _)

/-- A byte of a number is the one that it was read from. -/
theorem natOfBytes_byte : ∀ (bs : List (BitVec 8)) (j : Nat), BitVec.ofNat 8 (natOfBytes bs / 256 ^ j) = bs.getD j 0
  | [], j => by simp [natOfBytes]
  | b :: bs, 0 => by
    refine BitVec.eq_of_toNat_eq ?_
    have := b.isLt
    simp only [natOfBytes, Nat.pow_zero, Nat.div_one, BitVec.toNat_ofNat, List.getD_cons_zero]
    omega
  | b :: bs, j + 1 => by
    have tail : natOfBytes (b :: bs) / 256 = natOfBytes bs := by
      have := b.isLt
      rw [natOfBytes]
      omega
    rw [Nat.pow_succ', ← Nat.div_div_eq_div_mul, tail, natOfBytes_byte bs j, List.getD_cons_succ]

theorem scratchRead_byte {c : Core} (wf : Memory.wf c.scratch = true) (off : Nat) {n j : Nat} (small : j < n) :
    BitVec.ofNat 8 (c.scratchRead off n / 256 ^ j) = c.byte (off + j) := by
  rw [Core.scratchRead, memRead_eq wf, natOfBytes_byte]
  exact getD_map_range _ _ _ small

/-- A register as wide as the bytes read holds all of them. -/
theorem toNat_scratchRead {c : Core} (wf : Memory.wf c.scratch = true) (off n : Nat) {w : Nat} (wide : w = 8 * n) :
    (BitVec.ofNat w (c.scratchRead off n)).toNat = c.scratchRead off n := by
  rw [BitVec.toNat_ofNat, wide, Nat.pow_mul]
  exact Nat.mod_eq_of_lt (scratchRead_lt wf off n)

theorem vbyte_scratchRead {c : Core} (wf : Memory.wf c.scratch = true) (off : Nat) {j : Nat} (small : j < 512) :
    vbyte (BitVec.ofNat 4096 (c.scratchRead off 512)) j = c.byte (off + j) := by
  rw [vbyte_eq, toNat_scratchRead wf off 512 rfl, scratchRead_byte wf off small]

end Sys2Proof.Proofs

end


/-! O12 to O15, the words of slot L that keep to the scratchpad of their core, and those that fill the gather latch. -/
section

namespace Sys2Proof.Proofs
open Sys2Proof.Machine Sys2Proof.Laws

/-! ### Checks at issue (R121) -/

/-- The seven forms of a local offset: base register, offset, and access size. -/
def LocalForm (i : Instr) (a : Reg) (o : BitVec 8) (n : Nat) : Prop :=
  (∃ d w, i = .lds d a w o ∧ n = intTyBits w / 8) ∨ (∃ b z, i = .sts b a z o ∧ n = sizeBytes z) ∨ (∃ d p, i = .ldv d a p o ∧ n = 512) ∨
    (∃ b p, i = .stv b a p o ∧ n = 512) ∨ (∃ d z, i = .ldvb d a z o ∧ n = sizeBytes z) ∨ (∃ d, i = .ldpm d a o ∧ n = 64) ∨
    (∃ b, i = .stpm b a o ∧ n = 64)

theorem exec_localForm {i : Instr} {a : Reg} {o : BitVec 8} {n : Nat} (form : LocalForm i a o n) (s : State) :
    i.slot.getD 0 = 3 ∧ ∃ p f, exec i s = slotExec 3 i (localAccess (s.c.effective a o n) n p f) s := by
  rw [← localAddr_eq]
  obtain ⟨d, w, rfl, rfl⟩ | ⟨b, z, rfl, rfl⟩ | ⟨d, p, rfl, rfl⟩ | ⟨b, p, rfl, rfl⟩ | ⟨d, z, rfl, rfl⟩ | ⟨d, rfl, rfl⟩ | ⟨b, rfl, rfl⟩ := form <;>
    exact ⟨rfl, _, _, rfl⟩

theorem exec_localTrap {s : State} {i : Instr} {a : Reg} {o : BitVec 8} {n : Nat} {t : Trap} (issues : s.Issues i) (form : LocalForm i a o n)
    (bad : s.c.localTrap (s.c.effective a o n) n = some t) : exec i s = .next (s.trapNow t) := by
  obtain ⟨slot, p, f, runs⟩ := exec_localForm form s
  rw [runs]
  exact slotExec_trap issues slot (by rw [localAccess, bad])

/-- Settles O14: the checks in their order. -/
theorem localAccessTraps : Obligations.LocalAccessTraps := by
  intro s i a o n issues form ea
  refine ⟨fun odd => ?_, fun aligned beyond => ?_, fun aligned inside taken => ?_⟩ <;> refine exec_localTrap issues form ?_ <;>
    rw [Core.localTrap]
  · rw [if_pos odd]
  · rw [if_neg (not_not.mpr aligned), if_pos beyond]
  · rw [if_neg (not_not.mpr aligned), if_neg (Nat.not_lt.mpr inside), if_pos taken]

/-- A local access that nothing stops has its effect on the core. -/
theorem slotExec_local {s : State} {i : Instr} {ea n : Nat} {p : Core → Bool} {f : Core → Core} (issues : s.Issues i)
    (slot : i.slot.getD 0 = 3) (reaches : s.c.reaches ea n) (clean : p s.c = false) :
    slotExec 3 i (localAccess ea n p f) s = .next (s.after (f s.c)) :=
  slotExec_ok issues slot (localAccess_ok reaches clean)

/-! ### Loads (R123 to R127) -/

theorem loadedInt_eq (w : IntTy) (x : Nat) :
    loadedInt w x = if intTySigned w then (BitVec.ofNat (intTyBits w) x).signExtend 64 else BitVec.ofNat 64 x := by
  rw [loadedInt, sext64_eq (by cases w <;> decide)]

/-- An enabled line has an enabled byte. -/
theorem exists_enabled {p : Pred} {j : Nat} (enabled : lineEnabled p j = true) : ∃ i < 64, p.getLsbD (64 * j + i) = true := by
  by_contra none
  refine of_decide_eq_true enabled (Nat.eq_of_testBit_eq fun i => ?_)
  rw [bits, Nat.testBit_mod_two_pow, Nat.testBit_div_two_pow, Nat.zero_testBit, Bool.and_eq_false_imp]
  intro low
  refine Bool.eq_false_iff.mpr fun set => none ⟨i, of_decide_eq_true low, ?_⟩
  rwa [Nat.add_comm]

/-- The eight lines of an access meet no poison where no enabled byte does (R127). -/
theorem no_enabled_poison {c : Core} {p : Pred} {ea : Nat} (aligned : ea % 512 = 0)
    (clean : ∀ j < 512, p.getLsbD j = true → (ea + j) / 64 ∉ c.poison) :
    (List.range 8).any (fun j => lineEnabled p j && decide (ea / 64 + j ∈ c.poison)) = false := by
  rw [List.any_eq_false]
  intro j line met
  obtain ⟨enabled, poisoned⟩ := Bool.and_eq_true_iff.mp met
  obtain ⟨i, low, set⟩ := exists_enabled enabled
  have line := List.mem_range.mp line
  refine clean (64 * j + i) (by omega) set ?_
  rw [show (ea + (64 * j + i)) / 64 = ea / 64 + j by omega]
  exact of_decide_eq_true poisoned

theorem lane_replicate {z : Size} {x i : Nat} (fits : x < 256 ^ sizeBytes z) (small : i < 512 / sizeBytes z) :
    lane (8 * sizeBytes z) (BitVec.ofNat 4096 (packLanes (8 * sizeBytes z) (List.replicate (512 / sizeBytes z) x))) i = x := by
  rw [lane_packLanes _ (by cases z <;> decide) (by cases z <;> simp only [sizeBytes] at small ⊢ <;> omega), List.getD_replicate _ small,
    Nat.pow_mul]
  exact Nat.mod_eq_of_lt fits

/-- Settles O12: each form enters what it reads, LDV byte by byte and LDVB lane by lane. -/
theorem localLoadsDeliver : Obligations.LocalLoadsDeliver := by
  intro s d a p q w z o wf n m
  unfold exec execLds execLdv execLdvb execLdpm
  simp only [localAddr_eq]
  refine ⟨fun issues reaches clean => ?lds, fun issues reaches clean => ⟨_, slotExec_local issues rfl reaches ?unpoisoned, fun j small => ?ldv⟩,
    fun issues reaches clean => ⟨_, slotExec_local issues rfl reaches clean, fun i small => lane_replicate (scratchRead_lt wf _ _) small⟩,
    fun issues reaches clean => ?ldpm⟩
  case lds =>
    rw [slotExec_local issues rfl reaches clean, Core.enterS, loadedInt_eq]
    rfl
  case unpoisoned => exact no_enabled_poison reaches.1 clean
  case ldv => rw [vbyte_mergeBytes _ _ _ small, vbyte_scratchRead wf _ small]
  case ldpm =>
    rw [slotExec_local issues rfl reaches clean, Core.enterP, toNat_scratchRead wf _ 64 rfl]
    rfl

/-! ### Stores (R123, R124, R126) -/

theorem scratchPut_byte {c : Core} (wf : Memory.wf c.scratch = true) (off n v y : Nat) :
    (c.scratchPut off n v).byte y = if off ≤ y ∧ y < off + n then BitVec.ofNat 8 (v / 256 ^ (y - off)) else c.byte y := by
  rw [Core.byte, scratchPut_scratch, memGet_memPut wf]
  rfl

theorem scratchMasked_byte {c : Core} (wf : Memory.wf c.scratch = true) (off : Nat) (p : Pred) (v : Vec) (y : Nat) :
    (c.scratchMasked off p v).byte y = if off ≤ y ∧ y < off + 512 ∧ p.getLsbD (y - off) then vbyte v (y - off) else c.byte y := by
  by_cases none : p = 0
  · have same : c.scratchMasked off p v = c := if_pos none
    rw [same, if_neg]
    rintro ⟨-, -, set⟩
    simp [none] at set
  · obtain ⟨x, masked⟩ := scratchMasked_eq c off p v none
    rw [masked, Core.byte]
    dsimp only
    rw [memGet_memPow wf, show 2 ^ 9 = 512 from rfl]
    by_cases inside : off ≤ y ∧ y < off + 512
    · have small : y - off < 512 := by omega
      rw [if_pos inside, ← vbyte_eq, vbyte_mergeBytes _ _ _ small, vbyte_scratchRead wf _ small, Nat.add_sub_cancel' inside.1]
      simp only [inside, true_and]
    · rw [if_neg inside, if_neg fun h => inside ⟨h.1, h.2.1⟩]
      rfl

theorem scratchPut_frame (c : Core) (off n v : Nat) : c.scratchPut off n v = { c with
    scratch := (c.scratchPut off n v).scratch, poison := (c.scratchPut off n v).poison, wins := (c.scratchPut off n v).wins } := by
  obtain ⟨w, put⟩ := scratchWrite_eq c off (bytesOf n v)
  rw [Core.scratchPut, put]

theorem scratchMasked_frame (c : Core) (off : Nat) (p : Pred) (v : Vec) : c.scratchMasked off p v = { c with
    scratch := (c.scratchMasked off p v).scratch, poison := (c.scratchMasked off p v).poison, wins := (c.scratchMasked off p v).wins } := by
  by_cases none : p = 0
  · have same : c.scratchMasked off p v = c := if_pos none
    rw [same]
  · obtain ⟨w, masked⟩ := scratchMasked_eq c off p v none
    rw [masked]

/-- A local store whose effect is on the scratchpad, its poison and the marks of its windows alone. -/
theorem slotExec_localStore {s : State} {i : Instr} {ea n : Nat} {f : Core → Core} (issues : s.Issues i) (slot : i.slot.getD 0 = 3)
    (reaches : s.c.reaches ea n) (frame : f s.c = { s.c with scratch := (f s.c).scratch, poison := (f s.c).poison, wins := (f s.c).wins }) :
    slotExec 3 i (localAccess ea n (fun _ => false) f) s =
      .next (s.after { s.c with scratch := (f s.c).scratch, poison := (f s.c).poison, wins := (f s.c).wins }) := by
  rw [slotExec_local issues slot reaches rfl, ← frame]

/-- Settles O13: what the write of a number and the masked write leave, byte by byte. -/
theorem localStoresStore : Obligations.LocalStoresStore := by
  intro s b a p q z o wf stores
  unfold stores exec execSts execStv execStpm
  simp only [localAddr_eq, and_true]
  exact ⟨fun issues reaches => ⟨_, slotExec_localStore issues rfl reaches (scratchPut_frame ..), scratchPut_byte wf _ _ _⟩,
    fun issues reaches => ⟨_, slotExec_localStore issues rfl reaches (scratchMasked_frame ..), scratchMasked_byte wf _ _ _⟩,
    fun issues reaches => ⟨_, slotExec_localStore issues rfl reaches (scratchPut_frame ..), scratchPut_byte wf _ _ _⟩⟩

/-! ### The gather latch (R129) -/

/-- Settles O15: the work of both forms is the latch. -/
theorem gatherLatchTakesOperands : Obligations.GatherLatchTakesOperands := by
  intro s d a b p z
  unfold exec
  exact ⟨fun issues => ⟨_, slotExec_effect issues rfl rfl rfl, rfl, rfl, rfl, rfl, rfl, rfl, rfl, rfl, rfl⟩,
    fun issues => ⟨_, slotExec_effect issues rfl rfl rfl, rfl, rfl, rfl, rfl, rfl, rfl, rfl, rfl⟩⟩

end Sys2Proof.Proofs

end

/-! O17, a global store at issue. -/
section

namespace Sys2Proof.Proofs
open Sys2Proof.Machine Sys2Proof.Laws

/-! ### A store of the core that steps (R249, R254) -/

/-- The bytes that a store leaves pending. -/
def ownStore (s : State) (a : Access) (z : Xlat) : PStore :=
  ⟨s.ids, s.c.id, none, z.pa, bytesOf a.size a.data.toNat, z.label, false, s.writer s.c.id (.access a.age), false,
    s.writeCarries s.c.ord (osOf a.instr) a.age⟩

theorem core_touched (s : State) (l : List Cached) (hs : List Hint) : (touched s l hs).core s.c.id = { s.c with hints := hs } :=
  core_self (touched s l hs)

theorem setCore_touched (s : State) (l : List Cached) (hs : List Hint) {c : Core} (id : c.id = s.c.id) :
    (touched s l hs).setCore c = { touched s l hs with c := c } :=
  setCore_own (s := touched s l hs) id

theorem storeGlobal_lost {s : State} {a : Access} {z : Xlat} (fenced : s.fenced z.pa = true) (l : List Cached) (hs : List Hint) :
    (touched s l hs).storeGlobal s.c.id z (bytesOf a.size a.data.toNat) (osOf a.instr) a.age =
      { touched s l hs with c := { s.c with hints := hs, ord := { s.c.ord.lose a.age with lostOwn := true } } } := by
  rw [State.storeGlobal, State.storeAs, core_touched, if_pos (show (touched s l hs).fenced z.pa = true from fenced)]
  exact setCore_touched s l hs rfl

theorem storeGlobal_pends {s : State} {a : Access} {z : Xlat} (live : s.fenced z.pa = false) (l : List Cached) (hs : List Hint) :
    ∃ o, (touched s l hs).storeGlobal s.c.id z (bytesOf a.size a.data.toNat) (osOf a.instr) a.age =
      { touched s l hs with c := { s.c with hints := hs, ord := o }, stores := s.stores ++ [ownStore s a z], ids := s.ids + 1 } := by
  have writer : (touched s l hs).writer s.c.id (.access a.age) = s.writer s.c.id (.access a.age) := by
    unfold State.writer
    rw [core_touched, core_self]
  have live : ¬ (touched s l hs).fenced z.pa = true := Bool.eq_false_iff.mp live
  refine ⟨{ s.addOwn s.c.ord s.ids a.age with marks := insertNew (homeOf z.pa) s.c.ord.marks }, ?_⟩
  rw [State.storeGlobal, State.storeAs, if_neg live, core_touched, writer, State.countStore, setCore_touched s l hs (by rfl)]
  rfl

/-! ### The word (R132, R136) -/

theorem stgBody_trap {s : State} {a : Access} {t : Trap} (bad : globalTrap (BitVec.ofNat 64 a.addr) a.size = some t) :
    stgBody a s = .trap t := by
  rw [stgBody, bad]

/-- No access of a core is outstanding, waits to retire or stands in its side log. -/
structure Unburdened (c : Core) : Prop where
  ilk : c.ilk = []
  stq : c.stq = []
  log : c.log = []

theorem earlierDone_unburdened {s : State} (free : Unburdened s.c) (a : Access) : s.earlierDone s.c.id a [] s.c.ilk = some s := by
  have same : ({ s.c with ilk := [] } : Core) = s.c := by rw [← free.ilk]
  rw [free.ilk, State.earlierDone, core_self, same, setCore_own rfl]

section
variable {s : State} {a : Access} (good : globalTrap (BitVec.ofNat 64 a.addr) a.size = none) (free : Unburdened s.c)
  (room : s.counterFull s.c.id a = false)
include good free room

theorem stgBody_done {t : State} {v : Nat} (tried : s.tryGlobal s.c.id a = .done t v) : stgBody a s = .ok t := by
  have taken : qdeqPending s.c.ilk = false := by rw [free.ilk]; rfl
  simp only [stgBody, good, room, taken, earlierDone_unburdened free, free.stq, logOverlap_empty free.log, tried, List.isEmpty_nil,
    Bool.not_true, Bool.or_self, Bool.false_eq_true, if_false]

theorem stgBody_fault {e : Cause} (tried : s.tryGlobal s.c.id a = .fault e) : stgBody a s = .ok { s with c := { s.c with stq := [a] } } := by
  have taken : qdeqPending s.c.ilk = false := by rw [free.ilk]; rfl
  simp only [stgBody, good, room, taken, earlierDone_unburdened free, free.stq, logOverlap_empty free.log, tried, List.isEmpty_nil,
    List.nil_append, Bool.not_true, Bool.or_self, Bool.false_eq_true, if_false]

end

section
variable {s : State} {a : Access} (stg : IsStg a) (good : globalTrap (BitVec.ofNat 64 a.addr) a.size = none) (free : Unburdened s.c)
include stg good free

/-- A store whose address translates, with room in its fence counter, is performed. -/
theorem stgBody_translated {z : Xlat} (translated : s.translate s.c.party a.addr .write = .ok z)
    (room : s.counted s.c.id none (homeOf z.pa) < 65535) :
    ∃ l hs, stgBody a s = .ok ((touched s l hs).storeGlobal s.c.id z (bytesOf a.size a.data.toNat) (osOf a.instr) a.age) := by
  obtain ⟨l, hs, asTouched⟩ := remember_countHints_eq s s.c.party.ctx a.addr a.size
  have need := isStg_need stg
  obtain ⟨b, r, w, os, instr⟩ := stg
  refine ⟨l, hs, stgBody_done (v := 0) good free ?room ?tried⟩
  case room => simp only [State.counterFull, instr, core_self, need, translated, decide_eq_false (Nat.not_le.mpr room)]
  case tried =>
    simp only [State.tryGlobal, core_self, need, translated, asTouched, instr]
    rfl

/-- One whose address does not translate waits to retire into the side log (R136). -/
theorem stgBody_waits {e : Cause} (faults : s.translate s.c.party a.addr .write = .error e) :
    stgBody a s = .ok { s with c := { s.c with stq := [a] } } := by
  have faults : s.translate (s.core s.c.id).party a.addr a.need = .error e := by rw [core_self, isStg_need stg, faults]
  refine stgBody_fault good free ?_ (tryGlobal_fault faults)
  obtain ⟨b, r, w, os, instr⟩ := stg
  simp only [State.counterFull, instr, faults]

end

/-- Settles O17: the checks of the address, then by what the translation gives and whether the home is fenced. -/
theorem storeBecomesPending : Obligations.StoreBecomesPending := by
  intro s b a z os issues
  have addr : BitVec.ofNat 64 (s.c.rs a).toNat = s.c.rs a := by simp
  have stg : IsStg ⟨.stg b a z os, (s.c.rs a).toNat, s.c.rs b, 0, s.c.age⟩ := ⟨b, a, z, os, rfl⟩
  unfold exec execStg
  refine ⟨fun far => ⟨_, slotExec_trap issues rfl (stgBody_trap (addr ▸ globalTrap_far _ far))⟩,
    fun small odd => ⟨_, slotExec_trap issues rfl (stgBody_trap (addr ▸ globalTrap_misaligned small odd))⟩,
    fun small aligned idle empty unlogged room => ?_⟩
  have good := addr ▸ globalTrap_good small aligned
  cases translated : s.translate s.c.party (s.c.xn a) .write with
  | error e =>
    refine ⟨_, slotExec_ok issues rfl (stgBody_waits stg good ⟨idle, empty, unlogged⟩ translated), rfl, rfl, rfl, rfl, rfl, rfl, rfl, ?_, ?_⟩
    · exact fun _ h => nomatch h
    · exact fun _ _ => ⟨rfl, rfl⟩
  | ok x =>
    obtain ⟨l, hs, works⟩ := stgBody_translated stg good ⟨idle, empty, unlogged⟩ translated (room x translated)
    cases fenced : s.fenced x.pa with
    | true =>
      rw [storeGlobal_lost fenced] at works
      refine ⟨_, slotExec_ok issues rfl works, rfl, rfl, rfl, rfl, rfl, rfl, rfl, fun y same => ?_, fun _ h => nomatch h⟩
      cases same
      exact ⟨empty, by rw [if_pos fenced]; exact ⟨rfl, rfl, rfl⟩⟩
    | false =>
      obtain ⟨o, pends⟩ := storeGlobal_pends (a := ⟨.stg b a z os, (s.c.rs a).toNat, s.c.rs b, 0, s.c.age⟩) fenced l hs
      rw [pends] at works
      refine ⟨_, slotExec_ok issues rfl works, rfl, rfl, rfl, rfl, rfl, rfl, rfl, fun y same => ?_, fun _ h => nomatch h⟩
      cases same
      exact ⟨empty, by rw [if_neg (Bool.eq_false_iff.mp fenced)]; rfl⟩

end Sys2Proof.Proofs

end

/-! O37, the events by which matrix units, streaming reductions and gathers go on. -/
section

namespace Sys2Proof.Proofs
open Sys2Proof.Machine Sys2Proof.Laws

/-! ### Matrix units (R166, R184, R185) -/

section
variable {c : Core} {o : ArrayOp} (busy : c.array = some o)
include busy

theorem arrayEnd_frees (plain : o.isMiter = false) (past : o.total ≤ o.cyc) : c.arrayEnd.array = none := by
  simp only [Core.arrayEnd, busy, plain, Bool.false_or, decide_eq_false (Nat.not_lt.mpr past), Bool.false_eq_true, if_false]
  rfl

theorem unitPoison_array {x : Nat} (met : c.arrayPoison o = some x) :
    (c.unitPoison .array).array = none ∧ (c.unitPoison .array).due = c.due ++ [⟨.poisonConsumed, addrInfo x⟩] := by
  simp only [Core.unitPoison, busy, met]
  exact ⟨rfl, rfl⟩

end

theorem loaderEnd_frees {c : Core} {l : LoaderOp} (busy : c.loader = some l) (past : 64 ≤ l.cyc) : c.loaderEnd.loader = none := by
  have ended : ¬ l.cyc < if l.sq4 then 16 else 64 := by split <;> omega
  simp only [Core.loaderEnd, busy, if_neg ended]
  rfl

/-- A tile that MITER writes ends it where it holds a NaN or an infinity, and else its next phase begins (R184). -/
theorem miterWrite_cases (c : Core) (o : ArrayOp) (t dst : TileNo) (r : List (List Nat) × Flags) (next : ArrayOp) :
    ((c.miterWrite o t dst r next).array = none ∧ ∃ v, (c.miterWrite o t dst r next).due = c.due ++ [⟨.divergence, v⟩]) ∨
      (c.miterWrite o t dst r next).array = some next := by
  unfold Core.miterWrite
  dsimp only
  split
  · exact .inl ⟨rfl, _, rfl⟩
  · exact .inr rfl

theorem miterEnd_first {c : Core} {o : ArrayOp} (first : o.phase = 0) (t a : TileNo) (isqrt : Bool) :
    ((c.miterEnd o t a isqrt).array = none ∧ ∃ v, (c.miterEnd o t a isqrt).due = c.due ++ [⟨.divergence, v⟩]) ∨
      ∃ o', (c.miterEnd o t a isqrt).array = some o' ∧ o'.phase = 1 ∧ o'.cyc = 0 ∧ o'.iter = o.iter := by
  simp only [Core.miterEnd, first]
  obtain ended | next := miterWrite_cases c o t (workTile t a 0) _ _
  · exact .inl ended
  · exact .inr ⟨_, next, rfl, rfl, rfl⟩

theorem exec_miterPhaseEnd {s : State} {k : CoreId} {o : ArrayOp} {t a : TileNo} {isqrt : Bool} (busy : (s.core k).array = some o)
    (miter : o.instr = .miter t a isqrt) (past : o.total ≤ o.cyc) :
    ∃ x, exec (.miterPhaseEnd k) s = .next (s.setCore ((s.core k).miterEnd { o with resid := x } t a isqrt)) := by
  show ∃ x, execMiterPhaseEnd k s = _
  simp only [execMiterPhaseEnd, busy, miter, if_neg (Nat.not_lt.mpr past)]
  split
  · exact ⟨_, rfl⟩
  · exact ⟨o.resid, by rw [← miter]⟩

/-! ### Streaming reductions (R163) -/

theorem streamStep_counts {c : Core} {t : Stream} (more : t.done + 1 < t.count) (free : c.bankConflict (t.addr + 512 * t.done) 512 = false)
    (filled : c.needsFill (t.addr + 512 * t.done) 512 = false) (clean : c.scratchPoisoned (t.addr + 512 * t.done) 512 = false) :
    ∃ t', (c.streamStep t).stream = some t' ∧ t'.done = t.done + 1 ∧ t'.count = t.count := by
  have going : ¬ t.count ≤ t.done := by omega
  simp only [Core.streamStep, Core.streamEnd, if_neg going, free, filled, clean, if_pos more, Bool.false_eq_true, if_false]
  exact ⟨_, rfl, rfl, rfl⟩

theorem exec_vsredVectorRead {s : State} {k : CoreId} {t : Stream} (busy : (s.core k).stream = some t) (alone : (s.core k).gather = none)
    (sound : (s.core k).due = []) (unsaved : (s.core k).saving = none) (going : (s.core k).freeze = 0) :
    exec (.vsredVectorRead k) s = .next (s.setCore ((s.core k).streamStep t)) := by
  show execVsredVectorRead k s = _
  simp [execVsredVectorRead, busy, sound, unsaved, going, Core.gatherFirst, alone]

/-! ### Gathers and scatters (R128 to R131) -/

section
variable {s : State} {k : CoreId} {g : Gather} (more : g.next < g.count) (passes : s.elemCause k g (g.addr g.next) = none)
  (idle : (s.core k).ilk = []) (going : (s.core (caTarget k (g.addr g.next))).freeze = 0)
  (filled : (s.core (caTarget k (g.addr g.next))).needsFill (g.addr g.next % 2 ^ 20) (sizeBytes g.size) = false)
include more passes idle going filled

theorem gatherStep_load (load : g.load = true) :
    ∃ h, s.gatherStep k g = ({ s with heard := h } : State).setCore ((s.core k).gatherEnd { g with
      acc := setLane (8 * sizeBytes g.size) g.acc g.next
        ((s.core (caTarget k (g.addr g.next))).scratchRead (g.addr g.next % 2 ^ 20) (sizeBytes g.size))
      elem := g.next + 1 }) := by
  simp only [State.gatherStep, if_neg (Nat.not_le.mpr more), passes, idle, going, filled, load, List.any_nil, ne_eq, not_true_eq_false,
    Bool.false_eq_true, or_self, if_false, if_true]
  exact ⟨_, rfl⟩

theorem gatherStep_store (load : g.load = false) :
    ∃ l, s.gatherStep k g =
      let t := ({ s with carry := l } : State).setCore ((s.core (caTarget k (g.addr g.next))).scratchPut (g.addr g.next % 2 ^ 20)
        (sizeBytes g.size) (lane (8 * sizeBytes g.size) g.data g.next))
      t.setCore ((t.core k).gatherEnd { g with elem := g.next + 1 }) := by
  simp only [State.gatherStep, if_neg (Nat.not_le.mpr more), passes, idle, going, filled, load, List.any_nil, ne_eq, not_true_eq_false,
    Bool.false_eq_true, or_self, if_false]
  exact ⟨_, rfl⟩

end

theorem exec_gatherScatterElement {s : State} {k : CoreId} {g : Gather} (busy : (s.core k).gather = some g) (sound : (s.core k).due = [])
    (unsaved : (s.core k).saving = none) : exec (.gatherScatterElement k) s = .next (s.gatherStep k g) := by
  show execGatherScatterElement k s = _
  simp [execGatherScatterElement, busy, sound, unsaved]

/-- Settles O37, event by event. -/
theorem unitEventsGoOn : Obligations.UnitEventsGoOn := by
  intro s k o l x t g c
  refine ⟨fun busy plain past => ⟨_, rfl, arrayEnd_frees busy plain past⟩, fun busy past => ⟨_, rfl, loaderEnd_frees busy past⟩,
    fun busy met => ⟨_, rfl, unitPoison_array busy met⟩, ?miter, ?stream, ?gather⟩
  case miter =>
    rintro busy ⟨d, a, m, miter⟩ first past
    obtain ⟨r, ends⟩ := exec_miterPhaseEnd busy miter past
    exact ⟨_, ends, miterEnd_first (o := { o with resid := r }) first d a m⟩
  case stream =>
    intro busy alone sound unsaved going more free filled clean
    obtain ⟨t', counted⟩ := streamStep_counts more free filled clean
    exact ⟨_, t', exec_vsredVectorRead busy alone sound unsaved going, counted⟩
  case gather =>
    intro busy sound unsaved more passes idle n off target going filled
    rw [exec_gatherScatterElement busy sound unsaved]
    refine ⟨fun load => ?_, fun load => ?_⟩
    · obtain ⟨h, reads⟩ := gatherStep_load more passes idle going filled load
      exact ⟨{ s with heard := h }, congrArg Host.Outcome.next reads, rfl⟩
    · obtain ⟨l, writes⟩ := gatherStep_store more passes idle going filled load
      exact ⟨{ s with carry := l }, rfl, congrArg Host.Outcome.next writes⟩

end Sys2Proof.Proofs

end

/-! Vectors by elements: lists over the elements of a width, what they pack to, and their flags (R142, R143). -/
section

namespace Sys2Proof.Proofs
open Sys2Proof.Machine Sys2Proof.Laws

/-! ### Lists over the elements -/

theorem lanesOf_eq (w n x : Nat) : lanesOf w n x = (List.range n).map (fun i => x / 2 ^ (w * i) % 2 ^ w) := by
  induction n generalizing x with
  | zero => rfl
  | succ n ih =>
    rw [lanesOf, ih, List.range_succ_eq_map, List.map_cons, List.map_map, Nat.mul_zero, Nat.pow_zero, Nat.div_one]
    refine congrArg _ (List.map_congr_left fun i _ => ?_)
    rw [Function.comp_apply, Nat.div_div_eq_div_mul, ← Nat.pow_add, Nat.mul_succ, Nat.add_comm w]

theorem vlanes_eq (w : Nat) (x : Vec) : vlanes w x = (List.range (laneCount w)).map (lane w x) := lanesOf_eq ..

theorem zipWith_map_map {α β γ δ : Type} (f : β → γ → δ) (g : α → β) (h : α → γ) (l : List α) :
    List.zipWith f (l.map g) (l.map h) = l.map (fun i => f (g i) (h i)) := by rw [List.zipWith_map, List.zipWith_self]

theorem lane_lt (w : Nat) (x : Vec) (k : Nat) : lane w x k < 2 ^ w := Nat.mod_lt _ (Nat.two_pow_pos w)

theorem lane_mod (w : Nat) (x : Vec) (k : Nat) : lane w x k % 2 ^ w = lane w x k := Nat.mod_eq_of_lt (lane_lt w x k)

theorem mul_succ_le_of_lt_div {w k N : Nat} (small : k < N / w) : w * (k + 1) ≤ N :=
  (Nat.mul_le_mul_left w small).trans (Nat.mul_div_le N w)

theorem lane_packLanes_map {w n k : Nat} (f : Nat → Nat) (pos : 0 < w) (small : k < n) (inside : k < 4096 / w) :
    lane w (BitVec.ofNat 4096 (packLanes w ((List.range n).map f))) k = f k % 2 ^ w := by
  rw [lane_packLanes _ pos (mul_succ_le_of_lt_div inside), getD_map_range _ _ _ small]

/-- A merge takes the governed elements of the second list (R142). -/
theorem lane_mergeLanes {w k : Nat} (p : Pred) (old new : Nat → Nat) (pos : 0 < w) (small : k < 4096 / w) :
    lane w (mergeLanes w p ((List.range (laneCount w)).map old) ((List.range (laneCount w)).map new)) k =
      if p.getLsbD (k * (w / 8)) then new k % 2 ^ w else old k % 2 ^ w := by
  rw [mergeLanes, governs, List.zip_map', zipWith_map_map, laneCount, lane_packLanes_map _ pos small small]
  exact apply_ite (· % 2 ^ w) ..

/-! ### Flags (R143) -/

theorem getLsbD_noFlag (j : Nat) : (0 : Flags).getLsbD j = false := BitVec.getLsbD_zero

theorem getLsbD_foldl_or (j : Nat) : ∀ (l : List Flags) (f : Flags),
    (l.foldl (· ||| ·) f).getLsbD j = (f.getLsbD j || l.any (·.getLsbD j))
  | [], f => (Bool.or_false _).symm
  | g :: l, f => by rw [List.foldl_cons, getLsbD_foldl_or j l, BitVec.getLsbD_or, List.any_cons, Bool.or_assoc]

theorem flagsJoin_foldl (n : Nat) (on : Nat → Bool) (f : Nat → Flags) :
    flagsJoin (((List.range n).map (fun k => if on k then f k else 0)).foldl (· ||| ·) 0) n on f := by
  intro j _
  rw [getLsbD_foldl_or, getLsbD_noFlag, Bool.false_or, List.any_map, List.any_eq_true]
  refine exists_congr fun k => and_congr List.mem_range ?_
  rw [Function.comp_apply]
  cases on k <;> simp

theorem flagsJoin_laneFlags (n : Nat) (on : Nat → Bool) (r : Nat → Nat × Flags) :
    flagsJoin (laneFlags ((List.range n).map on) ((List.range n).map r)) n on (fun k => (r k).2) := by
  rw [laneFlags, zipWith_map_map]
  exact flagsJoin_foldl n on _

/-- The join of all the flags of a list. -/
theorem flagsJoin_foldl_all {α : Type} (n : Nat) (f : Nat → α) (fl : α → Flags) :
    flagsJoin (((List.range n).map f).foldl (fun g r => g ||| fl r) 0) n (fun _ => true) (fun k => fl (f k)) := by
  rw [← List.foldl_map (f := fl) (g := (· ||| ·)), List.map_map]
  exact flagsJoin_foldl n (fun _ => true) _

theorem flagsJoin_none {g : Flags} {n : Nat} {on : Nat → Bool} {f : Nat → Flags} (none : ∀ k < n, f k = 0)
    (join : flagsJoin g n on f) : g = 0 := by
  refine BitVec.eq_of_getLsbD_eq fun j small => ?_
  rw [getLsbD_noFlag, Bool.eq_false_iff]
  intro set
  obtain ⟨k, below, -, flag⟩ := (join j small).mp set
  rw [none k below, getLsbD_noFlag] at flag
  exact Bool.false_ne_true flag

/-! ### Words of slot V whose result is given by elements -/

section
variable {s : State} {i : Instr} {f : Core → Core} {lat : Nat} {d : Reg} {p : PReg} {w : Nat} (issues : s.Issues i) (slot : i.slot = some 4)
include issues slot

theorem slotExec_vSlot {t : State} (effect : s.after (f s.c) = t) : slotExec 4 i (onCore f) s = .next t :=
  effect ▸ slotExec_onCore issues (by rw [slot]; rfl)

theorem slotExec_enterLanes {r : Nat → Nat × Flags} (pos : 0 < w)
    (works : f s.c = s.c.enterLanes lat d p w ((List.range (laneCount w)).map r)) :
    ∃ (v : Vec) (g : Flags), slotExec 4 i (onCore f) s = .next (s.entered 4 lat (.vector d) v.toNat g) ∧
      (∀ k < 4096 / w, lane w v k = if (s.c.rp p).getLsbD (k * (w / 8)) then (r k).1 % 2 ^ w else lane w (s.c.rv d) k) ∧
      flagsJoin g (4096 / w) (fun k => (s.c.rp p).getLsbD (k * (w / 8))) (fun k => (r k).2) := by
  refine ⟨_, _, slotExec_vSlot issues slot (congrArg _ works), fun k small => ?_, flagsJoin_laneFlags _ _ _⟩
  rw [vlanes_eq, List.map_map, lane_mergeLanes _ _ _ pos small, lane_mod]
  rfl

/-- Elements without flags. -/
theorem slotExec_plainLanes {x : Nat → Nat} (pos : 0 < w) (fits : ∀ k, x k < 2 ^ w)
    (works : f s.c = s.c.enterLanes lat d p w (plainLanes ((List.range (laneCount w)).map x))) :
    ∃ v : Vec, slotExec 4 i (onCore f) s = .next (s.entered 4 lat (.vector d) v.toNat 0) ∧
      ∀ k < 4096 / w, lane w v k = if (s.c.rp p).getLsbD (k * (w / 8)) then x k else lane w (s.c.rv d) k := by
  rw [plainLanes, List.map_map] at works
  obtain ⟨v, g, enters, lanes, flags⟩ := slotExec_enterLanes issues slot pos works
  rw [flagsJoin_none (fun _ _ => rfl) flags] at enters
  exact ⟨v, enters, fun k small => by rw [lanes k small, Function.comp_apply, Nat.mod_eq_of_lt (fits k)]⟩

end

end Sys2Proof.Proofs

end

/-! O19, the integer forms of slot V (R145). -/
section

namespace Sys2Proof.Proofs
open Sys2Proof.Machine Sys2Proof.Laws

/-! ### Numbers modulo 2^w -/

theorem intTyBits_pos (t : IntTy) : 0 < intTyBits t := by cases t <;> decide

section
variable {w x y : Nat}

theorem natCast_mod_two_pow (n w : Nat) : ((n % 2 ^ w : Nat) : Int) = n % 2 ^ w := by rw [Int.natCast_mod, Nat.cast_pow, Nat.cast_ofNat]

theorem intBits_cast (w : Nat) (z : Int) : (intBits w z : Int) = z % 2 ^ w := by
  rw [intBits, Int.toNat_of_nonneg (Int.emod_nonneg _ (by positivity)), Nat.cast_pow, Nat.cast_ofNat]

theorem intValue_typed (t : IntTy) (small : x < 2 ^ intTyBits t) : intValue (intTySigned t) (intTyBits t) x = typedLane t x := by
  rw [typedLane]
  cases intTySigned t with
  | true => exact intValue_signed small
  | false => exact congrArg Nat.cast (Nat.mod_eq_of_lt small)

theorem typedLane_mod (t : IntTy) (small : x < 2 ^ intTyBits t) : typedLane t x % 2 ^ intTyBits t = x := by
  have whole : (x : Int) % 2 ^ intTyBits t = x := by rw [← natCast_mod_two_pow, Nat.mod_eq_of_lt small]
  rw [typedLane, signedLane]
  split
  · split
    · rw [Int.sub_emod_right, whole]
    · exact whole
  · exact whole

theorem intMinMax_typed_min (t : IntTy) (hx : x < 2 ^ intTyBits t) (hy : y < 2 ^ intTyBits t) :
    intMinMax (intTySigned t) (intTyBits t) false x y = if typedLane t y < typedLane t x then y else x := by
  unfold typedLane
  cases intTySigned t with
  | true => exact intMinMax_signed_min hx hy
  | false => simpa using intMinMax_unsigned_min hx hy

theorem intMinMax_typed_max (t : IntTy) (hx : x < 2 ^ intTyBits t) (hy : y < 2 ^ intTyBits t) :
    intMinMax (intTySigned t) (intTyBits t) true x y = if typedLane t x < typedLane t y then y else x := by
  unfold typedLane
  cases intTySigned t with
  | true => exact intMinMax_signed_max hx hy
  | false => simpa using intMinMax_unsigned_max hx hy

end

/-- The lesser of two typed elements has the pattern that the model picks. -/
theorem intMinMax_min (t : IntTy) {x y : Nat} (hx : x < 2 ^ intTyBits t) (hy : y < 2 ^ intTyBits t) :
    (intMinMax (intTySigned t) (intTyBits t) false x y : Int) = Min.min (typedLane t x) (typedLane t y) % 2 ^ intTyBits t := by
  rw [intMinMax_typed_min t hx hy, min_def_lt]
  rcases lt_trichotomy (typedLane t x) (typedLane t y) with less | same | more
  · rw [if_neg less.not_gt, if_pos less, typedLane_mod t hx]
  · rw [if_neg same.not_gt, if_neg same.not_lt, ← same, typedLane_mod t hx]
  · rw [if_pos more, if_neg more.not_gt, typedLane_mod t hy]

/-- The greater of two typed elements has the pattern that the model picks. -/
theorem intMinMax_max (t : IntTy) {x y : Nat} (hx : x < 2 ^ intTyBits t) (hy : y < 2 ^ intTyBits t) :
    (intMinMax (intTySigned t) (intTyBits t) true x y : Int) = Max.max (typedLane t x) (typedLane t y) % 2 ^ intTyBits t := by
  rw [intMinMax_typed_max t hx hy, max_def_lt]
  split
  · exact (typedLane_mod t hy).symm
  · exact (typedLane_mod t hx).symm

/-! ### The table of R145 -/

/-- The outcome enters one pending write of vd whose governed elements are a table's numbers modulo 2^w, of the old, first and second elements. -/
def EntersTable (s : State) (out : Host.Outcome State Fault Refusal) (d a b : Reg) (p : PReg) (t : IntTy) (f : Nat → Nat → Nat → Int) : Prop :=
  ∃ v : Vec, out = .next (s.entered 4 2 (.vector d) v.toNat 0) ∧
    ∀ k < 4096 / intTyBits t,
      ((s.c.rp p).getLsbD (k * (intTyBits t / 8)) = true →
        (lane (intTyBits t) v k : Int) =
          f (lane (intTyBits t) (s.c.rv d) k) (lane (intTyBits t) (s.c.rv a) k) (lane (intTyBits t) (s.c.rv b) k) % 2 ^ intTyBits t) ∧
      ((s.c.rp p).getLsbD (k * (intTyBits t / 8)) = false → lane (intTyBits t) v k = lane (intTyBits t) (s.c.rv d) k)

/-- On elements of w bits the model's natural numbers and the table's integers agree modulo 2^w. -/
def AgreesMod (w : Nat) (g : Nat → Nat → Nat → Nat) (f : Nat → Nat → Nat → Int) : Prop :=
  ∀ z x y, x < 2 ^ w → y < 2 ^ w → (g z x y : Int) % 2 ^ w = f z x y % 2 ^ w

section
variable {s : State} {i : Instr} {d a b : Reg} {p : PReg} {t : IntTy} {f : Nat → Nat → Nat → Int} (issues : s.Issues i) (slot : i.slot = some 4)
include issues slot

theorem slotExec_table {h : Core → Core} {g : Nat → Nat → Nat → Nat} (agrees : AgreesMod (intTyBits t) g f)
    (works : h s.c = s.c.enterLanes 2 d p (intTyBits t) (plainLanes ((List.range (laneCount (intTyBits t))).map fun k =>
      g (lane (intTyBits t) (s.c.rv d) k) (lane (intTyBits t) (s.c.rv a) k) (lane (intTyBits t) (s.c.rv b) k) % 2 ^ intTyBits t))) :
    EntersTable s (slotExec 4 i (onCore h) s) d a b p t f := by
  obtain ⟨v, enters, lanes⟩ := slotExec_plainLanes issues slot (intTyBits_pos t) (fun _ => Nat.mod_lt _ (Nat.two_pow_pos _)) works
  refine ⟨v, enters, fun k small => ⟨fun on => ?_, fun off => ?_⟩⟩
  · rw [lanes k small, if_pos on, natCast_mod_two_pow, agrees _ _ _ (lane_lt ..) (lane_lt ..)]
  · rw [lanes k small, if_neg (Bool.eq_false_iff.mp off)]

theorem slotExec_lanes2 {g : Nat → Nat → Nat} (agrees : AgreesMod (intTyBits t) (fun _ => g) f) :
    EntersTable s (slotExec 4 i (onCore fun c => c.lanes2 t d a b p g) s) d a b p t f :=
  slotExec_table issues slot agrees (by rw [Core.lanes2, vlanes_eq, vlanes_eq, zipWith_map_map])

theorem slotExec_lanes1 {g : Nat → Nat} (agrees : AgreesMod (intTyBits t) (fun _ x _ => g x) f) :
    EntersTable s (slotExec 4 i (onCore fun c => c.lanes1 t d a p g) s) d a a p t f :=
  slotExec_table issues slot agrees (by rw [Core.lanes1, vlanes_eq, List.map_map]; rfl)

theorem slotExec_lanes3 {g : Nat → Nat → Nat → Nat} (agrees : AgreesMod (intTyBits t) g f) :
    EntersTable s (slotExec 4 i (onCore fun c => c.enterLanes 2 d p (intTyBits t) (plainLanes (List.zipWith
      (fun z xy => g z xy.1 xy.2 % 2 ^ intTyBits t) (vlanes (intTyBits t) (c.rv d))
        ((vlanes (intTyBits t) (c.rv a)).zip (vlanes (intTyBits t) (c.rv b)))))) s) d a b p t f :=
  slotExec_table issues slot agrees (by rw [vlanes_eq, vlanes_eq, vlanes_eq, List.zip_map', zipWith_map_map])

end

section
variable {w x y : Nat}

theorem sub_mod_two_pow (hy : y < 2 ^ w) : ((x + 2 ^ w - y : Nat) : Int) % 2 ^ w = (x - y) % 2 ^ w := by
  have cast : ((x + 2 ^ w - y : Nat) : Int) = 2 ^ w + (x - y) := by
    rw [Nat.cast_sub (by omega)]
    push_cast
    ring
  rw [cast, Int.add_emod_left]

theorem neg_mod_two_pow (hx : x < 2 ^ w) : ((2 ^ w - x : Nat) : Int) % 2 ^ w = (0 - x) % 2 ^ w := by
  simpa using sub_mod_two_pow (x := 0) hx

theorem intBits_mod (w : Nat) (z : Int) : (intBits w z : Int) % 2 ^ w = z % 2 ^ w := by rw [intBits_cast, Int.emod_emod]

end

theorem agreesMod_cast (w : Nat) (g : Nat → Nat → Nat → Nat) : AgreesMod w g (fun z x y => g z x y) := fun _ _ _ _ _ => rfl

theorem agreesMod_mulHigh (t : IntTy) :
    AgreesMod (intTyBits t) (fun _ => mulHigh (intTySigned t) (intTyBits t)) (fun _ x y => typedLane t x * typedLane t y / 2 ^ intTyBits t) := by
  intro _ x y hx hy
  simp only [mulHigh, intBits_mod, intValue_typed t hx, intValue_typed t hy, Nat.cast_pow, Nat.cast_ofNat]

theorem agreesMod_shra (w : Nat) :
    AgreesMod w (fun _ x y => intBits w (intValue true w x / ((2 ^ (y % w) : Nat) : Int))) (fun _ x y => signedLane w x / 2 ^ (y % w)) := by
  intro _ x y hx _
  rw [intBits_mod, intValue_signed hx, Nat.cast_pow, Nat.cast_ofNat]

theorem agreesMod_min (t : IntTy) : AgreesMod (intTyBits t) (fun _ => intMinMax (intTySigned t) (intTyBits t) false)
    (fun _ x y => Min.min (typedLane t x) (typedLane t y)) := fun _ _ _ hx hy => by rw [intMinMax_min t hx hy, Int.emod_emod]

theorem agreesMod_max (t : IntTy) : AgreesMod (intTyBits t) (fun _ => intMinMax (intTySigned t) (intTyBits t) true)
    (fun _ x y => Max.max (typedLane t x) (typedLane t y)) := fun _ _ _ hx hy => by rw [intMinMax_max t hx hy, Int.emod_emod]

theorem agreesMod_abs (w : Nat) : AgreesMod w (fun _ x _ => (intValue true w x).natAbs) (fun _ x _ => (signedLane w x).natAbs) :=
  fun _ _ _ hx _ => by simp only [intValue_signed hx]

/-- Settles O19, row by row of the table: the model's element agrees with the table's number modulo 2^w. -/
theorem vectorIntegerLanes : Obligations.VectorIntegerLanes := by
  intro s i d a b p t f table issues
  show EntersTable s (exec i s) d a b p t f
  cases i with
  | vadd => cases table; exact slotExec_lanes2 issues rfl (agreesMod_cast _ fun _ x y => x + y)
  | vsub => cases table; exact slotExec_lanes2 issues rfl fun _ _ _ _ hy => sub_mod_two_pow hy
  | vmul => cases table; exact slotExec_lanes2 issues rfl fun _ x y _ _ => by rw [Nat.cast_mul]
  | vmulhi => cases table; exact slotExec_lanes2 issues rfl (agreesMod_mulHigh t)
  | vmad => cases table; exact slotExec_lanes3 (g := fun z x y => z + x * y) issues rfl fun z x y _ _ => by rw [Nat.cast_add, Nat.cast_mul]
  | vand | vor | vxor => cases table; exact slotExec_lanes2 issues rfl (agreesMod_cast _ _)
  | vshl => cases table; exact slotExec_lanes2 issues rfl fun _ x y _ _ => by push_cast; rfl
  | vshrl => cases table; exact slotExec_lanes2 issues rfl fun _ x y _ _ => by push_cast; rfl
  | vshra => cases table; exact slotExec_lanes2 issues rfl (agreesMod_shra _)
  | vmin => cases table; exact slotExec_lanes2 issues rfl (agreesMod_min t)
  | vmax => cases table; exact slotExec_lanes2 issues rfl (agreesMod_max t)
  | vabs => cases table; exact slotExec_lanes1 issues rfl (agreesMod_abs _)
  | vneg => cases table; exact slotExec_lanes1 issues rfl fun _ _ _ hx _ => neg_mod_two_pow hx
  | _ => cases table

end Sys2Proof.Proofs

end

/-! Bits of numbers, and elements put into vectors (R4, R142). -/
section

namespace Sys2Proof.Proofs
open Sys2Proof.Machine Sys2Proof.Laws

theorem bits_mod_two_pow {v lo n a : Nat} (inside : lo + n ≤ a) : bits (v % 2 ^ a) lo n = bits v lo n := by
  refine Nat.eq_of_testBit_eq fun j => ?_
  rw [bits, bits, Nat.testBit_mod_two_pow, Nat.testBit_mod_two_pow, Nat.testBit_div_two_pow, Nat.testBit_div_two_pow, Nat.testBit_mod_two_pow]
  by_cases low : j < n
  · rw [decide_eq_true (show j + lo < a by omega), Bool.true_and]
  · rw [decide_eq_false low, Bool.false_and, Bool.false_and]

theorem bits_add_low {x y lo n a : Nat} (inside : lo + n ≤ a) : bits (x + 2 ^ a * y) lo n = bits x lo n := by
  rw [← bits_mod_two_pow inside, Nat.add_mul_mod_self_left, bits_mod_two_pow inside]

theorem bits_div (v a lo n : Nat) : bits (v / 2 ^ a) lo n = bits v (a + lo) n := by rw [bits, bits, Nat.div_div_eq_div_mul, Nat.pow_add]

theorem bits_add_high {x y a : Nat} (small : x < 2 ^ a) (lo n : Nat) : bits (x + 2 ^ a * y) (a + lo) n = bits y lo n := by
  rw [← bits_div, Nat.add_mul_div_left _ _ (Nat.two_pow_pos a), Nat.div_eq_of_lt small, Nat.zero_add]

theorem bits_above {x lo : Nat} (small : x < 2 ^ lo) (n : Nat) : bits x lo n = 0 := by rw [bits, Nat.div_eq_of_lt small, Nat.zero_mod]

theorem bits_ofNat {N lo n : Nat} (v : Nat) (inside : lo + n ≤ N) : bits (BitVec.ofNat N v).toNat lo n = bits v lo n := by
  rw [BitVec.toNat_ofNat, bits_mod_two_pow inside]

theorem lane_ofNat {w k : Nat} (v : Nat) (inside : w * (k + 1) ≤ 4096) : lane w (BitVec.ofNat 4096 v) k = bits v (w * k) w :=
  bits_ofNat v inside

theorem setBits_eq (v lo n x : Nat) : setBits v lo n x = v % 2 ^ lo + 2 ^ lo * (x % 2 ^ n + 2 ^ n * (v / 2 ^ (lo + n))) := by
  have split : v = v % 2 ^ lo + 2 ^ lo * (v / 2 ^ lo % 2 ^ n + 2 ^ n * (v / 2 ^ (lo + n))) := by
    rw [Nat.pow_add, ← Nat.div_div_eq_div_mul, Nat.mod_add_div, Nat.mod_add_div]
  rw [setBits, bits]
  generalize v / 2 ^ lo % 2 ^ n = mid at *
  generalize v / 2 ^ (lo + n) = high at *
  generalize v % 2 ^ lo = low at *
  subst split
  rw [Nat.mul_add, Nat.mul_add, Nat.mul_comm mid, Nat.mul_comm (x % _)]
  omega

theorem lane_setLane {w k i : Nat} (x : Vec) (v : Nat) (small : k < 4096 / w) :
    lane w (setLane w x i v) k = if k = i then v % 2 ^ w else lane w x k := by
  rw [setLane, lane_ofNat _ (mul_succ_le_of_lt_div small), setBits_eq]
  have low := Nat.mod_lt x.toNat (Nat.two_pow_pos (w * i))
  rcases lt_trichotomy k i with before | rfl | after
  · have inside : w * k + w ≤ w * i := Nat.mul_le_mul_left w before
    rw [if_neg before.ne, bits_add_low inside, bits_mod_two_pow inside]
    rfl
  · rw [if_pos rfl]
    refine (bits_add_high low 0 w).trans ?_
    rw [bits_add_low (Nat.zero_add w).le, bits, Nat.pow_zero, Nat.div_one, Nat.mod_mod]
  · obtain ⟨j, rfl⟩ := Nat.exists_eq_add_of_lt after
    have place : w * (i + j + 1) = w * i + (w + w * j) := by ring
    rw [if_neg (by omega), lane, place, bits_add_high low, bits_add_high (Nat.mod_lt _ (Nat.two_pow_pos w)), bits_div, Nat.add_assoc]
    rfl

end Sys2Proof.Proofs

end

/-! O20, moves, selects and compares of integer elements (R146, R147, R157, R158). -/
section

namespace Sys2Proof.Proofs
open Sys2Proof.Machine Sys2Proof.Laws

theorem eight_le_intTyBits (t : IntTy) : 8 ≤ intTyBits t := by cases t <;> decide

/-- Every byte of a vector lies in an element. -/
theorem byteElement_lt {w j : Nat} (width : w = 8 ∨ w = 16 ∨ w = 32 ∨ w = 64) (small : j < 512) : j / (w / 8) < laneCount w := by
  obtain rfl | rfl | rfl | rfl := width <;> simp only [laneCount] <;> omega

theorem intTyBits_cases (t : IntTy) : intTyBits t = 8 ∨ intTyBits t = 16 ∨ intTyBits t = 32 ∨ intTyBits t = 64 := by cases t <;> decide

theorem extendInt_eq (t : IntTy) {x : Nat} (small : x < 2 ^ intTyBits t) : extendInt t x = BitVec.ofInt 64 (typedLane t x) := by
  rw [extendInt, typedLane]
  cases intTySigned t with
  | true => exact congrArg (BitVec.ofInt 64) (intValue_signed small)
  | false => exact (BitVec.ofInt_natCast 64 x).symm

/-- The elements that a list of governing bits keeps. -/
theorem filterMap_zip_map {α β : Type} (on : α → Bool) (x : α → β) (l : List α) :
    ((l.map on).zip (l.map x)).filterMap (fun e => if e.1 then some e.2 else none) = (l.filter on).map x := by
  rw [List.zip_map']
  induction l with
  | nil => rfl
  | cons i l ih =>
    rw [List.map_cons, List.filterMap_cons, ih, List.filter_cons]
    cases on i <;> rfl

theorem getD_map_lanes_mod (w : Nat) (x : Vec) (l : List Nat) (k : Nat) : (l.map (lane w x)).getD k 0 % 2 ^ w = (l.map (lane w x)).getD k 0 := by
  rw [List.getD_eq_getElem?_getD, List.getElem?_map]
  cases l[k]? with
  | none => exact Nat.zero_mod _
  | some i => exact lane_mod w x i

/-- Settles O20, form by form. -/
theorem vectorMovesAndCompares : Obligations.VectorMovesAndCompares := by
  intro s d a b p q cc t w n on x gives
  have pos : 0 < w := intTyBits_pos t
  unfold gives exec
  refine ⟨fun issues => ?vsel, fun issues => ?vcmp, fun issues => ?vperm, fun issues => ?vbcst, fun issues => ?viota, fun issues => ?vcmpr,
    fun issues => ?toElement, fun issues => ?toScalar⟩
  case vsel =>
    refine ⟨_, slotExec_vSlot issues rfl rfl, fun k small => ?_⟩
    rw [vlanes_eq, vlanes_eq, lane_mergeLanes _ _ _ pos small, lane_mod, lane_mod]
  case vcmp =>
    refine ⟨_, slotExec_vSlot issues rfl rfl, fun j small => ?_⟩
    rw [getLsbD_spreadBits (eight_le_intTyBits t) _ small, vlanes_eq, vlanes_eq, zipWith_map_map,
      getD_map_range _ _ _ (byteElement_lt (intTyBits_cases t) small)]
  case vperm => exact slotExec_plainLanes issues rfl pos (fun _ => lane_lt ..) (by simp only [vlanes_eq, List.map_map]; rfl)
  case vbcst => exact slotExec_plainLanes issues rfl pos (fun _ => Nat.mod_lt _ (Nat.two_pow_pos w)) (by rw [List.map_const', List.length_range]; rfl)
  case viota => exact slotExec_plainLanes issues rfl pos (fun _ => Nat.mod_lt _ (Nat.two_pow_pos w)) rfl
  case vcmpr =>
    refine ⟨_, slotExec_vSlot issues rfl rfl, fun k small => ?_⟩
    rw [vlanes_eq, governs, filterMap_zip_map, lane_packLanes _ pos (mul_succ_le_of_lt_div small), getD_map_lanes_mod]
    rfl
  case toElement => exact ⟨_, slotExec_vSlot issues rfl rfl, fun k small => lane_setLane _ _ small⟩
  case toScalar =>
    refine slotExec_vSlot issues rfl ?_
    rw [if_neg Bool.false_ne_true, extendInt_eq t (lane_lt ..)]
    rfl

end Sys2Proof.Proofs

end

/-! O21, the floating-point forms of slot V by elements (R143, R147, R148). -/
section

namespace Sys2Proof.Proofs
open Sys2Proof.Machine Sys2Proof.Laws

theorem fpWidth_cases (t : FpTy) :
    (fpFmt t).width = 8 ∨ (fpFmt t).width = 16 ∨ (fpFmt t).width = 32 ∨ (fpFmt t).width = 64 := by cases t <;> decide

theorem fpWidth_pos (t : FpTy) : 0 < (fpFmt t).width := by cases t <;> decide

theorem eight_le_fpWidth (t : FpTy) : 8 ≤ (fpFmt t).width := by cases t <;> decide

/-- The outcome enters one pending write of vd, governed element by governed element the result of an operation on the old, first and second
elements, with the flags of these operations. -/
def EntersFloat (s : State) (out : Host.Outcome State Fault Refusal) (d a b : Reg) (p : PReg) (t : FpTy) (lat : Nat)
    (f : Fmt → RndCtl → Nat → Nat → Nat → Nat × Flags) : Prop :=
  let w := (fpFmt t).width
  let on (k : Nat) : Bool := (s.c.rp p).getLsbD (k * (w / 8))
  let r (k : Nat) : Nat × Flags := f (fpFmt t) s.c.rnd (lane w (s.c.rv d) k) (lane w (s.c.rv a) k) (lane w (s.c.rv b) k)
  ∃ (v : Vec) (g : Flags), out = .next (s.entered 4 lat (.vector d) v.toNat g) ∧
    (∀ k < 4096 / w, (on k = true → lane w v k = (r k).1 % 2 ^ w) ∧ (on k = false → lane w v k = lane w (s.c.rv d) k)) ∧
    flagsJoin g (4096 / w) on (fun k => (r k).2)

section
variable {s : State} {i : Instr} {d a b : Reg} {p : PReg} {t : FpTy} {lat : Nat} (issues : s.Issues i) (slot : i.slot = some 4)
include issues slot

theorem slotExec_float {h : Core → Core} {f : Fmt → RndCtl → Nat → Nat → Nat → Nat × Flags}
    (works : h s.c = s.c.enterLanes lat d p (fpFmt t).width ((List.range (laneCount (fpFmt t).width)).map fun k =>
      f (fpFmt t) s.c.rnd (lane (fpFmt t).width (s.c.rv d) k) (lane (fpFmt t).width (s.c.rv a) k) (lane (fpFmt t).width (s.c.rv b) k))) :
    EntersFloat s (slotExec 4 i (onCore h) s) d a b p t lat f := by
  obtain ⟨v, g, enters, lanes, flags⟩ := slotExec_enterLanes issues slot (fpWidth_pos t) works
  refine ⟨v, g, enters, fun k small => ⟨fun on => ?_, fun off => ?_⟩, flags⟩
  · rw [lanes k small, if_pos on]
  · rw [lanes k small, if_neg (Bool.eq_false_iff.mp off)]

theorem slotExec_flanes2 {g : Fmt → RndCtl → Nat → Nat → Nat × Flags} :
    EntersFloat s (slotExec 4 i (onCore fun c => c.flanes2 lat t d a b p g) s) d a b p t lat (fun f r _ => g f r) :=
  slotExec_float issues slot (by rw [Core.flanes2, vlanes_eq, vlanes_eq, zipWith_map_map])

theorem slotExec_flanes1 {g : Fmt → RndCtl → Nat → Nat × Flags} :
    EntersFloat s (slotExec 4 i (onCore fun c => c.flanes1 lat t d a p g) s) d a a p t lat (fun f r _ x _ => g f r x) :=
  slotExec_float issues slot (by rw [Core.flanes1, vlanes_eq, List.map_map]; rfl)

theorem slotExec_ffma :
    EntersFloat s (slotExec 4 i (onCore fun c => c.enterLanes lat d p (fpFmt t).width (List.zipWith
      (fun z xy => fpFma (fpFmt t) c.rnd xy.1 xy.2 z) (vlanes (fpFmt t).width (c.rv d))
        ((vlanes (fpFmt t).width (c.rv a)).zip (vlanes (fpFmt t).width (c.rv b))))) s) d a b p t lat (fun f r z x y => fpFma f r x y z) :=
  slotExec_float issues slot (by rw [vlanes_eq, vlanes_eq, vlanes_eq, List.zip_map', zipWith_map_map])

end

theorem vecFloatResult_enters {s : State} {i : Instr} {d a b : Reg} {p : PReg} {t : FpTy} {lat : Nat}
    {f : Fmt → RndCtl → Nat → Nat → Nat → Nat × Flags} (table : vecFloatResult i = some (d, a, b, p, t, lat, f)) (issues : s.Issues i) :
    EntersFloat s (exec i s) d a b p t lat f := by
  cases i with
  | vfadd | vfsub | vfmul | vfdiv | vfmin | vfmax => cases table; exact slotExec_flanes2 issues rfl
  | vfsqrt | vfrcp | vfrsq | vfexp2 | vflog2 => cases table; exact slotExec_flanes1 issues rfl
  | vffma => cases table; exact slotExec_ffma issues rfl
  | _ => cases table

/-- Settles O21: the table of forms by elements, and the compare. -/
theorem vectorFloatLanes : Obligations.VectorFloatLanes := by
  refine ⟨fun s i d a b p t lat f table issues => vecFloatResult_enters table issues, fun s q cc a b t issues => ?_⟩
  unfold exec
  refine ⟨_, _, slotExec_vSlot issues rfl rfl, fun j small => ?_, ?_⟩
  · rw [getLsbD_spreadBits (eight_le_fpWidth t) _ small, vlanes_eq, vlanes_eq, zipWith_map_map, List.map_map,
      getD_map_range _ _ _ (byteElement_lt (fpWidth_cases t) small)]
    rfl
  · rw [vlanes_eq, vlanes_eq, zipWith_map_map]
    exact flagsJoin_foldl_all _ _ _

end Sys2Proof.Proofs

end

/-! Reductions and scans of slot V (R59, R60, R155, R156): with an associative operation without flags the tree and the scan fold the governed
elements from left to right. -/
section

namespace Sys2Proof.Proofs
open Sys2Proof.Machine Sys2Proof.Laws

theorem redNode_none (op : Nat → Nat → Nat × Flags) (x : RedVal) : redNode op x none = x := by cases x <;> rfl

theorem noFlag_or (g : Flags) : 0 ||| g = g := BitVec.zero_or

theorem redInputs_eq (w : Nat) (p : Pred) (x : Vec) : redInputs (governs w p) (vlanes w x) =
    (List.range (laneCount w)).map (fun k => if p.getLsbD (k * (w / 8)) then some (lane w x k, 0) else none) := by
  rw [redInputs, governs, vlanes_eq, zipWith_map_map]

theorem scanIncl_length (op : Nat → Nat → Nat × Flags) : ∀ (xs : List RedVal) (bs : List (Nat × RedVal)),
    (scanIncl op bs xs).length = xs.length
  | [], _ => rfl
  | _ :: xs, _ => congrArg Nat.succ (scanIncl_length op xs _)

/-! ### Trees and scans as folds -/

/-- The fold of inputs from left to right. -/
def redFold (op : Nat → Nat → Nat × Flags) (x : RedVal) (xs : List RedVal) : RedVal := xs.foldl (redNode op) x

/-- The blocks of a scan, combined from the longest to the shortest. -/
def blocksFold (op : Nat → Nat → Nat × Flags) (bs : List (Nat × RedVal)) : RedVal := redFold op none (bs.reverse.map Prod.snd)

theorem redFold_cons (op : Nat → Nat → Nat × Flags) (x y : RedVal) (xs : List RedVal) :
    redFold op x (y :: xs) = redFold op (redNode op x y) xs := rfl

theorem scanValue_eq (op : Nat → Nat → Nat × Flags) (bs : List (Nat × RedVal)) : scanValue op bs = blocksFold op bs := by
  rw [scanValue, blocksFold]
  cases bs.reverse with
  | nil => rfl
  | cons b bs => rw [List.map_cons, redFold_cons, redFold, List.foldl_map]; rfl

theorem blocksFold_cons (op : Nat → Nat → Nat × Flags) (n : Nat) (x : RedVal) (bs : List (Nat × RedVal)) :
    blocksFold op ((n, x) :: bs) = redNode op (blocksFold op bs) x := by
  rw [blocksFold, List.reverse_cons, List.map_append, redFold, List.foldl_append]
  rfl

theorem redLevel_length (op : Nat → Nat → Nat × Flags) : ∀ (n : Nat) (xs : List RedVal), xs.length = 2 * n → (redLevel op xs).length = n
  | 0, [], _ => rfl
  | n + 1, x :: y :: xs, twice => congrArg Nat.succ (redLevel_length op n xs (by simp only [List.length_cons] at twice; omega))

section
variable {op : Nat → Nat → Nat × Flags} (assoc : ∀ x y z, redNode op (redNode op x y) z = redNode op x (redNode op y z))
include assoc

theorem redFold_redLevel : ∀ (xs : List RedVal) (x : RedVal), redFold op x (redLevel op xs) = redFold op x xs
  | [], _ => rfl
  | [_], _ => rfl
  | y :: z :: xs, x => by rw [redLevel, redFold_cons, ← assoc, redFold_redLevel xs]; rfl

theorem redTree_eq_redFold : ∀ (n : Nat) (xs : List RedVal), xs.length = 2 ^ n → redTree op n xs = redFold op none xs
  | 0, [x], _ => rfl
  | n + 1, xs, size => by
    rw [redTree, redTree_eq_redFold n _ (redLevel_length op _ xs (size.trans (Nat.pow_succ'))), redFold_redLevel assoc]

theorem blocksFold_scanPush : ∀ (bs : List (Nat × RedVal)) (n : Nat) (x : RedVal),
    blocksFold op (scanPush op bs n x) = redNode op (blocksFold op bs) x
  | [], _, _ => rfl
  | (m, y) :: bs, n, x => by
    rw [scanPush]
    split
    · rw [blocksFold_scanPush bs, blocksFold_cons, assoc]
    · exact blocksFold_cons op n x _

theorem scanIncl_getD : ∀ (xs : List RedVal) (bs : List (Nat × RedVal)) (k : Nat), k < xs.length →
    (scanIncl op bs xs).getD k none = redFold op (blocksFold op bs) (xs.take (k + 1))
  | x :: xs, bs, 0, _ => by rw [scanIncl, List.getD_cons_zero, scanValue_eq, blocksFold_scanPush assoc]; rfl
  | x :: xs, bs, k + 1, small => by
    rw [scanIncl, List.getD_cons_succ, scanIncl_getD xs _ k (Nat.lt_of_succ_lt_succ small), blocksFold_scanPush assoc, List.take_succ_cons,
      redFold_cons]

end

/-! ### Folds of governed elements -/

/-- Operands that do not take part leave a fold as it is. -/
theorem redFold_governed {α : Type} (op : Nat → Nat → Nat × Flags) (on : α → Bool) (f : α → RedVal) : ∀ (l : List α) (x : RedVal),
    redFold op x (l.map fun i => if on i then f i else none) = redFold op x ((l.filter on).map f)
  | [], _ => rfl
  | i :: l, x => by
    rw [List.map_cons, redFold_cons, redFold_governed op on f l, List.filter_cons]
    cases on i with
    | true => rfl
    | false => exact congrArg (redFold op · _) (redNode_none op x)

section
variable {f : Nat → Nat → Nat}

theorem redNode_assoc (assoc : ∀ x y z, f (f x y) z = f x (f y z)) (x y z : RedVal) :
    redNode (fun a b => (f a b, 0)) (redNode (fun a b => (f a b, 0)) x y) z =
      redNode (fun a b => (f a b, 0)) x (redNode (fun a b => (f a b, 0)) y z) := by
  cases x with
  | none => rfl
  | some x =>
    cases y with
    | none => rfl
    | some y =>
      cases z with
      | none => rfl
      | some z => simp only [redNode, assoc, noFlag_or, BitVec.or_assoc]

theorem redNode_some (x y : Nat) : redNode (fun a b => (f a b, 0)) (some (x, 0)) (some (y, 0)) = some (f x y, 0) := by
  simp only [redNode, noFlag_or]

theorem redFold_some : ∀ (ys : List Nat) (x : Nat),
    redFold (fun a b => (f a b, 0)) (some (x, 0)) (ys.map fun y => some (y, 0)) = some (ys.foldl f x, 0)
  | [], _ => rfl
  | y :: ys, x => by rw [List.map_cons, redFold_cons, redNode_some, redFold_some ys]; rfl

/-- A fold that an identity begins. -/
theorem redFold_getD {e : Nat} (ys : List Nat) (identity : ∀ y ∈ ys, f e y = y) :
    (redFold (fun a b => (f a b, 0)) none (ys.map fun y => some (y, 0))).getD (e, 0) = (ys.foldl f e, 0) := by
  cases ys with
  | nil => rfl
  | cons y ys =>
    rw [List.foldl_cons, identity y List.mem_cons_self]
    exact congrArg (Option.getD · _) (redFold_some ys y)

end

end Sys2Proof.Proofs

end

/-! The integer reductions of R155: the operation that the tree and the scan of slot V combine with, and its folds. -/
section

namespace Sys2Proof.Proofs
open Sys2Proof.Machine Sys2Proof.Laws

/-! ### Minimum and maximum by value (R46, R145) -/

/-- The lesser or the greater of two values. -/
def pick (mx : Bool) (x y : Int) : Int := if mx then Max.max x y else Min.min x y

theorem pick_assoc (mx : Bool) (x y z : Int) : pick mx (pick mx x y) z = pick mx x (pick mx y z) := by
  cases mx with
  | true => exact max_assoc x y z
  | false => exact min_assoc x y z

theorem pick_eq_ite (mx : Bool) (x y : Int) : pick mx x y = if decide (x < y) != mx then x else y := by
  rcases lt_or_ge x y with less | least
  · cases mx <;> simp [pick, less, less.le]
  · cases mx <;> simp [pick, least, least.not_gt]

section
variable (signed : Bool) (w : Nat) (mx : Bool)

theorem intValue_mod (x : Nat) : intValue signed w (x % 2 ^ w) = intValue signed w x := by rw [intValue, Nat.mod_mod]; rfl

theorem intBits_intValue (x : Nat) : intBits w (intValue signed w x) = x % 2 ^ w := by
  refine Int.ofNat.inj ((intBits_cast ..).trans ?_)
  have whole : ((x % 2 ^ w : Nat) : Int) % 2 ^ w = (x % 2 ^ w : Nat) := by rw [← natCast_mod_two_pow, Nat.mod_mod]
  rw [intValue]
  split
  · rw [Nat.cast_pow, Nat.cast_ofNat, Int.sub_emod_right]
    exact whole
  · exact whole

theorem intMinMax_eq_pick (x y : Nat) : intMinMax signed w mx x y = intBits w (pick mx (intValue signed w x) (intValue signed w y)) := by
  rw [intMinMax, pick_eq_ite, apply_ite (intBits w), intBits_intValue, intBits_intValue]

theorem intValue_intMinMax (x y : Nat) :
    intValue signed w (intMinMax signed w mx x y) = pick mx (intValue signed w x) (intValue signed w y) := by
  rw [intMinMax, apply_ite (intValue signed w), intValue_mod, intValue_mod, pick_eq_ite]

theorem intMinMax_assoc (x y z : Nat) :
    intMinMax signed w mx (intMinMax signed w mx x y) z = intMinMax signed w mx x (intMinMax signed w mx y z) := by
  rw [intMinMax_eq_pick signed w mx _ z, intMinMax_eq_pick signed w mx x (intMinMax ..), intValue_intMinMax, intValue_intMinMax, pick_assoc]

end

theorem intValue_bounds (t : IntTy) (x : Nat) :
    intMin (intTySigned t) (intTyBits t) ≤ intValue (intTySigned t) (intTyBits t) x ∧
      intValue (intTySigned t) (intTyBits t) x ≤ intMax (intTySigned t) (intTyBits t) := by
  have half : 2 ^ intTyBits t = 2 * 2 ^ (intTyBits t - 1) := by cases t <;> decide
  have low := Nat.mod_lt x (Nat.two_pow_pos (intTyBits t))
  rw [intMin, intMax, intValue]
  cases intTySigned t with
  | true => simp only [if_true, true_and]; split <;> omega
  | false => simp only [Bool.false_eq_true, if_false, false_and]; omega

/-! ### The combining operation (R155) -/

/-- The result of a combination of two integer elements; it sets no flag. -/
def intStep (t : IntTy) (r : Rop) (x y : Nat) : Nat := (redOp rneOff r (.int t) x y).1

theorem redOp_int (c : RndCtl) (r : Rop) (t : IntTy) : redOp c r (.int t) = fun x y => (intStep t r x y, 0) := rfl

theorem intStep_assoc (t : IntTy) (r : Rop) (x y z : Nat) : intStep t r (intStep t r x y) z = intStep t r x (intStep t r y z) := by
  cases r with
  | sum => exact (Nat.mod_add_mod ..).trans ((congrArg (· % _) (Nat.add_assoc x y z)).trans (Nat.add_mod_mod ..).symm)
  | min | max => exact intMinMax_assoc ..
  | and => exact Nat.and_assoc x y z
  | or => exact Nat.or_assoc x y z
  | xor => exact Nat.xor_assoc x y z

theorem intStep_lt (t : IntTy) (r : Rop) {x y : Nat} (hx : x < 2 ^ intTyBits t) (hy : y < 2 ^ intTyBits t) :
    intStep t r x y < 2 ^ intTyBits t := by
  have minMax (mx : Bool) : intMinMax (intTySigned t) (intTyBits t) mx x y < 2 ^ intTyBits t := by
    rw [intMinMax]
    split <;> exact Nat.mod_lt _ (Nat.two_pow_pos _)
  cases r with
  | sum => exact Nat.mod_lt _ (Nat.two_pow_pos _)
  | min | max => exact minMax _
  | and => exact Nat.and_lt_two_pow x hy
  | or => exact Nat.or_lt_two_pow hx hy
  | xor => exact Nat.xor_lt_two_pow hx hy

theorem redIdentity_lt (t : IntTy) (r : Rop) : redIdentity r (.int t) < 2 ^ intTyBits t := by cases t <;> cases r <;> decide

theorem intStep_identity (t : IntTy) (r : Rop) {y : Nat} (hy : y < 2 ^ intTyBits t) : intStep t r (redIdentity r (.int t)) y = y := by
  cases r with
  | sum => exact (congrArg (· % _) (Nat.zero_add y)).trans (Nat.mod_eq_of_lt hy)
  | min =>
    have extreme : intValue (intTySigned t) (intTyBits t) (redIdentity .min (.int t)) = intMax (intTySigned t) (intTyBits t) := by
      cases t <;> decide
    refine (intMinMax_eq_pick ..).trans ?_
    rw [extreme, pick, if_neg Bool.false_ne_true, min_eq_right (intValue_bounds t y).2, intBits_intValue, Nat.mod_eq_of_lt hy]
  | max =>
    have extreme : intValue (intTySigned t) (intTyBits t) (redIdentity .max (.int t)) = intMin (intTySigned t) (intTyBits t) := by
      cases t <;> decide
    refine (intMinMax_eq_pick ..).trans ?_
    rw [extreme, pick, if_pos rfl, max_eq_right (intValue_bounds t y).1, intBits_intValue, Nat.mod_eq_of_lt hy]
  | and => exact (Nat.and_comm _ y).trans ((Nat.and_two_pow_sub_one_eq_mod y _).trans (Nat.mod_eq_of_lt hy))
  | or => exact Nat.zero_or y
  | xor => exact Nat.zero_xor y

/-! ### The table of reductions -/

/-- Folds of operations that agree on numbers below a bound, which they keep. -/
theorem foldl_congr_of_lt {M : Nat} {f g : Nat → Nat → Nat} (agree : ∀ x < M, ∀ y < M, f x y = g x y)
    (closed : ∀ x < M, ∀ y < M, g x y < M) :
    ∀ (ys : List Nat), (∀ y ∈ ys, y < M) → ∀ x < M, ys.foldl f x = ys.foldl g x
  | [], _, _, _ => rfl
  | y :: ys, small, x, hx => by
    have hy := small y List.mem_cons_self
    rw [List.foldl_cons, List.foldl_cons, agree x hx y hy]
    exact foldl_congr_of_lt agree closed ys (fun z hz => small z (List.mem_cons_of_mem _ hz)) _ (closed x hx y hy)

theorem foldl_lt {M : Nat} {g : Nat → Nat → Nat} (closed : ∀ x < M, ∀ y < M, g x y < M) :
    ∀ (ys : List Nat), (∀ y ∈ ys, y < M) → ∀ x < M, ys.foldl g x < M
  | [], _, _, hx => hx
  | y :: ys, small, x, hx =>
    foldl_lt closed ys (fun z hz => small z (List.mem_cons_of_mem _ hz)) _ (closed x hx y (small y List.mem_cons_self))

theorem foldl_add_mod (M : Nat) : ∀ (ys : List Nat) (x : Nat), x % M = x → ys.foldl (fun a b => (a + b) % M) x = (x + ys.sum) % M
  | [], x, low => low.symm
  | y :: ys, x, _ => by
    rw [List.foldl_cons, foldl_add_mod M ys _ (Nat.mod_mod ..), List.sum_cons, Nat.mod_add_mod, Nat.add_assoc]

section
variable (t : IntTy) (r : Rop) {xs : List Nat} (small : ∀ x ∈ xs, x < 2 ^ intTyBits t)
include small

theorem intReduction_eq_foldl : intReduction t r xs = xs.foldl (intStep t r) (redIdentity r (.int t)) := by
  have closed : ∀ x < 2 ^ intTyBits t, ∀ y < 2 ^ intTyBits t, intStep t r x y < 2 ^ intTyBits t := fun _ hx _ hy => intStep_lt t r hx hy
  cases r with
  | sum => exact ((foldl_add_mod _ xs 0 (Nat.zero_mod _)).trans (congrArg (· % _) (Nat.zero_add _))).symm
  | min =>
    have identity : redIdentity .min (.int t) = if intTySigned t then 2 ^ (intTyBits t - 1) - 1 else 2 ^ intTyBits t - 1 := by
      cases t <;> decide
    rw [intReduction, ← identity]
    exact foldl_congr_of_lt (fun x hx y hy => (intMinMax_typed_min t hx hy).symm) closed xs small _ (redIdentity_lt t .min)
  | max =>
    have identity : redIdentity .max (.int t) = if intTySigned t then 2 ^ (intTyBits t - 1) else 0 := by cases t <;> decide
    rw [intReduction, ← identity]
    exact foldl_congr_of_lt (fun x hx y hy => (intMinMax_typed_max t hx hy).symm) closed xs small _ (redIdentity_lt t .max)
  | and | or | xor => rfl

theorem intReduction_lt : intReduction t r xs < 2 ^ intTyBits t := by
  rw [intReduction_eq_foldl t r small]
  exact foldl_lt (fun _ hx _ hy => intStep_lt t r hx hy) xs small _ (redIdentity_lt t r)

/-- The elements that take part, combined from left to right. -/
theorem redFold_eq_intReduction (c : RndCtl) :
    (redFold (redOp c r (.int t)) none (xs.map fun x => some (x, 0))).getD (redIdentity r (.int t), 0) = (intReduction t r xs, 0) := by
  rw [redOp_int, redFold_getD xs fun x hx => intStep_identity t r (small x hx), intReduction_eq_foldl t r small]

end

end Sys2Proof.Proofs

end

/-! Conversions and packing of slot V (R149 to R154): the layouts that their results are packed in. -/
section

namespace Sys2Proof.Proofs
open Sys2Proof.Machine Sys2Proof.Laws

/-! ### Packed numbers -/

theorem add_two_pow_mul_lt {x y a b : Nat} (hx : x < 2 ^ a) (hy : y < 2 ^ b) : x + 2 ^ a * y < 2 ^ (a + b) := by
  rw [Nat.pow_add]
  refine lt_of_lt_of_le ?_ (Nat.mul_le_mul_left _ hy)
  rw [Nat.mul_succ]
  omega

theorem packLanes_lt (w : Nat) : ∀ xs : List Nat, packLanes w xs < 2 ^ (w * xs.length)
  | [] => Nat.two_pow_pos _
  | x :: xs => by
    rw [packLanes, List.length_cons, Nat.mul_succ, Nat.add_comm (w * _)]
    exact add_two_pow_mul_lt (Nat.mod_lt x (Nat.two_pow_pos w)) (packLanes_lt w xs)

theorem bits_packLanes (w : Nat) : ∀ (xs : List Nat) (i : Nat), bits (packLanes w xs) (w * i) w = xs.getD i 0 % 2 ^ w
  | [], i => by rw [packLanes, List.getD_nil, bits, Nat.zero_div]
  | x :: xs, 0 => by
    rw [packLanes, bits_add_low (by rw [Nat.mul_zero, Nat.zero_add]), Nat.mul_zero, bits, Nat.pow_zero, Nat.div_one, Nat.mod_mod]
    rfl
  | x :: xs, i + 1 => by
    rw [packLanes, Nat.mul_succ, Nat.add_comm (w * i), bits_add_high (Nat.mod_lt _ (Nat.two_pow_pos w)), bits_packLanes w xs i]
    rfl

theorem getD_map_range_ge {α : Type} (f : Nat → α) (n : Nat) (d : α) {i : Nat} (beyond : n ≤ i) : ((List.range n).map f).getD i d = d :=
  List.getD_eq_default _ _ (by rw [List.length_map, List.length_range]; exact beyond)

theorem lt_two_pow_of_le {x a b : Nat} (small : x < 2 ^ a) (le : a ≤ b) : x < 2 ^ b := small.trans_le (Nat.pow_le_pow_right Nat.two_pos le)

theorem toNat_ofNat_of_lt {N e x : Nat} (small : x < 2 ^ e) (fits : e ≤ N) : (BitVec.ofNat N x).toNat = x := by
  rw [BitVec.toNat_ofNat, Nat.mod_eq_of_lt (lt_two_pow_of_le small fits)]

section
variable {s : State} {i : Instr} {f : Core → Core} {lat : Nat} {d : Reg} (issues : s.Issues i) (slot : i.slot = some 4)
include issues slot

/-- A vector result that the model gives as a number. -/
theorem slotExec_enterNat {x : Nat × Flags} (fits : (BitVec.ofNat 4096 x.1).toNat = x.1) (works : f s.c = s.c.enter 4 lat (.vector d) x.1 x.2) :
    slotExec 4 i (onCore f) s = .next (s.entered 4 lat (.vector d) (BitVec.ofNat 4096 x.1).toNat x.2) := by
  rw [fits]
  exact slotExec_vSlot issues slot (congrArg _ works)

end

/-! ### Conversions (R149) -/

/-- Governed elements of m bits, converted from wf to wt bits and packed without gaps, with their flags (R149, R151). -/
def convertedLanes (m wt wf : Nat) (h : Nat → Nat × Flags) (p : Pred) (old src : Vec) : Nat × Flags :=
  (packLanes wt (List.zipWith (fun gr o => if gr.1 then gr.2.1 else o)
    ((governs m p).zip ((lanesOf wf (laneCount m) src.toNat).map h)) (lanesOf wt (laneCount m) old.toNat)),
    laneFlags (governs m p) ((lanesOf wf (laneCount m) src.toNat).map h))

section
variable {m wt wf : Nat} (h : Nat → Nat × Flags) (p : Pred) (old src : Vec)

theorem convertedLanes_fst : (convertedLanes m wt wf h p old src).1 = packLanes wt ((List.range (4096 / m)).map fun k =>
    if p.getLsbD (k * (m / 8)) then (h (lane wf src k)).1 else lane wt old k) := by
  rw [convertedLanes, governs, lanesOf_eq, lanesOf_eq, List.map_map, List.zip_map', zipWith_map_map]
  rfl

theorem flagsJoin_convertedLanes : flagsJoin (convertedLanes m wt wf h p old src).2 (4096 / m) (fun k => p.getLsbD (k * (m / 8)))
    (fun k => (h (lane wf src k)).2) := by
  rw [convertedLanes, governs, lanesOf_eq, List.map_map]
  exact flagsJoin_laneFlags _ _ _

variable (pos : 0 < wt) (narrow : wt ≤ m)
include pos narrow

theorem convertedLanes_fits :
    (BitVec.ofNat 4096 (convertedLanes m wt wf h p old src).1).toNat = (convertedLanes m wt wf h p old src).1 := by
  rw [convertedLanes_fst]
  refine toNat_ofNat_of_lt (packLanes_lt ..) ?_
  rw [List.length_map, List.length_range]
  exact (Nat.mul_le_mul_left wt (Nat.div_le_div_left narrow pos)).trans (Nat.mul_div_le 4096 wt)

theorem lane_convertedLanes {k : Nat} (small : k < 4096 / m) :
    lane wt (BitVec.ofNat 4096 (convertedLanes m wt wf h p old src).1) k =
      if p.getLsbD (k * (m / 8)) then (h (lane wf src k)).1 % 2 ^ wt else lane wt old k := by
  rw [convertedLanes_fst, lane_packLanes_map _ pos small (small.trans_le (Nat.div_le_div_left narrow pos)), apply_ite (· % 2 ^ wt), lane_mod]

omit narrow in
theorem lane_convertedLanes_above {k : Nat} (inside : k < 4096 / wt) (beyond : 4096 / m ≤ k) :
    lane wt (BitVec.ofNat 4096 (convertedLanes m wt wf h p old src).1) k = 0 := by
  rw [convertedLanes_fst, lane_packLanes _ pos (mul_succ_le_of_lt_div inside), getD_map_range_ge _ _ _ beyond, Nat.zero_mod]

end

/-! ### Blocks (R150) -/

theorem blocksOf_map_range (B : Nat) : ∀ (m : Nat) {α : Type} (x : Nat → α),
    blocksOf B m ((List.range (B * m)).map x) = (List.range m).map (fun j => (List.range B).map (fun i => x (B * j + i)))
  | 0, _, _ => rfl
  | m + 1, _, x => by
    have size : ((List.range B).map x).length = B := by rw [List.length_map, List.length_range]
    rw [blocksOf, Nat.mul_succ, Nat.add_comm (B * m), List.range_add, List.map_append, List.take_left' size, List.drop_left' size, List.map_map,
      blocksOf_map_range B m, List.range_succ_eq_map, List.map_cons, List.map_map]
    refine congrArg₂ _ (List.map_congr_left fun i _ => ?_) (List.map_congr_left fun j _ => List.map_congr_left fun i _ => ?_)
    · rw [Nat.mul_zero, Nat.zero_add]
    · rw [Function.comp_apply, Nat.mul_succ, ← Nat.add_assoc, Nat.add_comm B]

theorem getD_flatMap_range {B : Nat} {i : Nat} (small : i < B) : ∀ (m : Nat) (g : Nat → List Nat), (∀ j, (g j).length = B) → ∀ j < m,
    ((List.range m).flatMap g).getD (B * j + i) 0 = (g j).getD i 0
  | m + 1, g, size, 0, _ => by
    rw [List.range_succ_eq_map, List.flatMap_cons, Nat.mul_zero, Nat.zero_add, List.getD_append _ _ _ _ (by rw [size]; exact small)]
  | m + 1, g, size, j + 1, below => by
    have place : B * (j + 1) + i = B + (B * j + i) := by ring
    rw [List.range_succ_eq_map, List.flatMap_cons, place, List.getD_append_right _ _ _ _ (by rw [size]; exact Nat.le_add_right ..), size,
      Nat.add_sub_cancel_left, List.flatMap_map]
    exact getD_flatMap_range small m (fun j => g (j + 1)) (fun j => size (j + 1)) j (Nat.lt_of_succ_lt_succ below)

section
variable {n B m last : Nat} {q : Nat → Nat × List Nat × Flags}

/-- The three parts of a packed vector: codes, scales and a last word. -/
theorem packBlocks_fst (n last : Nat) (bs : List (Nat × List Nat × Flags)) :
    (packBlocks n bs last).1 =
      packLanes 4 (bs.flatMap (fun b => b.2.1)) + 2 ^ (4 * n) * packLanes 8 (bs.map (·.1)) + 2 ^ (8 * 508) * last := by
  rw [packBlocks, Nat.mul_comm (packLanes 8 _), Nat.mul_comm last]

variable (blocks : n = B * m) (size : ∀ j, (q j).2.1.length = B)
include blocks size

theorem codes_lt : packLanes 4 (((List.range m).map q).flatMap (fun b => b.2.1)) < 2 ^ (4 * n) := by
  have total : (((List.range m).map q).flatMap (fun b => b.2.1)).length = n := by
    simp [List.length_flatMap, Function.comp_def, size, blocks, Nat.mul_comm]
  exact total ▸ packLanes_lt 4 _

theorem codesScales_lt : packLanes 4 (((List.range m).map q).flatMap (fun b => b.2.1)) +
    2 ^ (4 * n) * packLanes 8 (((List.range m).map q).map (·.1)) < 2 ^ (4 * n + 8 * m) := by
  have scales := packLanes_lt 8 (((List.range m).map q).map (·.1))
  rw [List.length_map, List.length_map, List.length_range] at scales
  exact add_two_pow_mul_lt (codes_lt blocks size) scales

theorem lane_packBlocks_rest (even : n % 2 = 0) {k : Nat} (small : k < 508) (beyond : n / 2 + m ≤ k) :
    lane 8 (BitVec.ofNat 4096 (packBlocks n ((List.range m).map q) last).1) k = 0 := by
  have above : 4 * n + 8 * m ≤ 8 * k := by omega
  rw [lane_ofNat _ (by omega), packBlocks_fst, bits_add_low (by omega)]
  exact bits_above (lt_two_pow_of_le (codesScales_lt blocks size) above) 8

variable (room : 4 * n + 8 * m ≤ 8 * 508)
include room

theorem codesScales_fit : packLanes 4 (((List.range m).map q).flatMap (fun b => b.2.1)) +
    2 ^ (4 * n) * packLanes 8 (((List.range m).map q).map (·.1)) < 2 ^ (8 * 508) := lt_two_pow_of_le (codesScales_lt blocks size) room

theorem packBlocks_fits (word : last < 2 ^ 32) :
    (BitVec.ofNat 4096 (packBlocks n ((List.range m).map q) last).1).toNat = (packBlocks n ((List.range m).map q) last).1 := by
  refine toNat_ofNat_of_lt (e := 8 * 508 + 32) ?_ (by decide)
  rw [packBlocks_fst]
  exact add_two_pow_mul_lt (codesScales_fit blocks size room) word

theorem lane_packBlocks_code {i j : Nat} (small : i < B) (below : j < m) :
    lane 4 (BitVec.ofNat 4096 (packBlocks n ((List.range m).map q) last).1) (B * j + i) = (q j).2.1.getD i 0 % 2 ^ 4 := by
  have inside : B * j + i + 1 ≤ n := by
    rw [blocks]
    exact (Nat.add_le_add_left small _).trans (Nat.mul_le_mul_left B below)
  rw [lane_ofNat _ (by omega), packBlocks_fst, bits_add_low (by omega), bits_add_low (by omega), bits_packLanes, List.flatMap_map,
    getD_flatMap_range small m _ size j below]

theorem lane_packBlocks_scale (even : n % 2 = 0) {j : Nat} (below : j < m) :
    lane 8 (BitVec.ofNat 4096 (packBlocks n ((List.range m).map q) last).1) (n / 2 + j) = (q j).1 % 2 ^ 8 := by
  have place : 8 * (n / 2 + j) = 4 * n + 8 * j := by omega
  rw [lane_ofNat _ (by omega), packBlocks_fst, place, bits_add_low (by omega), bits_add_high (codes_lt blocks size), bits_packLanes, List.map_map,
    getD_map_range _ _ _ below]
  rfl

theorem lane_packBlocks_end {k : Nat} (inside : 508 ≤ k) (small : k < 512) :
    lane 8 (BitVec.ofNat 4096 (packBlocks n ((List.range m).map q) last).1) k = bits last (8 * (k - 508)) 8 := by
  have place : 8 * k = 8 * 508 + 8 * (k - 508) := by omega
  rw [lane_ofNat _ (by omega), packBlocks_fst, place,
    bits_add_high (codesScales_fit blocks size room)]

theorem lane_packBlocks_last (word : last < 2 ^ 32) :
    lane 32 (BitVec.ofNat 4096 (packBlocks n ((List.range m).map q) last).1) 127 = last := by
  rw [lane_ofNat _ (by omega), packBlocks_fst]
  refine (bits_add_high (lo := 0) (codesScales_fit blocks size room) 32).trans ?_
  rw [bits, Nat.pow_zero, Nat.div_one, Nat.mod_eq_of_lt word]

end

end Sys2Proof.Proofs

end

/-! O22, conversions, quantisations, reductions and scans of slot V (R149 to R156). -/
section

namespace Sys2Proof.Proofs
open Sys2Proof.Machine Sys2Proof.Laws

theorem lane_eq_bits (w : Nat) (x : Vec) (k : Nat) : lane w x k = bits x.toNat (w * k) w := rfl

theorem tyBits_pos (t : Ty) : 0 < (tyKind t).bits := by cases t <;> decide

/-! ### Block quantisation (R150 to R153) -/

theorem quantMx4_length (rm : Rm) (f : Fmt) (xs : List Ext) : (quantMx4 rm f xs).2.1.length = xs.length := by
  rw [quantMx4]
  split
  · exact List.length_map _
  · exact (List.length_map _).trans (List.length_map _)

theorem quantSq4_length (sup : Nat) (f : Fmt) (xs : List Ext) : (quantSq4 sup f xs).2.1.length = xs.length := by
  rw [quantSq4]
  dsimp only
  split
  · exact List.length_map _
  · split
    · exact List.length_map _
    · exact (List.length_map _).trans (List.length_map _)

/-- The values of block j of a source of B elements a block. -/
def blockValues (f : Fmt) (x : Vec) (B j : Nat) : List Ext := (List.range B).map (fun i => f.value (lane f.width x (B * j + i)))

theorem blockValues_length (f : Fmt) (x : Vec) (B j : Nat) : (blockValues f x B j).length = B := by
  rw [blockValues, List.length_map, List.length_range]

section
variable {f : Fmt} {n B m : Nat} (count : laneCount f.width = n) (blocks : n = B * m)
include count blocks

theorem blocksOf_values (pos : 0 < B) (x : Vec) :
    blocksOf B (n / B) ((vlanes f.width x).map f.value) = (List.range m).map (blockValues f x B) := by
  rw [vlanes_eq, List.map_map, count, blocks, Nat.mul_div_cancel_left m pos, blocksOf_map_range]
  rfl

end

section
variable {u : Ty} {f : Fmt} {n m : Nat} (c : RndCtl) (p : Pred) (old src : Vec) (kind : tyKind u = .fp f) (count : laneCount f.width = n)
include kind count

theorem quantise_mx4 (blocks : n = 32 * m) :
    quantise c .mx4 u p old src = packBlocks n ((List.range m).map fun j => quantMx4 c.rm f (blockValues f src 32 j)) 0 := by
  simp only [quantise, kind, count]
  rw [blocksOf_values count blocks (by decide), List.map_map]
  rfl

theorem quantise_sq4 (blocks : n = 64 * m) :
    quantise c .sq4 u p old src =
      packBlocks n ((List.range m).map fun j => quantSq4 (lane 32 old 127) f (blockValues f src 64 j)) (lane 32 old 127) := by
  have word : lane 32 old 127 = bits old.toNat (8 * 508) 32 := lane_eq_bits 32 old 127
  simp only [quantise, kind, count]
  rw [blocksOf_values count blocks (by decide), List.map_map, word]
  rfl

end

theorem quantise_fp8 {t u : Ty} {f : Fmt} (fp8 : t = .e4m3 ∨ t = .e5m2) (kind : tyKind u = .fp f) (c : RndCtl) (p : Pred) (old src : Vec) :
    quantise c t u p old src = convertedLanes f.width 8 f.width (convert ⟨c.rm, true⟩ t u) p old src := by
  obtain rfl | rfl := fp8 <;> simp only [quantise, quantBytes, kind] <;> rfl

theorem isWide_kind {u : Ty} (wide : u.isWide = true) : ∃ f, tyKind u = .fp f ∧ (f.width = 16 ∨ f.width = 32) := by
  cases u with
  | f32 | bf16 | f16 => exact ⟨_, rfl, by decide⟩
  | _ => cases wide

theorem isWide_count {u : Ty} {f : Fmt} (wide : u.isWide = true) (kind : tyKind u = .fp f) : laneCount f.width = 128 ∨ laneCount f.width = 256 := by
  obtain ⟨f', kind', width⟩ := isWide_kind wide
  cases kind.symm.trans kind'
  obtain w | w := width <;> rw [w] <;> decide

section
variable {s : State} {d a : Reg} {t u : Ty} {p : PReg}

theorem exec_vcvt (issues : s.Issues (.vcvt d a t u p)) :
    let x := convertedLanes (Nat.max (tyKind t).bits (tyKind u).bits) (tyKind t).bits (tyKind u).bits (convert s.c.rnd t u) (s.c.rp p)
      (s.c.rv d) (s.c.rv a)
    exec (.vcvt d a t u p) s = .next (s.entered 4 4 (.vector d) (BitVec.ofNat 4096 x.1).toNat x.2) := by
  unfold exec
  exact slotExec_enterNat issues rfl (convertedLanes_fits _ _ _ _ (tyBits_pos t) (Nat.le_max_left ..)) rfl

theorem exec_vqnt (issues : s.Issues (.vqnt d a t u p)) {x : Nat × Flags} (value : quantise s.c.rnd t u (s.c.rp p) (s.c.rv d) (s.c.rv a) = x)
    (fits : (BitVec.ofNat 4096 x.1).toNat = x.1) :
    exec (.vqnt d a t u p) s = .next (s.entered 4 4 (.vector d) (BitVec.ofNat 4096 x.1).toNat x.2) := by
  subst value
  unfold exec
  exact slotExec_enterNat issues rfl fits rfl

end

/-! ### Reductions and scans (R155, R156) -/

/-- What a scan delivers for each element, inclusive or exclusive (R60, R156). -/
theorem scan_values {α : Type} (l : List (Option α)) (e : Bool) (i : α) (some_lane : 0 < l.length) :
    (if e then none :: l.dropLast else l).map (·.getD i) =
      (List.range l.length).map (fun k => if e && decide (k = 0) then i else (l.getD (if e then k - 1 else k) none).getD i) := by
  cases e with
  | false =>
    refine List.ext_getElem (by simp) fun k inside _ => ?_
    have below : k < l.length := lt_of_lt_of_eq inside (List.length_map _)
    simp [below]
  | true =>
    have size : (none :: l.dropLast).length = l.length := by rw [List.length_cons, List.length_dropLast, Nat.sub_add_cancel some_lane]
    refine List.ext_getElem (by simpa using size) fun k inside _ => ?_
    have below : k < l.length := lt_of_lt_of_eq inside ((List.length_map _).trans size)
    cases k with
    | zero => simp
    | succ k => simp [Nat.lt_of_succ_lt below]

theorem laneCount_int (t : IntTy) : laneCount (intTyBits t) = 2 ^ Nat.log2 (laneCount (intTyBits t)) := by cases t <;> decide

/-- The elements of a vector that a predicate lets take part, below element k. -/
def keptLanes (w : Nat) (p : Pred) (x : Vec) (k : Nat) : List Nat := ((List.range k).filter fun i => p.getLsbD (i * (w / 8))).map (lane w x)

theorem keptLanes_lt {w : Nat} {p : Pred} {x : Vec} {k : Nat} : ∀ y ∈ keptLanes w p x k, y < 2 ^ w := by
  intro y kept
  obtain ⟨i, -, rfl⟩ := List.mem_map.mp kept
  exact lane_lt w x i

section
variable (c : RndCtl) (t : IntTy) (r : Rop) (p : Pred) (x : Vec)

/-- The inputs below element k, combined from left to right. -/
theorem redFold_inputs (k : Nat) :
    (redFold (redOp c r (.int t)) none ((List.range k).map fun i =>
      if p.getLsbD (i * (intTyBits t / 8)) then some (lane (intTyBits t) x i, 0) else none)).getD (redIdentity r (.int t), 0) =
      (intReduction t r (keptLanes (intTyBits t) p x k), 0) := by
  rw [redFold_governed, ← redFold_eq_intReduction t r keptLanes_lt c, keptLanes, List.map_map]
  rfl

theorem redOp_int_assoc (x y z : RedVal) : redNode (redOp c r (.int t)) (redNode (redOp c r (.int t)) x y) z =
    redNode (redOp c r (.int t)) x (redNode (redOp c r (.int t)) y z) := redNode_assoc (intStep_assoc t r) x y z

theorem redTree_int :
    (redTree (redOp c r (.int t)) (Nat.log2 (laneCount (intTyBits t))) (redInputs (governs (intTyBits t) p) (vlanes (intTyBits t) x))).getD
      (redIdentity r (.int t), 0) = (intReduction t r (keptLanes (intTyBits t) p x (laneCount (intTyBits t))), 0) := by
  rw [redInputs_eq, redTree_eq_redFold (redOp_int_assoc c t r) _ _ (by rw [List.length_map, List.length_range, ← laneCount_int]), redFold_inputs]

theorem scanIncl_int {k : Nat} (small : k < laneCount (intTyBits t)) :
    ((scanIncl (redOp c r (.int t)) [] (redInputs (governs (intTyBits t) p) (vlanes (intTyBits t) x))).getD k none).getD
      (redIdentity r (.int t), 0) = (intReduction t r (keptLanes (intTyBits t) p x (k + 1)), 0) := by
  rw [redInputs_eq, scanIncl_getD (redOp_int_assoc c t r) _ _ _ (by rwa [List.length_map, List.length_range]), ← List.map_take, List.take_range,
    Nat.min_eq_left small]
  exact redFold_inputs c t r p x (k + 1)

/-- An exclusive scan delivers for an element what the inclusive one delivers for the element below it (R60). -/
theorem scan_int (e : Bool) {k : Nat} (small : k < laneCount (intTyBits t)) :
    (if e && decide (k = 0) then (redIdentity r (.int t), 0)
      else ((scanIncl (redOp c r (.int t)) [] (redInputs (governs (intTyBits t) p) (vlanes (intTyBits t) x))).getD (if e then k - 1 else k) none).getD
        (redIdentity r (.int t), 0)) = (intReduction t r (keptLanes (intTyBits t) p x (if e then k else k + 1)), 0) := by
  cases e with
  | false => exact scanIncl_int c t r p x small
  | true =>
    cases k with
    | zero => exact congrArg (·, 0) (intReduction_eq_foldl t r (xs := []) (fun _ h => nomatch h)).symm
    | succ k => exact scanIncl_int c t r p x (Nat.lt_of_succ_lt small)

end

section
variable {s : State} {d a : Reg} {r : Rop} {p : PReg} {y : RedTy}

theorem exec_vred (issues : s.Issues (.vred d a r p y)) :
    let x := (redTree (redOp s.c.rnd r y) (Nat.log2 (laneCount (redTyBits y)))
      (redInputs (governs (redTyBits y) (s.c.rp p)) (vlanes (redTyBits y) (s.c.rv a)))).getD (redIdentity r y, 0)
    exec (.vred d a r p y) s = .next (s.entered 4 6 (.scalar d) (redScalar y x.1).toNat x.2) := by
  unfold exec
  exact slotExec_vSlot issues rfl rfl

theorem redTyBits_cases (y : RedTy) : redTyBits y = 8 ∨ redTyBits y = 16 ∨ redTyBits y = 32 ∨ redTyBits y = 64 := by
  cases y with
  | int t => exact intTyBits_cases t
  | fp t => exact fpWidth_cases t

theorem redTyBits_pos (y : RedTy) : 0 < redTyBits y := by obtain w | w | w | w := redTyBits_cases y <;> rw [w] <;> decide

theorem exec_vscan {e : Bool} (issues : s.Issues (.vscan d a r p y e)) :
    let w := redTyBits y
    let x (k : Nat) : Nat × Flags := if e && decide (k = 0) then (redIdentity r y, 0)
      else ((scanIncl (redOp s.c.rnd r y) [] (redInputs (governs w (s.c.rp p)) (vlanes w (s.c.rv a)))).getD (if e then k - 1 else k) none).getD
        (redIdentity r y, 0)
    ∃ (v : Vec) (g : Flags), exec (.vscan d a r p y e) s = .next (s.entered 4 6 (.vector d) v.toNat g) ∧
      (∀ k < 4096 / w, lane w v k = if (s.c.rp p).getLsbD (k * (w / 8)) then (x k).1 % 2 ^ w else lane w (s.c.rv d) k) ∧
      flagsJoin g (4096 / w) (fun k => (s.c.rp p).getLsbD (k * (w / 8))) (fun k => (x k).2) := by
  intro w x
  have size : (scanIncl (redOp s.c.rnd r y) [] (redInputs (governs w (s.c.rp p)) (vlanes w (s.c.rv a)))).length = laneCount w := by
    rw [scanIncl_length, redInputs_eq, List.length_map, List.length_range]
  have some_lane : 0 < laneCount w := by obtain h | h | h | h := redTyBits_cases y <;> simp only [w, h, laneCount] <;> decide
  unfold exec
  refine slotExec_enterLanes issues rfl (redTyBits_pos y) ?_
  show s.c.enterLanes 6 d p w _ = s.c.enterLanes 6 d p w _
  rw [scan_values _ e _ (size ▸ some_lane), size]

theorem exec_vred_int {t : IntTy} (issues : s.Issues (.vred d a r p (.int t))) :
    exec (.vred d a r p (.int t)) s = .next (s.entered 4 6 (.scalar d) (BitVec.ofInt 64 (typedLane t
      (intReduction t r (keptLanes (intTyBits t) (s.c.rp p) (s.c.rv a) (4096 / intTyBits t))))).toNat 0) := by
  rw [exec_vred issues, ← extendInt_eq t (intReduction_lt t r keptLanes_lt)]
  dsimp only [redTyBits]
  rw [redTree_int]
  rfl

theorem exec_vscan_int {t : IntTy} {e : Bool} (issues : s.Issues (.vscan d a r p (.int t) e)) :
    ∃ (v : Vec) (g : Flags), exec (.vscan d a r p (.int t) e) s = .next (s.entered 4 6 (.vector d) v.toNat g) ∧
      (∀ k < 4096 / intTyBits t, lane (intTyBits t) v k =
        if (s.c.rp p).getLsbD (k * (intTyBits t / 8)) then intReduction t r (keptLanes (intTyBits t) (s.c.rp p) (s.c.rv a) (if e then k else k + 1))
        else lane (intTyBits t) (s.c.rv d) k) ∧ g = 0 := by
  obtain ⟨v, g, enters, lanes, flags⟩ := exec_vscan issues
  dsimp only [redTyBits] at lanes flags
  have value {k : Nat} (small : k < 4096 / intTyBits t) := scan_int s.c.rnd t r (s.c.rp p) (s.c.rv a) e small
  refine ⟨v, g, enters, fun k small => ?_, flagsJoin_none (fun k small => congrArg Prod.snd (value small)) flags⟩
  have element := lanes k small
  rwa [value small, Nat.mod_eq_of_lt (intReduction_lt t r keptLanes_lt)] at element

end

/-- Settles O22: conversions, the three quantisations, and the reductions by their trees and scans, whose integer folds are the plain reductions. -/
theorem conversionsAndReductions : Obligations.ConversionsAndReductions := by
  intro s d a t u p r y e it gives on wt wu m n src wr nr ins kept
  unfold gives
  refine ⟨fun issues => ⟨_, _, exec_vcvt issues, ?vcvt⟩, fun issues wide => ⟨fun fp8 => ?fp8, fun f kind =>
    ⟨fun mx4 => ?mx4, fun sq4 => ?sq4⟩⟩,
    fun f issues wide kind => ?vdqnt, fun issues => ?vred, fun issues => ?vredInt, fun issues => ?vscan, fun issues => ?vscanInt⟩
  case vcvt =>
    exact ⟨fun k small => lane_convertedLanes _ _ _ _ (tyBits_pos t) (Nat.le_max_left ..) small,
      fun k inside beyond => lane_convertedLanes_above _ _ _ _ (tyBits_pos t) inside beyond, flagsJoin_convertedLanes _ _ _ _⟩
  case fp8 =>
    obtain ⟨f, kind, width⟩ := isWide_kind wide
    have bits : wu = f.width := congrArg TyKind.bits kind
    clear_value wu
    subst bits
    have narrow : 8 ≤ f.width := by omega
    refine ⟨_, _, exec_vqnt issues (quantise_fp8 fp8 kind ..) (convertedLanes_fits _ _ _ _ (by decide) narrow), fun k small => ?_,
      flagsJoin_convertedLanes _ _ _ _⟩
    by_cases beyond : n ≤ k
    · rw [if_pos beyond, lane_convertedLanes_above _ _ _ _ (by decide) small beyond]
    · rw [if_neg beyond, lane_convertedLanes _ _ _ _ (by decide) narrow (not_le.mp beyond)]
  case mx4 =>
    subst mx4
    have bits : wu = f.width := congrArg TyKind.bits kind
    clear_value wu
    subst bits
    have sizes : n = 128 ∨ n = 256 := isWide_count wide kind
    have blocks : n = 32 * (n / 32) := by omega
    have room : 4 * n + 8 * (n / 32) ≤ 8 * 508 := by omega
    have even : n % 2 = 0 := by omega
    have size (j : Nat) : (quantMx4 s.c.rnd.rm f (blockValues f (s.c.rv a) 32 j)).2.1.length = 32 := by rw [quantMx4_length, blockValues_length]
    refine ⟨_, _, exec_vqnt issues (quantise_mx4 _ _ _ _ kind rfl blocks) (packBlocks_fits blocks size room (by decide)),
      fun j below => ⟨lane_packBlocks_scale blocks size room even below, fun i small => lane_packBlocks_code blocks size room small below⟩,
      fun k small beyond => ?_, flagsJoin_foldl_all _ _ _⟩
    by_cases inside : k < 508
    · exact lane_packBlocks_rest blocks size even inside beyond
    · exact (lane_packBlocks_end blocks size room (not_lt.mp inside) small).trans (bits_above (Nat.two_pow_pos _) 8)
  case sq4 =>
    subst sq4
    have bits : wu = f.width := congrArg TyKind.bits kind
    clear_value wu
    subst bits
    have sizes : n = 128 ∨ n = 256 := isWide_count wide kind
    have blocks : n = 64 * (n / 64) := by omega
    have room : 4 * n + 8 * (n / 64) ≤ 8 * 508 := by omega
    have even : n % 2 = 0 := by omega
    have size (j : Nat) : (quantSq4 (lane 32 (s.c.rv d) 127) f (blockValues f (s.c.rv a) 64 j)).2.1.length = 64 := by
      rw [quantSq4_length, blockValues_length]
    have word : lane 32 (s.c.rv d) 127 < 2 ^ 32 := lane_lt ..
    exact ⟨_, _, exec_vqnt issues (quantise_sq4 _ _ _ _ kind rfl blocks) (packBlocks_fits blocks size room word),
      fun j below => ⟨lane_packBlocks_scale blocks size room even below, fun i small => lane_packBlocks_code blocks size room small below⟩,
      fun k small beyond => lane_packBlocks_rest blocks size even small beyond, lane_packBlocks_last blocks size room word,
      flagsJoin_foldl_all _ _ _⟩
  case vdqnt =>
    unfold exec
    refine slotExec_enterLanes issues rfl (tyBits_pos t) ?_
    dsimp only
    split
    · next f' kind' =>
      cases kind.symm.trans kind'
      rfl
    · next kind' => cases kind.symm.trans kind'
  case vred => exact exec_vred issues
  case vredInt => exact exec_vred_int issues
  case vscan => exact exec_vscan issues
  case vscanInt => exact exec_vscan_int issues

end Sys2Proof.Proofs

end

/-! Entries written one after another into a scratchpad, and the places of a ring (R160, R161). -/
section

namespace Sys2Proof.Proofs
open Sys2Proof.Machine Sys2Proof.Laws

/-! ### Writes at distinct places -/

/-- The numbers of k entries of n bytes, put one after another at their places. -/
def putEntries (c : Core) (n : Nat) (put val : Nat → Nat) (k : Nat) : Core :=
  (List.range k).foldl (fun c j => c.scratchPut (put j) n (val j)) c

section
variable (c : Core) (n : Nat) (put val : Nat → Nat)

theorem putEntries_succ (k : Nat) : putEntries c n put val (k + 1) = (putEntries c n put val k).scratchPut (put k) n (val k) := by
  rw [putEntries, List.range_succ, List.foldl_append]
  rfl

theorem putEntries_frame (k : Nat) : putEntries c n put val k = { c with
    scratch := (putEntries c n put val k).scratch, poison := (putEntries c n put val k).poison, wins := (putEntries c n put val k).wins } := by
  induction k with
  | zero => rfl
  | succ k ih =>
    rw [putEntries_succ, scratchPut_frame]
    generalize (putEntries c n put val k).scratchPut (put k) n (val k) = written
    rw [ih]

theorem putEntries_behind (k : Nat) (i : BitVec 16) (l : List Nat) : { putEntries c n put val k with wi := i, poison := l } = { c with
    scratch := (putEntries c n put val k).scratch, poison := l, wins := (putEntries c n put val k).wins, wi := i } := by
  have frame := putEntries_frame c n put val k
  generalize putEntries c n put val k = written at frame ⊢
  rw [frame]

theorem putEntries_v (k : Nat) : (putEntries c n put val k).v = c.v := by rw [putEntries_frame]

/-- Entries that only depend on vector registers may be taken from the registers as they stood. -/
theorem foldl_scratchPut_eq (g : Core → Nat → Nat) (same : ∀ c' j, c'.v = c.v → g c' j = g c j) (k : Nat) :
    (List.range k).foldl (fun c j => c.scratchPut (put j) n (g c j)) c = putEntries c n put (g c) k := by
  induction k with
  | zero => rfl
  | succ k ih => rw [List.range_succ, List.foldl_append, ih, putEntries_succ, ← same _ k (putEntries_v c n put (g c) k)]; rfl

variable {c} (wf : Memory.wf c.scratch = true)
include wf

theorem putEntries_wf (k : Nat) : Memory.wf (putEntries c n put val k).scratch = true := by
  induction k with
  | zero => exact wf
  | succ k ih => rw [putEntries_succ]; exact scratchWrite_wf ih _ _

theorem putEntries_byte {x : Nat} : ∀ {k : Nat}, (∀ j < k, x < put j ∨ put j + n ≤ x) → (putEntries c n put val k).byte x = c.byte x
  | 0, _ => rfl
  | k + 1, apart => by
    have last := apart k (Nat.lt_succ_self k)
    rw [putEntries_succ, scratchPut_byte (putEntries_wf n put val wf k), if_neg (by omega)]
    exact putEntries_byte fun j below => apart j (Nat.lt_succ_of_lt below)

/-- Every entry is read back from its place. -/
theorem putEntries_read {j : Nat} : ∀ {k : Nat}, (∀ i < k, ∀ j < k, i ≠ j → put i + n ≤ put j ∨ put j + n ≤ put i) → j < k →
    (putEntries c n put val k).scratchRead (put j) n = val j % 256 ^ n
  | k + 1, apart, below => by
    rw [putEntries_succ, Core.scratchRead, scratchPut_scratch]
    by_cases last : j = k
    · rw [last, memRead_memPut_same (putEntries_wf n put val wf k)]
    · have earlier : j < k := by omega
      rw [memRead_memPut_apart (putEntries_wf n put val wf k) (apart j below k (Nat.lt_succ_self k) last)]
      exact putEntries_read (fun i hi j hj => apart i (Nat.lt_succ_of_lt hi) j (Nat.lt_succ_of_lt hj)) earlier

end

/-- Entries of 16 bytes at consecutive places of a ring that holds more than k of them do not overlap. -/
theorem ring_apart {len k i j : Nat} (base wi : Nat) (rows : 16 ∣ len) (room : 16 * k ≤ len) (hi : i < k) (hj : j < k) (differ : i ≠ j) :
    base + (wi + 16 * i) % len + 16 ≤ base + (wi + 16 * j) % len ∨ base + (wi + 16 * j) % len + 16 ≤ base + (wi + 16 * i) % len := by
  have phase (m : Nat) : (wi + 16 * m) % len % 16 = wi % 16 := by rw [Nat.mod_mod_of_dvd _ rows, Nat.add_mul_mod_self_left]
  have hpi := phase i
  have hpj := phase j
  have distinct : (wi + 16 * i) % len ≠ (wi + 16 * j) % len := fun same => by
    have same : 16 * i ≡ 16 * j [MOD len] := Nat.ModEq.add_left_cancel' wi same
    have same := same.eq_of_lt_of_lt (by omega) (by omega)
    omega
  omega

end Sys2Proof.Proofs

end

/-! O23, the return queue, the whey queue and the streaming reduction at issue (R159 to R163). -/
section

namespace Sys2Proof.Proofs
open Sys2Proof.Machine Sys2Proof.Laws

/-! ### The whey queue (R160, R165) -/

/-- A whey queue that passes the checks of every VDEFER and VDRAIN. -/
structure LegalWhey (c : Core) : Prop where
  base : c.wheyBase % 512 = 0
  rows : c.wheyLen % 512 = 0
  least : 512 ≤ c.wheyLen
  most : c.wheyLen ≤ 65536
  inside : c.wheyBase + c.wheyLen ≤ 0x100000

theorem LegalWhey.of_rules {c : Core} (rules : c.wheyBase % 512 = 0 ∧ c.wheyLen % 512 = 0 ∧ 512 ≤ c.wheyLen ∧ c.wheyLen ≤ 65536 ∧
    c.wheyBase + c.wheyLen ≤ 0x100000) : LegalWhey c := by
  obtain ⟨base, rows, least, most, inside⟩ := rules
  exact ⟨base, rows, least, most, inside⟩

theorem wheyTrap_none {c : Core} (legal : LegalWhey c) (need k : Nat) : c.wheyTrap need k = none := by
  obtain ⟨base, rows, least, most, inside⟩ := legal
  rw [Core.wheyTrap, if_neg (by omega), if_neg (by omega)]

theorem wheyOcc_eq {c : Core} (legal : LegalWhey c) :
    c.wheyOcc = (((c.wi.toNat : Int) - c.ri.toNat) % c.wheyLen / 16).toNat := by
  have some : c.wheyLen ≠ 0 := by have := legal.least; omega
  have low : c.ri.toNat % c.wheyLen < c.wheyLen := Nat.mod_lt _ (Nat.pos_of_ne_zero some)
  have occ : c.wheyOcc = (c.wi.toNat + c.wheyLen - c.ri.toNat % c.wheyLen) % c.wheyLen / 16 := if_neg some
  have turns : (c.wi.toNat : Int) - c.ri.toNat =
      (c.wi.toNat + c.wheyLen - c.ri.toNat % c.wheyLen : Nat) + c.wheyLen * (-(c.ri.toNat / c.wheyLen : Nat) - 1) := by
    have whole : (c.ri.toNat : Int) = c.wheyLen * (c.ri.toNat / c.wheyLen : Nat) + (c.ri.toNat % c.wheyLen : Nat) := by
      exact_mod_cast (Nat.div_add_mod c.ri.toNat c.wheyLen).symm
    rw [Nat.cast_sub (by omega)]
    push_cast at whole ⊢
    linarith
  rw [occ, turns, Int.add_mul_emod_self_left]
  rfl

theorem wheyAccess_ok {s : State} {offs : List Nat} {reads : Bool} (f : Core → Core)
    (free : ∀ o ∈ offs, s.c.bankConflict o 16 = false ∧ s.c.needsFill o 16 = false)
    (clean : ∀ o ∈ offs, reads = true → s.c.scratchPoisoned o 16 = false) :
    wheyAccess offs reads f s = .ok { s with c := f s.c } := by
  have banks : offs.find? (fun o => s.c.bankConflict o 16) = none := List.find?_eq_none.mpr fun o ho => Bool.eq_false_iff.mp (free o ho).1
  have filled : offs.any (fun o => s.c.needsFill o 16) = false := List.any_eq_false.mpr fun o ho => Bool.eq_false_iff.mp (free o ho).2
  have sound : offs.find? (fun o => reads && s.c.scratchPoisoned o 16) = none := List.find?_eq_none.mpr fun o ho both => by
    obtain ⟨read, poisoned⟩ := Bool.and_eq_true_iff.mp both
    rw [clean o ho read] at poisoned
    cases poisoned
  rw [wheyAccess, banks]
  dsimp only
  rw [filled, sound]
  rfl

/-- The place of the entry j entries from an index on. -/
def wheyPlace (c : Core) (i j : Nat) : Nat := c.wheyBase + (i + 16 * j) % c.wheyLen

theorem wheyOffs_eq (c : Core) (i n : Nat) : c.wheyOffs i n = (List.range n).map (wheyPlace c i) := rfl

theorem forall_mem_wheyOffs {c : Core} {i n : Nat} {P : Nat → Prop} (each : ∀ j < n, P (wheyPlace c i j)) : ∀ o ∈ c.wheyOffs i n, P o := by
  intro o place
  rw [wheyOffs_eq] at place
  obtain ⟨j, below, rfl⟩ := List.mem_map.mp place
  exact each j (List.mem_range.mp below)

/-! ### VDEFER (R161) -/

/-- The lanes that a VDEFER enters. -/
def deferLanes (c : Core) (p : PReg) : List Nat := (List.range 128).filter (fun i => (c.rp p).getLsbD (4 * i))

/-- Entry j of a VDEFER. -/
def deferEntry (c : Core) (a b e : Reg) (p : PReg) (n j : Nat) : Nat :=
  wheyEntry ((deferLanes c p).getD j 0) n (c.rv a) (c.rv b) (c.rv e)

theorem deferEntry_lt (c : Core) (a b e : Reg) (p : PReg) (n : Nat) {j : Nat} (below : j < (deferLanes c p).length) :
    deferEntry c a b e p n j < 256 ^ 16 := by
  have lanes : (deferLanes c p).getD j 0 < 128 := by
    rw [List.getD_eq_getElem _ _ below]
    exact List.mem_range.mp (List.mem_filter.mp (List.getElem_mem below)).1
  rw [deferEntry, wheyEntry]
  generalize (deferLanes c p).getD j 0 = i at lanes ⊢
  have x := lane_lt 32 (c.rv a) i
  have y := lane_lt 32 (c.rv b) i
  have z := lane_lt 32 (c.rv e) i
  split <;> split <;> split <;> omega

theorem foldl_zip_scratchPut (c : Core) (a b e : Reg) (n : Nat) (put : Nat → Nat) (on : List Nat) :
    (((List.range on.length).map put).zip on).foldl (fun c oi => c.scratchPut oi.1 16 (wheyEntry oi.2 n (c.rv a) (c.rv b) (c.rv e))) c =
      putEntries c 16 put (fun j => wheyEntry (on.getD j 0) n (c.rv a) (c.rv b) (c.rv e)) on.length := by
  have pairs : ((List.range on.length).map put).zip on = (List.range on.length).map (fun j => (put j, on.getD j 0)) := by
    refine List.ext_getElem (by simp) fun i inside _ => ?_
    have below : i < on.length := by simpa using inside
    simp [below]
  rw [pairs, List.foldl_map]
  exact foldl_scratchPut_eq c 16 put (fun c j => wheyEntry (on.getD j 0) n (c.rv a) (c.rv b) (c.rv e))
    (fun c' j same => by simp only [Core.rv, same]) on.length

/-- The core behind a VDEFER of k entries that wrote its scratchpad: the index goes on, and lines written whole lose their poison. -/
def behindDefer (c : Core) (k : Nat) (written : Core) : Core := { written with
  wi := BitVec.ofNat 16 ((c.wi.toNat + 16 * k) % c.wheyLen)
  poison := written.poison.filter fun l => !(List.range 4).all fun j => decide (64 * l + 16 * j ∈ c.wheyOffs c.wi.toNat k) }

/-- The core with the entries of a VDEFER in its ring. -/
def deferPut (c : Core) (a b e : Reg) (p : PReg) (n : Nat) : Core :=
  putEntries c 16 (wheyPlace c c.wi.toNat) (deferEntry c a b e p n) (deferLanes c p).length

theorem vdeferBody_ok {s : State} {a b e : Reg} {p : PReg} {n : Fin 4} (legal : LegalWhey s.c)
    (room : s.c.wheyOcc + (deferLanes s.c p).length ≤ s.c.wheyCap)
    (free : ∀ j < (deferLanes s.c p).length, s.c.bankConflict (wheyPlace s.c s.c.wi.toNat j) 16 = false ∧
      s.c.needsFill (wheyPlace s.c s.c.wi.toNat j) 16 = false) :
    vdeferBody a b e p n s = .ok { s with c := behindDefer s.c (deferLanes s.c p).length (deferPut s.c a b e p n.val) } := by
  have access := forall_mem_wheyOffs (P := fun o => s.c.bankConflict o 16 = false ∧ s.c.needsFill o 16 = false) free
  have puts := foldl_zip_scratchPut s.c a b e n.val (wheyPlace s.c s.c.wi.toNat) (deferLanes s.c p)
  simp only [vdeferBody, wheyTrap_none legal]
  refine (if_neg (Nat.not_lt.mpr room)).trans ((wheyAccess_ok _ access fun _ _ reads => absurd reads Bool.false_ne_true).trans ?_)
  exact congrArg (fun written => Issue.ok { s with c := behindDefer s.c (deferLanes s.c p).length written }) puts

/-- What a VDEFER that issues leaves: its entries in the ring, and the write index behind them (R161). -/
theorem exec_vdefer {s : State} {a b e : Reg} {p : PReg} {n : Fin 4} (issues : s.Issues (.vdefer a b e p n)) (legal : LegalWhey s.c)
    (room : s.c.wheyOcc + (deferLanes s.c p).length ≤ s.c.wheyCap)
    (free : ∀ j < (deferLanes s.c p).length, s.c.bankConflict (wheyPlace s.c s.c.wi.toNat j) 16 = false ∧
      s.c.needsFill (wheyPlace s.c s.c.wi.toNat j) 16 = false) :
    let c := deferPut s.c a b e p n.val
    ∃ l, exec (.vdefer a b e p n) s = .next (s.after { s.c with
      scratch := c.scratch, poison := l, wins := c.wins
      wi := BitVec.ofNat 16 ((s.c.wi.toNat + 16 * (deferLanes s.c p).length) % s.c.wheyLen) }) := by
  have works := vdeferBody_ok (a := a) (b := b) (e := e) (n := n) legal room free
  rw [behindDefer, deferPut, putEntries_behind] at works
  unfold exec
  exact ⟨_, slotExec_effect issues rfl works rfl⟩

/-- Each entry is read back from its place: no two overlap, as the queue holds them all at once. -/
theorem deferPut_read {c : Core} {a b e : Reg} {p : PReg} {n : Nat} (wf : Memory.wf c.scratch = true) (legal : LegalWhey c)
    (room : c.wheyOcc + (deferLanes c p).length ≤ c.wheyCap) {j : Nat} (below : j < (deferLanes c p).length) :
    (deferPut c a b e p n).scratchRead (wheyPlace c c.wi.toNat j) 16 = deferEntry c a b e p n j := by
  have rows : 16 ∣ c.wheyLen := Dvd.dvd.trans (by decide) (Nat.dvd_of_mod_eq_zero legal.rows)
  have fits : 16 * (deferLanes c p).length ≤ c.wheyLen := by
    have most := (Nat.le_add_left _ _).trans room
    rw [Core.wheyCap] at most
    omega
  have apart : ∀ i < (deferLanes c p).length, ∀ j < (deferLanes c p).length, i ≠ j →
      wheyPlace c c.wi.toNat i + 16 ≤ wheyPlace c c.wi.toNat j ∨ wheyPlace c c.wi.toNat j + 16 ≤ wheyPlace c c.wi.toNat i :=
    fun i hi j hj => ring_apart _ _ rows fits hi hj
  rw [deferPut, putEntries_read 16 _ _ wf apart below, Nat.mod_eq_of_lt (deferEntry_lt c a b e p n below)]

theorem deferPut_byte {c : Core} {a b e : Reg} {p : PReg} {n x : Nat} (wf : Memory.wf c.scratch = true)
    (apart : ∀ j < (deferLanes c p).length, x < wheyPlace c c.wi.toNat j ∨ wheyPlace c c.wi.toNat j + 16 ≤ x) :
    (deferPut c a b e p n).byte x = c.byte x := putEntries_byte 16 _ _ wf apart

/-! ### VDRAIN (R162) -/

/-- The words h of entries, with zeros behind them. -/
def batchVector (es : List Nat) (h : Nat) : Vec := BitVec.ofNat 4096 (packLanes 32 (es.map fun e => bits e (32 * h) 32))

/-- The words h of the m entries that a VDRAIN takes. -/
def drainVector (c : Core) (m h : Nat) : Vec := batchVector ((c.wheyOffs c.ri.toNat m).map fun o => c.scratchRead o 16) h

theorem lane_drainVector (c : Core) (m h : Nat) {i : Nat} (small : i < 128) :
    lane 32 (drainVector c m h) i = if i < m then field (c.scratchRead (wheyPlace c c.ri.toNat i) 16) (4 * h) 4 else 0 := by
  rw [drainVector, batchVector, wheyOffs_eq, List.map_map, List.map_map, lane_packLanes _ (by decide) (by omega)]
  by_cases taken : i < m
  · have place : 8 * (4 * h) = 32 * h := by omega
    rw [getD_map_range _ _ _ taken, if_pos taken, field, place]
    exact Nat.mod_mod ..
  · rw [getD_map_range_ge _ _ _ (not_lt.mp taken), if_neg taken, Nat.zero_mod]

/-- The write of a batch's vector h, of a VDRAIN to the vector registers from d on. -/
def drainWrite (d : Reg) (age h : Nat) (v : Vec) : Entry := ⟨.vector (Fin.ofNat 32 (d.val + h)), v.toNat, 0, 6, age, 4⟩

theorem foldl_enterV (d : Reg) (v : Nat → Vec) : ∀ (l : List Nat) (c : Core),
    l.foldl (fun c h => c.enterV 4 6 (Fin.ofNat 32 (d.val + h)) (v h)) c =
      { c with shadow := c.shadow ++ l.map fun h => drainWrite d c.age h (v h) }
  | [], c => by rw [List.foldl_nil, List.map_nil, List.append_nil]
  | h :: l, c => by
    rw [List.foldl_cons, foldl_enterV d v l, List.map_cons, ← List.singleton_append, ← List.append_assoc]
    rfl

theorem drainEnter_eq (c : Core) (d sc : Reg) (p : PReg) (n : Nat) {m : Nat} (most : m ≤ 128) (es : List Nat) :
    c.drainEnter d sc p n m es = { c with
      shadow := c.shadow ++ [⟨.scalar sc, m, 0, 6, c.age, 4⟩, ⟨.pred p, 2 ^ (4 * m) - 1, 0, 6, c.age, 4⟩] ++
        (List.range (if m = 0 then 0 else n + 1)).map fun h => drainWrite d c.age h (batchVector es h) } := by
  have count : (BitVec.ofNat 64 m).toNat = m := Nat.mod_eq_of_lt (by omega)
  have mask : (BitVec.ofNat 512 (2 ^ (4 * m) - 1)).toNat = 2 ^ (4 * m) - 1 :=
    toNat_ofNat_of_lt (e := 4 * m) (Nat.sub_lt (Nat.two_pow_pos _) Nat.one_pos) (by omega)
  have entered : (c.enterS 4 6 sc (BitVec.ofNat 64 m)).enterP 4 6 p (BitVec.ofNat 512 (2 ^ (4 * m) - 1)) =
      { c with shadow := c.shadow ++ [⟨.scalar sc, m, 0, 6, c.age, 4⟩, ⟨.pred p, 2 ^ (4 * m) - 1, 0, 6, c.age, 4⟩] } := by
    rw [Core.enterS, Core.enterP, count, mask]
    simp [Core.enter]
  simp only [Core.drainEnter, entered]
  by_cases none : m = 0
  · rw [if_pos none, if_pos none]
    simp
  · rw [if_neg none, if_neg none]
    exact foldl_enterV d (batchVector es) _ _

theorem drainCount_eq {c : Core} (legal : LegalWhey c) (l : Bool) :
    c.drainCount l = let occ := (((c.wi.toNat : Int) - c.ri.toNat) % c.wheyLen / 16).toNat
      if l then Nat.min 128 occ else if occ < 128 then 0 else 128 := by
  rw [Core.drainCount, wheyOcc_eq legal]

theorem drainCount_le (c : Core) (l : Bool) : c.drainCount l ≤ 128 := by
  rw [Core.drainCount]
  split
  · exact Nat.min_le_left ..
  · split <;> omega

section
variable {s : State} {d sc : Reg} {p : PReg} {l : Bool} {n : Fin 4} {m : Nat} (legal : LegalWhey s.c) (taken : s.c.drainCount l = m)
  (free : ∀ j < m, (s.c.bankConflict (wheyPlace s.c s.c.ri.toNat j) 16 = false ∧ s.c.needsFill (wheyPlace s.c s.c.ri.toNat j) 16 = false) ∧
    s.c.scratchPoisoned (wheyPlace s.c s.c.ri.toNat j) 16 = false)
include legal taken free

theorem vdrainBody_ok : vdrainBody d sc p l n s = .ok { s with c := { s.c with
    ri := BitVec.ofNat 16 ((s.c.ri.toNat + 16 * m) % s.c.wheyLen)
    shadow := s.c.shadow ++ [⟨.scalar sc, m, 0, 6, s.c.age, 4⟩, ⟨.pred p, 2 ^ (4 * m) - 1, 0, 6, s.c.age, 4⟩] ++
      (List.range (if m = 0 then 0 else n.val + 1)).map fun h => drainWrite d s.c.age h (drainVector s.c m h) } } := by
  subst taken
  have access := forall_mem_wheyOffs (P := fun o => s.c.bankConflict o 16 = false ∧ s.c.needsFill o 16 = false) fun j below => (free j below).1
  have clean := forall_mem_wheyOffs (P := fun o => s.c.scratchPoisoned o 16 = false) fun j below => (free j below).2
  have enters := drainEnter_eq s.c d sc p n.val (drainCount_le s.c l)
    ((s.c.wheyOffs s.c.ri.toNat (s.c.drainCount l)).map fun o => s.c.scratchRead o 16)
  simp only [vdrainBody, wheyTrap_none legal]
  refine (wheyAccess_ok _ access fun o place _ => clean o place).trans ?_
  exact congrArg (fun c : Core => Issue.ok { s with c := { c with
    ri := BitVec.ofNat 16 ((s.c.ri.toNat + 16 * s.c.drainCount l) % s.c.wheyLen) } }) enters

/-- What a VDRAIN that issues leaves: the count, its predicate and the vectors of the batch, and the read index behind it (R162). -/
theorem exec_vdrain (issues : s.Issues (.vdrain d sc p l n)) : exec (.vdrain d sc p l n) s = .next (s.after { s.c with
    ri := BitVec.ofNat 16 ((s.c.ri.toNat + 16 * m) % s.c.wheyLen)
    shadow := s.c.shadow ++ [⟨.scalar sc, m, 0, 6, s.c.age, 4⟩, ⟨.pred p, 2 ^ (4 * m) - 1, 0, 6, s.c.age, 4⟩] ++
      (List.range (if m = 0 then 0 else n.val + 1)).map fun h => drainWrite d s.c.age h (drainVector s.c m h) }) := by
  unfold exec
  exact slotExec_effect issues rfl (vdrainBody_ok legal taken free) rfl

end

/-! ### VTOQ and VSRED (R159, R163) -/

theorem redIdentity_fits (r : Rop) (y : RedTy) : redIdentity r y < 2 ^ redTyBits y := by
  cases y with
  | int t => exact redIdentity_lt t r
  | fp t => cases t <;> cases r <;> decide

theorem lane_identityVec (r : Rop) (y : RedTy) {k : Nat} (small : k < 4096 / redTyBits y) :
    lane (redTyBits y) (identityVec r y) k = redIdentity r y := by
  rw [identityVec, lane_packLanes _ (redTyBits_pos y) (mul_succ_le_of_lt_div small),
    List.getD_replicate _ (show k < laneCount (redTyBits y) from small), Nat.mod_eq_of_lt (redIdentity_fits r y)]

/-- Settles O23, form by form. -/
theorem queueVectorForms : Obligations.QueueVectorForms := by
  intro s d a b e p t n l r y wf free len legal occ on k put m got
  refine ⟨fun issues room => ?vtoq, fun issues rules room access => ?vdefer, fun issues rules access => ?vdrain,
    fun issues aligned inside => ?vsred⟩
  case vtoq =>
    unfold exec
    refine slotExec_effect issues rfl (if_neg (Nat.not_le.mpr room)) ?_
    rw [extendInt_eq t (lane_lt ..)]
    rfl
  case vdefer =>
    have lawful := LegalWhey.of_rules rules
    have fits : s.c.wheyOcc + (deferLanes s.c p).length ≤ s.c.wheyCap := (wheyOcc_eq lawful).symm ▸ room
    obtain ⟨l, does⟩ := exec_vdefer issues lawful fits access
    exact ⟨{ deferPut s.c a b e p n.val with poison := l }, does, fun j below => deferPut_read wf lawful fits below,
      fun x apart => deferPut_byte wf apart⟩
  case vdrain =>
    have lawful := LegalWhey.of_rules rules
    have does := exec_vdrain lawful (drainCount_eq lawful l) access issues
    let count := if m = 0 then 0 else n.val + 1
    let vs := (List.range count).map (drainVector s.c m)
    have size : vs.length = count := by rw [List.length_map, List.length_range]
    have vector {h : Nat} (below : h < count) : vs.getD h 0 = drainVector s.c m h := getD_map_range _ _ _ below
    have writes : (List.range count).map (fun h => drainWrite d s.c.age h (drainVector s.c m h)) =
        (List.range vs.length).map fun h => drainWrite d s.c.age h (vs.getD h 0) := by
      rw [size]
      exact List.map_congr_left fun h inside => congrArg _ (vector (List.mem_range.mp inside)).symm
    rw [writes] at does
    refine ⟨vs, size, fun h inside i small => ?_, does⟩
    rw [vector (size ▸ inside)]
    exact lane_drainVector s.c m h small
  case vsred =>
    unfold exec
    exact ⟨_, fun h small => lane_identityVec r y small,
      slotExec_effect issues rfl ((if_neg (not_not.mpr aligned)).trans (if_neg (Nat.not_lt.mpr inside))) rfl⟩

end Sys2Proof.Proofs

end

/-! Tiles by their elements: squares of rows, what they pack to, and the flags of their elements (R169, R176). -/
section

namespace Sys2Proof.Proofs
open Sys2Proof.Machine Sys2Proof.Laws

/-! ### Squares of rows -/

/-- The rows of a square of 128 by 128 elements. -/
def squareRows {α : Type} (f : Nat → Nat → α) : List (List α) := (List.range 128).map (fun i => (List.range 128).map (f i))

section
variable {α β : Type}

theorem squareRows_map (f : Nat → Nat → α) (g : α → β) : (squareRows f).map (·.map g) = squareRows (fun i j => g (f i j)) := by
  simp only [squareRows, List.map_map, Function.comp_def]

theorem squareRows_getD (f : Nat → Nat → α) {i : Nat} (small : i < 128) : (squareRows f).getD i [] = (List.range 128).map (f i) :=
  getD_map_range _ _ _ small

theorem zipIdx_map_range (n : Nat) (f : Nat → α) : ((List.range n).map f).zipIdx = (List.range n).map (fun i => (f i, i)) :=
  List.ext_getElem (by simp) fun i _ _ => by simp

theorem eq_map_range_getD {n : Nat} {xs : List α} (size : xs.length = n) (d : α) : xs = (List.range n).map (xs.getD · d) :=
  List.ext_getElem (by simp [size]) fun i inside _ => by simp [inside]

end

theorem columns_squareRows (f : Nat → Nat → Nat) : columns (squareRows f) = squareRows (fun i j => f j i) := by
  refine List.map_congr_left fun j hj => ?_
  rw [squareRows, List.map_map]
  exact List.map_congr_left fun i _ => getD_map_range _ _ _ (List.mem_range.mp hj)

theorem zeroRows_eq : zeroRows = squareRows (fun _ _ => 0) := by simp [zeroRows, squareRows]

/-! ### Elements of a tile (R169) -/

theorem tileElem_eq_bits (v : TileBits) (i : Nat) {j : Nat} (small : j < 128) :
    tileElem v i j = bits (bits v.toNat (4096 * i) 4096) (32 * j) 32 := by
  rw [bits.eq_1 _ (4096 * i), bits_mod_two_pow (by omega), bits_div, show 4096 * i + 32 * j = 32 * (128 * i + j) by ring]
  rfl

theorem tileRows_eq (v : TileBits) : tileRows v = squareRows (tileElem v) := by
  rw [tileRows, lanesOf_eq, List.map_map, squareRows]
  refine List.map_congr_left fun i _ => ?_
  rw [Function.comp_apply, lanesOf_eq]
  exact List.map_congr_left fun j hj => (tileElem_eq_bits v i (List.mem_range.mp hj)).symm

theorem rowsOf_eq (o : ArrayOp) (t : TileNo) : o.rowsOf t = squareRows (tileElem o.tiles[t]) := tileRows_eq _

theorem core_rowsOf_eq (c : Core) (t : TileNo) : c.rowsOf t = squareRows (tileElem c.tiles[t]) := tileRows_eq _

theorem tileElem_zero (i j : Nat) : tileElem 0 i j = 0 := by
  have none : (0 : TileBits).toNat = 0 := BitVec.toNat_zero
  rw [tileElem, none, Nat.zero_div, Nat.zero_mod]

/-- An element of a tile whose rows are packed as numbers. -/
theorem tileElem_packLanes (rows : List Nat) {i j : Nat} (hi : i < 128) (hj : j < 128) :
    tileElem (BitVec.ofNat 524288 (packLanes 4096 rows)) i j = bits (rows.getD i 0) (32 * j) 32 := by
  rw [tileElem_eq_bits _ _ hj, bits_ofNat _ (by omega), bits_packLanes, bits_mod_two_pow (by omega)]

theorem tileElem_tileOfRows (f : Nat → Nat → Nat) {i j : Nat} (hi : i < 128) (hj : j < 128) :
    tileElem (tileOfRows (squareRows f)) i j = f i j % 2 ^ 32 := by
  rw [tileOfRows, tileElem_packLanes _ hi hj, squareRows, List.map_map, getD_map_range _ _ _ hi, Function.comp_apply, bits_packLanes,
    getD_map_range _ _ _ hj]

/-! ### Flags (R176) -/

theorem getLsbD_joinFlags (fs : List Flags) (b : Nat) : (joinFlags fs).getLsbD b = fs.any (·.getLsbD b) := by
  rw [joinFlags, getLsbD_foldl_or, getLsbD_noFlag, Bool.false_or]

theorem getLsbD_joinFlags_map {n b : Nat} (f : Nat → Flags) :
    (joinFlags ((List.range n).map f)).getLsbD b = true ↔ ∃ i < n, (f i).getLsbD b = true := by
  simp only [getLsbD_joinFlags, List.any_map, List.any_eq_true, List.mem_range, Function.comp_apply]

theorem splitRows_fst (f : Nat → Nat → Nat × Flags) : (splitRows (squareRows f)).1 = squareRows (fun i j => (f i j).1) := squareRows_map f _

theorem getLsbD_splitRows (f : Nat → Nat → Nat × Flags) (b : Nat) :
    (splitRows (squareRows f)).2.getLsbD b = true ↔ ∃ i < 128, ∃ j < 128, (f i j).2.getLsbD b = true := by
  simp only [splitRows, squareRows, List.map_map, Function.comp_def, getLsbD_joinFlags_map]

/-- Elements without flags. -/
theorem splitRows_plain (g : Nat → Nat → Nat) : splitRows (squareRows (fun i j => (g i j, 0))) = (squareRows g, 0) := by
  refine Prod.ext (splitRows_fst _) (BitVec.eq_of_getLsbD_eq fun b _ => ?_)
  rw [getLsbD_noFlag, Bool.eq_false_iff]
  intro set
  obtain ⟨i, -, j, -, set⟩ := (getLsbD_splitRows _ b).mp set
  rw [getLsbD_noFlag] at set
  exact Bool.false_ne_true set

/-! ### Products by elements (R54, R57, R58, R176, R180) -/

theorem feedRows_eq (fb : Bool) (acc : Nat → Nat → Nat) (x y : Nat → List Parts) :
    feedRows fb (squareRows acc) ((List.range 128).map x) ((List.range 128).map y) = squareRows (fun i j => feedDot fb (acc i j) (x i) (y j)) := by
  simp only [feedRows, squareRows, zipWith_map_map]

theorem partsRows_eq (fb : Bool) (v : TileBits) : (squareRows (tileElem v)).map (·.map (feedParts fb)) = (List.range 128).map (partsRow fb v) :=
  squareRows_map ..

theorem partsCols_eq (fb : Bool) (v : TileBits) :
    (columns (squareRows (tileElem v))).map (·.map (feedParts fb)) = (List.range 128).map (partsCol fb v) := by
  rw [columns_squareRows]
  exact squareRows_map ..

/-- A product of two tiles by rows of the first and columns of the second. -/
theorem tileProduct_eq (fb : Bool) (acc : Nat → Nat → Nat) (v w : TileBits) :
    tileProduct fb (squareRows acc) (squareRows (tileElem v)) (squareRows (tileElem w)) =
      splitRows (squareRows (fun i j => feedDot fb (acc i j) (partsRow fb v i) (partsCol fb w j))) := by
  rw [tileProduct, partsRows_eq, partsCols_eq, feedRows_eq]

theorem toNat_ofInt_eq_intBits (w : Nat) (z : Int) : (BitVec.ofInt w z).toNat = intBits w z := by
  rw [BitVec.toNat_ofInt, intBits]

/-- The INT8 sum is that of the products of the signed bytes, modulo 2^32 (R54). -/
theorem int8Dot_eq (acc a b : Nat) : int8Dot acc a b =
    (BitVec.ofInt 32 (acc + ((List.range 256).map (fun k => signedLane 8 (bits a (8 * k) 8) * signedLane 8 (bits b (8 * k) 8))).sum)).toNat := by
  have signed (x k : Nat) : intValue true 8 (x / 2 ^ (8 * k) % 2 ^ 8) = signedLane 8 (bits x (8 * k) 8) :=
    intValue_signed (Nat.mod_lt _ (Nat.two_pow_pos 8))
  rw [toNat_ofInt_eq_intBits, int8Dot, lanesOf_eq, lanesOf_eq, zipWith_map_map]
  simp only [signed]
  rw [List.sum_eq_foldl, ← List.foldl_assoc (op := fun x y : Int => x + y), add_zero]

/-- A pass by elements: the accumulator's, with the row of A and the column of B (R176). -/
theorem passRows_eq (cap : MCapture) (h : Nat) (acc : Nat → Nat → Nat) (a b : Nat → Nat) :
    passRows cap h (squareRows acc) ((List.range 128).map a) ((List.range 128).map b) =
      squareRows (fun i j => passElem cap h (acc i j) (a i) (b j) i j) := by
  simp only [passRows, squareRows, List.zip_map', zipIdx_map_range, List.map_map, Function.comp_def, passElem, ← int8Dot_eq]
  rfl

end Sys2Proof.Proofs

end

/-! O24, the words of slot M at issue (R166, R168, R174, R175, R178). -/
section

namespace Sys2Proof.Proofs
open Sys2Proof.Machine Sys2Proof.Laws

/-! ### Regions and captures -/

theorem regionTrap_none {c : Core} {off n : Nat} (ok : c.regionOk off n) : regionTrap off n = none := by
  obtain ⟨aligned, inside, group, -⟩ := ok
  rw [regionTrap, if_neg (not_not.mpr aligned), if_neg (Nat.not_lt.mpr inside), if_neg (not_not.mpr group)]

theorem groupTrap_none {c : Core} {off n g : Nat} (ok : c.regionOk off n) (group : off / 2 ^ 18 = g) : groupTrap off n g = none := by
  rw [groupTrap, regionTrap_none ok]
  exact if_pos group

theorem withFill_region {f : State → Issue} {s : State} {off n : Nat} (ok : s.c.regionOk off n) : withFill [(off, n)] f s = f s := by
  obtain ⟨-, -, -, filled⟩ := ok
  exact withFill_single filled

theorem withFill_regions {f : State → Issue} {s : State} {a b n m : Nat} (first : s.c.regionOk a n) (second : s.c.regionOk b m) :
    withFill [(a, n), (b, m)] f s = f s := by
  obtain ⟨-, -, -, filledA⟩ := first
  obtain ⟨-, -, -, filledB⟩ := second
  simp [withFill, filledA, filledB]

theorem afmt_eq (cap : MCapture) : cap.afmt = cap.fmt.toNat % 8 := by simp [MCapture.afmt, bits]

theorem bfmt_eq (cap : MCapture) : cap.bfmt = cap.fmt.toNat / 8 % 8 := rfl

/-- The INT8 pair has code 4 in both fields of fmt (R37, R39). -/
theorem int8_iff {cap : MCapture} : cap.int8 = true ↔ cap.fmt.toNat % 64 = 36 := by
  rw [MCapture.int8, Bool.and_eq_true, decide_eq_true_eq, decide_eq_true_eq, afmt_eq, bfmt_eq]
  omega

/-- The bytes of a B operand, from the format code of B (R170). -/
theorem passBytes_eq (cap : MCapture) : passBytes (decide (cap.bfmt = 6)) = if cap.fmt.toNat / 8 % 8 = 6 then 8192 else 32768 :=
  if_congr decide_eq_true_iff rfl rfl

theorem passBytes_short {sq4 : Bool} : passBytes sq4 = 8192 ↔ sq4 = true := by cases sq4 <;> decide

/-! ### The array takes an instruction (R166, R168) -/

section
variable {s t : State} {i : Instr} {body : State → Issue}

theorem startArray_holds (s : State) (i : Instr) (a b : Nat) (p : Pred) (total : Nat) (rows : List Nat) :
    (s.startArray i a b p total rows).c.arrayHolds i total a b := ⟨_, rfl, rfl, rfl, rfl, rfl, rfl, rfl, rfl, rfl, rfl⟩

/-- A word whose work is to start the array changes nothing else. -/
theorem exec_enters {a b total : Nat} {p : Pred} {rows : List Nat} (form : exec i s = slotExec 5 i body s) (issues : s.Issues i)
    (slot : i.slot.getD 0 = 5) (works : body s = .ok (s.startArray i a b p total rows)) :
    ∃ x, exec i s = .next (s.after { s.c with array := x }) ∧ ({ s.c with array := x } : Core).arrayHolds i total a b :=
  ⟨_, form ▸ slotExec_effect issues slot works rfl, startArray_holds ..⟩

/-- The forms without scratchpad operands. -/
theorem exec_entersPlain {b total : Nat} (form : exec i s = slotExec 5 i (plainArray i b total) s) (issues : s.Issues i)
    (slot : i.slot.getD 0 = 5) :
    ∃ x, exec i s = .next (s.after { s.c with array := x }) ∧ ({ s.c with array := x } : Core).arrayHolds i total 0 b :=
  exec_enters form issues slot rfl

/-- A word whose work leaves tiles, scratchpad and pending writes leaves them as it issues. -/
theorem slotExec_leavesUnits (issues : s.Issues i) (slot : i.slot.getD 0 = 5) (works : body s = .ok t) (stands : AllStands s t)
    (shadow : t.c.shadow = s.c.shadow) :
    slotExec 5 i body s = .next { t with verdict := .issued } ∧ t.c.tiles = s.c.tiles ∧ t.c.scratch = s.c.scratch ∧
      t.c.shadow = s.c.shadow ∧ t.mem = s.mem :=
  ⟨slotExec_ok issues slot works, congrArg Registers.tiles stands.regs, stands.scratch, shadow, stands.mem⟩

end

theorem wsRegister_shadow (s : State) (off n : Nat) : (s.wsRegister off n).c.shadow = s.c.shadow := by
  unfold State.wsRegister
  refine List.foldlRecOn (motive := fun t : State => t.c.shadow = s.c.shadow) _ _ rfl fun t stands g _ => ?_
  split
  · exact stands
  · dsimp only
    split <;> exact stands

/-! ### The checks of MLOAD (R177) -/

theorem mloadBody_ok {s : State} {t : TileNo} {a : Reg} (region : s.c.regionOk (s.c.xn a) 65536) :
    mloadBody t a s = .ok (s.startArray (.mload t a) (s.c.xn a) 0 0 128 []) := by
  have clear : regionTrap (s.c.rs a).toNat 65536 = none := regionTrap_none region
  simp only [mloadBody, clear]
  exact withFill_region region

/-! ### The checks of MMUL (R175) -/

section
variable {s : State} {i : Instr} {a b : Reg} {g : Fin 4} {h : Fin 8} {n : Nat} (bytes : passBytes (decide (s.c.capture.bfmt = 6)) = n)
  (region : s.c.regionOk (s.c.xn a) 32768) (group : s.c.xn a / 2 ^ 18 = g.val)
include bytes region group

/-- An MMUL whose B comes from a buffer or from a region of the scratchpad. -/
theorem mmulBody_local (pair : pairOk s.c.capture.afmt s.c.capture.bfmt = true)
    (source : h.val ≤ 1 ∨ (3 ≤ h.val ∧ h.val ≤ 6 ∧ s.c.regionOk (s.c.xn b) n ∧ s.c.xn b / 2 ^ 18 = h.val - 3 ∧ h.val - 3 ≠ g.val)) :
    mmulBody i a g h b s = .ok (s.startArray i (s.c.xn a) (if h.val ≤ 1 then 0 else s.c.xn b) 0 128 []) := by
  have known : ¬((!pairOk s.c.capture.afmt s.c.capture.bfmt) = true ∨ (h.val = 2 ∧ s.c.capture.bfmt ≠ 6 ∧ s.c.capture.bfmt ≠ 5)) := by
    rw [pair]
    rintro (no | ⟨two, -⟩)
    · exact Bool.false_ne_true no
    · omega
  have left : groupTrap (s.c.rs a).toNat 32768 g.val = none := groupTrap_none region group
  obtain buffer | ⟨scratch, -, regionB, groupB, apart⟩ := source
  · simp only [mmulBody, if_neg known, left, if_pos buffer]
    exact withFill_region region
  · have right : groupTrap (s.c.rs b).toNat n (h.val - 3) = none := groupTrap_none regionB groupB
    have noBuffer : ¬h.val ≤ 1 := by omega
    have noWeights : ¬h.val = 2 := by omega
    simp only [mmulBody, if_neg known, left, if_neg noBuffer, if_neg noWeights, bytes, right, if_neg apart]
    exact withFill_regions region regionB

/-- An MMUL that streams B from the weight store. -/
theorem mmulBody_streaming (format : s.c.capture.fmt.toNat % 64 = 48 ∨ s.c.capture.fmt.toNat % 64 = 45)
    (readable : s.wsTrap (s.c.xn b) n = none) (free : s.wsHeld (s.c.xn b) n = false) :
    ∃ rows, mmulBody i a g 2 b s = .ok ((s.wsRegister (s.c.xn b) n).startArray i (s.c.xn a) (s.c.xn b) 0 128 rows) := by
  have codes : (s.c.capture.afmt = 0 ∧ s.c.capture.bfmt = 6) ∨ (s.c.capture.afmt = 5 ∧ s.c.capture.bfmt = 5) := by
    rw [afmt_eq, bfmt_eq]
    omega
  have known : ¬((!pairOk s.c.capture.afmt s.c.capture.bfmt) = true ∨
      ((2 : Fin 8).val = 2 ∧ s.c.capture.bfmt ≠ 6 ∧ s.c.capture.bfmt ≠ 5)) := by
    obtain ⟨ha, hb⟩ | ⟨ha, hb⟩ := codes <;> rw [ha, hb] <;> decide
  have left : groupTrap (s.c.rs a).toNat 32768 g.val = none := groupTrap_none region group
  have noBuffer : ¬(2 : Fin 8).val ≤ 1 := by decide
  have weights : (2 : Fin 8).val = 2 := rfl
  unfold Core.xn at readable free
  simp only [mmulBody, if_neg known, left, if_neg noBuffer, if_pos weights, bytes, readable, free, Bool.false_eq_true, if_false]
  exact ⟨_, withFill_region region⟩

end

/-! ### MLDW (R174) -/

section
variable {s : State} {w : Fin 2} {a : Reg} {n : Nat} (bytes : passBytes (decide (s.c.capture.bfmt = 6)) = n)
include bytes

theorem mldwBody_scratch (region : s.c.regionOk (s.c.xn a) n) : mldwBody w true a s =
    .ok { s with c := { s.c with loader := some ⟨s.word, w, true, s.c.xn a, decide (s.c.capture.bfmt = 6), 0, [], s.c.age⟩ } } := by
  have clear : regionTrap (s.c.rs a).toNat n = none := regionTrap_none region
  simp only [mldwBody, if_true, bytes, clear]
  exact withFill_region region

theorem mldwBody_weights (readable : s.wsTrap (s.c.xn a) n = none) (free : s.wsHeld (s.c.xn a) n = false) :
    ∃ l : LoaderOp, l.buf = w ∧ l.fromScratch = false ∧ l.off = s.c.xn a ∧
      mldwBody w false a s = .ok { s.wsRegister (s.c.xn a) n with c := { (s.wsRegister (s.c.xn a) n).c with loader := some l } } := by
  unfold Core.xn at *
  simp only [mldwBody, Bool.false_eq_true, if_false, bytes, readable, free]
  exact ⟨_, rfl, rfl, rfl, rfl⟩

end

/-! ### MDRAIN (R178, R179) -/

theorem drainElem_eq (cap : MCapture) (ty : Ty) (x : Nat) : drainElem cap ty x = drained cap ty x := by
  simp only [drainElem, drained, MCapture.int8, Bool.and_eq_true, decide_eq_true_eq]

/-- The rows of a tile in which a NaN stands (R179). -/
def nanRows (v : TileBits) : Nat := ((List.range 128).filter (fun i => (List.range 128).any (fun j => (fp32.value (tileElem v i j)).isNaN))).length

/-- The tile's flag set joined with the flags of the conversions of enabled rows (R178). -/
def drainFlags (cap : MCapture) (ty : Ty) (p : Pred) (t : TileBits) (f : Flags) : Flags :=
  f ||| joinFlags (((List.range 128).filter (drainRow p)).map (fun i =>
    joinFlags ((List.range 128).map (fun j => (drained cap ty (tileElem t i j)).2))))

theorem drainStatus_eq (cap : MCapture) (ty : Ty) (p : Pred) (t : TileBits) (f : Flags) :
    drainStatus cap ty p t f = 2 ^ 8 * (if cap.fmt.toNat % 64 = 36 then 0 else nanRows t) + (drainFlags cap ty p t f).toNat := by
  simp only [drainStatus, tileRows_eq, squareRows, zipIdx_map_range, List.filter_map, List.length_map, List.map_map, Function.comp_def,
    drainElem_eq, List.any_map, int8_iff]
  rw [Nat.mul_comm]
  rfl

theorem flags_lt (f : Flags) : f.toNat < 2 ^ 8 := f.isLt.trans (by decide)

section
variable (cap : MCapture) (ty : Ty) (p : Pred) (t : TileBits) (f : Flags)

theorem drainStatus_div : drainStatus cap ty p t f / 256 = if cap.fmt.toNat % 64 = 36 then 0 else nanRows t := by
  have low := flags_lt (drainFlags cap ty p t f)
  rw [drainStatus_eq]
  omega

theorem drainStatus_mod : drainStatus cap ty p t f % 256 = (drainFlags cap ty p t f).toNat := by
  have low := flags_lt (drainFlags cap ty p t f)
  rw [drainStatus_eq]
  omega

theorem testBit_drainStatus {x : Nat} (small : x < 5) : (drainStatus cap ty p t f).testBit x = true ↔
    f.getLsbD x = true ∨ ∃ i < 128, p.getLsbD (4 * i) = true ∧ ∃ j < 128, (drained cap ty (tileElem t i j)).2.getLsbD x = true := by
  rw [drainStatus_eq, Nat.testBit_two_pow_mul_add _ (flags_lt _), if_pos (by omega), BitVec.testBit_toNat, drainFlags, BitVec.getLsbD_or,
    Bool.or_eq_true, getLsbD_joinFlags, List.any_map, List.any_eq_true]
  simp only [Function.comp_apply, getLsbD_joinFlags_map, List.mem_filter, List.mem_range, and_assoc]
  rfl

end

theorem mdrainBody_ok {s : State} {t : TileNo} {a : Reg} {ty : Ty} {p : PReg} {clr : Bool}
    (region : s.c.regionOk (s.c.xn a) (16384 * drainWidth ty)) :
    ∃ o : ArrayOp, o.pred = s.c.rp p ∧
      ({ s.c with array := some o } : Core).arrayHolds (.mdrain t a ty p clr) (32 * drainWidth ty) (s.c.xn a) 0 ∧
      mdrainBody t a ty p clr s = .ok { s with c := { s.c with
        array := some o
        shadow := s.c.shadow ++ [⟨.tstat t, drainStatus s.c.capture ty (s.c.rp p) s.c.tiles[t] s.c.tflags[t], 0, 6, s.c.age, 5⟩] } } := by
  have clear : regionTrap (s.c.rs a).toNat (16384 * drainWidth ty) = none := regionTrap_none region
  have holds := startArray_holds s (.mdrain t a ty p clr) (s.c.xn a) 0 (s.c.rp p) (drainTime ty) []
  simp only [mdrainBody, clear]
  exact ⟨_, rfl, holds, withFill_region region⟩

end Sys2Proof.Proofs

end

/-! O24, the issue cycles of the array: the rows that MLOAD and MMUL read, and those that MDRAIN writes (R166, R178, R185). -/
section

namespace Sys2Proof.Proofs
open Sys2Proof.Machine Sys2Proof.Laws

/-! ### Reading (R185) -/

theorem unitCycle_array {c : Core} {o : ArrayOp} (busy : c.array = some o) : c.unitCycle.array = (c.arrayCycle o).array := by
  simp only [Core.unitCycle, busy]
  split <;> rfl

section
variable {c : Core} {o : ArrayOp} {t : TileNo} {a b : Reg} {g : Fin 4} {h : Fin 8} (busy : c.array = some o)
include busy

theorem unitCycle_mload (load : o.instr = .mload t a) : c.unitCycle.array =
    some { o with cyc := o.cyc + 1, aRows := o.aRows ++ [c.scratchRead (o.a + 512 * o.cyc) 512] } := by
  rw [unitCycle_array busy]
  simp only [Core.arrayCycle, load]

theorem unitCycle_mmul (pass : o.instr = .mmul t a g h b) : c.unitCycle.array = some { o with
    cyc := o.cyc + 1, aRows := o.aRows ++ [c.scratchRead (o.a + 256 * o.cyc) 256]
    bRows := if h.val ≤ 2 then o.bRows else o.bRows ++
      [if o.cap.bfmt = 6 then c.scratchRead (o.b + 64 * o.cyc) 64 else c.scratchRead (o.b + 256 * o.cyc) 256] } := by
  rw [unitCycle_array busy]
  simp only [Core.arrayCycle, pass]
  obtain few | more := Nat.lt_or_ge h.val 3
  · rw [if_neg (Nat.not_le.mpr few), if_pos (Nat.le_of_lt_succ few)]
  · rw [if_pos more, if_neg (Nat.not_le.mpr more)]
    split <;> rfl

end

/-! ### A number read back from its bytes (R5) -/

theorem scratchRead_of_bytes {c : Core} (wf : Memory.wf c.scratch = true) {off n v : Nat}
    (bytes : ∀ k < n, c.byte (off + k) = BitVec.ofNat 8 (v / 256 ^ k)) : c.scratchRead off n = v % 256 ^ n := by
  rw [Core.scratchRead, memRead_eq wf, ← natOfBytes_digits]
  exact congrArg _ (List.map_congr_left fun k hk => bytes k (List.mem_range.mp hk))

/-! ### Writing (R178) -/

/-- Row i of a drain as a number. -/
def drainNumber (o : ArrayOp) (t : TileNo) (ty : Ty) (i : Nat) : Nat :=
  packLanes (8 * drainWidth ty) (((o.rowsOf t).getD i []).map (fun x => (drainElem o.cap ty x).1))

/-- The row of a drain that the byte at x belongs to. -/
def drainPlace (o : ArrayOp) (ty : Ty) (x : Nat) : Nat := (x - o.a) / (128 * drainWidth ty)

theorem drainWidth_pos (ty : Ty) : 0 < drainWidth ty := by cases ty <;> decide

/-- A row of a drain takes 512, 256 or 128 bytes, so that a cycle's rows fill 512. -/
theorem drainWidth_mul (ty : Ty) : 128 * drainWidth ty * (4 / drainWidth ty) = 512 := by cases ty <;> decide

/-- Rows of a drain, one after another. -/
def drainRows (c : Core) (o : ArrayOp) (t : TileNo) (ty : Ty) (l : List Nat) : Core := l.foldl (fun c i => c.drainRowOut o t ty i) c

section
variable {c : Core} (o : ArrayOp) (t : TileNo) (ty : Ty) (wf : Memory.wf c.scratch = true)
include wf

theorem drainRowOut_wf (i : Nat) : Memory.wf (c.drainRowOut o t ty i).scratch = true := by
  unfold Core.drainRowOut
  split
  · exact scratchWrite_wf wf _ _
  · exact wf

theorem drainRows_wf : ∀ l : List Nat, Memory.wf (drainRows c o t ty l).scratch = true :=
  fun l => List.foldlRecOn (motive := fun c : Core => Memory.wf c.scratch = true) l _ wf fun _ ih i _ => drainRowOut_wf o t ty ih i

/-- An enabled row stores its number at its place, and nothing else (R178). -/
theorem drainRowOut_byte (i x : Nat) : (c.drainRowOut o t ty i).byte x =
    if o.a ≤ x ∧ drainPlace o ty x = i ∧ drainRow o.pred i = true then
      BitVec.ofNat 8 (drainNumber o t ty i / 256 ^ ((x - o.a) % (128 * drainWidth ty))) else c.byte x := by
  unfold Core.drainRowOut
  by_cases enabled : drainRow o.pred i = true
  · simp only [enabled, if_true, and_true]
    rw [scratchPut_byte wf]
    have pos : 0 < 128 * drainWidth ty := Nat.mul_pos (by decide) (drainWidth_pos ty)
    have size : 128 * drainWidth ty * (i + 1) = 128 * drainWidth ty * i + 128 * drainWidth ty := Nat.mul_succ ..
    have place : (o.a + 128 * drainWidth ty * i ≤ x ∧ x < o.a + 128 * drainWidth ty * i + 128 * drainWidth ty) ↔
        o.a ≤ x ∧ drainPlace o ty x = i := by
      rw [drainPlace, Nat.div_eq_iff pos, Nat.mul_comm i]
      omega
    by_cases here : o.a ≤ x ∧ drainPlace o ty x = i
    · have start : x - (o.a + 128 * drainWidth ty * i) = (x - o.a) % (128 * drainWidth ty) := by
        rw [Nat.mod_eq_sub_mul_div, show (x - o.a) / (128 * drainWidth ty) = i from here.2, Nat.sub_sub]
      rw [if_pos here, if_pos (place.mpr here), start]
      rfl
    · rw [if_neg here, if_neg (mt place.mp here)]
  · rw [if_neg enabled, if_neg fun here => enabled here.2.2]

theorem drainRows_byte (l : List Nat) (x : Nat) : (drainRows c o t ty l).byte x =
    if o.a ≤ x ∧ drainPlace o ty x ∈ l ∧ drainRow o.pred (drainPlace o ty x) = true then
      BitVec.ofNat 8 (drainNumber o t ty (drainPlace o ty x) / 256 ^ ((x - o.a) % (128 * drainWidth ty))) else c.byte x := by
  induction l generalizing c with
  | nil => exact (if_neg fun h => List.not_mem_nil h.2.1).symm
  | cons i l ih =>
    rw [drainRows, List.foldl_cons, ← drainRows, ih (drainRowOut_wf o t ty wf i), drainRowOut_byte o t ty wf]
    by_cases later : o.a ≤ x ∧ drainPlace o ty x ∈ l ∧ drainRow o.pred (drainPlace o ty x) = true
    · rw [if_pos later, if_pos ⟨later.1, List.mem_cons_of_mem _ later.2.1, later.2.2⟩]
    · rw [if_neg later]
      by_cases here : drainPlace o ty x = i
      · subst here
        simp only [List.mem_cons_self, true_and]
      · rw [if_neg fun h => here h.2.1, if_neg]
        rintro ⟨low, inside, enabled⟩
        exact later ⟨low, (List.mem_cons.mp inside).resolve_left here, enabled⟩

/-- Element j of an enabled row, where its row is written. -/
theorem drainRows_element {l : List Nat} {i j : Nat} (inside : i ∈ l) (hi : i < 128) (hj : j < 128) (enabled : drainRow o.pred i = true) :
    (drainRows c o t ty l).scratchRead (o.a + 128 * drainWidth ty * i + drainWidth ty * j) (drainWidth ty) =
      (drained o.cap ty (tileElem o.tiles[t] i j)).1 % 256 ^ drainWidth ty := by
  have element : drainNumber o t ty i / 256 ^ (drainWidth ty * j) % 256 ^ drainWidth ty =
      (drained o.cap ty (tileElem o.tiles[t] i j)).1 % 256 ^ drainWidth ty := by
    have lane := bits_packLanes (8 * drainWidth ty) (((o.rowsOf t).getD i []).map (fun x => (drainElem o.cap ty x).1)) j
    rw [bits, Nat.mul_assoc, Nat.pow_mul, Nat.pow_mul 2 8] at lane
    refine lane.trans ?_
    rw [rowsOf_eq, squareRows_getD _ hi, List.map_map, getD_map_range _ _ _ hj, Function.comp_apply, drainElem_eq]
  rw [← element]
  refine scratchRead_of_bytes (drainRows_wf o t ty wf l) fun k hk => ?_
  have size : drainWidth ty * (j + 1) ≤ drainWidth ty * 128 := Nat.mul_le_mul_left _ hj
  rw [Nat.mul_succ, Nat.mul_comm _ 128] at size
  have offset : o.a + 128 * drainWidth ty * i + drainWidth ty * j + k - o.a = 128 * drainWidth ty * i + (drainWidth ty * j + k) := by omega
  have small : drainWidth ty * j + k < 128 * drainWidth ty := by omega
  have place : drainPlace o ty (o.a + 128 * drainWidth ty * i + drainWidth ty * j + k) = i := by
    rw [drainPlace, offset, Nat.mul_add_div (by omega), Nat.div_eq_of_lt small, Nat.add_zero]
  rw [drainRows_byte o t ty wf, place, if_pos ⟨by omega, inside, enabled⟩, offset, Nat.mul_add_mod, Nat.mod_eq_of_lt small,
    Nat.div_div_eq_div_mul, Nat.pow_add]

end

/-- The rows that a cycle of MDRAIN writes (R178). -/
def cycleRows (ty : Ty) (cyc : Nat) : List Nat := (List.range (4 / drainWidth ty)).map (fun j => 4 / drainWidth ty * cyc + j)

theorem mem_cycleRows {ty : Ty} {cyc i : Nat} : i ∈ cycleRows ty cyc ↔ i / (4 / drainWidth ty) = cyc := by
  have pos : 0 < 4 / drainWidth ty := by cases ty <;> decide
  rw [cycleRows, List.mem_map, Nat.div_eq_iff pos, Nat.mul_comm cyc]
  constructor
  · rintro ⟨j, small, rfl⟩
    have := List.mem_range.mp small
    omega
  · intro between
    exact ⟨i - 4 / drainWidth ty * cyc, List.mem_range.mpr (by omega), by omega⟩

theorem drainRows_loader (c : Core) (o : ArrayOp) (t : TileNo) (ty : Ty) (l : List Nat) : (drainRows c o t ty l).loader = c.loader := by
  refine List.foldlRecOn (motive := fun d : Core => d.loader = c.loader) l _ rfl fun d same i _ => ?_
  rw [← same]
  unfold Core.drainRowOut
  split
  · dsimp only
    rw [scratchPut_frame]
  · rfl

/-- A cycle of MDRAIN beside an idle loader writes its rows to the scratchpad and nothing else to it. -/
theorem unitCycle_mdrain {c : Core} {o : ArrayOp} {t : TileNo} {a : Reg} {ty : Ty} {p : PReg} {clr : Bool} (busy : c.array = some o)
    (drain : o.instr = .mdrain t a ty p clr) (alone : c.loader = none) :
    c.unitCycle = { drainRows c o t ty (cycleRows ty o.cyc) with array := some { o with cyc := o.cyc + 1 } } := by
  have cycle : c.arrayCycle o = { drainRows c o t ty (cycleRows ty o.cyc) with array := some { o with cyc := o.cyc + 1 } } := by
    simp only [Core.arrayCycle, drain, drainRows, cycleRows, List.foldl_map]
  have idle := (drainRows_loader c o t ty (cycleRows ty o.cyc)).trans alone
  simp only [Core.unitCycle, busy, cycle, idle]

section
variable {c : Core} {o : ArrayOp} {t : TileNo} {a : Reg} {ty : Ty} {p : PReg} {clr : Bool} (busy : c.array = some o)
  (drain : o.instr = .mdrain t a ty p clr) (alone : c.loader = none) (wf : Memory.wf c.scratch = true)
include busy drain alone wf

theorem unitCycle_mdrain_element {i j : Nat} (hi : i < 128) (hj : j < 128) (enabled : o.pred.getLsbD (4 * i) = true)
    (now : i / (4 / drainWidth ty) = o.cyc) :
    c.unitCycle.scratchRead (o.a + 128 * drainWidth ty * i + drainWidth ty * j) (drainWidth ty) =
      (drained o.cap ty (tileElem o.tiles[t] i j)).1 % 256 ^ drainWidth ty := by
  rw [unitCycle_mdrain busy drain alone]
  exact drainRows_element o t ty wf (mem_cycleRows.mpr now) hi hj enabled

/-- A byte that is not of an enabled row of the cycle stays. -/
theorem unitCycle_mdrain_byte {x : Nat} (other : x < o.a + 512 * o.cyc ∨ o.a + 512 * o.cyc + 512 ≤ x ∨
    o.pred.getLsbD (4 * ((x - o.a) / (128 * drainWidth ty))) = false) : c.unitCycle.byte x = c.byte x := by
  rw [unitCycle_mdrain busy drain alone]
  refine (drainRows_byte o t ty wf _ x).trans (if_neg ?_)
  rintro ⟨low, now, enabled⟩
  rw [mem_cycleRows, drainPlace, Nat.div_div_eq_div_mul, drainWidth_mul] at now
  obtain before | behind | off := other
  · omega
  · omega
  · exact Bool.false_ne_true (off.symm.trans enabled)

end

end Sys2Proof.Proofs

end

/-! O24, what the units of slot M leave as their last issue cycle has passed (R166, R174, R176 to R181). -/
section

namespace Sys2Proof.Proofs
open Sys2Proof.Machine Sys2Proof.Laws

/-! ### The end of the array's instruction (R166, R186) -/

theorem clearProg_cr (c : Core) (lo n : Nat) {r : Fin 96} (other : r ≠ crProg) : (c.clearProg lo n).cr r = c.cr r :=
  (cr_setCr ..).trans (if_neg other.symm)

theorem clearArrayProg_cr (c : Core) {r : Fin 96} (other : r ≠ crProg) : c.clearArrayProg.cr r = c.cr r := by
  rw [Core.clearArrayProg, clearProg_cr _ _ _ other, clearProg_cr _ _ _ other]

theorem tstatReg_ne_crProg (t : TileNo) : tstatReg t ≠ crProg := by
  revert t
  decide

theorem not_isMiter {o : ArrayOp} {i : Instr} (form : o.instr = i) (other : ∀ t a m, i ≠ .miter t a m) : o.isMiter = false := by
  unfold ArrayOp.isMiter
  split
  · next t a m miter => exact absurd (form.symm.trans miter) (other t a m)
  · rfl

theorem arrayEnd_eq {c : Core} {o : ArrayOp} (busy : c.array = some o) (plain : o.isMiter = false) (past : o.total ≤ o.cyc) :
    c.arrayEnd = ({ c.arrayWrite o with array := none } : Core).clearArrayProg := by
  simp only [Core.arrayEnd, busy, plain, Bool.false_or, decide_eq_false (Nat.not_lt.mpr past), Bool.false_eq_true, if_false]

/-! ### Tiles behind a write -/

theorem vector_set_other {α : Type} {n : Nat} (v : Vector α n) {t u : Fin n} (x : α) (other : u ≠ t) : (v.set t x)[u] = v[u] :=
  Vector.getElem_set_ne _ _ fun same => other (Fin.ext same.symm)

section
variable {s : State} {k : CoreId} {o : ArrayOp} {t : TileNo} (busy : (s.core k).array = some o) (plain : o.isMiter = false)
  (past : o.total ≤ o.cyc)
include busy plain past

/-- An instruction whose only tile is t leaves there the elements and the flag set that it writes. -/
theorem leavesTile_of_set {w : Core} {v : TileBits} {g old : Flags} {status : Bool} {f : Nat → Nat → Nat × Flags}
    (writes : (s.core k).arrayWrite o = w) (tiles : w.tiles = (s.core k).tiles.set t v) (tflags : w.tflags = (s.core k).tflags.set t g)
    (scratch : w.scratch = (s.core k).scratch) (cleared : status = true → w.cr (tstatReg t) = 0)
    (elements : ∀ i < 128, ∀ j < 128, tileElem v i j = (f i j).1 % 2 ^ 32)
    (flags : ∀ b < 5, g.getLsbD b = true ↔ old.getLsbD b = true ∨ ∃ i < 128, ∃ j < 128, (f i j).2.getLsbD b = true) :
    s.leavesTile k t old status f := by
  have ends := arrayEnd_eq busy plain past
  rw [writes] at ends
  have tile : (s.core k).arrayEnd.tiles = (s.core k).tiles.set t v := ends ▸ tiles
  have flagSet : (s.core k).arrayEnd.tflags = (s.core k).tflags.set t g := ends ▸ tflags
  refine ⟨(s.core k).arrayEnd, rfl, arrayEnd_frees busy plain past, ends ▸ scratch, fun asked => ?_, fun i hi j hj => ?_, fun b hb => ?_,
    fun u other => ?_⟩
  · rw [ends]
    exact (clearArrayProg_cr _ (tstatReg_ne_crProg t)).trans (cleared asked)
  · rw [← elements i hi j hj, tile]
    exact congrArg (tileElem · i j) (Vector.getElem_set_self _)
  · rw [← flags b hb, flagSet]
    exact iff_of_eq (congrArg (fun x : Flags => x.getLsbD b = true) (Vector.getElem_set_self _))
  · rw [tile, flagSet]
    exact ⟨vector_set_other _ _ other, vector_set_other _ _ other⟩

/-- Results given by elements, whose flags join those of the tile (R176). -/
theorem leavesTile_putTile {f : Nat → Nat → Nat × Flags}
    (writes : (s.core k).arrayWrite o = (s.core k).putTile t (splitRows (squareRows f))) :
    s.leavesTile k t ((s.core k).tflags[t]) false f := by
  refine leavesTile_of_set busy plain past writes rfl rfl rfl nofun (fun i hi j hj => ?_) fun b _ => ?_
  · rw [splitRows_fst, tileElem_tileOfRows _ hi hj]
  · rw [BitVec.getLsbD_or, Bool.or_eq_true, getLsbD_splitRows]

/-- A tile that is loaded has an empty flag set and a status of 0 (R177). -/
theorem leavesTile_load {v : TileBits} {x : Nat → Nat → Nat} (elements : ∀ i < 128, ∀ j < 128, tileElem v i j = x i j % 2 ^ 32)
    (writes : (s.core k).arrayWrite o = ((s.core k).clearTile t v).setCr (tstatReg t) 0) :
    s.leavesTile k t 0 true (fun i j => (x i j, 0)) :=
  leavesTile_of_set busy plain past writes rfl rfl rfl (fun _ => (cr_setCr ..).trans (if_pos rfl)) elements fun b _ => by simp

end

/-! ### What each form writes (R176 to R181) -/

section
variable {c : Core} {o : ArrayOp} {t u v : TileNo} {a b d : Reg} {g : Fin 4} {h : Fin 8} {ty : Ty} {p : PReg} {clr : Bool}

/-- Column j of the B operand of a pass: from a buffer, else as read in the cycles (R170, R185). -/
def passColumn (c : Core) (o : ArrayOp) (h : Fin 8) (j : Nat) : Nat :=
  let w := if o.cap.bfmt = 6 then 512 else 2048
  if h.val ≤ 1 then bits (c.wbuf.toList.getD h.val 0).toNat (w * j) w else o.bRows.getD j 0

theorem passB_eq (cols : h.val ≤ 1 ∨ o.bRows.length = 128) :
    c.passB o h = ((List.range 128).map (passColumn c o h), if h.val = 1 then 1 else 0) := by
  have first : c.wbuf.toList.getD 0 0 = c.wbuf[0] := (List.getD_eq_getElem _ _ (by simp)).trans (Vector.getElem_toList _)
  have second : c.wbuf.toList.getD 1 0 = c.wbuf[1] := (List.getD_eq_getElem _ _ (by simp)).trans (Vector.getElem_toList _)
  unfold Core.passB passColumn
  dsimp only
  obtain zero | one | more : h.val = 0 ∨ h.val = 1 ∨ 2 ≤ h.val := by omega
  · simp only [zero, if_true, Nat.zero_le, zero_ne_one, if_false, lanesOf_eq, first]
    rfl
  · simp only [one, if_true, le_refl, one_ne_zero, if_false, lanesOf_eq, second]
    rfl
  · rw [if_neg (by omega), if_neg (by omega)]
    simp only [if_neg (show ¬h.val ≤ 1 by omega), if_neg (show ¬h.val = 1 by omega), ← eq_map_range_getD (cols.resolve_left (by omega)) 0]

theorem arrayWrite_mmul (pass : o.instr = .mmul t a g h b) (rows : o.aRows.length = 128) (cols : h.val ≤ 1 ∨ o.bRows.length = 128) :
    c.arrayWrite o = c.putTile t (splitRows (squareRows (fun i j =>
      passElem o.cap (if h.val = 1 then 1 else 0) (tileElem o.tiles[t] i j) (o.aRows.getD i 0) (passColumn c o h j) i j))) := by
  simp only [Core.arrayWrite, pass, passB_eq cols, rowsOf_eq]
  rw [eq_map_range_getD rows 0, passRows_eq, ← eq_map_range_getD rows 0]

theorem arrayWrite_mtt (product : o.instr = .mtt t u v) : c.arrayWrite o = c.putTile t (splitRows (squareRows (fun i j =>
    feedDot o.cap.fb 0 (partsRow o.cap.fb o.tiles[u] i) (partsCol o.cap.fb o.tiles[v] j)))) := by
  simp only [Core.arrayWrite, product, rowsOf_eq, zeroRows_eq, tileProduct_eq]

theorem arrayWrite_maddt (product : o.instr = .maddt t u v) : c.arrayWrite o = c.putTile t (splitRows (squareRows (fun i j =>
    feedDot o.cap.fb (tileElem o.tiles[t] i j) (partsRow o.cap.fb o.tiles[u] i) (partsCol o.cap.fb o.tiles[v] j)))) := by
  simp only [Core.arrayWrite, product, rowsOf_eq, tileProduct_eq]

theorem arrayWrite_mscl (scale : o.instr = .mscl t u a) : c.arrayWrite o = c.putTile t (splitRows (squareRows (fun i j =>
    fpMul fp32 rneOff (tileElem o.tiles[u] i j) o.b))) := by
  simp only [Core.arrayWrite, scale, rowsOf_eq, squareRows_map]

theorem arrayWrite_mtrn (transpose : o.instr = .mtrn t u) : c.arrayWrite o = c.putTile t (splitRows (squareRows (fun i j =>
    (tileElem o.tiles[u] j i, 0)))) := by
  simp only [Core.arrayWrite, transpose, rowsOf_eq, columns_squareRows, splitRows_plain]

/-- Coefficient n of a capture (R181). -/
def captureCoef (cap : MCapture) (n : Nat) : Nat := bits (cap.mco.toList.getD n 0).toNat 0 32

/-- Row i of P in the next step of MPOLY: the leading coefficient on the diagonal at first, then the tile (R181). -/
def polyRow (c : Core) (o : ArrayOp) (t : TileNo) (k i : Nat) : List Parts :=
  if o.iter = 0 then (List.range 128).map (fun x => wholeParts (if i = x then captureCoef o.cap k else 0)) else partsRow o.cap.fb c.tiles[t] i

theorem polyStep_eq (c : Core) (o : ArrayOp) (t u : TileNo) {k : Nat} (last : k = o.iter + 1) : c.polyStep o t u k = squareRows (fun i j =>
    feedDot o.cap.fb (if i = j then captureCoef o.cap 0 else 0) (polyRow c o t k i) (partsCol o.cap.fb o.tiles[u] j)) := by
  have start (n : Nat) : diagRows n = squareRows (fun i j => if i = j then n else 0) := rfl
  have p : (if o.iter = 0 then (diagRows (captureCoef o.cap k)).map (·.map wholeParts) else (c.rowsOf t).map (·.map (feedParts o.cap.fb))) =
      (List.range 128).map (polyRow c o t k) := by
    unfold polyRow
    by_cases first : o.iter = 0
    · simp only [if_pos first, start, squareRows_map]
      rfl
    · simp only [if_neg first, core_rowsOf_eq, partsRows_eq]
  have zeroth : k - 1 - o.iter = 0 := by omega
  unfold captureCoef at p
  rw [Core.polyStep, zeroth, p, rowsOf_eq, partsCols_eq, start]
  exact feedRows_eq ..

theorem arrayWrite_mpoly {k : Fin 8} (poly : o.instr = .mpoly t u k) (step : k.val = o.iter + 1 ∨ (k.val = 0 ∧ o.iter = 0)) :
    c.arrayWrite o = c.putTile t (splitRows (squareRows (fun i j =>
      if k.val = 0 then (if i = j then captureCoef o.cap 0 else 0, 0)
      else feedDot o.cap.fb (if i = j then captureCoef o.cap 0 else 0) (polyRow c o t k i) (partsCol o.cap.fb o.tiles[u] j)))) := by
  by_cases zero : k.val = 0
  · simp only [Core.arrayWrite, poly, zero, if_true, splitRows_plain]
    rfl
  · simp only [Core.arrayWrite, poly, if_neg zero, polyStep_eq c o t u (step.resolve_right fun both => zero both.1)]

end

/-! ### MNORM, MDRAIN and MLDW (R174, R178, R180) -/

section
variable {c : Core} {o : ArrayOp} {t u : TileNo} {a d : Reg} {ty : Ty} {p : PReg} {clr : Bool} (busy : c.array = some o)
  (past : o.total ≤ o.cyc)
include busy past

theorem arrayEnd_mdrain (drain : o.instr = .mdrain t a ty p clr) : c.arrayEnd.array = none ∧
    c.arrayEnd.tiles = (if clr then c.tiles.set t 0 else c.tiles) ∧ c.arrayEnd.tflags = (if clr then c.tflags.set t 0 else c.tflags) ∧
    c.arrayEnd.scratch = c.scratch := by
  have plain : o.isMiter = false := not_isMiter drain nofun
  have writes : c.arrayWrite o = if clr then c.clearTile t 0 else c := by simp only [Core.arrayWrite, drain]
  have ends := arrayEnd_eq busy plain past
  rw [writes] at ends
  rw [ends]
  cases clr <;> exact ⟨rfl, rfl, rfl, rfl⟩

theorem arrayEnd_mnorm (norm : o.instr = .mnorm d u) :
    let r := frobenius (squareRows (tileElem o.tiles[u]))
    c.arrayEnd.array = none ∧ c.arrayEnd.tiles = c.tiles ∧ c.arrayEnd.rs d = (if d = 0 then 0 else BitVec.ofNat 64 r.1) ∧
      c.arrayEnd.tflags[u] = c.tflags[u] ||| r.2 := by
  intro r
  have plain : o.isMiter = false := not_isMiter norm nofun
  have writes : c.arrayWrite o = (c.writeS d (BitVec.ofNat 64 r.1)).joinTflags u r.2 := by simp only [Core.arrayWrite, norm, rowsOf_eq, r]
  have ends := arrayEnd_eq busy plain past
  rw [writes] at ends
  rw [ends]
  refine ⟨rfl, Core.writeS_tiles .., rs_writeS_self .., ?_⟩
  exact (Vector.getElem_set_self _).trans (by rw [Core.writeS_tflags])

end

theorem loaderEnd_eq {c : Core} {l : LoaderOp} (busy : c.loader = some l) (past : (if l.sq4 then 16 else 64) ≤ l.cyc) :
    c.loaderEnd = (({ c with
      wbuf := c.wbuf.set l.buf (BitVec.ofNat 262144 (packLanes (if l.fromScratch then 4096 else 512) l.rows))
      loader := none } : Core).clearProg 38 1).clearProg 0 6 := by
  simp only [Core.loaderEnd, busy, if_neg (Nat.not_lt.mpr past)]

/-- A buffer holds the rows of an MLDW that has ended, and 0 beyond them (R174). -/
theorem bits_loaded {n i : Nat} (rows : List Nat) (width : n ∣ 262144) (inside : n * i < 262144) :
    bits (BitVec.ofNat 262144 (packLanes n rows)).toNat (n * i) n = rows.getD i 0 % 2 ^ n := by
  obtain ⟨m, size⟩ := width
  have below : i < m := Nat.lt_of_mul_lt_mul_left (inside.trans_eq size)
  have fits : n * i + n ≤ 262144 := (Nat.mul_le_mul_left n below).trans_eq size.symm
  rw [bits_ofNat _ fits, bits_packLanes]

/-! ### The units together -/

/-- Settles O24: at issue by the checks of each form, in the cycles by the rows they read and write, and at the end by the elements
that each form writes. -/
theorem arrayTakesInstruction : Obligations.ArrayTakesInstruction := by
  intro s t u v a b d p ty clr m g w k h id o ld prod off pass enters streams z drains c holds ends fb was coef
  have bytes : passBytes (decide (s.c.capture.bfmt = 6)) = pass := passBytes_eq _
  refine ⟨?mzero, ?mload, ?mmul, ?mmulStreaming, ?mldwWeights, ?mdrain, ?mtt, ?maddt, ?mscl, ?mtrn, ?mnorm, ?mpoly, ?miter, ?mldwScratch,
    ?loadCycle, ?passCycle, ?drainCycle, ?zeroEnds, ?loadEnds, ?passEnds, ?drainEnds, ?productEnds, ?sumEnds, ?scaleEnds, ?transposeEnds,
    ?normEnds, ?polyEnds, ?loaderEnds⟩
  case mzero | mtt | maddt | mtrn | mnorm => exact fun issues => exec_entersPlain rfl issues rfl
  case mscl =>
    have low : bits (s.c.rs a).toNat 0 32 = s.c.xn a % 2 ^ 32 := by rw [bits, Nat.pow_zero, Nat.div_one, Core.xn]
    exact fun issues => low ▸ exec_entersPlain rfl issues rfl
  case mpoly =>
    exact fun issues apart => exec_enters (body := fun s => if t = u then .trap s.illegal5 else plainArray (.mpoly t u k) 0 1 s) rfl issues rfl
      (if_neg apart)
  case miter =>
    intro issues tiles
    have legal : ¬decide (t = u) = m := by
      obtain ⟨rfl, same⟩ | ⟨rfl, apart⟩ := tiles
      · simp [same]
      · simp [apart]
    exact exec_enters (body := fun s => if decide (t = u) = m then .trap s.illegal5 else plainArray (.miter t u m) 0 s.c.capture.productTime s)
      rfl issues rfl (if_neg legal)
  case mload => exact fun issues region => exec_enters (body := mloadBody t a) rfl issues rfl (mloadBody_ok region)
  case mmul =>
    intro issues pair region group source
    exact exec_enters (body := mmulBody (.mmul t a g h b) a g h b) rfl issues rfl
      (mmulBody_local bytes region group (by rwa [afmt_eq, bfmt_eq]) source)
  case mmulStreaming =>
    intro issues format region group readable free
    obtain ⟨rows, works⟩ := mmulBody_streaming bytes region group format readable free
    obtain ⟨next, stands⟩ := slotExec_leavesUnits issues rfl works ((wsRegister_stands ..).trans (startArray_stands ..)) (wsRegister_shadow ..)
    exact ⟨_, next, startArray_holds .., rfl, stands⟩
  case mldwWeights =>
    intro issues readable free
    obtain ⟨l, buf, source, offset, works⟩ := mldwBody_weights bytes readable free
    obtain ⟨next, stands⟩ := slotExec_leavesUnits issues rfl works ((wsRegister_stands ..).trans ⟨⟨rfl, rfl, rfl, rfl, rfl⟩, rfl, rfl⟩)
      (wsRegister_shadow ..)
    exact ⟨_, l, next, rfl, buf, source, offset, rfl, stands⟩
  case mdrain =>
    intro issues _ region
    obtain ⟨o, pred, holds, works⟩ := mdrainBody_ok region
    refine ⟨o, _, slotExec_effect issues rfl works rfl, holds, pred, drainStatus_div .., ?_, fun x small => testBit_drainStatus _ _ _ _ _ small⟩
    rw [drainStatus_mod]
    exact BitVec.isLt _
  case mldwScratch =>
    intro issues region
    refine ⟨_, slotExec_effect issues rfl (mldwBody_scratch bytes region) rfl, rfl, rfl, rfl, rfl, rfl, ?_⟩
    rw [← bytes]
    exact passBytes_short.symm
  case loadCycle => exact fun ⟨busy, load⟩ => unitCycle_mload busy load
  case passCycle => exact fun ⟨busy, form⟩ => unitCycle_mmul busy form
  case drainCycle =>
    intro ⟨busy, drain⟩ _ _ wf alone
    exact ⟨fun i hi enabled now j hj => unitCycle_mdrain_element busy drain alone wf hi hj enabled now,
      fun x other => unitCycle_mdrain_byte busy drain alone wf other⟩
  case zeroEnds =>
    intro ⟨⟨busy, zero⟩, past⟩
    refine leavesTile_load busy (not_isMiter zero nofun) past (fun i _ j _ => tileElem_zero i j) ?_
    simp only [Core.arrayWrite, zero]
  case loadEnds =>
    intro ⟨⟨busy, load⟩, past⟩ _
    refine leavesTile_load busy (not_isMiter load nofun) past (fun i hi j hj => ?_) (by simp only [Core.arrayWrite, load]; rfl)
    rw [tileElem_packLanes _ hi hj]
    exact (Nat.mod_mod ..).symm
  case passEnds =>
    intro ⟨⟨busy, form⟩, past⟩ rows cols
    exact leavesTile_putTile busy (not_isMiter form nofun) past (arrayWrite_mmul form rows cols)
  case drainEnds =>
    intro ⟨⟨busy, drain⟩, past⟩
    exact ⟨_, rfl, arrayEnd_mdrain busy past drain⟩
  case productEnds =>
    exact fun ⟨⟨busy, form⟩, past⟩ => leavesTile_putTile busy (not_isMiter form nofun) past (arrayWrite_mtt form)
  case sumEnds =>
    exact fun ⟨⟨busy, form⟩, past⟩ => leavesTile_putTile busy (not_isMiter form nofun) past (arrayWrite_maddt form)
  case scaleEnds =>
    exact fun ⟨⟨busy, form⟩, past⟩ => leavesTile_putTile busy (not_isMiter form nofun) past (arrayWrite_mscl form)
  case transposeEnds =>
    exact fun ⟨⟨busy, form⟩, past⟩ => leavesTile_putTile busy (not_isMiter form nofun) past (arrayWrite_mtrn form)
  case normEnds =>
    intro ⟨⟨busy, norm⟩, past⟩
    exact ⟨_, rfl, arrayEnd_mnorm busy past norm⟩
  case polyEnds =>
    exact fun ⟨⟨busy, form⟩, past⟩ step => leavesTile_putTile busy (not_isMiter form nofun) past (arrayWrite_mpoly form step)
  case loaderEnds =>
    intro busy past
    refine ⟨c.loaderEnd, rfl, ?_⟩
    rw [loaderEnd_eq busy past]
    refine ⟨rfl, fun x other => vector_set_other _ _ other, fun i inside => ?_⟩
    have width : (if ld.fromScratch then 4096 else 512) ∣ 262144 := by split <;> decide
    exact (congrArg (fun v : WBuf => bits v.toNat _ _) (Vector.getElem_set_self _)).trans (bits_loaded ld.rows width inside)

end Sys2Proof.Proofs

end

/-! Stream commands become outstanding, and a command's checks (O30, O29) -/
section
namespace Sys2Proof.Proofs
open Sys2Proof.Machine Sys2Proof.Laws

theorem streamIssue_pass {s : State} {i : Instr} {x : Xc} {a b : Word} {align : Nat} (free : s.takesTag x)
    (good : align = 0 ∨ (b.toNat < 2 ^ 49 ∧ b.toNat % align = 0)) :
    streamIssue i x a b align s = addCmd { s.cmd0 i x 0 with opA := a, opB := b } s := by
  refine (cmdStart_pass free).trans ?_
  rw [if_neg (by omega), if_neg (by omega)]

theorem streamIssue_misaligned {s : State} {i : Instr} {x : Xc} {a b : Word} {align : Nat} (free : s.takesTag x)
    (checked : align ≠ 0) (small : b.toNat < 2 ^ 49) (odd : b.toNat % align ≠ 0) :
    streamIssue i x a b align s = .trap ⟨.misaligned, addrInfo b.toNat⟩ := by
  refine (cmdStart_pass free).trans ?_
  rw [if_neg (by omega), if_pos ⟨checked, odd⟩]

/-- Settles O30: the scalars are captured where the address is aligned. -/
theorem streamCommandsBecomeOutstanding : Obligations.StreamCommandsBecomeOutstanding := by
  intro s a b x free made
  have makes {i : Instr} {a b : Word} {align : Nat} (issues : s.Issues i) (slot : i.slot.getD 0 = 7)
      (good : align = 0 ∨ (b.toNat < 2 ^ 49 ∧ b.toNat % align = 0)) :=
    slotExec_addCmd issues slot (streamIssue_pass (i := i) (a := a) (align := align) free good)
  have traps {i : Instr} {a b : Word} {align : Nat} (issues : s.Issues i) (slot : i.slot.getD 0 = 7) (checked : align ≠ 0)
      (small : b.toNat < 2 ^ 49) (odd : b.toNat % align ≠ 0) :=
    slotExec_trap issues slot (streamIssue_misaligned (i := i) (a := a) free checked small odd)
  refine ⟨fun issues small => ?_, fun issues small => ?_, fun issues => makes issues rfl (.inl rfl), fun issues => makes issues rfl (.inl rfl),
    fun issues => makes issues rfl (.inl rfl)⟩
  all_goals
    split
    · exact makes issues rfl (.inr ⟨small, ‹_›⟩)
    · exact traps issues rfl (by decide) small ‹_›

theorem exec_described {s : State} {i : Instr} {a b : Reg} {x : Xc}
    (form : i ∈ [.xcp a x, .xcph a b x, .xmc a b x, .xga a b x, .xsc a b x, .xgate a x, .launch a x, .wjw a x, .wjc a x, .wja a x, .wjd a x,
      .xhash a x, .xsign a x, .xvfy a x]) :
    i.slot.getD 0 = 7 ∧ ∃ k : Nat → Prep, exec i s = slotExec 7 i (cmdStart x (localOperand (s.c.xn a) 64 64 k)) s := by
  simp only [List.mem_cons, List.not_mem_nil, or_false] at form
  rcases form with rfl | rfl | rfl | rfl | rfl | rfl | rfl | rfl | rfl | rfl | rfl | rfl | rfl | rfl <;> exact ⟨rfl, _, rfl⟩

theorem localOperand_misaligned {s : State} {off n align : Nat} {k : Nat → Prep} (odd : off % align ≠ 0) :
    localOperand off n align k s = .trap ⟨.misaligned, addrInfo off⟩ := if_pos odd

theorem localOperand_beyond {s : State} {off n align : Nat} {k : Nat → Prep} (aligned : off % align = 0) (past : s.c.scratchSize < off + n) :
    localOperand off n align k s = .trap ⟨.scratchRange, addrInfo off⟩ := by
  simp only [localOperand, aligned, ne_eq, not_true_eq_false, if_false, past, if_true]

theorem localOperand_reserved {s : State} {off n align : Nat} {k : Nat → Prep} (aligned : off % align = 0) (inside : off + n ≤ s.c.scratchSize)
    (reserved : s.c.bankConflict off n = true) : localOperand off n align k s = .trap ⟨.bankConflict, addrInfo off⟩ := by
  simp only [localOperand, aligned, ne_eq, not_true_eq_false, if_false, Nat.not_lt.mpr inside, reserved, if_true]

theorem localOperand_poisoned {s : State} {off n align : Nat} {k : Nat → Prep} (aligned : off % align = 0) (inside : off + n ≤ s.c.scratchSize)
    (free : s.c.bankConflict off n = false) (filled : s.c.needsFill off n = false) (poisoned : s.c.scratchPoisoned off n = true) :
    localOperand off n align k s = .trap ⟨.poisonConsumed, addrInfo off⟩ := by
  simp only [localOperand, aligned, ne_eq, not_true_eq_false, if_false, Nat.not_lt.mpr inside, free, filled, poisoned, Bool.false_eq_true, if_true]

/-- Settles O29: the checks of the order fields and the tag, then those of the descriptor in their order. -/
theorem commandChecks : Obligations.CommandChecks := by
  intro s i a b x issues form off
  obtain ⟨slot, k, runs⟩ := exec_described (s := s) form
  rw [runs]
  have traps {t : Trap} (free : s.takesTag x) (bad : localOperand off 64 64 k s = .trap t) :
      slotExec 7 i (cmdStart x (localOperand off 64 64 k)) s = .next (s.trapNow t) :=
    slotExec_trap issues slot ((cmdStart_pass free).trans bad)
  refine ⟨fun taken => slotExec_trap issues slot (cmdStart_fail taken), fun free odd => traps free (localOperand_misaligned odd),
    fun free aligned past => traps free (localOperand_beyond aligned past),
    fun free aligned inside reserved => traps free (localOperand_reserved aligned inside reserved),
    fun free aligned inside unreserved filled poisoned => traps free (localOperand_poisoned aligned inside unreserved filled poisoned)⟩

end Sys2Proof.Proofs
end

/-! Wear, hints, power and events (O35) -/
section
namespace Sys2Proof.Proofs
open Sys2Proof.Machine Sys2Proof.Laws

theorem logEntry_sameCores (s : State) (code : Nat) (coreno : Word) (ctx wld pay ext : Nat) :
    SameCores s (s.logEntry code coreno ctx wld pay ext) := by
  unfold State.logEntry
  exact ⟨rfl, rfl⟩

/-- An entry behind a release that is performed is recorded. -/
theorem exec_evtArrives {s : State} {n ctx age : Nat} {v : Word} (only : s.c.ilk = [⟨.evt n ctx v, none, age⟩]) (h : s.released) :
    exec (.interlockedResultArrives s.c.id 0) s = .next
      ((s.observeTick.logEntry n (corenoOf s.umpire.standby s.c.id) ctx (s.ctx ctx).wld v.toNat 0).setCore { s.c with ilk := [] }) := by
  have arrives := releasedArrives_of_released only h
  show execInterlockedResultArrives s.c.id 0 s = _
  unfold execInterlockedResultArrives
  rw [core_self, only]
  have gone : dropNth s.c.ilk 0 = [] := by rw [only]; rfl
  refine congrArg Host.Outcome.next (arrives.trans ?_)
  have tick : SameCores s s.observeTick := ⟨rfl, rfl⟩
  simp only [State.releasedOp, State.deliver, (tick.trans (logEntry_sameCores ..)).core, core_self, gone]

/-- Settles O35: each form passes its check or traps in it, and the entry of XEVT is recorded when its release is performed. -/
theorem wearHintPowerAndEventForms : Obligations.WearHintPowerAndEventForms := by
  intro s d a b code n ctx age v
  refine ⟨fun issues => ⟨fun small => ?wear, fun large => ?beyond⟩, ?hints,
    fun issues => ⟨fun small => ?power, fun large => ?reserved⟩, fun issues => ⟨fun may => ?event, fun low other => ?privilege⟩, exec_evtArrives⟩
  case wear => exact slotExec_effect (body := fun s => _) issues rfl (if_neg (Nat.not_le.mpr small)) rfl
  case beyond => exact slotExec_trap (body := fun s => _) issues rfl (if_pos large)
  case hints =>
    intro issues some few readable entry good
    have entries : ((List.range (s.c.xn b)).map entry).all hintOk = true := by
      rw [List.all_map, List.all_eq_true]
      exact fun j hj => decide_eq_true (good j (List.mem_range.mp hj))
    exact ⟨_, slotExec_ok issues rfl ((require_pass (decide_eq_true ⟨some, few⟩)).trans ((localOperand_pass readable).trans
      (require_pass entries))), rfl, List.map_map⟩
  case power => exact slotExec_effect issues rfl (require_pass (decide_eq_true small)) rfl
  case reserved => exact slotExec_trap issues rfl (require_fail (decide_eq_false (Nat.not_lt.mpr large)))
  case event =>
    have passes : ¬(code.toNat < 128 ∧ s.c.id ≠ .umpire) := fun ⟨low, other⟩ => may.elim (fun h => absurd low (Nat.not_lt.mpr h)) other
    refine slotExec_effect (body := fun s => _) issues rfl (if_neg passes) ?_
    rw [bits, Nat.pow_zero, Nat.div_one]
    rfl
  case privilege => exact ⟨_, slotExec_trap (body := fun s => _) issues rfl (if_pos ⟨low, other⟩)⟩

end Sys2Proof.Proofs
end

/-! The window commands (O33) -/
section
namespace Sys2Proof.Proofs
open Sys2Proof.Machine Sys2Proof.Laws

/-! ### XWIN (R200) -/

section
variable {s : State} {r ga : Word}

theorem regionOk_of (small : r.toNat < 2 ^ 32) (aligned : r.toNat % 2 ^ 20 % 4096 = 0) (some : 1 ≤ r.toNat / 2 ^ 20) (few : r.toNat / 2 ^ 20 ≤ 256)
    (inside : r.toNat % 2 ^ 20 + 4096 * (r.toNat / 2 ^ 20) ≤ 0x100000) : regionOk r = true := by
  have whole : r.toNat / 2 ^ 20 % 2 ^ 12 = r.toNat / 2 ^ 20 := Nat.mod_eq_of_lt (by omega)
  simp only [regionOk, bits, Nat.pow_zero, Nat.div_one, whole, decide_eq_true_eq]
  exact ⟨small, aligned, some, few, inside⟩

theorem xwinBody_add (region : regionOk r = true) (aligned : ga.toNat % 4096 = 0) (small : ga.toNat < 2 ^ 49) (room : s.c.wins.length < 16)
    (apart : ∀ w ∈ s.c.wins, regionsMeet w.region r = false) :
    xwinBody r ga false s = .ok { s with c := { s.c with
      wins := s.c.wins ++ [⟨r, ga.toNat, List.replicate (bits r.toNat 20 12) .unfilled⟩] } } := by
  have none_meets : s.c.wins.any (fun w => regionsMeet w.region r) = false := List.any_eq_false.mpr fun w hw => by rw [apart w hw]; decide
  have address : ¬(ga.toNat % 4096 ≠ 0 ∨ 2 ^ 49 ≤ ga.toNat) := by omega
  simp only [xwinBody, region, address, Nat.not_le.mpr room, none_meets, decide_false, Bool.not_true, Bool.or_false, Bool.false_eq_true, if_false]

theorem xwinBody_drop (there : ∃ w ∈ s.c.wins, w.region = r) (free : s.c.windowBusy r = false) :
    xwinBody r ga true s = .ok { s with c := { s.c with wins := s.c.wins.filter (fun w => decide (w.region ≠ r)) } } := by
  have found : s.c.wins.any (fun w => decide (w.region = r)) = true := by
    rw [List.any_eq_true]
    exact there.imp fun w h => ⟨h.1, decide_eq_true h.2⟩
  simp only [xwinBody, found, free, Bool.not_true, Bool.false_eq_true, if_true, if_false]

end

/-! ### XWB and XINV (R201) -/

theorem pieceMask_succ (st : Piece) : ∀ (ps : List Piece) (i : Nat), pieceMask st (i + 1) ps = 2 * pieceMask st i ps
  | [], _ => rfl
  | p :: ps, i => by
    rw [pieceMask, pieceMask, pieceMask_succ st ps (i + 1), Nat.mul_add, Nat.pow_succ']
    split <;> rfl

/-- Bit j of the mask of the pieces of a state is that of piece j. -/
theorem testBit_pieceMask (st : Piece) : ∀ (ps : List Piece) (j : Nat), (pieceMask st 0 ps).testBit j = decide (ps[j]? = some st)
  | [], j => by simp [pieceMask]
  | p :: ps, 0 => by
    rw [pieceMask, pieceMask_succ, Nat.testBit_zero, Nat.add_mul_mod_self_left]
    by_cases is : p = st <;> simp [is]
  | p :: ps, j + 1 => by
    have rest : pieceMask st 0 (p :: ps) / 2 = pieceMask st 0 ps := by
      rw [pieceMask, pieceMask_succ]
      split <;> omega
    rw [Nat.testBit_succ, rest, testBit_pieceMask st ps j, List.getElem?_cons_succ]

theorem pieceMask_lt (st : Piece) (ps : List Piece) : pieceMask st 0 ps < 2 ^ ps.length := by
  refine Nat.lt_pow_two_of_testBit _ fun j beyond => ?_
  rw [testBit_pieceMask, List.getElem?_eq_none beyond]
  rfl

/-- The bits of the pieces that are not in a state. -/
theorem getLsbD_not_pieceMask {st : Piece} {ps : List Piece} (few : ps.length ≤ 256) {j : Nat} (small : j < 256) :
    (BitVec.ofNat 256 (2 ^ 256 - 1 - pieceMask st 0 ps)).getLsbD j = true ↔ ps[j]? ≠ some st := by
  have below : pieceMask st 0 ps < 2 ^ 256 := (pieceMask_lt st ps).trans_le (Nat.pow_le_pow_right (by decide) few)
  rw [BitVec.getLsbD_ofNat, Nat.sub_sub, Nat.add_comm 1, Nat.testBit_two_pow_sub_succ below, testBit_pieceMask]
  simp [small]

theorem xwbBody_pass {s : State} {i : Instr} {r : Word} {x : Xc} {w : Window} (free : s.takesTag x)
    (found : s.c.wins.find? (fun w => decide (w.region = r)) = some w) :
    xwbBody i r x s = addCmd { s.cmd0 i x 0 with
        opA := r, boxes := w.pieces.length, bitmap := BitVec.ofNat 256 (2 ^ 256 - 1 - pieceMask .dirty 0 w.pieces) }
      { s with c := s.c.onWindow r (fun w => { w with pieces := w.pieces.map (fun p => if p = .dirty then .clean else p) }) } := by
  refine (cmdStart_pass free).trans ?_
  simp only [found]

theorem xinvBody_pass {s : State} {i : Instr} {r : Word} {x : Xc} (free : s.takesTag x) (there : ∃ w ∈ s.c.wins, w.region = r) :
    xinvBody i r x s = addCmd { s.cmd0 i x 0 with opA := r }
      { s with c := s.c.onWindow r (fun w => { w with pieces := w.pieces.map (fun p => if p = .filling then .filling else .unfilled) }) } := by
  have found : s.c.wins.any (fun w => decide (w.region = r)) = true := by
    rw [List.any_eq_true]
    exact there.imp fun w h => ⟨h.1, decide_eq_true h.2⟩
  refine (cmdStart_pass free).trans ?_
  simp only [found, Bool.not_true, Bool.false_eq_true, if_false]

/-! ### XCAN (R199) -/

/-- A command that a mask names and that XCAN ends (R199). -/
def cancelled (mask : Word) (m : Cmd) : Bool := mask.getLsbD m.tag.val && (m.hasBoxes || m.fault.isSome)

/-- A later journal form of the core that issued a cancelled one (R210). -/
def lostWith (cmds : List Cmd) (mask : Word) (m : Cmd) : Bool :=
  m.isJournal && cmds.any (fun g => cancelled mask g && g.isJournal && decide (g.core = m.core ∧ g.seq < m.seq))

theorem foldl_id {α β : Type} {f : α → β → α} (l : List β) (kept : ∀ a, ∀ b ∈ l, f a b = a) (a : α) : l.foldl f a = a :=
  List.foldlRecOn l f (motive := fun t => t = a) rfl fun t ht b hb => (kept t b hb).trans ht

/-- What XCAN leaves of a state: without the commands that are out and those that are lost, without the launches of those that have gone, and with
a wait for those that are left. -/
def withdrawn (s : State) (cmds : List Cmd) (out lost : Cmd → Bool) (gone : Nat → Bool) (waits : List (Fin 64)) : State := { s with
  others := s.others.map (fun e => (e.1, { e.2 with cmds := e.2.cmds.filter (fun m => !lost m) }))
  launches := s.launches.filter (fun l => !(decide (l.issuer = s.c.id) && gone l.seq))
  c := { s.c with
    cmds := cmds.filter (fun m => !out m)
    flow := { s.c.flow with wait := if waits.isEmpty then s.c.flow.wait else some (.xcan waits) } } }

theorem any_cancelled (mask : Word) (cmds : List Cmd) (p : Cmd → Bool) :
    ((cmds.filter (fun m => mask.getLsbD m.tag.val)).filter (fun m => m.hasBoxes || m.fault.isSome)).any p =
      cmds.any (fun g => cancelled mask g && p g) := by
  simp only [List.any_filter, cancelled, Bool.and_assoc]

theorem xcanBody_eq {s : State} {mask : Word} (kept : ∀ v ∈ s.tasks, ∀ m ∈ v.cmds, lostWith s.c.cmds mask m = false) :
    xcanBody mask s = .ok (withdrawn s s.c.cmds
      (fun m => s.c.cmds.any (fun g => cancelled mask g && decide (g.seq = m.seq)) || lostWith s.c.cmds mask m) (lostWith s.c.cmds mask)
      (fun n => s.c.cmds.any (fun g => cancelled mask g && decide (g.seq = n)))
      ((s.c.cmds.filter (fun m => mask.getLsbD m.tag.val && !cancelled mask m && !lostWith s.c.cmds mask m)).map (·.tag))) := by
  let named := s.c.cmds.filter (fun m => mask.getLsbD m.tag.val)
  let gone := named.filter (fun m => m.hasBoxes || m.fault.isSome)
  let lost (m : Cmd) : Bool := m.isJournal && gone.any (fun g => g.isJournal && decide (g.core = m.core ∧ g.seq < m.seq))
  let waits := (named.filter (fun m => !(m.hasBoxes || m.fault.isSome) && !lost m)).map (·.tag)
  have body : xcanBody mask s = .ok (withdrawn
      (s.tasks.foldl (fun s v => (v.cmds.filter lost).foldl (fun s m => s.dropCmd (.slot v.task.ctx v.task.slot) m.tag) s) s)
      s.c.cmds (fun m => gone.any (fun g => decide (g.seq = m.seq)) || lost m) lost (fun n => gone.any (fun g => decide (g.seq = n))) waits) := rfl
  have lost_eq : lost = lostWith s.c.cmds mask := by
    funext m
    simp only [lost, gone, named, any_cancelled, lostWith, Bool.and_assoc]
  have waits_eq : waits = (s.c.cmds.filter (fun m => mask.getLsbD m.tag.val && !cancelled mask m && !lostWith s.c.cmds mask m)).map (·.tag) := by
    simp only [waits, named, List.filter_filter, lost_eq]
    refine congrArg (List.map _) (List.filter_congr fun m _ => ?_)
    simp only [cancelled]
    generalize mask.getLsbD m.tag.val = is, (m.hasBoxes || m.fault.isSome) = ends, lostWith s.c.cmds mask m = gone
    decide +revert
  have saved : s.tasks.foldl (fun s v => (v.cmds.filter lost).foldl (fun s m => s.dropCmd (.slot v.task.ctx v.task.slot) m.tag) s) s = s := by
    refine foldl_id _ (fun t v hv => ?_) s
    rw [List.filter_eq_nil_iff.mpr fun m hm => by rw [lost_eq, kept v hv m hm]; exact Bool.false_ne_true]
    rfl
  rw [body, saved, waits_eq, lost_eq]
  simp only [gone, named, any_cancelled]

/-- Settles O33: what each window form leaves is what its work makes of the core's windows and commands. -/
theorem windowCommands : Obligations.WindowCommands := by
  intro s a b x w r off n onPieces made gone lost waits
  refine ⟨fun issues small aligned some few inside page far room apart => ?add, fun issues there free => ?drop,
    fun issues free found few => ?writeBack, fun issues free there => ?invalidate, fun issues savedKept => ?cancel⟩
  case add =>
    have whole : bits r.toNat 20 12 = n := Nat.mod_eq_of_lt (by omega)
    refine slotExec_effect issues rfl (xwinBody_add (regionOk_of small aligned some few inside) page far room apart) ?_
    rw [whole]
    rfl
  case drop => exact slotExec_effect issues rfl (xwinBody_drop there free) rfl
  case writeBack =>
    exact ⟨_, slotExec_effect issues rfl ((xwbBody_pass free found).trans (addCmd_eq ..)) rfl, fun j small => getLsbD_not_pieceMask few small⟩
  case invalidate => exact slotExec_effect issues rfl ((xinvBody_pass free there).trans (addCmd_eq ..)) rfl
  case cancel =>
    refine slotExec_effect issues rfl (xcanBody_eq savedKept) ?_
    simp only [withdrawn, List.isEmpty_iff]
    rfl

end Sys2Proof.Proofs
end

/-! A copy box of a core that answers to another's name (O28) -/
section
namespace Sys2Proof.Proofs
open Sys2Proof.Machine Sys2Proof.Laws

/-- A copy of 64 bytes from local offset 0 to offset 0 of core 1's scratchpad, in its one box, which has not started. -/
def lineCopy : Cmd :=
  { tag := 0, instr := .xcp 0 ⟨false, false, 0, 0⟩, word := 0, desc := 0x100000 * 2 ^ 64 + 64 * 2 ^ 128 + 2 ^ 160 + 2 ^ 324
    opA := 0, opB := 0, opB1 := 0, list := [], boxes := 1, bitmap := 0, started := 0, fault := none, cancelled := false, done := false
    seq := 0, fetched := [], told := false, core := .compute 0 0, ctx := 0, age := 0, covers := [], seen := [], lost := false }

/-- Core 0 of cluster 0 has a copy outstanding; under the name of core 1, where the copy writes, stands a core 0 that runs a task. -/
def misdirected : State :=
  { State.reset with
    c := { Core.dark (.compute 0 0) with cmds := [lineCopy] }
    others := [(.compute 0 1, { Core.dark (.compute 0 0) with task := some ⟨0, 0, 0, 0, 0, 0, none, 0, []⟩ })] }

/-- The tag of a copy form that may issue beside it. -/
def freeTag : Xc := ⟨false, false, 0, 1⟩

theorem misdirected_takes : misdirected.takesTag freeTag ∧ misdirected.c.operandOk (misdirected.c.xn 0) 64 64 := by decide +kernel

theorem misdirected_starts : misdirected.startsBox (.compute 0 0) lineCopy 0 := by
  refine ⟨?_, rfl, nofun, rfl, ?_, rfl, ?_, ?_, rfl, ?_, ?_, ?_, ?_, ?_⟩ <;> decide +kernel

theorem misdirected_lines :
    misdirected.boxLines (.compute 0 0) lineCopy 0 1 (fun _ => .scr (.compute 0 0) 0) (fun _ => .scr (.compute 0 1) 0) := by
  refine ⟨0x100000, by decide +kernel, by decide +kernel, by decide +kernel, by decide +kernel, by decide +kernel, by decide +kernel, by decide +kernel,
    by decide +kernel, fun j small => ?_⟩
  obtain rfl : j = 0 := by omega
  refine ⟨by decide +kernel, by decide +kernel, ?_⟩
  rintro t off (place | place) <;> cases place <;> decide +kernel

/-- What an answer leaves of core 0's command with tag 0. -/
def commandLeft : Host.Outcome State Fault Refusal → Option Cmd
  | .next u => u.cmdAt (.core (.compute 0 0)) 0
  | _ => none

/-- The box that has moved rewrites what stands under the name of core 1, and so core 0, which has no command left. -/
theorem misdirected_loses_command : commandLeft (exec (.copyBoxComplete (.core (.compute 0 0)) 0 0) misdirected) = none := by decide +kernel

/-- Refutes O28: its last clause names the core whose command moves a box and leaves the core that the box writes free, so that this one may
stand under a name that is not its own. On `misdirected` the line written to the name of core 1 replaces core 0, whose command, and with it the
bit of the box, is gone. -/
theorem not_copyCommandsBecomeOutstanding : ¬ Obligations.CopyCommandsBecomeOutstanding := by
  intro holds
  obtain ⟨-, -, -, -, -, moves⟩ := holds misdirected 0 0 freeTag misdirected_takes.1 misdirected_takes.2
  obtain ⟨moved, -⟩ := moves (.compute 0 0) lineCopy 0 1 _ _ 0 rfl misdirected_starts misdirected_lines rfl
  obtain ⟨u, ⟨answers, bit⟩, -⟩ := moved nofun
  have lost : commandLeft (.next u) = none := answers ▸ misdirected_loses_command
  have none_left : u.cmdAt (.core (.compute 0 0)) lineCopy.tag = none := lost
  rw [none_left] at bit
  cases bit

end Sys2Proof.Proofs
end

/-! Commands that end in one turn, and the security commands (O32) -/
section
namespace Sys2Proof.Proofs
open Sys2Proof.Machine Sys2Proof.Laws

/-! ### What the end of a resident command changes (R187, R228) -/

/-- The states differ in cores alone, and core k in its commands, its control registers and its ordering state alone. -/
def OnCommands (k : CoreId) (s t : State) : Prop :=
  Recored s t ∧ ∃ ms ctl ord, t.core k = { s.core k with cmds := ms, ctl := ctl, ord := ord }

theorem OnCommands.rfl {k : CoreId} {s : State} : OnCommands k s s := ⟨⟨s.c, s.others, s.cached, s.heard, Eq.refl _⟩, _, _, _, Eq.refl _⟩

theorem OnCommands.trans {k : CoreId} {s t u : State} (a : OnCommands k s t) (b : OnCommands k t u) : OnCommands k s u := by
  obtain ⟨recored, ms, ctl, ord, core⟩ := a
  obtain ⟨recored', ms', ctl', ord', core'⟩ := b
  exact ⟨recored.trans recored', ms', ctl', ord', by rw [core', core]⟩

theorem OnCommands.id {k : CoreId} {s t : State} (h : OnCommands k s t) (id : (s.core k).id = k) : (t.core k).id = k := by
  obtain ⟨-, _, _, _, core⟩ := h
  rw [core]
  exact id

theorem OnCommands.scratch {k : CoreId} {s t : State} (h : OnCommands k s t) : (t.core k).scratch = (s.core k).scratch := by
  obtain ⟨-, _, _, _, core⟩ := h
  rw [core]

theorem OnCommands.ws {k : CoreId} {s t : State} (h : OnCommands k s t) : (t.core k).ws = (s.core k).ws := by
  obtain ⟨-, _, _, _, core⟩ := h
  rw [core]

section
variable {s : State} {k : CoreId} (id : (s.core k).id = k)
include id

theorem setCore_onCommands {c : Core} (ms : List Cmd) (ctl : Vector Word 96) (ord : Machine.Ordering)
    (is : c = { s.core k with cmds := ms, ctl := ctl, ord := ord }) : OnCommands k s (s.setCore c) := by
  have named : c.id = k := by rw [is]; exact id
  exact ⟨setCore_recored s c, ms, ctl, ord, (core_setCore named).trans is⟩

theorem setCmds_onCommands (ms : List Cmd) : OnCommands k s (s.setCmds (.core k) ms) := setCore_onCommands id ms _ _ rfl

theorem putCmd_onCommands (m : Cmd) : OnCommands k s (s.putCmd (.core k) m) := setCmds_onCommands id _

theorem inherit_onCommands (ids : List Nat) : OnCommands k s (s.inherit (.core k) ids) := by
  unfold State.inherit
  split
  · exact OnCommands.rfl
  · exact setCore_onCommands id _ _ _ rfl

theorem finishCmd_onCommands (m : Cmd) : OnCommands k s (s.finishCmd (.core k) m) := by
  have inherited := inherit_onCommands id (s.engineStores m)
  have dropped := inherited.trans (setCmds_onCommands (inherited.id id)
    (((s.inherit (.core k) (s.engineStores m)).cmdsAt (.core k)).filter (fun x => decide (x.tag ≠ m.tag))))
  exact dropped.trans (setCore_onCommands (dropped.id id) _ _ _ rfl)

theorem commandEnd_onCommands (m : Cmd) : OnCommands k s (s.commandEnd (.core k) m) := by
  unfold State.commandEnd
  split
  · exact OnCommands.rfl
  split
  · exact finishCmd_onCommands id m
  · split
    · exact finishCmd_onCommands id m
    · exact OnCommands.rfl
    · exact putCmd_onCommands id _

end

/-- A command that has not faulted does its work, unless that is done, and comes to its end. -/
theorem exec_commandCompletes_some {s u : State} {r : TaskRef} {tag : Fin 64} {m m' : Cmd} (there : s.cmdAt r tag = some m) (sound : m.fault = none)
    (works : (if m.done then s else s.commandWork r m) = u) (left : u.cmdAt r tag = some m') :
    exec (.commandCompletes r tag) s = .next (u.commandEnd r m') := by
  show execCommandCompletes r tag s = _
  simp only [execCommandCompletes, there, sound, works, left, Option.isSome_none, Bool.false_eq_true, if_false]

/-- A command that has not faulted and is not done does its work; what follows changes the commands of its core alone. -/
theorem exec_commandCompletes {s u : State} {k : CoreId} {tag : Fin 64} {m : Cmd} (there : s.cmdAt (.core k) tag = some m)
    (sound : m.fault = none) (undone : m.done = false) (works : s.commandWork (.core k) m = u) (id : (u.core k).id = k) :
    ∃ t, exec (.commandCompletes (.core k) tag) s = .next t ∧ OnCommands k u t := by
  cases left : u.cmdAt (.core k) tag with
  | none =>
    refine ⟨u, ?_, OnCommands.rfl⟩
    show execCommandCompletes (.core k) tag s = _
    simp only [execCommandCompletes, there, sound, undone, works, left, Option.isSome_none, Bool.false_eq_true, if_false]
  | some m' =>
    exact ⟨_, exec_commandCompletes_some there sound (by rw [undone]; exact works) left, commandEnd_onCommands id m'⟩

/-! ### Security forms (R212) -/

theorem secIssue_pass {s : State} {m : Cmd} {ok : Bool} (good : ok = true)
    (ranges : ∀ r ∈ m.secReads ++ [m.secOut], r.1 % 64 = 0 ∧ r.1 + r.2 ≤ s.c.scratchSize ∧ s.c.needsFill r.1 r.2 = false) :
    secIssue m ok s = addCmd m s := by
  have out := ranges m.secOut (List.mem_append_right _ (List.mem_singleton_self _))
  have aligned : (ok && (m.secReads.map (·.1)).all (fun o => decide (o % 64 = 0)) && decide (m.secOut.1 % 64 = 0)) = true := by
    rw [Bool.and_eq_true, Bool.and_eq_true, List.all_map, List.all_eq_true]
    exact ⟨⟨good, fun r hr => decide_eq_true (ranges r (List.mem_append_left _ hr)).1⟩, decide_eq_true out.1⟩
  have inside : (m.secReads ++ [m.secOut]).find? (fun r => decide (s.c.scratchSize < r.1 + r.2)) = none :=
    List.find?_eq_none.mpr fun r hr => by rw [decide_eq_true_eq]; exact Nat.not_lt.mpr (ranges r hr).2.1
  have filled : (m.secReads ++ [m.secOut]).any (fun r => s.c.needsFill r.1 r.2) = false :=
    List.any_eq_false.mpr fun r hr => by rw [(ranges r hr).2.2]; decide
  refine (require_pass aligned).trans ?_
  simp only [inside, filled, Bool.false_eq_true, if_false]

/-- Every line that a range touches holds a byte of it. -/
theorem exists_byte_of_mem_linesOf {a n l : Nat} (touched : l ∈ linesOf a n) : ∃ y, a ≤ y ∧ y < a + n ∧ y / 64 = l := by
  unfold linesOf at touched
  split at touched
  · cases touched
  · obtain ⟨i, hi, rfl⟩ := List.mem_map.mp touched
    have := List.mem_range.mp hi
    exact ⟨max a (64 * (i + a / 64)), by omega, by omega, by omega⟩

/-- The security engine does a form whole where it reads no poisoned line. -/
theorem secDo_sound {c : Core} {m : Cmd} (sound : ∀ r ∈ m.secReads, ∀ y, r.1 ≤ y → y < r.1 + r.2 → y / 64 ∉ c.poison) :
    c.secDo m = (c.scratchWrite m.secOut.1 (c.secResult m), { m with done := true }) := by
  have clean : (m.secReads.flatMap (fun r => linesOf r.1 r.2)).find? (fun l => decide (l ∈ c.poison)) = none := by
    refine List.find?_eq_none.mpr fun l hl => ?_
    obtain ⟨r, hr, touched⟩ := List.mem_flatMap.mp hl
    obtain ⟨y, from', below, rfl⟩ := exists_byte_of_mem_linesOf touched
    rw [decide_eq_true_eq]
    exact sound r hr y from' below
  simp only [Core.secDo, clean]

theorem securityWork_sound {s : State} {k : CoreId} {g : Cmd} (seen : (s.core k).earlierSeen g = true) (going : (s.core k).freeze = 0)
    (filled : ∀ r ∈ g.secReads ++ [g.secOut], (s.core k).needsFill r.1 r.2 = false)
    (sound : ∀ r ∈ g.secReads, ∀ y, r.1 ≤ y → y < r.1 + r.2 → y / 64 ∉ (s.core k).poison) :
    s.securityWork (.core k) g =
      (s.setCore ((s.core k).scratchWrite g.secOut.1 ((s.core k).secResult g))).putCmd (.core k) { g with done := true } := by
  have none_waits : (g.secReads ++ [g.secOut]).filter (fun x => (s.core k).needsFill x.1 x.2) = [] :=
    List.filter_eq_nil_iff.mpr fun r hr => by rw [filled r hr]; exact Bool.false_ne_true
  simp only [State.securityWork, seen, going, none_waits, secDo_sound sound]
  rfl

theorem scratchWrite_id (c : Core) (off : Nat) (bs : List (BitVec 8)) : (c.scratchWrite off bs).id = c.id := by
  obtain ⟨x, written⟩ := scratchWrite_eq c off bs
  rw [written]

theorem commandWork_security {s : State} {r : TaskRef} {g : Cmd} (form : g.isSecurity = true) : s.commandWork r g = s.securityWork r g := by
  have plain : g.hasBoxes = false := by
    unfold Cmd.isSecurity at form
    unfold Cmd.hasBoxes
    split at form <;> simp_all
  simp only [State.commandWork, plain, form, Bool.false_eq_true, if_false, if_true]

/-- Settles O32: the ranges pass at issue, and the engine writes its result whole where no line that it reads is poisoned. -/
theorem securityCommandsBecomeOutstanding : Obligations.SecurityCommandsBecomeOutstanding := by
  intro s a x i free readable d m form
  refine ⟨fun issues ranges => ?issue, ?take⟩
  case issue =>
    rcases form with ⟨rfl, good⟩ | ⟨rfl, good⟩ | ⟨rfl, good⟩
    all_goals
      exact slotExec_addCmd issues rfl ((cmdStart_pass free).trans ((localOperand_pass readable).trans (secIssue_pass (decide_eq_true good) ranges)))
  case take =>
    intro k g out bs c taken id wf there undone sound seen going filled clean result
    obtain ⟨security, rfl, rfl⟩ : g.isSecurity = true ∧ g.secOut.1 = out ∧ c.secResult g = bs := by
      rcases result with ⟨b, y, instr, rfl, rfl⟩ | ⟨b, y, instr, rfl, rfl⟩ | ⟨b, y, instr, rfl, rfl⟩
      · simp only [Cmd.isSecurity, Cmd.secOut, Core.secResult, instr, true_and]
        rfl
      · simp only [Cmd.isSecurity, Cmd.secOut, Core.secResult, instr, true_and]
        rfl
      · simp only [Cmd.isSecurity, Cmd.secOut, Core.secResult, instr, true_and]
        exact congrArg (bytesOf 8) (Bool.cond_eq_ite ..)
    have works := (commandWork_security (r := .core k) security).trans (securityWork_sound seen going filled clean)
    have named : (c.scratchWrite g.secOut.1 (c.secResult g)).id = k := (scratchWrite_id ..).trans id
    have core := core_setCore (s := s) named
    have marked := putCmd_onCommands (s := s.setCore (c.scratchWrite g.secOut.1 (c.secResult g))) (k := k)
      (by rw [core]; exact named) { g with done := true }
    obtain ⟨t, completes, ended⟩ := exec_commandCompletes there sound undone works (marked.id (by rw [core]; exact named))
    have all := marked.trans ended
    have only := (setCore_recored s (c.scratchWrite g.secOut.1 (c.secResult g))).trans all.1
    have scratch : (t.core k).scratch = memWrite c.scratch g.secOut.1 (c.secResult g) := by rw [all.scratch, core, scratchWrite_scratch]
    refine ⟨t, completes, only.mem, only.stores, fun j small => ?_, fun y outside => ?_⟩
    · rw [Core.byte, scratch, memGet_memWrite wf, if_pos (by omega), Nat.add_sub_cancel_left]
    · rw [Core.byte, scratch, memGet_memWrite wf, if_neg (by omega)]
      rfl

end Sys2Proof.Proofs
end

/-! Launches and journal forms (O31) -/
section
namespace Sys2Proof.Proofs
open Sys2Proof.Machine Sys2Proof.Laws

/-! ### Units and their places (R379 to R382) -/

/-- What decides where a unit is served from and what it holds. -/
def mediumOf (w : WStore) : List (Nat × WUnit) × List (Nat × Seg) × List (Nat × (Nat × Nat)) × List (Nat × (Nat × Nat)) × List (Nat × Nat) × Bool :=
  (w.units, w.segs, w.remap, w.mirror, w.badCopies, w.converted)

theorem place_congr {w w' : WStore} (same : mediumOf w' = mediumOf w) (u : Nat) : w'.place u = w.place u := by
  cases w
  cases w'
  simp only [mediumOf, Prod.mk.injEq] at same
  obtain ⟨rfl, rfl, rfl, rfl, rfl, rfl⟩ := same
  rfl

theorem unit_congr {w w' : WStore} (same : mediumOf w' = mediumOf w) (u : Nat) : w'.unit u = w.unit u := by
  rw [WStore.unit, WStore.unit, place_congr same, show w'.units = w.units from congrArg Prod.fst same]

theorem count_medium (w : WStore) (u : Nat) : mediumOf (w.count u) = mediumOf w := by
  unfold WStore.count
  split <;> rfl

theorem pulse_medium (w : WStore) (u place : Nat) (x : WUnit) (fails torn : Bool) : mediumOf (w.pulse u place x fails torn) =
    mediumOf { w with units := put w.units place { x with bad := fails && (torn || isStateUnit u) } } := by
  unfold WStore.pulse
  dsimp only
  split
  · exact (count_medium ..).trans (count_medium ..)
  · exact count_medium ..

/-- A store `w'` is `w` after one attempt at unit v: it holds x, in error only where the attempt did not verify, and every unit of another place
as it was (R381). -/
def Attempted (w w' : WStore) (passes : Bool) (v : Nat) (x : WUnit) : Prop :=
  (w'.unit v = x ∨ w'.unit v = { x with bad := true }) ∧ (passes = true → w'.unit v = x) ∧ ∀ y, w.place y ≠ w.place v → w'.unit y = w.unit y

theorem Attempted.congr {w w' z z' : WStore} {passes : Bool} {v : Nat} {x : WUnit} (h : Attempted w w' passes v x)
    (before : mediumOf z = mediumOf w) (after : mediumOf z' = mediumOf w') : Attempted z z' passes v x := by
  obtain ⟨there, passed, kept⟩ := h
  simp only [Attempted, unit_congr after, unit_congr before, place_congr before]
  exact ⟨there, passed, kept⟩

theorem pulse_attempted (w : WStore) {u : Nat} {x : WUnit} (whole : x.bad = false) {fails passes : Bool} (torn : Bool)
    (verified : passes = true → fails = false) : Attempted w (w.pulse u (w.place u) x fails torn) passes u x := by
  have written (y : Nat) : (w.pulse u (w.place u) x fails torn).unit y =
      look WUnit.fresh (put w.units (w.place u) { x with bad := fails && (torn || isStateUnit u) }) (w.place y) := by
    exact unit_congr (pulse_medium ..) y
  refine ⟨?_, fun verifies => ?_, fun y other => ?_⟩
  · rw [written, look_put_same]
    cases fails && (torn || isStateUnit u)
    · exact .inl (congrArg (WUnit.mk x.data x.seq) whole.symm)
    · exact .inr rfl
  · rw [written, look_put_same, verified verifies, Bool.false_and]
    exact congrArg (WUnit.mk x.data x.seq) whole.symm
  · rw [written, look_put_other _ _ other]
    rfl

/-! ### One attempt (R381, R386) -/

section
variable {s : State} {k : CoreId} (id : (s.core k).id = k)
include id

theorem onWs_core (f : WStore → WStore) : (s.onWs k f).core k = { s.core k with ws := f (s.core k).ws } :=
  core_setCore (s := s) (x := { s.core k with ws := f (s.core k).ws }) id

theorem onWs_id (f : WStore → WStore) : ((s.onWs k f).core k).id = k := by
  rw [onWs_core id]
  exact id

omit id in
theorem onWs_freeCtr (f : WStore → WStore) : (s.onWs k f).freeCtr = s.freeCtr := by
  unfold State.onWs State.setCore
  split <;> rfl

theorem onWs_ws (f : WStore → WStore) : ((s.onWs k f).core k).ws = f (s.core k).ws := by rw [onWs_core id]

/-- One of the first five attempts at a unit, of one whose write may go on. -/
theorem unitStep_attempted {u : Nat} {x : WUnit} (few : (s.core k).ws.tries < 5) (whole : x.bad = false) :
    ∃ t r, s.unitStep k u x = (t, r) ∧ r ≠ .wearOut ∧ (t.core k).id = k ∧
      Attempted (s.core k).ws (t.core k).ws (Config.verifyPasses s.freeCtr (s.core k).ws.tries) u x := by
  have ticked : s.tickFree.core k = s.core k := rfl
  unfold State.unitStep
  simp only [ticked, few, if_true]
  split
  · refine ⟨_, _, rfl, nofun, onWs_id (s := s.tickFree) id _, ?_⟩
    rw [onWs_ws (s := s.tickFree) id]
    exact (pulse_attempted _ whole false fun _ => rfl).congr rfl rfl
  · rename_i fails
    refine ⟨_, _, rfl, nofun, onWs_id (s := s.tickFree) id _, ?_⟩
    rw [onWs_ws (s := s.tickFree) id]
    exact (pulse_attempted _ whole _ fun passes => absurd passes fails).congr rfl rfl

theorem stageStep_attempted {m : Cmd} {u : Nat} {x : WUnit} (few : (s.core k).ws.tries < 5) (whole : x.bad = false) :
    ∃ t r, s.stageStep k m u x = (t, r) ∧ r ≠ .wearOut ∧ (t.core k).id = k ∧
      Attempted (s.core k).ws (t.core k).ws (Config.verifyPasses s.freeCtr (s.core k).ws.tries) u x := by
  obtain ⟨t, r, stepped, going, named, attempted⟩ := unitStep_attempted id few whole (u := u)
  cases r with
  | more => exact ⟨t, .more, by simp only [State.stageStep, stepped], nofun, named, attempted⟩
  | wearOut => exact absurd rfl going
  | passed =>
    refine ⟨_, .passed, by simp only [State.stageStep, stepped]; rfl, nofun, onWs_id named _, ?_⟩
    rw [onWs_ws named]
    exact attempted.congr rfl rfl

theorem applyStep_attempted {ps : List (Nat × WUnit)} {u : Nat} {x : WUnit} (few : (s.core k).ws.tries < 5) (whole : x.bad = false)
    (target : stageOf (s.core k).ws.pos ps.length = .targets) :
    ∃ t r, s.applyStep k ps u x = (t, r) ∧ r ≠ .wearOut ∧ (t.core k).id = k ∧
      Attempted (s.core k).ws (t.core k).ws (Config.verifyPasses s.freeCtr (s.core k).ws.tries) u x := by
  have held := onWs_ws id (fun w => { w with applying := some w.jnl.wset })
  have free := onWs_freeCtr (s := s) (k := k) fun w => { w with applying := some w.jnl.wset }
  obtain ⟨t, r, stepped, going, named, attempted⟩ := unitStep_attempted (onWs_id id _) (by rw [held]; exact few) whole (u := u)
  rw [held, free] at attempted
  cases r with
  | more => exact ⟨t, .more, by simp only [State.applyStep, target, reduceCtorEq, if_false, stepped], nofun, named, attempted.congr rfl rfl⟩
  | wearOut => exact absurd rfl going
  | passed =>
    refine ⟨_, .passed, by simp only [State.applyStep, target, reduceCtorEq, if_false, stepped]; rfl, nofun, onWs_id named _, ?_⟩
    rw [onWs_ws named]
    exact attempted.congr rfl rfl

theorem journalEnd_medium (m : Cmd) : ((s.journalEnd k (.core k) m).core k).id = k ∧
    mediumOf ((s.journalEnd k (.core k) m).core k).ws = mediumOf (s.core k).ws := by
  let f (w : WStore) : WStore := { w.flush s.freeCtr with
    pos := 0, worn := w.worn && !m.applies
    jnl := { w.jnl.after m with gen := if m.applies ∧ w.jnl.st = 2 then w.jnl.gen + 1 else w.jnl.gen } }
  have named : ((s.onWs k f).tickFree.core k).id = k := onWs_id id f
  have ended := putCmd_onCommands (s := (s.onWs k f).tickFree) named { m with done := true }
  refine ⟨ended.id named, ?_⟩
  have flushed : ((s.onWs k f).tickFree.core k).ws = f (s.core k).ws := onWs_ws id f
  exact (congrArg mediumOf (ended.ws.trans flushed)).trans rfl

/-- The next unit of a staging form is attempted, whatever follows it. -/
theorem journalStep_stages {m : Cmd} {u : Nat} {x : WUnit} (few : (s.core k).ws.tries < 5) (whole : x.bad = false) (stages : m.applies = false)
    (next : (s.formWrites k m)[(s.core k).ws.pos]? = some (u, x)) : ((s.journalStep k (.core k) m).core k).id = k ∧
      Attempted (s.core k).ws ((s.journalStep k (.core k) m).core k).ws (Config.verifyPasses s.freeCtr (s.core k).ws.tries) u x := by
  obtain ⟨t, r, stepped, going, named, attempted⟩ := stageStep_attempted id few whole (m := m) (u := u)
  have plain : s.beforeWrite (.core k) m (stageOf (s.core k).ws.pos (s.formWrites k m).length) = .ok true := by
    simp only [State.beforeWrite, stages, Bool.false_and, Bool.false_eq_true, if_false]
  simp only [State.journalStep, next, plain, stages, Bool.false_eq_true, if_false, stepped]
  cases r with
  | more => exact ⟨named, attempted⟩
  | wearOut => exact absurd rfl going
  | passed =>
    dsimp only
    split
    · obtain ⟨id', same⟩ := journalEnd_medium named m
      exact ⟨id', attempted.congr rfl same⟩
    · exact ⟨named, attempted⟩

/-- The next target of an apply is attempted. -/
theorem journalStep_applies {r : TaskRef} {m : Cmd} {u : Nat} {x : WUnit} (few : (s.core k).ws.tries < 5) (whole : x.bad = false)
    (applies : m.applies = true) (next : (s.formWrites k m)[(s.core k).ws.pos]? = some (u, x))
    (target : stageOf (s.core k).ws.pos (s.formWrites k m).length = .targets) :
      Attempted (s.core k).ws ((s.journalStep k r m).core k).ws (Config.verifyPasses s.freeCtr (s.core k).ws.tries) u x := by
  obtain ⟨t, y, stepped, going, -, attempted⟩ := applyStep_attempted id few whole target (u := u)
  have free : s.beforeWrite r m .targets = .ok true := by
    simp only [State.beforeWrite, reduceCtorEq, decide_false, Bool.and_false, Bool.false_eq_true, if_false]
  have inner : (s.core k).ws.pos + 1 ≠ (s.formWrites k m).length := by
    intro last
    rw [stageOf, if_pos last] at target
    cases target
  simp only [State.journalStep, next, target, free, applies, if_true, stepped]
  cases y with
  | more => exact attempted
  | wearOut => exact absurd rfl going
  | passed =>
    simp only [inner, if_false]
    exact attempted

end

/-! ### Issue (R206, R210) -/

theorem launchIssue_eq (s : State) (m : Cmd) : ∃ l : Launch, launchIssue m s = .ok { s with
      c := ({ s.c with cmds := s.c.cmds ++ [s.outstanding m] } : Core).clearTags (1 <<< m.tag.val)
      launches := s.launches ++ [l], ids := s.ids + 2 } ∧
    l.lo = field m.desc 8 4 ∧ l.hi = field m.desc 12 4 ∧ l.tmpl = field m.desc 0 8 ∧ l.bitmap = field m.desc 24 8 ∧ l.qn = field m.desc 22 2 ∧
    l.cmask = BitVec.ofNat 32 (field m.desc 16 4) ∧ l.tag = m.tag ∧ l.issuer = s.c.id ∧ l.seq = s.ids ∧ l.done = [] ∧ l.chunks = [] ∧
    l.ready = false ∧ l.dead = false :=
  ⟨_, rfl, rfl, rfl, rfl, rfl, rfl, rfl, rfl, rfl, rfl, rfl, rfl, rfl, rfl⟩

/-- No cluster of a descriptor's mask is outside the partition. -/
theorem clusters_within {d : Nat} {clusters : BitVec 32} (within : ∀ j < 32, d.testBit (128 + j) = true → clusters.getLsbD j = true) :
    BitVec.ofNat 32 (field d 16 4) &&& ~~~clusters = 0 := by
  refine BitVec.eq_of_getLsbD_eq fun j small => ?_
  have bit : (field d 16 4).testBit j = (decide (j < 32) && d.testBit (128 + j)) := by
    rw [field, bits, Nat.testBit_mod_two_pow, Nat.testBit_div_two_pow, Nat.add_comm]
  rw [BitVec.getLsbD_and, BitVec.getLsbD_not, BitVec.getLsbD_ofNat, bit]
  cases named : d.testBit (128 + j) with
  | false => simp
  | true => simp [within j small named]

theorem rangesWritable_of {s : State} {rs : List (Nat × Nat)} (may : ∀ r ∈ rs, ∀ n ∈ segsOf r.1 r.2, s.segWritable n = true) :
    s.rangesWritable rs = true :=
  List.all_eq_true.mpr fun r hr => List.all_eq_true.mpr (may r hr)

/-! ### The next unit of a form (R385, R386) -/

theorem formWrites_congr {s t : State} {k : CoreId} (m : Cmd) (ws : (t.core k).ws = (s.core k).ws) (keys : t.keys = s.keys) :
    t.formWrites k m = s.formWrites k m := by
  have staged (j0 : Nat) : t.stagedUnits k m j0 = s.stagedUnits k m j0 := by
    unfold State.stagedUnits
    rw [ws, show t.key = s.key from funext fun n => congrArg (look KeySlot.fresh · n) keys]
  unfold State.formWrites
  simp only [ws, staged]

/-- Unit p of the staged ciphertext comes behind the range record and, where the form opens the transaction, the state. -/
theorem formWrites_staged {s : State} {k : CoreId} {m : Cmd} {p n : Nat} (form : ∃ b y, m.instr = .wjw b y) (source : m.list[p]? = some n)
    (pos : (s.core k).ws.pos = p + (if (s.core k).ws.jnl.st = 0 then 2 else 1)) :
    let j := (s.core k).ws.jnl
    let j1 := if j.st = 0 then j.jhead % 2048 else (j.jstart + unitsOf j.ranges) % 2048
    let u := m.d 8 4 / 64 + p
    (s.formWrites k m)[(s.core k).ws.pos]? = some (dataUnit (j1 + p),
      unitOf (n ^^^ unitStream (s.key ((s.core k).ws.seg (u / 1024)).slot).key (clusterOf k) (coreNumber k) u (BitVec.ofNat 64 (m.d 0 8)))
        (BitVec.ofNat 64 (m.d 0 8)).toNat) := by
  intro j j1 u
  obtain ⟨b, y, instr⟩ := form
  have staged (j0 : Nat) : (s.stagedUnits k m j0)[p]? = some (dataUnit (j0 + p),
      unitOf (n ^^^ unitStream (s.key ((s.core k).ws.seg (u / 1024)).slot).key (clusterOf k) (coreNumber k) u (BitVec.ofNat 64 (m.d 0 8)))
        (BitVec.ofNat 64 (m.d 0 8)).toNat) := by
    unfold State.stagedUnits
    rw [List.getElem?_map, List.getElem?_zipIdx, source]
    simp only [Option.map_some, Nat.zero_add]
    rfl
  have target : ((j.opened m).nextRange m).2.2 = j1 := by
    simp only [Journal.nextRange, Journal.opened, j1]
    split <;> rfl
  simp only [State.formWrites, instr]
  rw [show (((s.core k).ws.jnl.opened m).nextRange m).2.2 = j1 from target]
  rw [pos]
  by_cases idle : j.st = 0
  · simp only [j] at idle
    simp only [idle, if_true]
    exact staged j1
  · simp only [j] at idle
    simp only [idle, if_false]
    exact staged j1

/-- Target p of the apply of one range. -/
theorem applyWrites_target {w : WStore} {j : Journal} {o n j0 p : Nat} (one : j.ranges = [(o, n, j0)]) (inside : p < n / 64) :
    (w.applyWrites j)[p]? = some (o / 64 + p, unitOf (w.unit (dataUnit (j0 + p))).data.toNat j.seq) ∧
      stageOf p (w.applyWrites j).length = .targets := by
  have targets : (w.applyRange j.seq (o, n, j0)).length = n / 64 := by simp [WStore.applyRange]
  have writes : w.applyWrites j = w.applyRange j.seq (o, n, j0) ++ [w.publish j.wset j.seq, stateWrite j.closed 0] := by
    simp only [WStore.applyWrites, one, List.flatMap_cons, List.flatMap_nil, List.append_nil]
  refine ⟨?_, ?_⟩
  · rw [writes, List.getElem?_append_left (by omega), WStore.applyRange, List.getElem?_map, List.getElem?_range inside]
    rfl
  · have length : (w.applyWrites j).length = n / 64 + 2 := by rw [writes, List.length_append, targets]; rfl
    rw [stageOf, if_neg (by omega), if_neg (by omega)]

/-! ### Taking up a form (R210) -/

theorem OnCommands.freeCtr {k : CoreId} {s t : State} (h : OnCommands k s t) : t.freeCtr = s.freeCtr := by
  obtain ⟨⟨_, _, _, _, rfl⟩, -⟩ := h
  rfl

theorem OnCommands.keys {k : CoreId} {s t : State} (h : OnCommands k s t) : t.keys = s.keys := by
  obtain ⟨⟨_, _, _, _, rfl⟩, -⟩ := h
  rfl

theorem applies_wjw {m : Cmd} (form : ∃ b y, m.instr = .wjw b y) : m.applies = false := by
  obtain ⟨b, y, instr⟩ := form
  rw [Cmd.applies, instr]

theorem applies_wja {m : Cmd} (form : ∃ b y, m.instr = .wja b y) : m.applies = true := by
  obtain ⟨b, y, instr⟩ := form
  rw [Cmd.applies, instr]

/-- A WJW at the head of its core's journal, with its source taken, makes an attempt. -/
theorem commandWork_wjw {s : State} {k : CoreId} {m : Cmd} (head : s.journalHead k = some (.core k, m)) (core : m.core = k)
    (form : ∃ b y, m.instr = .wjw b y) (sound : m.fault = none) (sourced : m.list ≠ []) :
    s.commandWork (.core k) m = (s.putCmd (.core k) m).journalStep k (.core k) m := by
  obtain ⟨b, y, instr⟩ := form
  have taken (c : Core) : c.journalTake m = m := by simp [Core.journalTake, instr, sourced]
  subst core
  have work : s.commandWork (.core m.core) m = s.journalWork (.core m.core) m := by
    simp only [State.commandWork, Cmd.hasBoxes, Cmd.isSecurity, Cmd.isJournal, instr, Bool.false_eq_true, if_false, if_true]
  rw [work]
  simp only [State.journalWork, head, instr, taken, ite_self, sound]
  simp [sourced]

theorem begin_medium (w : WStore) : mediumOf w.begin = mediumOf w ∧ w.begin.jnl = w.jnl ∧ w.begin.pos = w.pos ∧ w.begin.tries = w.tries := by
  unfold WStore.begin
  split <;> exact ⟨rfl, rfl, rfl, rfl⟩

/-- A WJA at the head of its core's journal whose set has no reader, or that runs, makes an attempt. -/
theorem exec_wjaApply {s : State} {k : CoreId} {m : Cmd} {r : TaskRef} (head : s.journalHead k = some (r, m)) (form : ∃ b y, m.instr = .wja b y)
    (free : (s.core k).ws.running = true ∨ s.readers (s.core k).ws.jnl.wset = 0) :
    exec (.wjaApply k) s = .next ((s.onWs k WStore.begin).journalStep k r m) := by
  obtain ⟨b, y, instr⟩ := form
  show execWjaApply k s = _
  have goes : (!(s.core k).ws.running && decide (s.readers (s.core k).ws.jnl.wset ≠ 0)) = false := by
    rcases free with running | unread
    · rw [running]; rfl
    · simp [unread]
  unfold execWjaApply
  simp only [head, instr, goes, Bool.false_eq_true, if_false]

/-- Settles O31: the issue clauses pass their checks one by one; the unit clauses name the next write of the form and make one attempt at it. -/
theorem launchAndJournalCommands : Obligations.LaunchAndJournalCommands := by
  intro s a x free readable d
  have starts {k : Nat → Prep} : cmdStart x (localOperand (s.c.xn a) 64 64 k) s = k d s := (cmdStart_pass free).trans (localOperand_pass readable)
  refine ⟨fun issues ok tmpl bitmap within => ?launch, fun issues ok admits inside filled may => ?wjw, fun issues named may => ?wjc,
    fun issues named reads => ?wja, fun issues named => ?wjd, ?units⟩
  case launch =>
    obtain ⟨l, launches, fields⟩ := launchIssue_eq s (s.cmd0 (.launch a x) x d)
    refine ⟨l, slotExec_effect issues rfl (starts.trans ((require_pass ok).trans ((globalOperand_pass tmpl).trans ((globalOperand_pass bitmap).trans
      ((if_pos (clusters_within within)).trans launches))))) rfl, fields⟩
  case wjw =>
    have writable : s.rangesWritable [(field d 8 4, field d 12 4)] = true := rangesWritable_of fun r hr => by
      rw [List.mem_singleton.mp hr]
      exact may
    refine slotExec_addCmd issues rfl (starts.trans ((require_pass (by rw [ok, admits]; rfl)).trans ?_))
    simp only [Nat.not_lt.mpr inside, writable, filled, Bool.not_true, Bool.false_eq_true, if_false]
  case wjc =>
    refine slotExec_addCmd issues rfl (starts.trans ((require_pass named).trans (if_pos (rangesWritable_of fun r hr => ?_))))
    obtain ⟨r', hr', rfl⟩ := List.mem_map.mp hr
    exact may r' hr'
  case wja => exact slotExec_addCmd issues rfl (starts.trans (require_pass (by rw [named, reads]; rfl)))
  case wjd => exact slotExec_addCmd issues rfl (starts.trans (require_pass named))
  intro k m r o n j0 p w j j1 u wrote id few
  refine ⟨?stage, ?apply⟩
  case stage =>
    intro head core there form open_ sound undone source pos
    have sourced : m.list ≠ [] := by
      rintro empty
      rw [empty] at source
      cases source
    have marked := putCmd_onCommands id m
    have next := formWrites_staged (s := s) (k := k) form source pos
    rw [← formWrites_congr m marked.ws marked.keys, ← marked.ws] at next
    obtain ⟨named, attempted⟩ := journalStep_stages (marked.id id) (by rw [marked.ws]; exact few) rfl (applies_wjw form) next
    obtain ⟨t, completes, ended⟩ := exec_commandCompletes there sound undone (commandWork_wjw head core form sound sourced) named
    rw [marked.ws, marked.freeCtr] at attempted
    exact ⟨t, completes, attempted.congr rfl (congrArg mediumOf ended.ws)⟩
  case apply =>
    intro head form committed unread one pos inside
    subst pos
    obtain ⟨medium, jnl, pos', tries⟩ := begin_medium w
    have ws : ((s.onWs k WStore.begin).core k).ws = w.begin := onWs_ws id _
    obtain ⟨next, target⟩ := applyWrites_target (w := w.begin) one inside
    rw [unit_congr medium] at next
    have writes : (s.onWs k WStore.begin).formWrites k m = w.begin.applyWrites j := by
      obtain ⟨b, y, instr⟩ := form
      simp only [State.formWrites, instr, ws, jnl]
      exact if_pos committed
    have attempted := journalStep_applies (r := r) (onWs_id id WStore.begin) (by rw [ws, tries]; exact few) rfl
      (applies_wja form) (by rw [ws, pos', writes]; exact next)
      (by rw [ws, pos', writes]; exact target)
    rw [ws, tries, onWs_freeCtr] at attempted
    exact ⟨_, exec_wjaApply head form unread, attempted.congr medium.symm rfl⟩

end Sys2Proof.Proofs
end

/-! What a command's events leave (O39) -/
section
namespace Sys2Proof.Proofs
open Sys2Proof.Machine Sys2Proof.Laws

/-! ### Commands by their tag (R187) -/

theorem replaced_tag (m x : Cmd) : (if x.tag = m.tag then m else x).tag = x.tag := by
  split
  · next same => exact same.symm
  · rfl

/-- Where a command was the first of its tag, the one that takes its place is. -/
theorem find_replaced {ms : List Cmd} {tag : Fin 64} {m : Cmd} (there : ms.find? (fun x => decide (x.tag = tag)) = some m) {m' : Cmd}
    (same : m'.tag = m.tag) : (ms.map (fun x => if x.tag = m'.tag then m' else x)).find? (fun x => decide (x.tag = tag)) = some m' := by
  rw [List.find?_map]
  simp only [Function.comp_def, replaced_tag, there, Option.map_some, if_pos same.symm]

/-- The commands of other tags are not those that were replaced. -/
theorem filter_replaced (ms : List Cmd) (m : Cmd) : (ms.map (fun x => if x.tag = m.tag then m else x)).filter (fun x => decide (x.tag ≠ m.tag)) =
    ms.filter (fun x => decide (x.tag ≠ m.tag)) := by
  rw [List.filter_map]
  simp only [Function.comp_def, replaced_tag]
  refine (List.map_congr_left fun x hx => if_neg ?_).trans (List.map_id' _)
  exact of_decide_eq_true (List.mem_filter.mp hx).2

theorem cmdAt_tag {s : State} {r : TaskRef} {tag : Fin 64} {m : Cmd} (there : s.cmdAt r tag = some m) : m.tag = tag := by
  simpa using List.find?_some there

theorem putCmd_core {s : State} {k : CoreId} (id : (s.core k).id = k) (m : Cmd) :
    (s.putCmd (.core k) m).core k = { s.core k with cmds := (s.core k).cmds.map (fun x => if x.tag = m.tag then m else x) } :=
  core_setCore (s := s) (x := { s.core k with cmds := (s.core k).cmds.map (fun x => if x.tag = m.tag then m else x) }) id

theorem cmdAt_putCmd {s : State} {k : CoreId} (id : (s.core k).id = k) {tag : Fin 64} {m m' : Cmd} (there : s.cmdAt (.core k) tag = some m)
    (same : m'.tag = m.tag) : (s.putCmd (.core k) m').cmdAt (.core k) tag = some m' := by
  rw [State.cmdAt, State.cmdsAt, putCmd_core id]
  exact find_replaced there same

/-! ### Commands of a saved task (R314) -/

/-- The states have the same saved tasks, queues and stepping core. -/
def Poked (s t : State) : Prop := t.tasks = s.tasks ∧ t.queues = s.queues ∧ t.c = s.c

theorem Poked.trans {s t u : State} (a : Poked s t) (b : Poked t u) : Poked s u :=
  ⟨b.1.trans a.1, b.2.1.trans a.2.1, b.2.2.trans a.2.2⟩

theorem writeBlock_poked (s : State) (l : Nat × Nat) (pa v : Nat) : Poked s (s.writeBlock l pa v) := by
  unfold State.writeBlock
  split <;> exact ⟨rfl, rfl, rfl⟩

theorem slotWrite_poked (s : State) (ctx : Nat) (bs : List (Nat × Nat)) : Yields (Poked s) (s.slotWrite ctx bs) :=
  yields_after fun xs => yields_pure (List.foldlRecOn xs _ (motive := Poked s) ⟨rfl, rfl, rfl⟩ fun t ht _ _ => ht.trans (writeBlock_poked t _ _ _))

theorem slotPoke_poked (s : State) (ctx addr off n v : Nat) : Poked s (s.slotPoke ctx addr off n v) := by
  have set : Yields (Poked s) (s.slotSet ctx addr off n v) := yields_after fun _ => slotWrite_poked s ctx _
  unfold State.slotPoke
  split
  · next t written => exact set t written
  · exact ⟨rfl, rfl, rfl⟩

theorem cmdsAt_setSaved {s : State} {ctx addr : Nat} {v : Saved} (saved : s.saved? ctx addr = some v) (ms : List Cmd) :
    (s.setSaved ctx addr (fun v => { v with cmds := ms })).cmdsAt (.slot ctx addr) = ms := by
  have found : (s.setSaved ctx addr (fun v => { v with cmds := ms })).saved? ctx addr = some { v with cmds := ms } := by
    unfold State.saved? at saved
    have here : decide (v.task.ctx = ctx ∧ v.task.slot = addr) = true :=
      List.find?_some (p := fun v : Saved => decide (v.task.ctx = ctx ∧ v.task.slot = addr)) saved
    unfold State.saved? State.setSaved
    rw [List.find?_map]
    have kept : (fun v : Saved => decide (v.task.ctx = ctx ∧ v.task.slot = addr)) ∘
        (fun v : Saved => if v.task.ctx = ctx ∧ v.task.slot = addr then { v with cmds := ms } else v) =
          fun v => decide (v.task.ctx = ctx ∧ v.task.slot = addr) := by
      funext v
      simp only [Function.comp]
      split <;> rfl
    rw [kept, saved, Option.map_some, if_pos (of_decide_eq_true here)]
  rw [State.cmdsAt, found]

theorem Poked.cmdsAt_slot {s t : State} (h : Poked s t) (ctx addr : Nat) : t.cmdsAt (.slot ctx addr) = s.cmdsAt (.slot ctx addr) := by
  simp only [State.cmdsAt, State.saved?, h.1]

/-- A command of a saved task is replaced; the queues and the stepping core stay. -/
theorem putCmd_slot {s : State} {ctx addr : Nat} {tag : Fin 64} {m m' : Cmd} (there : s.cmdAt (.slot ctx addr) tag = some m) (same : m'.tag = m.tag) :
    (s.putCmd (.slot ctx addr) m').queues = s.queues ∧ (s.putCmd (.slot ctx addr) m').c = s.c ∧
      (s.putCmd (.slot ctx addr) m').cmdAt (.slot ctx addr) tag = some m' := by
  obtain ⟨v, saved⟩ : ∃ v, s.saved? ctx addr = some v := by
    cases saved : s.saved? ctx addr with
    | some v => exact ⟨v, rfl⟩
    | none => simp [State.cmdAt, State.cmdsAt, saved] at there
  let ms := (s.cmdsAt (.slot ctx addr)).map (fun x => if x.tag = m'.tag then m' else x)
  let marked := s.setSaved ctx addr (fun v => { v with cmds := ms })
  have some_left : ms.isEmpty = false := by
    have replaced : ms.find? (fun x => decide (x.tag = tag)) = some m' := find_replaced there same
    cases empty : ms with
    | nil =>
      rw [empty] at replaced
      cases replaced
    | cons => rfl
  have put : s.putCmd (.slot ctx addr) m' = (marked.slotPoke ctx addr 0x7B000 8 (ms.map Cmd.inFlight).sum).slotPoke ctx addr
      (0x7C000 + 128 * m'.tag.val) 128 (cmdImage m') := by
    show (s.setCmds (.slot ctx addr) ms).slotPoke _ _ _ _ _ = _
    simp only [State.setCmds, some_left, Bool.false_eq_true, if_false]
    rfl
  have poked := (slotPoke_poked marked ctx addr 0x7B000 8 (ms.map Cmd.inFlight).sum).trans
    (slotPoke_poked _ ctx addr (0x7C000 + 128 * m'.tag.val) 128 (cmdImage m'))
  rw [← put] at poked
  refine ⟨poked.2.1, poked.2.2, ?_⟩
  rw [State.cmdAt, poked.cmdsAt_slot, cmdsAt_setSaved saved]
  exact find_replaced there same

/-! ### A box that completes (R192) -/

theorem nextBox_none {m : Cmd} : ∀ (n b : Nat), (∀ j, b ≤ j → j < b + n → m.started.getLsbD j = true) → m.nextBox n b = none
  | 0, _, _ => rfl
  | n + 1, b, all => by
    rw [Cmd.nextBox, all b (Nat.le_refl b) (by omega), Bool.true_or, if_pos rfl]
    exact nextBox_none n (b + 1) fun j low high => all j (by omega) (by omega)

/-- With every box of a command started, nothing starts. -/
theorem startBoxes_all {s : State} {k : CoreId} {tag : Fin 64} {m : Cmd} (there : s.cmdAt (.core k) tag = some m)
    (all : ∀ b < m.boxes, m.started.getLsbD b = true) : ∀ n, s.startBoxes k tag n = s
  | 0 => rfl
  | n + 1 => by
    have still : s.startBox k tag = s := by
      simp only [State.startBox, there, nextBox_none m.boxes 0 fun j _ high => all j (by omega), ite_self]
    rw [State.startBoxes, still, startBoxes_all there all n]

section
variable {s : State} {tag : Fin 64} {box : Nat} {m : Cmd} (started : m.started.getLsbD box = true) (moving : m.bitmap.getLsbD box = false)
include started moving

theorem exec_boxCompletes_slot {ctx addr : Nat} (there : s.cmdAt (.slot ctx addr) tag = some m) :
    exec (.copyBoxComplete (.slot ctx addr) tag box) s = .next (s.putCmd (.slot ctx addr) { m with bitmap := m.bitmap ||| 1 <<< box }) := by
  show execCopyBoxComplete (.slot ctx addr) tag box s = _
  simp only [execCopyBoxComplete, there, started, moving, Bool.not_false, Bool.and_true, if_true]

theorem exec_boxCompletes_core {k : CoreId} (there : s.cmdAt (.core k) tag = some m) (all : ∀ b < m.boxes, m.started.getLsbD b = true) :
    exec (.copyBoxComplete (.core k) tag box) s = .next (s.putCmd (.core k) { m with bitmap := m.bitmap ||| 1 <<< box }) := by
  show execCopyBoxComplete (.core k) tag box s = _
  simp only [execCopyBoxComplete, startBoxes_all there all, ite_self, there, started, moving, Bool.not_false, Bool.and_true, if_true]

end

/-! ### A command that completes (R187, R228) -/

/-- What a completed command leaves of its core: its tag is free and the tag's bit is set. -/
def completed (c : Core) (tag : Fin 64) : Core := { c with
  cmds := c.cmds.filter (fun g => decide (g.tag ≠ tag)), ctl := c.ctl.set crTagbits (c.cr crTagbits ||| 1 <<< tag.val) }

/-- A command that is done, without a release and without a write of its engine pending, ends. -/
theorem commandEnd_free {s : State} {k : CoreId} {m : Cmd} (id : (s.core k).id = k) (done : m.done = true) (sound : m.fault = none)
    (free : m.releaseScope = none) (written : s.engineStores m = []) :
    Recored s (s.commandEnd (.core k) m) ∧ (s.commandEnd (.core k) m).core k = completed (s.core k) m.tag := by
  let d : Core := { s.core k with cmds := (s.core k).cmds.filter (fun x => decide (x.tag ≠ m.tag)) }
  have dropped : (s.setCore d).core k = d := core_setCore id
  have ended : s.commandEnd (.core k) m =
      (s.setCore d).setCore (((s.setCore d).core k).setCr crTagbits (((s.setCore d).core k).cr crTagbits ||| 1 <<< m.tag.val)) := by
    simp only [State.commandEnd, done, sound, free, State.finishCmd, State.inherit, written, Option.isSome_none, Bool.not_true, Bool.or_self,
      Bool.false_eq_true, if_false, List.isEmpty_nil, if_true]
    rfl
  rw [ended, dropped]
  exact ⟨(setCore_recored s _).trans (setCore_recored _ _), core_setCore id⟩

theorem Recored.engineStores {s t : State} (h : Recored s t) (m : Cmd) : t.engineStores m = s.engineStores m := by
  obtain ⟨_, _, _, _, rfl⟩ := h
  rfl

/-- The work of a command with boxes, all complete, or of an XINV, is done. -/
theorem commandWork_done {s : State} {r : TaskRef} {m : Cmd}
    (done : (m.hasBoxes = true ∧ ∀ b < m.boxes, m.bitmap.getLsbD b = true) ∨ ∃ a x, m.instr = .xinv a x) :
    s.commandWork r m = s.putCmd r { m with done := true } := by
  rcases done with ⟨moves, all⟩ | ⟨a, x, instr⟩
  · have whole : m.boxesDone = true := List.all_eq_true.mpr fun b hb => all b (List.mem_range.mp hb)
    simp only [State.commandWork, moves, whole, if_true]
  · simp only [State.commandWork, Cmd.hasBoxes, Cmd.isSecurity, Cmd.isJournal, instr, Bool.false_eq_true, if_false]

/-- A resident command whose work is done, or has nothing left, ends where it has no release and no write pending. -/
theorem exec_commandEnds {s : State} {k : CoreId} {tag : Fin 64} {m : Cmd} (id : (s.core k).id = k) (there : s.cmdAt (.core k) tag = some m)
    (sound : m.fault = none)
    (done : m.done = true ∨ (m.hasBoxes = true ∧ ∀ b < m.boxes, m.bitmap.getLsbD b = true) ∨ ∃ a x, m.instr = .xinv a x)
    (free : m.releaseScope = none) (written : s.engineStores m = []) :
    ∃ u, exec (.commandCompletes (.core k) tag) s = .next u ∧ Recored s u ∧ u.core k = completed (s.core k) tag := by
  have named := cmdAt_tag there
  subst named
  cases ended : m.done with
  | true =>
    obtain ⟨recored, core⟩ := commandEnd_free id ended sound free written
    exact ⟨_, exec_commandCompletes_some there sound (if_pos ended) there, recored, core⟩
  | false =>
    let m' : Cmd := { m with done := true }
    have works := commandWork_done (s := s) (r := .core k) (done.resolve_left (by rw [ended]; exact Bool.false_ne_true))
    have put := putCmd_core id m'
    have marked : Recored s (s.putCmd (.core k) m') := setCore_recored s _
    obtain ⟨recored, core⟩ := commandEnd_free (s := s.putCmd (.core k) m') (m := m') (by rw [put]; exact id) rfl sound free
      ((marked.engineStores m').trans written)
    refine ⟨_, exec_commandCompletes_some there sound ((if_neg (by rw [ended]; decide)).trans works) (cmdAt_putCmd id there rfl),
      marked.trans recored, ?_⟩
    rw [core, put]
    exact congrArg (fun ms => { completed (s.core k) m.tag with cmds := ms }) (filter_replaced _ m')

/-! ### Folds that go well -/

/-- A fold whose step goes well and goes on from what holds before it. -/
theorem foldlM_range {ε α : Type} {f : α → Nat → Except ε α} (P : Nat → α → Prop) {a : α} (start : P 0 a) :
    ∀ n : Nat, (∀ j < n, ∀ t, P j t → ∃ u, f t j = .ok u ∧ P (j + 1) u) → ∃ u, (List.range n).foldlM f a = .ok u ∧ P n u
  | 0, _ => ⟨a, rfl, start⟩
  | n + 1, goes => by
    obtain ⟨t, before, holds⟩ := foldlM_range P start n fun j small => goes j (by omega)
    obtain ⟨u, last, after⟩ := goes n (Nat.lt_succ_self n) t holds
    refine ⟨u, ?_, after⟩
    rw [List.range_succ, List.foldlM_append, before]
    show (List.foldlM f t [n]) = _
    rw [List.foldlM_cons, last]
    rfl

/-! ### Pieces of windows (R225) -/

theorem setNth_eq_set {α : Type} (l : List α) (n : Nat) (a : α) : setNth l n a = l.set n a := by
  induction l generalizing n with
  | nil => rfl
  | cons x l ih =>
    cases n with
    | zero => rfl
    | succ n => rw [setNth, ih, List.set_cons_succ]

theorem setPiece_piece {c : Core} {n i : Nat} {w : Window} {old st : Piece} (window : c.wins[n]? = some w) (piece : w.pieces[i]? = some old) :
    (c.setPiece n i st).wins[n]?.bind (fun w => w.pieces[i]?) = some st := by
  obtain ⟨small, -⟩ := List.getElem?_eq_some_iff.mp window
  obtain ⟨few, -⟩ := List.getElem?_eq_some_iff.mp piece
  simp only [Core.setPiece, window, setNth_eq_set]
  rw [List.getElem?_set_self small, Option.bind_some, List.getElem?_set_self few]

/-- The piece that fills is one of a window of the core. -/
theorem fillingPiece_some {c : Core} {n i : Nat} {w : Window} (fills : c.fillingPiece = some (n, w, i)) :
    c.wins[n]? = some w ∧ w.pieces[i]? = some .filling := by
  obtain ⟨x, hx, found⟩ := List.exists_of_findSome?_eq_some fills
  split at found
  · next j first =>
    cases found
    obtain ⟨h, is, -⟩ := List.findIdx?_eq_some_iff_getElem.mp first
    exact ⟨List.mem_zipIdx_iff_getElem?.mp hx, List.getElem?_eq_some_iff.mpr ⟨h, of_decide_eq_true is⟩⟩
  · cases found

/-! ### The fill of a piece (R225) -/

/-- The states differ in their cores alone. -/
def Cored (s t : State) : Prop := ∃ c o, t = { s with c := c, others := o }

theorem setCore_cored (s : State) (x : Core) : Cored s (s.setCore x) := setCore_eq s x

theorem Cored.trans {s t u : State} (a : Cored s t) (b : Cored t u) : Cored s u := by
  obtain ⟨_, _, rfl⟩ := a
  obtain ⟨_, _, rfl⟩ := b
  exact ⟨_, _, rfl⟩

theorem Cored.mem {s t : State} (h : Cored s t) : t.mem = s.mem := by
  obtain ⟨_, _, rfl⟩ := h
  rfl

theorem Cored.queues {s t : State} (h : Cored s t) : t.queues = s.queues := by
  obtain ⟨_, _, rfl⟩ := h
  rfl

theorem Cored.translate {s t : State} (h : Cored s t) (p : Party) (va : Nat) (need : Need) : t.translate p va need = s.translate p va need := by
  obtain ⟨_, _, rfl⟩ := h
  rfl

theorem Cored.view {s t : State} (h : Cored s t) (cl : Nat) :
    (t.view cl).plain = (s.view cl).plain ∧ (t.view cl).poisoned = (s.view cl).poisoned := by
  obtain ⟨c, o, rfl⟩ := h
  have shown : State.view { s with c := c, others := o } cl = recore c o s.cached s.heard (s.view cl) := recore_view s c o s.cached s.heard cl
  rw [shown]
  exact ⟨rfl, rfl⟩

/-- A piece that becomes clean, with its hints counted, leaves the scratchpad. -/
theorem setPiece_clean {t : State} {k : CoreId} {n i va : Nat} {w : Window} {old : Piece} (id : (t.core k).id = k)
    (window : (t.core k).wins[n]? = some w) (piece : w.pieces[i]? = some old) :
    let u := t.setCore (((t.core k).setPiece n i .clean).countHints va 4096)
    (u.core k).wins[n]?.bind (fun w => w.pieces[i]?) = some .clean ∧ (u.core k).scratch = (t.core k).scratch ∧
      (u.core k).poison = (t.core k).poison := by
  intro u
  have made := setPiece_piece (st := .clean) window piece
  obtain ⟨ws, set⟩ := setPiece_frame (t.core k) n i .clean
  obtain ⟨hs, hinted⟩ := countHints_eq ((t.core k).setPiece n i .clean) va 4096
  have last : u.core k = { t.core k with wins := ws, hints := hs } := by
    rw [set] at hinted
    exact (core_setCore (by rw [set, hinted]; exact id)).trans ((congrArg (Core.countHints · va 4096) set).trans hinted)
  rw [set] at made
  rw [last]
  exact ⟨made, rfl, rfl⟩

theorem plain_lt (s : State) (l : Nat × Nat) (pa n : Nat) : s.plain l pa n < 256 ^ n := by
  have width : (256 : Nat) ^ n = 2 ^ (8 * n) := (Nat.pow_mul 2 8 n).symm
  rw [width]
  exact Nat.mod_lt _ (Nat.two_pow_pos _)

/-- A line written whole reads as any 64 bytes written. -/
theorem memRead_memPow {m : Mem} (wf : Memory.wf m = true) (a v x n : Nat) : memRead (memPow m a 6 v) x n = memRead (memPut m a 64 v) x n :=
  memRead_congr (memPow_wf a 6 v wf) (memPut_wf a 64 v wf) fun j _ => by
    rw [memGet_memPow wf, memGet_memPut wf]
    rfl

/-- After n lines of a fill, the core has them in its scratchpad, as the cluster store shows them and without poison. -/
def Filled (s : State) (k : CoreId) (w : Window) (i n : Nat) (t : State) : Prop :=
  Cored s t ∧ ∃ scratch poison ord, t.core k = { s.core k with scratch := scratch, poison := poison, ord := ord } ∧ Memory.wf scratch = true ∧
    ∀ j < n, ∀ x, s.translate (s.core k).party (w.ga + 4096 * i + 64 * j) .read = .ok x →
      memRead scratch (w.off + 4096 * i + 64 * j) 64 = (s.view (clusterOf k)).plain x.label x.pa 64 ∧ (w.off + 4096 * i + 64 * j) / 64 ∉ poison

section
variable {s : State} {k : CoreId} {w : Window} {i : Nat} (id : (s.core k).id = k)
include id

theorem filled_line {n : Nat} {t : State} {x : Xlat} (before : Filled s k w i n t)
    (here : s.translate (s.core k).party (w.ga + 4096 * i + 64 * n) .read = .ok x) {ord : Machine.Ordering} :
    Filled s k w i (n + 1) (t.setCore { t.core k with
      ord := ord, scratch := memPow (t.core k).scratch (w.off + 4096 * i + 64 * n) 6 ((s.view (clusterOf k)).plain x.label x.pa 64)
      poison := (t.core k).poison.filter (fun l => decide (l ≠ (w.off + 4096 * i + 64 * n) / 64)) }) := by
  obtain ⟨cored, scratch, poison, ord', core, wf, lines⟩ := before
  refine ⟨cored.trans (setCore_cored _ _), _, poison.filter (fun l => decide (l ≠ (w.off + 4096 * i + 64 * n) / 64)), ord, ?_,
    memPow_wf (m := scratch) (w.off + 4096 * i + 64 * n) 6
    ((s.view (clusterOf k)).plain x.label x.pa 64) wf, fun j small y there => ?_⟩
  · rw [core]
    exact core_setCore id
  · rw [memRead_memPow wf]
    rcases Nat.lt_succ_iff_lt_or_eq.mp small with earlier | rfl
    · obtain ⟨same, clean⟩ := lines j earlier y there
      rw [memRead_memPut_apart wf (by omega)]
      exact ⟨same, fun bad => clean (List.mem_filter.mp bad).1⟩
    · cases here.symm.trans there
      rw [memRead_memPut_same wf , Nat.mod_eq_of_lt (plain_lt _ _ _ 64)]
      exact ⟨rfl, fun bad => of_decide_eq_true (List.mem_filter.mp bad).2 rfl⟩

/-- A piece whose every line translates to a line that is not poisoned fills. -/
theorem fillPiece_filled (wf : Memory.wf (s.core k).scratch = true)
    (clean : ∀ j < 64, ∃ x, s.translate (s.core k).party (w.ga + 4096 * i + 64 * j) .read = .ok x ∧ x.psn = false ∧
      (s.view (clusterOf k)).poisoned (x.pa / 64) = false) :
    ∃ t, s.fillPiece k w i = .ok t ∧ Filled s k w i 64 t := by
  have start : Filled s k w i 0 s := ⟨⟨s.c, s.others, rfl⟩, (s.core k).scratch, (s.core k).poison, (s.core k).ord, rfl, wf, nofun⟩
  unfold State.fillPiece
  refine foldlM_range (Filled s k w i) start 64 fun j small t before => ?_
  obtain ⟨x, here, sound, unpoisoned⟩ := clean j small
  obtain ⟨plain, poisoned⟩ := before.1.view (clusterOf k)
  refine ⟨_, ?_, filled_line id before here (ord := ((t.core k).observe (t.observed k x.pa 64) ((t.core k).age - 1)).ord)⟩
  simp only [before.1.translate, here, sound, poisoned, unpoisoned, plain, Bool.or_self, Bool.false_eq_true, if_false]
  rfl

omit id in
theorem fillPiece_error {f : Cause} (faults : s.translate (s.core k).party (w.ga + 4096 * i + 64 * 0) .read = .error f) :
    s.fillPiece k w i = .error ⟨f, addrInfo (w.ga + 4096 * i + 64 * 0)⟩ := by
  unfold State.fillPiece
  rw [List.range_succ_eq_map, List.foldlM_cons]
  simp only [faults]
  rfl

/-- A filled piece becomes clean. -/
theorem exec_windowFill_clean {n : Nat} {t : State} (fills : (s.core k).fillingPiece = some (n, w, i)) (filled : s.fillPiece k w i = .ok t)
    (lines : Filled s k w i 64 t) :
    ∃ u, exec (.windowFillCompletes k) s = .next u ∧ u.mem = s.mem ∧ (u.core k).wins[n]?.bind (fun w => w.pieces[i]?) = some .clean ∧
      (u.core k).scratch = (t.core k).scratch ∧ (u.core k).poison = (t.core k).poison := by
  obtain ⟨cored, scratch, poison, ord, core, -⟩ := lines
  obtain ⟨window, piece⟩ := fillingPiece_some fills
  obtain ⟨made, scratch', poison'⟩ := setPiece_clean (t := t) (va := w.ga + 4096 * i) (by rw [core]; exact id) (by rw [core]; exact window) piece
  refine ⟨_, ?_, (cored.trans (setCore_cored _ _)).mem, made, scratch', poison'⟩
  show execWindowFillCompletes k s = _
  simp only [execWindowFillCompletes, fills, filled]

end

/-! ### The write-back of a piece (R226) -/

/-- The states differ in cores and in what they count of stores: n more have been made, each pending. -/
def Stored (s : State) (added : List PStore) (t : State) : Prop :=
  ∃ c o, t = { s with c := c, others := o, stores := s.stores ++ added, ids := s.ids + added.length }

theorem Stored.trans {s t u : State} {a b : List PStore} (x : Stored s a t) (y : Stored t b u) : Stored s (a ++ b) u := by
  obtain ⟨c, o, rfl⟩ := x
  obtain ⟨c', o', rfl⟩ := y
  exact ⟨c', o', by simp only [List.append_assoc, List.length_append, Nat.add_assoc]⟩

theorem Stored.translate {s t : State} {added : List PStore} (h : Stored s added t) (p : Party) (va : Nat) (need : Need) :
    t.translate p va need = s.translate p va need := by
  obtain ⟨_, _, rfl⟩ := h
  rfl

theorem Stored.fenced {s t : State} {added : List PStore} (h : Stored s added t) (pa : Nat) : t.fenced pa = s.fenced pa := by
  obtain ⟨_, _, rfl⟩ := h
  rfl

/-- The pending store of line j of a piece that a core writes back itself. -/
def lineStore (s : State) (k : CoreId) (w : Window) (i j : Nat) (x : Xlat) : PStore :=
  ⟨s.ids + j, k, none, x.pa, bytesOf 64 ((s.core k).scratchRead (w.off + 4096 * i + 64 * j) 64), x.label,
    decide ((w.off + 4096 * i + 64 * j) / 64 ∈ (s.core k).poison), s.writer k .window, false, []⟩

section
variable {s : State} {k : CoreId} {w : Window} {i : Nat} (id : (s.core k).id = k)
include id

/-- A store of a write-back whose home is not fenced becomes pending. -/
theorem storeAs_window {x : Xlat} (live : s.fenced x.pa = false) (bs : List (BitVec 8)) (psn : Bool) (ids : List (Scope × Nat)) :
    Stored s [⟨s.ids, k, none, x.pa, bs, x.label, psn, s.writer k .window, false, ids⟩] (s.storeAs k .window x bs psn ids) ∧
      ∃ ord, (s.storeAs k .window x bs psn ids).core k = { s.core k with ord := ord } := by
  have pended : s.storeAs k .window x bs psn ids = { s.setCore (s.countStore (s.core k) .window (homeOf x.pa)) with
      stores := (s.setCore (s.countStore (s.core k) .window (homeOf x.pa))).stores ++
        [⟨(s.setCore (s.countStore (s.core k) .window (homeOf x.pa))).ids, k, none, x.pa, bs, x.label, psn, s.writer k .window, false, ids⟩]
      ids := (s.setCore (s.countStore (s.core k) .window (homeOf x.pa))).ids + 1 } := by
    simp only [State.storeAs, live, Bool.false_eq_true, if_false]
    rfl
  have core := core_setCore (s := s) (x := s.countStore (s.core k) .window (homeOf x.pa)) id
  obtain ⟨c, o, put⟩ := setCore_cored s (s.countStore (s.core k) .window (homeOf x.pa))
  rw [pended]
  rw [put] at core ⊢
  exact ⟨⟨c, o, rfl⟩, _, core⟩

/-- After n lines of a write-back their stores are pending, and the core has counted them. -/
def WrittenBack (s : State) (k : CoreId) (w : Window) (i n : Nat) (t : State) : Prop :=
  ∃ added, Stored s added t ∧ added.length = n ∧ (∃ ord, t.core k = { s.core k with ord := ord }) ∧
    ∀ j < n, ∀ x, s.translate (s.core k).party (w.ga + 4096 * i + 64 * j) .write = .ok x → lineStore s k w i j x ∈ added

theorem writePiece_writtenBack
    (live : ∀ j < 64, ∃ x, s.translate (s.core k).party (w.ga + 4096 * i + 64 * j) .write = .ok x ∧ s.fenced x.pa = false) :
    ∃ t, s.writePiece (s.core k) w i = .ok t ∧ WrittenBack s k w i 64 t := by
  have start : WrittenBack s k w i 0 s := ⟨[], ⟨s.c, s.others, by simp⟩, rfl, ⟨(s.core k).ord, rfl⟩, nofun⟩
  unfold State.writePiece State.writePieceAs
  refine foldlM_range (WrittenBack s k w i) start 64 fun j small t before => ?_
  obtain ⟨added, stored, count, ⟨ord, core⟩, lines⟩ := before
  obtain ⟨x, here, free⟩ := live j small
  have writer : t.writer k .window = s.writer k .window := by
    unfold State.writer
    rw [core]
  have ids : t.ids = s.ids + j := by
    obtain ⟨_, _, rfl⟩ := stored
    rw [count]
  obtain ⟨more, ord', core'⟩ := storeAs_window (s := t) (k := k) (by rw [core]; exact id) ((stored.fenced x.pa).trans free)
    (bytesOf 64 ((s.core k).scratchRead (w.off + 4096 * i + 64 * j) 64)) (decide ((w.off + 4096 * i + 64 * j) / 64 ∈ (s.core k).poison)) []
  rw [writer, ids] at more
  rw [core] at core'
  refine ⟨_, ?_, added ++ [lineStore s k w i j x], stored.trans more, by rw [List.length_append, count]; rfl, ⟨ord', core'⟩,
    fun l small y there => ?_⟩
  · simp only [stored.translate, here, id]
  · rcases Nat.lt_succ_iff_lt_or_eq.mp small with earlier | rfl
    · exact List.mem_append_left _ (lines l earlier y there)
    · cases here.symm.trans there
      exact List.mem_append_right _ (List.mem_singleton_self _)

/-- A dirty piece whose lines are written becomes clean. -/
theorem exec_writeback_clean {n : Nat} {t : State} (window : (s.core k).wins[n]? = some w) (dirty : w.pieces[i]? = some .dirty)
    (written : s.writePiece (s.core k) w i = .ok t) (back : WrittenBack s k w i 64 t) :
    ∃ u, exec (.backgroundWriteback k n i) s = .next u ∧ Cored t u ∧ (u.core k).wins[n]?.bind (fun w => w.pieces[i]?) = some .clean ∧
      (u.core k).scratch = (s.core k).scratch := by
  obtain ⟨-, -, -, ⟨ord, core⟩, -⟩ := back
  obtain ⟨made, scratch, -⟩ := setPiece_clean (t := t) (va := w.ga + 4096 * i) (by rw [core]; exact id) (by rw [core]; exact window) dirty
  refine ⟨_, ?_, setCore_cored _ _, made, by rw [scratch, core]⟩
  show execBackgroundWriteback k n i s = _
  have is : w.pieces.getD i .clean = .dirty := by rw [List.getD_eq_getElem?_getD, dirty]; rfl
  simp only [execBackgroundWriteback, window, is, written, ne_eq, not_true_eq_false, if_false]

end

theorem exec_windowFill_fault {s : State} {k : CoreId} {n i : Nat} {w : Window} {f : Cause} (fills : (s.core k).fillingPiece = some (n, w, i))
    (faults : s.translate (s.core k).party (w.ga + 4096 * i + 64 * 0) .read = .error f) :
    exec (.windowFillCompletes k) s = .next (s.setCore { ((s.core k).setPiece n i .unfilled) with
      badFills := (s.core k).badFills ++ [(w.off + 4096 * i, ⟨f, addrInfo (w.ga + 4096 * i + 64 * 0)⟩)] }) := by
  show execWindowFillCompletes k s = _
  simp only [execWindowFillCompletes, fills, fillPiece_error faults]

/-! ### The other events of commands -/

/-- A command that is replaced leaves the scalar registers of the stepping core. -/
theorem putCmd_scalars {s : State} {k : CoreId} (id : (s.core k).id = k) (m : Cmd) : (s.putCmd (.core k) m).c.s = s.c.s := by
  let d : Core := { s.core k with cmds := (s.core k).cmds.map (fun x => if x.tag = m.tag then m else x) }
  show (s.setCore d).c.s = s.c.s
  by_cases steps : s.c.id = d.id
  · have here : s.core k = s.c := (congrArg s.core (steps.trans id).symm).trans (core_self s)
    rw [setCore_own steps.symm]
    show (s.core k).s = s.c.s
    rw [here]
  · rw [State.setCore, if_neg steps]

theorem exec_engineFaultDelivery {s : State} {k : CoreId} {m : Cmd} {t : Trap} (here : s.c.id = k) (faulted : (s.core k).engineFault = some m)
    (due : m.fault = some t) : exec (.engineFaultDelivery k) s =
      .next (((s.putCmd (.core k) { m with told := true }).takeTrap t (s.core k).pc).switch k) := by
  subst here
  have stays : s.switch s.c.id = s := if_pos rfl
  rw [core_self] at faulted ⊢
  show execEngineFaultDelivery s.c.id s = _
  simp only [execEngineFaultDelivery, stays, State.engineTrap, faulted, due]

theorem exec_maskDeadlineExpires {s : State} {k : CoreId} {tag : Fin 64} {m : Cmd} (there : s.cmdAt (.core k) tag = some m) (sound : m.fault = none)
    (undone : m.done = false) (late : m.fetched ≠ []) :
    exec (.maskDeadlineExpires k tag) s = .next (s.streamTurn (.core k) m m.fetched.head?) := by
  have waits : m.fetched.isEmpty = false := by simpa using late
  show execMaskDeadlineExpires k tag s = _
  simp only [execMaskDeadlineExpires, there, sound, undone, waits, Option.isSome_none, Bool.or_self, Bool.false_eq_true, if_false]

theorem exec_wjaApply_waits {s : State} {k : CoreId} {m : Cmd} {r : TaskRef} (head : s.journalHead k = some (r, m))
    (form : ∃ b y, m.instr = .wja b y) (read : ¬((s.core k).ws.running = true ∨ s.readers (s.core k).ws.jnl.wset = 0)) :
    exec (.wjaApply k) s = .next s := by
  obtain ⟨b, y, instr⟩ := form
  obtain ⟨idle, readers⟩ := not_or.mp read
  show execWjaApply k s = _
  simp only [execWjaApply, head, instr, idle, readers, ne_eq, not_false_eq_true, decide_true, Bool.not_false, Bool.and_true, if_true]

theorem exec_rollForwardRetry {s : State} {k : CoreId} (applying : (s.core k).ws.applying.isSome = true) (committed : (s.core k).ws.jnl.st = 2)
    (none_head : s.journalHead k = none) : exec (.rollForwardRetry k) s = .next (s.rollForward k) := by
  show execRollForwardRetry k s = _
  have rolls : s.rollsForward k = true := by
    simp only [State.rollsForward, committed, none_head, applying, Option.isNone_none, decide_true, Bool.or_true, Bool.and_true]
  simp only [execRollForwardRetry, rolls, if_true]

/-- Settles O39: each event by what it does to the commands, the windows or the journal of its core. -/
theorem commandEventsGoOn : Obligations.CommandEventsGoOn := by
  intro s k tag ctx addr box n i m w t r f c va off boxed piece
  refine ⟨fun there started moving => ?slot, fun id there all started moving => ?core, fun id there sound done free written => ?ends,
    fun id wf fills => ⟨fun clean => ?fill, exec_windowFill_fault fills⟩,
    fun id window dirty live => ?writeback, exec_engineFaultDelivery, exec_maskDeadlineExpires,
    fun head form => ?apply, exec_rollForwardRetry⟩
  case slot =>
    obtain ⟨queues, stepping, bit⟩ := putCmd_slot there (m' := { m with bitmap := m.bitmap ||| 1 <<< box }) rfl
    exact ⟨_, exec_boxCompletes_slot started moving there, queues, congrArg Core.s stepping, bit⟩
  case core =>
    exact ⟨_, exec_boxCompletes_core started moving there all, (setCore_cored s _).queues, putCmd_scalars id _, cmdAt_putCmd id there rfl⟩
  case ends =>
    obtain ⟨u, completes, recored, core⟩ := exec_commandEnds id there sound done free written
    exact ⟨u, completes, recored.mem, recored.stores, core⟩
  case fill =>
    obtain ⟨t, filled, lines⟩ := fillPiece_filled id wf clean
    obtain ⟨u, completes, mem, made, scratch, poison⟩ := exec_windowFill_clean id fills filled lines
    obtain ⟨-, _, _, _, core, -, shown⟩ := lines
    refine ⟨u, completes, mem, made, fun j small x there => ?_⟩
    rw [Core.scratchRead, scratch, poison, core]
    exact shown j small x there
  case writeback =>
    obtain ⟨t, written, back⟩ := writePiece_writtenBack id live
    obtain ⟨u, writes, cored, made, scratch⟩ := exec_writeback_clean id window dirty written back
    obtain ⟨added, ⟨_, _, rfl⟩, count, -, lines⟩ := back
    obtain ⟨_, _, rfl⟩ := cored
    refine ⟨_, writes, rfl, made, scratch, List.take_left' rfl, ?_, fun j small x there => ?_⟩
    · exact (List.length_append ..).trans (congrArg (s.stores.length + ·) count)
    · exact List.mem_append_right _ (lines j small x there)
  case apply =>
    split
    · next goes => exact exec_wjaApply head form goes
    · next read => exact exec_wjaApply_waits head form read

end Sys2Proof.Proofs
end
